-- ==== Sys2Proof/Word.lean ====
section
/-! DEFINITION. The word types of Broet 2 and their plainest arithmetic. -/

namespace Sys2Proof

/-- A scalar register's contents (R21). -/
abbrev Word := BitVec 64

/-- One byte of memory (R4). -/
abbrev Byte := BitVec 8

/-- The contents of a vector register (R24). -/
abbrev VBits := BitVec 2048

/-- The contents of a predicate register (R26). -/
abbrev PBits := BitVec 256

/-- A table with a default: (key, value) pairs, keys strictly rising, no value equal to the default. -/
abbrev Map (α : Type) := List (Nat × α)

/-- Bits hi..lo of a word, both ends included, as a number (R3). -/
def bitsOf (w hi lo : Nat) : Nat := (w >>> lo) % 2 ^ (hi + 1 - lo)

/-- Bit i of a number. -/
def bitAt (w i : Nat) : Bool := w.testBit i

end Sys2Proof
end

