-- ==== Sys2Proof/Config.lean ====
section
/-! DEFINITION. What an implementation fixes, and the FREE VALUES: opaque constants that no proof can see, applied to
the free counter of State (State.tick) or to the operands, so that a statement about one holds for every value of it. -/

namespace Sys2Proof.Config

/-- Cogs per side of a Mill (R14, R177). -/
def millSide : Nat := 128

/-- The implementation code of the Strelig B960 in images (R414, R465). -/
def implCode : Nat := 1

/-- FREE VALUE: the row with which a disturbed row is exchanged, chosen by a hardware generator (R428). -/
opaque rowChoice : Nat → Nat

/-- FREE VALUE: the bits of a narrow element for an exact minimum or maximum that its width cannot hold (R89, R141), by
the value and the width. -/
opaque narrowBits : Int → Nat → Nat

/-- FREE VALUE: the bits that a partial result pushed to a stream has outside the part it writes (R151, R233). -/
opaque pushedBits : Nat → BitVec 2048

/-- FREE VALUE: the element of format f for a block floating-point value beyond the format's range (R99, R154). -/
opaque bfpBeyond : Nat → Nat

/-- FREE VALUE (log 108): the rows of a bank under test that a cycle copies on a die (R429). -/
opaque rowsCopied : Nat → Nat → Nat

/-- FREE VALUE (log 58): a reset that comes in boot stage 0 cuts off the write of the start count (R432). -/
opaque writeCut : Nat → Bool

/-- FREE VALUE: which of the free entries of a table the device takes, where the spec names no choice: kernel slots (R266),
group entries (R350), and which line a full far cache replaces (R248). -/
opaque entryChoice : Nat → Nat

/-- FREE VALUE: the table lengths chosen among equal optima in a learning phase (R334), by symbol. -/
opaque tieBreak : Nat → Nat → Nat

/-- FREE VALUE: the ML-DSA-44 signature check of FIPS 204 on a digest (R431, R436): key, digest, signature. -/
opaque mldsaValid : List Byte → List Byte → List Byte → Bool

/-- FREE VALUE: the response of die 0's SRAM PUF as corrected with given helper data (R435): a property of the die. -/
opaque pufResponse : List Byte → List Byte

/-- FREE VALUE: the signature that the key pair derived from a seed gives for a message (FIPS 204, R435, R436): seed, message. -/
opaque mldsaSign : List Byte → List Byte → List Byte

/-- FREE VALUE: the SHA3-256 digest of Yalhicen's public key in mask ROM (R431). -/
opaque romKeyDigest : List Byte

/-- FREE VALUE: the boot ROM's measurement (R436, index 1). -/
opaque romMeasurement : List Byte

/-- FREE VALUE: bytes of an SPDM answer whose values the spec takes from outside (R436), by request code. -/
opaque spdmBytes : Nat → List Byte

/-- FREE VALUE: the registry identifiers under which SPDM names ML-DSA-44 (0) and SHA3-256 (1) (R436). -/
opaque algId : Nat → BitVec 32

/-- FREE VALUE: what a failed read of HCA.VAL returns (R324). -/
opaque freeWord : Nat → BitVec 64

end Sys2Proof.Config
end

