-- ==== Sys2Proof/Syntax.lean ====
section
/-! DEFINITION. The syntax of Broet 2: slot-word formats (R68 to R70), the steps of the device that have no
encoding (95_what_each_step_holds.md), the ONE inductive of instructions and the bundle (R50, R51). -/

namespace Sys2Proof

/-- Scalar register number. -/
abbrev XReg := BitVec 6

/-- Vector register field (R24). -/
abbrev VFld := BitVec 9

/-- SR: xd 23..18, xa 17..12, xb 11..6, fn 5..0 (R68). -/
structure SrOp where
  xd : XReg
  xa : XReg
  xb : XReg
  fn : BitVec 6
  deriving DecidableEq, Repr

/-- SI: xd 23..18, xa 17..12, imm12 11..0 (R68). -/
structure SiOp where
  xd  : XReg
  xa  : XReg
  imm : BitVec 12
  deriving DecidableEq, Repr

/-- SL: xd 23..18, imm18 17..0 (R68). -/
structure SlOp where
  xd  : XReg
  imm : BitVec 18
  deriving DecidableEq, Repr

/-- SB: xa 23..18, xb or predicate 17..12, off12 11..0 (R68). -/
structure SbOp where
  xa  : XReg
  xb  : XReg
  off : BitVec 12
  deriving DecidableEq, Repr

/-- SJ: xl 23..18, off18 17..0 (R68). -/
structure SjOp where
  xl  : XReg
  off : BitVec 18
  deriving DecidableEq, Repr

/-- SG: xd 23..18, xb 17..12, pg 11..6, polarity 5, fn 4..0 (R68). -/
structure SgOp where
  xd  : XReg
  xb  : XReg
  pg  : BitVec 6
  pol : BitVec 1
  fn  : BitVec 5
  deriving DecidableEq, Repr

/-- SK: x 23..18, g 17, polarity 16, pg 15..13, off13 12..0 (R68). -/
structure SkOp where
  x   : XReg
  g   : BitVec 1
  pol : BitVec 1
  pg  : BitVec 3
  off : BitVec 13
  deriving DecidableEq, Repr

/-- VR: vd 53..45, va 44..36, vb 35..27, vc 26..18, fmt 17..13, rnd 12..10, sat/mode 9..8, fn 7..0 (R69).
sl is the V slot, 0 or 1, in which the word stands. -/
structure VrOp where
  sl  : BitVec 1
  vd  : VFld
  va  : VFld
  vb  : VFld
  vc  : VFld
  fmt : BitVec 5
  rnd : BitVec 3
  sm  : BitVec 2
  fn  : BitVec 8
  deriving DecidableEq, Repr

/-- VG: as VR with bits 26..18 replaced by pg 26..21, polarity 20, guard 19..18 (R69). -/
structure VgOp where
  sl    : BitVec 1
  vd    : VFld
  va    : VFld
  vb    : VFld
  pg    : BitVec 6
  pol   : BitVec 1
  guard : BitVec 2
  fmt   : BitVec 5
  rnd   : BitVec 3
  sm    : BitVec 2
  fn    : BitVec 8
  deriving DecidableEq, Repr

/-- VM: v 53..45, xp 44..39, off12 38..27, pg 26..21, polarity 20, guard 19..18, fmt 17..13, count-1 12..8,
fn 7..0 (R69). -/
structure VmOp where
  sl    : BitVec 1
  v     : VFld
  xp    : XReg
  off   : BitVec 12
  pg    : BitVec 6
  pol   : BitVec 1
  guard : BitVec 2
  fmt   : BitVec 5
  cnt   : BitVec 5
  fn    : BitVec 8
  deriving DecidableEq, Repr

/-- VX: vd 53..45, xa 44..39, va 38..30, imm30 29..0 (R69). -/
structure VxOp where
  sl  : BitVec 1
  vd  : VFld
  xa  : XReg
  va  : VFld
  imm : BitVec 30
  deriving DecidableEq, Repr

/-- VK: v 53..45, off16 44..29, 28..27 zero, pg 26..21, polarity 20, guard 19..18, fmt 17..13, count-1 12..8,
fn 7..0 (R69). -/
structure VkOp where
  sl    : BitVec 1
  v     : VFld
  off   : BitVec 16
  z     : BitVec 2
  pg    : BitVec 6
  pol   : BitVec 1
  guard : BitVec 2
  fmt   : BitVec 5
  cnt   : BitVec 5
  fn    : BitVec 8
  deriving DecidableEq, Repr

/-- M: kd 55..50, k1 49..44, k2 43..38, k3 37..32, xa 31..26, xb 25..20, xc 19..14, mod 13..0 (R70). -/
structure MOp where
  kd  : XReg
  k1  : XReg
  k2  : XReg
  k3  : XReg
  xa  : XReg
  xb  : XReg
  xc  : XReg
  mod : BitVec 14
  deriving DecidableEq, Repr

/-- C: as M with xs, xt, xn (R70). sl is the C slot, 0 or 1: engine 0 or engine 1 (R212). -/
structure COp where
  sl  : BitVec 1
  kd  : XReg
  k1  : XReg
  k2  : XReg
  k3  : XReg
  xs  : XReg
  xt  : XReg
  xn  : XReg
  mod : BitVec 14
  deriving DecidableEq, Repr

/-- Where a fault record lies: a context's fault area (R418) or the device's (R420). -/
inductive Area where
  | ctx (id : Nat)
  | dev
  deriving DecidableEq, Repr

/-- The three watermarks of a compression controller (R337). -/
inductive Watermark where
  | rsv | low | high
  deriving DecidableEq, Repr

/-- How link training ends (R390). -/
inductive Training where
  | allLanes | reduced | failed
  deriving DecidableEq, Repr

/-- The level at which a write asks for sectors (R339). -/
inductive Level where
  | bank | reserve
  deriving DecidableEq, Repr

/-- A staged line named on the commit VC: address, 512 data bits and 64-bit byte mask (R352), and the hint bit of the extent that stages it
(R264, R332). -/
structure StagedLine where
  addr : Nat
  data : BitVec 512
  mask : BitVec 64
  hint : Bool := false
  deriving DecidableEq, Repr

/-- A group's name on the fabric: its id and its origin node (R350). -/
structure GroupName where
  id   : Nat
  node : Nat
  deriving DecidableEq, Repr

/-- What a remote item asks at its target (R379, R380). wtag names the requester's waiting item. -/
inductive RemoteReq where
  | read   (window off len : Nat)
  | write  (window off : Nat) (data mask : List Byte)
  | stage  (window off : Nat) (data mask : List Byte) (g : GroupName)
  | atom   (window off op size : Nat) (signed : Bool) (opnd expected : Word)
  | cadd   (place amount : Word)
  | crd    (place : Word)
  | cfree  (place : Word)
  | wait   (place target : Word)
  deriving DecidableEq, Repr

/-- The answer to a remote item: data and value, or cause and detail of its failure; full is the answer to a waiter that
finds no entry (R306). -/
structure RemoteAns where
  cause  : Nat
  detail : Nat
  value  : Word
  data   : List Byte
  full   : Bool
  deriving DecidableEq, Repr

/-- Traffic of the commit-control VC (R357 to R360). -/
inductive CommitMsg where
  | prepare   (g : GroupName) (weir lines : Nat)
  | ready     (g : GroupName) (weir : Nat)
  | refusal   (g : GroupName) (weir cause detail : Nat)
  | commit    (g : GroupName) (weir : Nat)
  | discard   (g : GroupName) (weir : Nat)
  | published (g : GroupName) (weir : Nat) (poisoned : Bool)
  | discarded (g : GroupName) (weir : Nat)
  | query     (g : GroupName) (weir : Nat)
  deriving DecidableEq, Repr

/-- What a fabric packet carries (R382). -/
inductive Payload where
  | request (tag : Nat) (r : RemoteReq)
  | answer  (tag : Nat) (a : RemoteAns)
  | commit  (m : CommitMsg)
  | ack     (vc seq : Nat)
  | chunk   (entry rank step seq : Nat) (data : List Byte)
  | release (entry rank step r : Nat)
  | finish  (entry rank r : Nat)
  | notice  (entry rank : Nat)
  deriving DecidableEq, Repr

/-- A fabric packet (R382): destination and source nodes, domain, VC, 32-bit sequence number. -/
structure Packet where
  dst  : Nat
  src  : Nat
  dom  : Nat
  vc   : Nat
  seq  : Nat
  body : Payload
  deriving DecidableEq, Repr

/-- A Lorso flash slot (R431); the verdict of the ML-DSA-44 signature comes from the opaque check of Config. -/
structure FlashSlot where
  version  : Nat
  image    : List Byte
  digest   : List Byte
  pubkey   : List Byte
  sig      : List Byte
  deriving DecidableEq, Repr

/-- What a die's part of a boot stage finds (R430): the outcome, the die, and for REGBIST the number of faulty register banks of each
core (R28). -/
structure StageResult where
  ok     : Bool
  die    : Nat
  faulty : Map Nat
  deriving DecidableEq, Repr

/-- Management and window registers that have no row of their own (R7, REGISTER_WRITE), and what Lorso sets for which the spec
gives no register: a function's binding (R299), the device's fabric number (R43), the exposed physical space (R14), the sectors it keeps for itself (R337). -/
inductive MReg where
  | cmpResamp (die : Nat) | cmpBln (die : Nat) | cmpEvt (die : Nat)
  | cmpFree (die : Nat) | cmpGen (die : Nat)
  | dlogBase (ctx : Nat) | dlogCap (ctx : Nat) | dlogHead (ctx : Nat) | dlogCtl (ctx : Nat)
  | ctxRoot (ctx : Nat) | ctxSize (ctx : Nat) | ctxFa (ctx : Nat) | ctxDom (ctx : Nat) | ctxAlias (ctx : Nat)
  | ctxFhead (ctx : Nat)
  | winB (ctx n : Nat) | winF (ctx n : Nat)
  | devFa | devFhead
  | lnkEvt (link : Nat) | lnkRkdl (link : Nat) | lnkStat (link : Nat) | lnkIvc (link vc : Nat)
  | memHome (bit : Nat) | memHmask (die p n : Nat) | memRgn (die r : Nat) | memPark (die : Nat)
  | memTestDone (die : Nat) | memRswp (die : Nat)
  | rasEvt (die : Nat) | rasThr (die k : Nat)
  | hlwAddr (fn : Nat) | hlwStat (fn : Nat) | hlwResult (fn : Nat) | hlwBind (fn : Nat)
  | hcaId (fn : Nat) | hcaStat (fn : Nat)
  | colTmo | cgTmax | cgDefault | agingInterval | preemptMargin | waitLimit
  | ethType | route (device : Nat) | routeOverride (dom device : Nat)
  | ctrLog (ctx die : Nat) | fabricNumber | exposedSpace | keepSectors (die first : Nat)
  | bootstat | hcaVal (fn : Nat)
  deriving DecidableEq, Repr

/-- A VC of a link with the direction or the peer that it concerns: the direction on a die link, the peer device on an Ethernet port (R372, R385). -/
structure VcWay where
  vc  : Nat
  way : Nat
  deriving DecidableEq, Repr

/-- An eviction slot, and the host address that Lorso supplies for it (R329, R375). -/
structure EvictSlot where
  slot : Nat
  host : Nat
  deriving DecidableEq, Repr

/-- The source and destination nodes of a packet (R382). -/
structure NodePair where
  src : Nat
  dst : Nat
  deriving DecidableEq, Repr

/-- A step of a firing (R398). -/
structure FiringStep where
  step : Nat
  r    : Nat
  deriving DecidableEq, Repr

/-- A GET_MEASUREMENTS request: the index, its signature and raw bits, the nonce that comes with the first (R436). -/
structure MeasRequest where
  idx   : Nat
  sign  : Bool
  raw   : Bool
  nonce : List Byte
  deriving DecidableEq, Repr

/-- A corrected error: its kind, and the line of a far cache in which it was found (R437). -/
structure ErrorFound where
  kind : Nat
  far  : Option Nat
  deriving DecidableEq, Repr

/-- The instructions of the opcode table: slot instructions first, then the device's own steps. -/
inductive Instr where
  -- S slot, integer (R109 to R111)
  | add (o : SrOp) | sub (o : SrOp) | mul (o : SrOp) | mulh (o : SrOp) | mulhn (o : SrOp)
  | div (o : SrOp) | divn (o : SrOp) | rem (o : SrOp) | remn (o : SrOp)
  | and (o : SrOp) | or (o : SrOp) | xor (o : SrOp) | sll (o : SrOp) | srl (o : SrOp) | sra (o : SrOp)
  | slt (o : SrOp) | sltn (o : SrOp) | min (o : SrOp) | max (o : SrOp) | minn (o : SrOp) | maxn (o : SrOp)
  | clz (o : SrOp) | ctz (o : SrOp) | popc (o : SrOp)
  | addi (o : SiOp) | andi (o : SiOp) | ori (o : SiOp) | xori (o : SiOp)
  | slli (o : SiOp) | srli (o : SiOp) | srai (o : SiOp) | slti (o : SiOp)
  | li (o : SlOp) | lih (o : SlOp) | lil (o : SlOp) (imm64 : Word)
  -- places, tiles (R112 to R121)
  | plx (o : SrOp) | plt (o : SrOp) | pltPeer (o : SrOp) | plr (o : SrOp) | padd (o : SrOp)
  | xlook (o : SrOp) | xlookW (o : SrOp) | widf (o : SiOp)
  | talloc (o : SrOp) | tallocHandle (o : SrOp) | tfree (o : SrOp) | tshape (o : SrOp) | tqry (o : SrOp)
  -- control transfers (R123 to R127, R240)
  | beq (o : SbOp) | bne (o : SbOp) | blt (o : SbOp) | bge (o : SbOp) | bltn (o : SbOp) | bgen (o : SbOp)
  | bany (o : SbOp) | ball (o : SbOp) | bnone (o : SbOp)
  | j (o : SjOp) | call (o : SjOp) | ret (o : SrOp) | loopb (o : SjOp) | probe (o : SbOp)
  -- kennel, control registers, order, traps (R128 to R134)
  | kld (o : SkOp) | kst (o : SkOp) | crr (o : SiOp) | crw (o : SiOp) | crs (o : SiOp) | crc (o : SiOp)
  | fence (o : SiOp) | mark (o : SrOp) | trap (o : SiOp) | brk (o : SiOp) | halt (o : SrOp) | yieldS (o : SrOp)
  -- counters, kernels, queues, groups, collectives
  | calloc (o : SrOp) | callocDie (o : SrOp) | cfree (o : SrOp) | cadd (o : SgOp) | cwait (o : SrOp)
  | crd (o : SrOp) | atom (o : SgOp)
  | launch (o : SrOp) | kstat (o : SrOp)
  | qctlQuery (o : SrOp) | qctlSetmode (o : SrOp) | qctlDrain (o : SrOp) | qctlHalt (o : SrOp)
  | qctlResume (o : SrOp) | qctlAbort (o : SrOp) | qctlReset (o : SrOp)
  | gopen (o : SrOp) | gcommit (o : SrOp) | gabort (o : SrOp) | gstat (o : SrOp) | colrdy (o : SrOp)
  -- V slots
  | vadd (o : VrOp) | vsub (o : VrOp) | vadds (o : VrOp) | vsubs (o : VrOp) | vmul (o : VrOp)
  | vmulh (o : VrOp) | vmad (o : VrOp) | vabsd (o : VrOp) | vmin (o : VrOp) | vmax (o : VrOp)
  | vand (o : VrOp) | vor (o : VrOp) | vxor (o : VrOp) | vbit (o : VrOp) | vshl (o : VrOp) | vshr (o : VrOp)
  | vcmp (o : VrOp) | vsel (o : VgOp)
  | vfadd (o : VrOp) | vfsub (o : VrOp) | vfmul (o : VrOp) | vfma (o : VrOp) | vfmin (o : VrOp)
  | vfmax (o : VrOp) | vfcmp (o : VrOp) | vfrcp (o : VrOp) | vfrsq (o : VrOp) | vfexp2 (o : VrOp)
  | vflog2 (o : VrOp) | vfsgn (o : VrOp)
  | vcvt (o : VrOp) | vtag (o : VrOp) | vbfpq (o : VrOp) | vbfpd (o : VrOp) | vplane (o : VrOp)
  | vunpl (o : VrOp) | vokey (o : VrOp) | vpadd (o : VrOp) | vpdot (o : VrOp) | vpshl (o : VrOp)
  | vred (o : VrOp) | vscan (o : VrOp) | vperm (o : VrOp)
  | vslide (o : VxOp) | vbcast (o : VxOp) | vbcastElement (o : VxOp) | viota (o : VxOp) | vextr (o : VxOp)
  | vins (o : VxOp) | vmov (o : VrOp)
  | vld (o : VmOp) | vst (o : VmOp) | vlde (o : VmOp) | vste (o : VmOp) | vgth (o : VxOp) | vsct (o : VxOp)
  | vldm (o : VmOp) | vstm (o : VmOp) | vkld (o : VkOp) | vkst (o : VkOp)
  | pand (o : VrOp) | por (o : VrOp) | pxor (o : VrOp) | pnot (o : VrOp) | pcnt (o : VrOp)
  | pfirst (o : VrOp) | pset (o : VrOp) | pmov (o : VrOp)
  | lsclr (o : VrOp) | lsins (o : VrOp) | lsrd (o : VrOp) | vhist (o : VrOp)
  -- M slot
  | mlease (o : MOp) | mrel (o : MOp) | mmode (o : MOp) | mloadp (o : MOp) | mflow (o : MOp) | mskew (o : MOp)
  | mclr (o : MOp) | mpre (o : MOp) | mfeed (o : MOp) | mfeedr (o : MOp) | mdrain (o : MOp) | mstat (o : MOp)
  | mresume (o : MOp)
  -- C slots
  | cpy (o : COp) | cpyt (o : COp) | cpys (o : COp) | gth (o : COp) | sct (o : COp) | cpyg (o : COp)
  | sbind (o : COp) | sunb (o : COp) | radv (o : COp) | pfill (o : COp) | pwb (o : COp) | pinv (o : COp)
  | cxadd (o : COp) | cwaite (o : COp)
  -- fetch, dispatch, banks
  | fetchLine (b va : Nat) | bundleDispatch (b : Nat) | stickyIssue (b slot : Nat)
  | cwaitSwitchCount (b : Nat) | mleaseSwitchCount (b : Nat) | bankHandover (core : Nat)
  | preemptAtSafePoint (b : Nat) | pendingEventRecordWrite (area : Area) (die : Nat)
  -- memory order
  | loadDataReturn (die line : Nat) | storePerform (b : Nat) | sectorReservationRequest (b : Nat)
  | writeThroughArrival (src home : Nat) | writeThroughAck (src home : Nat) | farCacheAgeExpiry (die line : Nat)
  | blockWrite (lv : Level) (addr : Nat) (data : List Byte)
  -- compression and retriever
  | retrieverRun (die : Nat) | resampleInterval (die : Nat) | learningPhaseEnd (die : Nat)
  | tableWaitExpiry (die : Nat) | cmpWatermarkWrite (die : Nat) (w : Watermark) (v : Nat)
  -- pages
  | dirtyDSet (ctx va : Nat) | pteWrite (ctx va : Nat) (entry : Word) | invalidationCommand (ctx va : Nat)
  | pageEvict (ctx va : Nat) (slot : EvictSlot) | pageReturn (ctx va frame : Nat) | migrate (ctx va frame : Nat)
  | migrationCopyComplete (ctx va : Nat) | migrationInvalidateComplete (ctx va : Nat)
  | migrationCancel (ctx va : Nat) | split (ctx va table : Nat) (r w wp : Option Bool) | splitComplete (ctx va : Nat)
  -- fantail
  | launchAcceptance (ctx : Nat) | hlwGo (fn : Nat) (v : Word) | dependenceTranslation (ctx k d : Nat)
  | agingInterval (ctx q : Nat) | kernelSelect (ctx : Nat) | regionTranslationEnd (ctx k : Nat)
  | taskPlace (ctx k : Nat) (on : List (Nat × Nat)) | waitLimitSwapout (b : Nat) | taskEnd (b : Nat)
  | counterTreeComplete (ctx k : Nat) | completionAddPerformed (ctx k : Nat)
  -- counters and host
  | counterAdd (die : Nat) | waiterRegister (die : Nat) | waiterResendTimer (die : Nat) | cwaitBoundExpiry (b : Nat)
  | hcaAdd (fn : Nat) (v : Word) | hcaVal (fn : Nat) | hostWrite (fn addr : Nat) (data : List Byte)
  | hostRead (fn addr len : Nat)
  -- engines
  | engineOpStart (b op : Nat) | engineItem (b op : Nat) | engineOpComplete (b op : Nat)
  | streamFillItem (b st : Nat) | streamDrainItem (b st : Nat) | probeFillComplete (b row : Nat)
  -- Mill
  | millCommandStart (b : Nat) | millCommandComplete (b : Nat) | mdrainCapture (b : Nat)
  | leaseCountLimit (mg : Nat) | leaseIdleLimit (mg : Nat) | pairWindow (mg : Nat)
  -- weirs and groups
  | weirStageLine (die : Nat) (g : GroupName) (l : StagedLine) | weirPrepare (die : Nat) | readyReport (die : Nat)
  | weirRefusal (die : Nat) | weirCommitPacket (die : Nat) | weirDiscard (die : Nat) | publicationReport (die : Nat)
  | discardReport (die : Nat) | prepareTimeout (die idx : Nat) | weirQueryTimeout (die : Nat) (g : GroupName)
  | groupQuery (die : Nat)
  -- links
  | remoteRequest (die : Nat) | fabricPacketReceive (p : Packet) | ethernetFrameReceive (port etherType : Nat) (p : Packet)
  | gatewayRetryTimeout (dst : NodePair) (vc seq : Nat) | flitGroupReceive (link : Nat) (vc : VcWay) (counter : Nat) (tagOk : Bool)
  | rekeyDeadline (link : Nat) (vc : VcWay) | keyload (link : Nat) (vc : VcWay) (recv : Bool) (key : BitVec 256) (salt : BitVec 32) (s : Nat)
  | vcreset (link : Nat) (vc : VcWay) | lnkVcpWrite (link : Nat) (v : Word) | linkTrainingEnd (link : Nat) (r : Training) (lanes : Nat)
  | linkLaneLoss (link lanes : Nat) | linkLanesRestored (link : Nat) | linkDown (link : Nat) | linkRetrain (link : Nat)
  | windowOpen (ctx n : Nat) (v : Word)
  -- collectives
  | colset (ctx entry : Nat) (rec : List Byte) | colclr (ctx entry : Nat)
  | chunkLineReceive (ctx entry rank step seq : Nat) (data : List Byte) | releaseReport (ctx entry rank : Nat) (step : FiringStep)
  | sourceReadComplete (ctx entry : Nat) | finishReport (ctx entry rank r : Nat) | failureNotice (ctx entry rank : Nat)
  | collectiveTimeout (ctx entry : Nat)
  -- contexts
  | ctxCreate (c : Nat) | ctxReady (c : Nat) | place (c : Nat) (clusters : List Nat) | swapOut (c : Nat)
  | swapIn (c : Nat) (clusters : List Nat) | contextHalt (c timeout : Nat) | haltSequenceComplete (c : Nat)
  | haltTimeout (c : Nat) | image (c addr : Nat) (host : Bool) | ctxContinue (c : Nat)
  | restore (c addr : Nat) (host : Bool) (clusters : List Nat) (root fa : Word) | restoreLoadComplete (c : Nat)
  | ctxDestroy (c : Nat) | contextReleased (c : Nat)
  | fdispResume (area : Area) (seq : Nat) | fdispRetry (area : Area) (seq : Nat)
  | fdispTerminateKernel (area : Area) (seq : Nat) | fdispTerminateContext (area : Area) (seq : Nat)
  -- memory devices
  | memTestGo (die : Nat) (v : Word) | parkingComplete (die : Nat) | bankTestComplete (die : Nat) (pass : Bool)
  | restoringComplete (die : Nat) | rowSwap (die unit bank row : Nat) | refreshWindowEnd (die : Nat)
  -- bring-up, SPDM, power, registers
  | pcieResetDeassert | bootStageComplete (r : StageResult) | bootTimeout | bootstatRead | flashWr (slot : Nat) (img : FlashSlot)
  | restart | getVersion | getCapabilities | negotiateAlgorithms (req : List Byte) | getDigests
  | getCertificate (off len : Nat) | challenge (nonce : List Byte) | getMeasurements (idx : MeasRequest)
  | correctedError (die : Nat) (k : ErrorFound) | clockStepSet (die step : Nat) | thermalThrottle (die : Nat)
  | thermalRecover (die : Nat) | thermalTrip (die : Nat) | registerWrite (r : MReg) (v : Word)
  | pcieResetAssert | fabricVcPause (port vc : Nat) (raised : Bool) | bankRefresh (die unit bank : Nat)
  | dirtyRoundStart (ctx : Nat)
  deriving DecidableEq, Repr

/-- One slot of a bundle: an instruction, or a word whose selecting field holds a value that no form lists, which
is ILLEGAL_OPERAND at issue (R72). -/
inductive SlotOp where
  | op (i : Instr)
  | badForm
  deriving DecidableEq, Repr

/-- The four kinds of bundle header (R51); kind 11 is reserved and never decoded. -/
inductive Kind where
  | standard | safePoint | longImm
  deriving DecidableEq, Repr

/-- A decoded bundle (R50, R51). sticky bit i and ops entry i stand for slot i. -/
structure Bundle where
  kind    : Kind
  sync    : Bool
  rpt     : Nat
  sticky  : BitVec 6
  stepSet : Nat
  spIndex : Nat
  imm64   : Word
  ops     : List (Option SlotOp)
  len     : Nat
  deriving DecidableEq, Repr

end Sys2Proof
end

