-- ==== Sys2Proof/WellFormed.lean ====
section
/-! DEFINITION. Which instructions are well formed: every field that the form selected by the word does not use is
zero (R52, R72, R76), the four V0-only operations stand in V0 (R74), and a device step names units that exist
(R13, R372, R406). A word that is not well formed raises ILLEGAL_BUNDLE at dispatch. -/

namespace Sys2Proof

/-- Bits 8..6 of a field that names a predicate are zero (R74). -/
def predFld (f : VFld) : Bool := f.toNat < 64

/-- The V-slot guard field of a store: 00 with pg and polarity zero, or 01 (R71). A store has no form under value 10, which faults at issue
with no other field judged (R72). -/
def guardOk (guard : BitVec 2) (pg : BitVec 6) (pol : BitVec 1) : Bool :=
  (guard == 0 && pg == 0 && pol == 0) || guard == 1

/-- Every field of a VR word but the ones named true is zero; rnd, sat/mode and fn are named likewise. -/
def vrOnly (o : VrOp) (vd va vb vc fmt rnd sm fn : Bool) : Bool :=
  (vd || o.vd == 0) && (va || o.va == 0) && (vb || o.vb == 0) && (vc || o.vc == 0) &&
  (fmt || o.fmt == 0) && (rnd || o.rnd == 0) && (sm || o.sm == 0) && (fn || o.fn == 0)

/-- The integer operations of R141 on vd, va, vb. -/
def wfInt (o : VrOp) : Bool := vrOnly o true true true false true false true false

/-- The bitwise and predicate operations of two operands: only vd, va, vb. -/
def wfBits (o : VrOp) : Bool := vrOnly o true true true false false false false false

/-- Floating-point operations of R148: vd, va, vb, fmt and rnd. -/
def wfFp2 (o : VrOp) : Bool := vrOnly o true true true false true true false false

/-- Function operations of R148: vd, va, fmt and rnd. -/
def wfFp1 (o : VrOp) : Bool := vrOnly o true true false false true true false false

/-- A masking predicate in vc: named when on, zero when off. -/
def maskFld (on : Bool) (vc : VFld) : Bool := if on then predFld vc else vc == 0

/-- VSHL and VSHR: fn bit 7 chooses between vb and the immediate (R144). -/
def wfShift (o : VrOp) (rnd sm : Bool) : Bool :=
  vrOnly o true true true false true rnd sm true &&
  (if o.fn.toNat < 128 then o.fn == 0 else o.vb == 0 && o.fn.toNat < 192)

/-- VRED and VSCAN: sat/mode only with ADD, rnd only with FADD, vc only with fn bit 7 (R160). -/
def wfTree (o : VrOp) : Bool :=
  vrOnly o true true false true true (o.fn.toNat % 128 == 8) (o.fn.toNat % 128 == 0) true &&
  maskFld (128 ≤ o.fn.toNat) o.vc

/-- Bits 23..16 of a VX word's lower half are zero (R162). -/
def vxZero (o : VxOp) : Bool := o.imm.extractLsb 23 16 == 0

/-- Every field of an M word's xa, xb, xc not named is zero, and mod uses only the bits of use (R75). -/
def mOnly (o : MOp) (xa xb xc : Bool) (use : BitVec 14) : Bool :=
  (xa || o.xa == 0) && (xb || o.xb == 0) && (xc || o.xc == 0) && o.mod &&& ~~~use == 0

/-- As mOnly, for a C word. -/
def cOnly (o : COp) (xs xt xn : Bool) (use : BitVec 14) : Bool :=
  (xs || o.xs == 0) && (xt || o.xt == 0) && (xn || o.xn == 0) && o.mod &&& ~~~use == 0

/-- A link number of R372. -/
def linkNo (l : Nat) : Bool := l < 10 || (16 ≤ l && l ≤ 35)

/-- The four compute dies (R13). -/
def dieNo (d : Nat) : Bool := d < 4

/-- The 32 contexts of a device (R406). -/
def ctxNo (c : Nat) : Bool := c < 32

/-- The 512 banks of a device: 2 x core + bank (R13, R18). -/
def bankNo (b : Nat) : Bool := b < 512

/-- The 64 mill groups of a device (R13). -/
def mgNo (g : Nat) : Bool := g < 64

/-- The physical function and the 16 virtual functions (R299). -/
def fnNo (f : Nat) : Bool := f < 17

/-- The fault area named exists. -/
def areaNo : Area → Bool
  | .ctx c => ctxNo c
  | .dev => true

/-- Well-formedness of the S-slot operations (R107, R109 to R134, and the entries of the object chapters). -/
def wfScalar : Instr → Option Bool
  | .add o | .sub o | .mul o | .mulh o | .mulhn o | .div o | .divn o | .rem o | .remn o
  | .and o | .or o | .xor o | .sll o | .srl o | .sra o | .slt o | .sltn o
  | .min o | .max o | .minn o | .maxn o | .padd o | .launch o => some (o.fn == 0)
  | .clz o | .ctz o | .popc o | .crd o | .kstat o | .gcommit o | .gabort o | .gstat o | .colrdy o
  | .calloc o | .talloc o | .xlook o => some (o.fn == 0 && o.xb == 0)
  | .addi _ | .andi _ | .ori _ | .xori _ | .slli _ | .srli _ | .srai _ | .slti _ | .li _ | .lih _ => some true
  | .lil o _ => some (o.imm == 0)
  | .plx o | .plr o => some (o.fn.toNat < 16)
  | .plt o => some (o.fn == 0)
  | .pltPeer o => some (32 ≤ o.fn.toNat && o.fn.toNat < 48)
  | .xlookW o => some (o.fn == 1 && o.xb == 0)
  | .widf o => some (o.imm.toNat < 8)
  | .tallocHandle o | .callocDie o => some (o.fn == 1)
  | .tfree o | .cfree o | .ret o => some (o.fn == 0 && o.xb == 0 && (o.xd == 0))
  | .tshape o => some (o.fn == 0 && o.xd == 0)
  | .tqry o | .gopen o => some (o.xb == 0)
  | .beq _ | .bne _ | .blt _ | .bge _ | .bltn _ | .bgen _ | .probe _ => some true
  | .bany o | .ball o | .bnone o => some (o.xa.extractLsb 3 0 == 0)
  | .j o | .loopb o => some (o.xl == 0)
  | .call _ => some true
  | .kld o => some (o.g == 0 && o.pol == 0 && o.pg == 0)
  | .kst o => some (o.g == 1 || (o.pol == 0 && o.pg == 0))
  | .crr o => some (o.xa == 0)
  | .crw _ | .crs _ | .crc _ => some true
  | .fence o => some (o.xd == 0 && o.xa == 0 && o.imm &&& 0xFC8 == 0)
  | .mark o => some (o.xa == 0 && o.xb == 0 && o.fn == 0)
  | .trap o => some (o.xd == 0)
  | .brk o => some (o.xd == 0 && o.xa == 0)
  | .halt o => some (o.xd == 0 && o.xa == 0 && o.xb == 0)
  | .yieldS o => some (o.xd == 0 && o.xa == 0 && o.xb == 0 && o.fn == 0)
  | .cadd o => some (o.fn.toNat < 8 && (o.pg != 0 || o.pol == 0))
  | .atom o => some (o.pg != 0 || o.pol == 0)
  | .cwait _ => some true
  | .qctlQuery o => some (o.fn == 0)
  | .qctlSetmode o => some (o.fn == 1)
  | .qctlDrain o => some (o.fn == 2)
  | .qctlHalt o => some (o.fn == 3)
  | .qctlResume o => some (o.fn == 4)
  | .qctlAbort o => some (o.fn == 5)
  | .qctlReset o => some (o.fn == 6)
  | _ => none

/-- Well-formedness of the V-slot operations (R135 to R176). -/
def wfVector : Instr → Option Bool
  | .vadd o | .vsub o | .vadds o | .vsubs o | .vmul o | .vabsd o => some (wfInt o)
  | .vmulh o => some (vrOnly o true true true false true (o.sm == 2) true false && o.sm.toNat % 2 == 0)
  | .vmad o => some (vrOnly o true true true true true false true false)
  | .vmin o | .vmax o => some (vrOnly o true true true false true false false false)
  | .vand o | .vor o | .vxor o => some (wfBits o)
  | .vbit o => some (vrOnly o true true true true false false false false)
  | .vshl o => some (wfShift o false true)
  | .vshr o => some (wfShift o true false)
  | .vcmp o | .vfcmp o => some (vrOnly o true true true false true false false true && predFld o.vd)
  | .vsel o => some (o.rnd == 0 && o.sm == 0 && o.fn == 0 && o.guard != 3 &&
      (o.guard != 0 || (o.pg == 0 && o.pol == 0)) && (o.guard != 2 || o.vb == 0))
  | .vfadd o | .vfsub o | .vfmul o => some (wfFp2 o)
  | .vfma o => some (vrOnly o true true true true true true false false)
  | .vfmin o | .vfmax o => some (vrOnly o true true true false true false false false)
  | .vfrcp o | .vfrsq o | .vfexp2 o | .vflog2 o => some (wfFp1 o)
  | .vfsgn o => some (vrOnly o true true (o.fn.toNat < 3) false true false false true && o.fn.toNat < 5)
  | .vcvt o => some (vrOnly o true true false false true true true true && o.fn.toNat < 16)
  | .vtag o => some (vrOnly o true true false false true false false false)
  | .vbfpq o => some (vrOnly o true true false true true false false true && o.fn.toNat < 32 &&
      maskFld (16 ≤ o.fn.toNat) o.vc)
  | .vbfpd o => some (vrOnly o true true false false true false false true && o.fn.toNat < 16)
  | .vplane o | .vunpl o => some (vrOnly o true true false false false false false true)
  | .vokey o => some (vrOnly o true true false false true false false true)
  | .vpadd o => some (vrOnly o true true true false false false true true)
  | .vpdot o => some (vrOnly o true true true false false false true false)
  | .vpshl o => some (vrOnly o true true false false false false (o.fn.toNat < 16) true && o.fn.toNat < 32)
  | .vred o | .vscan o => some (wfTree o && (o.fn.toNat % 128 < 6 || (8 ≤ o.fn.toNat % 128 && o.fn.toNat % 128 ≤ 10)))
  | .vperm o => some (vrOnly o true true true (o.fn == 1) true false false true && o.fn.toNat < 2)
  | .vslide o => some (vxZero o)
  | .vbcast o => some (vxZero o && o.va == 0 && o.imm.extractLsb 15 0 == 0 && o.imm.extractLsb 24 24 == 0)
  | .vbcastElement o => some (vxZero o && o.imm.extractLsb 24 24 == 1)
  | .viota o | .vins o => some (vxZero o && o.va == 0 && o.imm.extractLsb 24 24 == 0)
  | .vextr o => some (vxZero o && o.vd == 0 && o.imm.extractLsb 24 24 == 0)
  | .vmov o => some (vrOnly o true true false false false false false true && o.fn.toNat < 32)
  | .vld o => some (o.pg == 0 && o.pol == 0 && o.guard == 0 && o.fn == 0)
  | .vst o => some (o.guard == 2 || (guardOk o.guard o.pg o.pol && o.fn == 0))
  | .vlde o => some (o.pg == 0 && o.pol == 0 && o.guard == 0 && o.cnt == 0)
  | .vste o => some (o.guard == 2 || (guardOk o.guard o.pg o.pol && o.cnt == 0))
  | .vldm o | .vstm o => some (o.pg == 0 && o.pol == 0 && o.guard == 0 && o.fn == 0)
  | .vgth o => some (o.imm &&& 0x3FFC1FFF == 0)
  | .vsct o => some (o.imm.extractLsb 19 18 == 2 || o.imm &&& 0x38001FFF == 0 &&
      guardOk (o.imm.extractLsb 19 18) (o.imm.extractLsb 26 21) (o.imm.extractLsb 20 20))
  | .vkld o => some (o.z == 0 && o.pg == 0 && o.pol == 0 && o.guard == 0 && o.fn == 0)
  | .vkst o => some (o.z == 0 && (o.guard == 2 || guardOk o.guard o.pg o.pol && o.fn == 0))
  | .pand o | .por o | .pxor o => some (wfBits o && predFld o.vd && predFld o.va && predFld o.vb)
  | .pnot o | .pmov o => some (vrOnly o true true false false false false false false && predFld o.vd && predFld o.va)
  | .pcnt o | .pfirst o => some (vrOnly o true true false false true false false false && predFld o.vd && predFld o.va)
  | .pset o => some (vrOnly o true false false false (o.sm == 0) false true (o.sm == 0) && predFld o.vd && o.sm.toNat < 2)
  | .lsclr o => some (o.sl == 0 && vrOnly o false false false false true false true true && o.sm.toNat < 2)
  | .lsins o => some (o.sl == 0 && vrOnly o false true true true true false false true && o.fn.toNat < 2 &&
      maskFld (o.fn == 1) o.vc)
  | .lsrd o => some (o.sl == 0 && vrOnly o true false false false false false false true && o.fn.toNat < 32)
  | .vhist o => some (o.sl == 0 && vrOnly o true true false true true false true true && maskFld (o.sm.toNat % 2 == 1) o.vc)
  | _ => none

/-- Well-formedness of the M- and C-slot operations (R75, R199 to R241, R321, R322, R371). -/
def wfEngine : Instr → Option Bool
  | .mlease o | .mrel o | .mstat o | .mresume o => some (mOnly o false false false 0)
  | .mmode o => some (mOnly o false false false 1)
  | .mloadp o => some (mOnly o true true false 0xF)
  | .mflow o => some (mOnly o false false false 3)
  | .mskew o => some (mOnly o false false false 0xFFF)
  | .mclr o => some (mOnly o (o.mod.extractLsb 2 0 == 4) false false 0xF && o.mod.toNat % 8 < 5)
  | .mpre o => some (mOnly o true false false 1)
  | .mfeed o => some (mOnly o true true true 0x2FFF)
  | .mfeedr o => some (mOnly o true true true 0x1FFF)
  | .mdrain o => some (mOnly o true true false 0x3C00)
  | .cpy o => some (cOnly o true true true 0x3FFC)
  | .cpyt o => some (cOnly o true true true 0x3FC0)
  | .cpys o => some (cOnly o true true true 0)
  | .gth o | .sct o => some (cOnly o true true true 0x3FFE)
  | .cpyg o => some (cOnly o true true true 0x3FF8)
  | .sbind o => some (cOnly o true false false 0xF)
  | .sunb o => some (cOnly o false false false 0xF)
  | .radv o => some (cOnly o true false true 1)
  | .pfill o => some (cOnly o true false true 0)
  | .pwb o => some (cOnly o (o.mod == 0) false (o.mod == 0) 1)
  | .pinv o => some (cOnly o (o.mod.extractLsb 0 0 == 0) false (o.mod.extractLsb 0 0 == 0) 3)
  | .cxadd o => some (cOnly o true false true 0)
  | .cwaite o => some (cOnly o true false true 7)
  | _ => none

/-- A device step names units that exist. -/
def wfEvent : Instr → Bool
  | .fetchLine b _ | .bundleDispatch b | .cwaitSwitchCount b | .mleaseSwitchCount b | .preemptAtSafePoint b
  | .storePerform b | .sectorReservationRequest b | .waitLimitSwapout b | .taskEnd b | .cwaitBoundExpiry b
  | .engineOpStart b _ | .engineItem b _ | .engineOpComplete b _ | .probeFillComplete b _
  | .millCommandStart b | .millCommandComplete b | .mdrainCapture b => bankNo b
  | .stickyIssue b sl => bankNo b && sl < 6
  | .streamFillItem b n | .streamDrainItem b n => bankNo b && n < 16
  | .bankHandover c => c < 256
  | .pendingEventRecordWrite a d => areaNo a && d < 5
  | .loadDataReturn d _ | .farCacheAgeExpiry d _ | .retrieverRun d | .resampleInterval d | .learningPhaseEnd d
  | .tableWaitExpiry d | .cmpWatermarkWrite d _ _ | .counterAdd d | .waiterRegister d | .waiterResendTimer d
  | .weirStageLine d _ _ | .weirPrepare d | .readyReport d | .weirRefusal d | .weirCommitPacket d | .weirDiscard d
  | .publicationReport d | .discardReport d | .prepareTimeout d _ | .weirQueryTimeout d _ | .groupQuery d
  | .remoteRequest d | .memTestGo d _ | .parkingComplete d | .bankTestComplete d _ | .restoringComplete d
  | .rowSwap d _ _ _ | .refreshWindowEnd d | .bankRefresh d _ _ => dieNo d
  | .correctedError d k => d < 5 && k.kind < 5
  | .clockStepSet d s => d < 5 && s < 6
  | .thermalThrottle d | .thermalRecover d | .thermalTrip d => d < 5
  | .writeThroughArrival a b | .writeThroughAck a b => dieNo a && dieNo b
  | .blockWrite _ _ _ => true
  | .dirtyDSet c _ | .pteWrite c _ _ | .invalidationCommand c _ | .pageEvict c _ _ | .pageReturn c _ _
  | .migrate c _ _ | .migrationCopyComplete c _ | .migrationInvalidateComplete c _ | .migrationCancel c _
  | .split c _ _ _ _ _ | .splitComplete c _ | .launchAcceptance c | .dependenceTranslation c _ _ | .kernelSelect c
  | .regionTranslationEnd c _ | .taskPlace c _ _ | .counterTreeComplete c _ | .completionAddPerformed c _
  | .windowOpen c _ _ | .ctxCreate c | .ctxReady c | .place c _ | .swapOut c | .swapIn c _ | .contextHalt c _
  | .haltSequenceComplete c | .haltTimeout c | .image c _ _ | .ctxContinue c | .restore c _ _ _ _ _
  | .restoreLoadComplete c | .ctxDestroy c | .contextReleased c | .dirtyRoundStart c => ctxNo c
  | .agingInterval c q => ctxNo c && q < 64
  | .colset c e _ | .colclr c e | .chunkLineReceive c e _ _ _ _ | .releaseReport c e _ _ | .sourceReadComplete c e
  | .finishReport c e _ _ | .failureNotice c e _ | .collectiveTimeout c e => ctxNo c && e < 4096
  | .hlwGo f _ | .hcaAdd f _ | .hcaVal f | .hostWrite f _ _ | .hostRead f _ _ => fnNo f
  | .leaseCountLimit g | .leaseIdleLimit g | .pairWindow g => mgNo g
  | .fabricPacketReceive p => p.vc < 8
  | .ethernetFrameReceive port _ p => 32 ≤ port && port ≤ 35 && p.vc < 8
  | .gatewayRetryTimeout _ vc _ => vc < 8
  | .flitGroupReceive l w _ _ | .rekeyDeadline l w | .keyload l w _ _ _ _ | .vcreset l w => linkNo l && w.vc < 8 && w.way < 2048
  | .lnkVcpWrite l _ | .linkTrainingEnd l _ _ | .linkLaneLoss l _ | .linkLanesRestored l | .linkDown l
  | .linkRetrain l => linkNo l
  | .fabricVcPause p vc _ => 16 ≤ p && p ≤ 35 && vc < 8
  | .fdispResume a _ | .fdispRetry a _ | .fdispTerminateKernel a _ | .fdispTerminateContext a _ => areaNo a
  | .flashWr s _ => s < 2
  | _ => true

/-- An instruction is well formed. -/
def WellFormed (i : Instr) : Bool :=
  match wfScalar i, wfVector i, wfEngine i with
  | some b, _, _ => b
  | _, some b, _ => b
  | _, _, some b => b
  | none, none, none => wfEvent i

end Sys2Proof
end

