-- ==== Sys2Proof/Decode.lean ====
section
/-! DEFINITION. Decoding a bundle from bytes (R50 to R52, R68 to R76), total and rejecting by name, and after it the
encoder written from the same formats and opcode maps. -/

namespace Sys2Proof

/-- Why the bytes at an address are no bundle: each condition is ILLEGAL_BUNDLE (R52, R76) but truncated, which
says that bytes are missing (R67). -/
inductive DecodeError where
  | truncated
  | reservedKind | reservedHeader | reservedSafePoint | stickyPresent | stickyScalar
  | unassignedOpcode | vZeroOnly | unusedField
  | transferRepeat | lilMismatch | cwaitMismatch
  deriving DecidableEq, Repr

/-- The SrOp fields of a slot word. -/
def srOf (w : Nat) : SrOp :=
  ⟨.ofNat 6 (w / 2 ^ 18), .ofNat 6 (w / 2 ^ 12), .ofNat 6 (w / 2 ^ 6), .ofNat 6 w⟩

/-- The SiOp fields of a slot word. -/
def siOf (w : Nat) : SiOp :=
  ⟨.ofNat 6 (w / 2 ^ 18), .ofNat 6 (w / 2 ^ 12), .ofNat 12 w⟩

/-- The SlOp fields of a slot word. -/
def slOf (w : Nat) : SlOp :=
  ⟨.ofNat 6 (w / 2 ^ 18), .ofNat 18 w⟩

/-- The SbOp fields of a slot word. -/
def sbOf (w : Nat) : SbOp :=
  ⟨.ofNat 6 (w / 2 ^ 18), .ofNat 6 (w / 2 ^ 12), .ofNat 12 w⟩

/-- The SjOp fields of a slot word. -/
def sjOf (w : Nat) : SjOp :=
  ⟨.ofNat 6 (w / 2 ^ 18), .ofNat 18 w⟩

/-- The SgOp fields of a slot word. -/
def sgOf (w : Nat) : SgOp :=
  ⟨.ofNat 6 (w / 2 ^ 18), .ofNat 6 (w / 2 ^ 12), .ofNat 6 (w / 2 ^ 6), .ofNat 1 (w / 2 ^ 5), .ofNat 5 w⟩

/-- The SkOp fields of a slot word. -/
def skOf (w : Nat) : SkOp :=
  ⟨.ofNat 6 (w / 2 ^ 18), .ofNat 1 (w / 2 ^ 17), .ofNat 1 (w / 2 ^ 16), .ofNat 3 (w / 2 ^ 13), .ofNat 13 w⟩

/-- The VrOp fields of a slot word. -/
def vrOf (sl : BitVec 1) (w : Nat) : VrOp :=
  ⟨sl, .ofNat 9 (w / 2 ^ 45), .ofNat 9 (w / 2 ^ 36), .ofNat 9 (w / 2 ^ 27), .ofNat 9 (w / 2 ^ 18), .ofNat 5 (w / 2 ^ 13), .ofNat 3 (w / 2 ^ 10), .ofNat 2 (w / 2 ^ 8), .ofNat 8 w⟩

/-- The VgOp fields of a slot word. -/
def vgOf (sl : BitVec 1) (w : Nat) : VgOp :=
  ⟨sl, .ofNat 9 (w / 2 ^ 45), .ofNat 9 (w / 2 ^ 36), .ofNat 9 (w / 2 ^ 27), .ofNat 6 (w / 2 ^ 21), .ofNat 1 (w / 2 ^ 20), .ofNat 2 (w / 2 ^ 18), .ofNat 5 (w / 2 ^ 13), .ofNat 3 (w / 2 ^ 10), .ofNat 2 (w / 2 ^ 8), .ofNat 8 w⟩

/-- The VmOp fields of a slot word. -/
def vmOf (sl : BitVec 1) (w : Nat) : VmOp :=
  ⟨sl, .ofNat 9 (w / 2 ^ 45), .ofNat 6 (w / 2 ^ 39), .ofNat 12 (w / 2 ^ 27), .ofNat 6 (w / 2 ^ 21), .ofNat 1 (w / 2 ^ 20), .ofNat 2 (w / 2 ^ 18), .ofNat 5 (w / 2 ^ 13), .ofNat 5 (w / 2 ^ 8), .ofNat 8 w⟩

/-- The VxOp fields of a slot word. -/
def vxOf (sl : BitVec 1) (w : Nat) : VxOp :=
  ⟨sl, .ofNat 9 (w / 2 ^ 45), .ofNat 6 (w / 2 ^ 39), .ofNat 9 (w / 2 ^ 30), .ofNat 30 w⟩

/-- The VkOp fields of a slot word. -/
def vkOf (sl : BitVec 1) (w : Nat) : VkOp :=
  ⟨sl, .ofNat 9 (w / 2 ^ 45), .ofNat 16 (w / 2 ^ 29), .ofNat 2 (w / 2 ^ 27), .ofNat 6 (w / 2 ^ 21), .ofNat 1 (w / 2 ^ 20), .ofNat 2 (w / 2 ^ 18), .ofNat 5 (w / 2 ^ 13), .ofNat 5 (w / 2 ^ 8), .ofNat 8 w⟩

/-- The MOp fields of a slot word. -/
def mOf (w : Nat) : MOp :=
  ⟨.ofNat 6 (w / 2 ^ 50), .ofNat 6 (w / 2 ^ 44), .ofNat 6 (w / 2 ^ 38), .ofNat 6 (w / 2 ^ 32), .ofNat 6 (w / 2 ^ 26), .ofNat 6 (w / 2 ^ 20), .ofNat 6 (w / 2 ^ 14), .ofNat 14 w⟩

/-- The COp fields of a slot word. -/
def cOf (sl : BitVec 1) (w : Nat) : COp :=
  ⟨sl, .ofNat 6 (w / 2 ^ 50), .ofNat 6 (w / 2 ^ 44), .ofNat 6 (w / 2 ^ 38), .ofNat 6 (w / 2 ^ 32), .ofNat 6 (w / 2 ^ 26), .ofNat 6 (w / 2 ^ 20), .ofNat 6 (w / 2 ^ 14), .ofNat 14 w⟩

/-- A row of an S or long-immediate opcode map: the opcode and what a word with it stands for. -/
structure SRow where
  opc   : Nat
  build : Nat → Nat → SlotOp

/-- A row of the V or C opcode map; the first argument is the slot within the pair. -/
structure PRow where
  opc   : Nat
  build : BitVec 1 → Nat → SlotOp

/-- A row of the M opcode map. -/
structure MRow where
  opc   : Nat
  build : Nat → SlotOp

/-- A form chosen by the value of the selecting field, badForm where no form lists the value (R72). -/
def pick (n : Nat) (forms : List Instr) : SlotOp :=
  match forms[n]? with
  | some i => .op i
  | none => .badForm

/-- The form stands when its selecting field holds a listed value (R72). -/
def formIf (c : Prop) [Decidable c] (f : SlotOp) : SlotOp := if c then f else .badForm

/-- The operations of VRED and VSCAN, fn bits 6..0 (R160). -/
def treeOp (n : Nat) : Bool := n < 6 || (8 ≤ n && n ≤ 10)

/-- The S-slot opcode map (R73). -/
def sMap : List SRow :=
  [ ⟨0x01, fun w _ => .op (.add (srOf w))⟩,
    ⟨0x02, fun w _ => .op (.sub (srOf w))⟩,
    ⟨0x03, fun w _ => .op (.mul (srOf w))⟩,
    ⟨0x04, fun w _ => .op (.mulh (srOf w))⟩,
    ⟨0x05, fun w _ => .op (.mulhn (srOf w))⟩,
    ⟨0x06, fun w _ => .op (.div (srOf w))⟩,
    ⟨0x07, fun w _ => .op (.divn (srOf w))⟩,
    ⟨0x08, fun w _ => .op (.rem (srOf w))⟩,
    ⟨0x09, fun w _ => .op (.remn (srOf w))⟩,
    ⟨0x0A, fun w _ => .op (.and (srOf w))⟩,
    ⟨0x0B, fun w _ => .op (.or (srOf w))⟩,
    ⟨0x0C, fun w _ => .op (.xor (srOf w))⟩,
    ⟨0x0D, fun w _ => .op (.sll (srOf w))⟩,
    ⟨0x0E, fun w _ => .op (.srl (srOf w))⟩,
    ⟨0x0F, fun w _ => .op (.sra (srOf w))⟩,
    ⟨0x10, fun w _ => .op (.slt (srOf w))⟩,
    ⟨0x11, fun w _ => .op (.sltn (srOf w))⟩,
    ⟨0x12, fun w _ => .op (.min (srOf w))⟩,
    ⟨0x13, fun w _ => .op (.max (srOf w))⟩,
    ⟨0x14, fun w _ => .op (.minn (srOf w))⟩,
    ⟨0x15, fun w _ => .op (.maxn (srOf w))⟩,
    ⟨0x16, fun w _ => .op (.clz (srOf w))⟩,
    ⟨0x17, fun w _ => .op (.ctz (srOf w))⟩,
    ⟨0x18, fun w _ => .op (.popc (srOf w))⟩ ] ++
  [ ⟨0x20, fun w _ => .op (.addi (siOf w))⟩,
    ⟨0x21, fun w _ => .op (.andi (siOf w))⟩,
    ⟨0x22, fun w _ => .op (.ori (siOf w))⟩,
    ⟨0x23, fun w _ => .op (.xori (siOf w))⟩,
    ⟨0x24, fun w _ => .op (.slli (siOf w))⟩,
    ⟨0x25, fun w _ => .op (.srli (siOf w))⟩,
    ⟨0x26, fun w _ => .op (.srai (siOf w))⟩,
    ⟨0x27, fun w _ => .op (.slti (siOf w))⟩,
    ⟨0x28, fun w _ => .op (.li (slOf w))⟩,
    ⟨0x29, fun w _ => .op (.lih (slOf w))⟩,
    ⟨0x30, fun w _ => .op (.plx (srOf w))⟩,
    ⟨0x32, fun w _ => .op (.plr (srOf w))⟩,
    ⟨0x33, fun w _ => .op (.padd (srOf w))⟩,
    ⟨0x35, fun w _ => .op (.widf (siOf w))⟩,
    ⟨0x37, fun w _ => .op (.tfree (srOf w))⟩,
    ⟨0x38, fun w _ => .op (.tshape (srOf w))⟩,
    ⟨0x39, fun w _ => .op (.tqry (srOf w))⟩,
    ⟨0x40, fun w _ => .op (.beq (sbOf w))⟩,
    ⟨0x41, fun w _ => .op (.bne (sbOf w))⟩,
    ⟨0x42, fun w _ => .op (.blt (sbOf w))⟩,
    ⟨0x43, fun w _ => .op (.bge (sbOf w))⟩,
    ⟨0x44, fun w _ => .op (.bltn (sbOf w))⟩,
    ⟨0x45, fun w _ => .op (.bgen (sbOf w))⟩,
    ⟨0x46, fun w _ => .op (.bany (sbOf w))⟩ ] ++
  [ ⟨0x47, fun w _ => .op (.ball (sbOf w))⟩,
    ⟨0x48, fun w _ => .op (.bnone (sbOf w))⟩,
    ⟨0x49, fun w _ => .op (.j (sjOf w))⟩,
    ⟨0x4A, fun w _ => .op (.call (sjOf w))⟩,
    ⟨0x4B, fun w _ => .op (.ret (srOf w))⟩,
    ⟨0x4C, fun w _ => .op (.loopb (sjOf w))⟩,
    ⟨0x4D, fun w _ => .op (.probe (sbOf w))⟩,
    ⟨0x50, fun w _ => .op (.kld (skOf w))⟩,
    ⟨0x51, fun w _ => .op (.kst (skOf w))⟩,
    ⟨0x52, fun w _ => .op (.crr (siOf w))⟩,
    ⟨0x53, fun w _ => .op (.crw (siOf w))⟩,
    ⟨0x54, fun w _ => .op (.crs (siOf w))⟩,
    ⟨0x55, fun w _ => .op (.crc (siOf w))⟩,
    ⟨0x56, fun w _ => .op (.fence (siOf w))⟩,
    ⟨0x57, fun w _ => .op (.mark (srOf w))⟩,
    ⟨0x58, fun w _ => .op (.trap (siOf w))⟩,
    ⟨0x59, fun w _ => .op (.brk (siOf w))⟩,
    ⟨0x5A, fun w _ => .op (.halt (srOf w))⟩,
    ⟨0x5B, fun w _ => .op (.yieldS (srOf w))⟩,
    ⟨0x61, fun w _ => .op (.cfree (srOf w))⟩,
    ⟨0x62, fun w _ => .op (.cadd (sgOf w))⟩,
    ⟨0x63, fun w _ => .op (.cwait (srOf w))⟩,
    ⟨0x64, fun w _ => .op (.crd (srOf w))⟩,
    ⟨0x65, fun w _ => .op (.atom (sgOf w))⟩ ] ++
  [ ⟨0x70, fun w _ => .op (.launch (srOf w))⟩,
    ⟨0x71, fun w _ => .op (.kstat (srOf w))⟩,
    ⟨0x73, fun w _ => .op (.gopen (srOf w))⟩,
    ⟨0x74, fun w _ => .op (.gcommit (srOf w))⟩,
    ⟨0x75, fun w _ => .op (.gabort (srOf w))⟩,
    ⟨0x76, fun w _ => .op (.gstat (srOf w))⟩,
    ⟨0x77, fun w _ => .op (.colrdy (srOf w))⟩ ] ++
  [ ⟨0x2A, fun w imm => .op (.lil (slOf w) (BitVec.ofNat 64 imm))⟩,
    ⟨0x31, fun w _ => if w % 64 < 32 then .op (.plt (srOf w)) else .op (.pltPeer (srOf w))⟩,
    ⟨0x34, fun w _ => if w % 2 = 0 then .op (.xlook (srOf w)) else .op (.xlookW (srOf w))⟩,
    ⟨0x36, fun w _ => pick (w % 64) [.talloc (srOf w), .tallocHandle (srOf w)]⟩,
    ⟨0x60, fun w _ => if w % 2 = 0 then .op (.calloc (srOf w)) else .op (.callocDie (srOf w))⟩,
    ⟨0x72, fun w _ => pick (w % 64) [.qctlQuery (srOf w), .qctlSetmode (srOf w), .qctlDrain (srOf w),
      .qctlHalt (srOf w), .qctlResume (srOf w), .qctlAbort (srOf w), .qctlReset (srOf w)]⟩ ]

/-- The V-slot opcode map (R74). -/
def vMap : List PRow :=
  [ ⟨0x001, fun sl w => .op (.vadd (vrOf sl w))⟩,
    ⟨0x002, fun sl w => .op (.vsub (vrOf sl w))⟩,
    ⟨0x003, fun sl w => .op (.vadds (vrOf sl w))⟩,
    ⟨0x004, fun sl w => .op (.vsubs (vrOf sl w))⟩,
    ⟨0x005, fun sl w => .op (.vmul (vrOf sl w))⟩,
    ⟨0x006, fun sl w => formIf (w / 2 ^ 8 % 2 = 0) (.op (.vmulh (vrOf sl w)))⟩,
    ⟨0x007, fun sl w => .op (.vmad (vrOf sl w))⟩,
    ⟨0x008, fun sl w => .op (.vabsd (vrOf sl w))⟩,
    ⟨0x009, fun sl w => .op (.vmin (vrOf sl w))⟩,
    ⟨0x00A, fun sl w => .op (.vmax (vrOf sl w))⟩,
    ⟨0x00B, fun sl w => .op (.vand (vrOf sl w))⟩,
    ⟨0x00C, fun sl w => .op (.vor (vrOf sl w))⟩,
    ⟨0x00D, fun sl w => .op (.vxor (vrOf sl w))⟩,
    ⟨0x00E, fun sl w => .op (.vshl (vrOf sl w))⟩,
    ⟨0x00F, fun sl w => .op (.vshr (vrOf sl w))⟩,
    ⟨0x010, fun sl w => .op (.vcmp (vrOf sl w))⟩,
    ⟨0x011, fun sl w => .op (.vsel (vgOf sl w))⟩,
    ⟨0x012, fun sl w => .op (.vbit (vrOf sl w))⟩,
    ⟨0x040, fun sl w => .op (.vfadd (vrOf sl w))⟩,
    ⟨0x041, fun sl w => .op (.vfsub (vrOf sl w))⟩,
    ⟨0x042, fun sl w => .op (.vfmul (vrOf sl w))⟩,
    ⟨0x043, fun sl w => .op (.vfma (vrOf sl w))⟩,
    ⟨0x044, fun sl w => .op (.vfmin (vrOf sl w))⟩,
    ⟨0x045, fun sl w => .op (.vfmax (vrOf sl w))⟩ ] ++
  [ ⟨0x046, fun sl w => .op (.vfcmp (vrOf sl w))⟩,
    ⟨0x047, fun sl w => .op (.vfrcp (vrOf sl w))⟩,
    ⟨0x048, fun sl w => .op (.vfrsq (vrOf sl w))⟩,
    ⟨0x049, fun sl w => .op (.vfexp2 (vrOf sl w))⟩,
    ⟨0x04A, fun sl w => .op (.vflog2 (vrOf sl w))⟩,
    ⟨0x04B, fun sl w => formIf (w % 256 < 5) (.op (.vfsgn (vrOf sl w)))⟩,
    ⟨0x080, fun sl w => .op (.vcvt (vrOf sl w))⟩,
    ⟨0x081, fun sl w => .op (.vtag (vrOf sl w))⟩,
    ⟨0x082, fun sl w => .op (.vbfpq (vrOf sl w))⟩,
    ⟨0x083, fun sl w => .op (.vbfpd (vrOf sl w))⟩,
    ⟨0x084, fun sl w => .op (.vplane (vrOf sl w))⟩,
    ⟨0x085, fun sl w => .op (.vunpl (vrOf sl w))⟩,
    ⟨0x086, fun sl w => .op (.vokey (vrOf sl w))⟩,
    ⟨0x0A0, fun sl w => .op (.vpadd (vrOf sl w))⟩,
    ⟨0x0A1, fun sl w => .op (.vpdot (vrOf sl w))⟩,
    ⟨0x0A2, fun sl w => .op (.vpshl (vrOf sl w))⟩,
    ⟨0x0C0, fun sl w => formIf (treeOp (w % 128)) (.op (.vred (vrOf sl w)))⟩,
    ⟨0x0C1, fun sl w => formIf (treeOp (w % 128)) (.op (.vscan (vrOf sl w)))⟩,
    ⟨0x0C2, fun sl w => formIf (w % 256 < 2) (.op (.vperm (vrOf sl w)))⟩,
    ⟨0x0C3, fun sl w => .op (.vslide (vxOf sl w))⟩,
    ⟨0x0C5, fun sl w => .op (.viota (vxOf sl w))⟩,
    ⟨0x0C6, fun sl w => .op (.vextr (vxOf sl w))⟩,
    ⟨0x0C7, fun sl w => .op (.vins (vxOf sl w))⟩,
    ⟨0x0C8, fun sl w => .op (.vmov (vrOf sl w))⟩ ] ++
  [ ⟨0x100, fun sl w => .op (.vld (vmOf sl w))⟩,
    ⟨0x101, fun sl w => .op (.vst (vmOf sl w))⟩,
    ⟨0x102, fun sl w => .op (.vlde (vmOf sl w))⟩,
    ⟨0x103, fun sl w => .op (.vste (vmOf sl w))⟩,
    ⟨0x104, fun sl w => .op (.vgth (vxOf sl w))⟩,
    ⟨0x105, fun sl w => .op (.vsct (vxOf sl w))⟩,
    ⟨0x106, fun sl w => .op (.vldm (vmOf sl w))⟩,
    ⟨0x107, fun sl w => .op (.vstm (vmOf sl w))⟩,
    ⟨0x108, fun sl w => .op (.vkld (vkOf sl w))⟩,
    ⟨0x109, fun sl w => .op (.vkst (vkOf sl w))⟩,
    ⟨0x140, fun sl w => .op (.pand (vrOf sl w))⟩,
    ⟨0x141, fun sl w => .op (.por (vrOf sl w))⟩,
    ⟨0x142, fun sl w => .op (.pxor (vrOf sl w))⟩,
    ⟨0x143, fun sl w => .op (.pnot (vrOf sl w))⟩,
    ⟨0x144, fun sl w => .op (.pcnt (vrOf sl w))⟩,
    ⟨0x145, fun sl w => .op (.pfirst (vrOf sl w))⟩,
    ⟨0x146, fun sl w => formIf (w / 2 ^ 9 % 2 = 0) (.op (.pset (vrOf sl w)))⟩,
    ⟨0x147, fun sl w => .op (.pmov (vrOf sl w))⟩,
    ⟨0x180, fun sl w => .op (.lsclr (vrOf sl w))⟩,
    ⟨0x181, fun sl w => .op (.lsins (vrOf sl w))⟩,
    ⟨0x182, fun sl w => .op (.lsrd (vrOf sl w))⟩,
    ⟨0x183, fun sl w => .op (.vhist (vrOf sl w))⟩ ] ++
  [ ⟨0x0C4, fun sl w => if w / 2 ^ 24 % 2 = 0 then .op (.vbcast (vxOf sl w)) else .op (.vbcastElement (vxOf sl w))⟩ ]

/-- The M-slot opcode map (R75). -/
def mMap : List MRow :=
  [ ⟨0x01, fun w => .op (.mlease (mOf w))⟩,
    ⟨0x02, fun w => .op (.mrel (mOf w))⟩,
    ⟨0x03, fun w => .op (.mmode (mOf w))⟩,
    ⟨0x04, fun w => .op (.mloadp (mOf w))⟩,
    ⟨0x05, fun w => .op (.mflow (mOf w))⟩,
    ⟨0x06, fun w => .op (.mskew (mOf w))⟩,
    ⟨0x07, fun w => formIf (w % 8 < 5) (.op (.mclr (mOf w)))⟩,
    ⟨0x08, fun w => .op (.mpre (mOf w))⟩,
    ⟨0x09, fun w => .op (.mfeed (mOf w))⟩,
    ⟨0x0A, fun w => .op (.mfeedr (mOf w))⟩,
    ⟨0x0B, fun w => .op (.mdrain (mOf w))⟩,
    ⟨0x0C, fun w => .op (.mstat (mOf w))⟩,
    ⟨0x0D, fun w => .op (.mresume (mOf w))⟩ ]

/-- The C-slot opcode map (R75). -/
def cMap : List PRow :=
  [ ⟨0x01, fun sl w => .op (.cpy (cOf sl w))⟩,
    ⟨0x02, fun sl w => .op (.cpyt (cOf sl w))⟩,
    ⟨0x03, fun sl w => .op (.cpys (cOf sl w))⟩,
    ⟨0x04, fun sl w => .op (.gth (cOf sl w))⟩,
    ⟨0x05, fun sl w => .op (.sct (cOf sl w))⟩,
    ⟨0x06, fun sl w => .op (.cpyg (cOf sl w))⟩,
    ⟨0x07, fun sl w => .op (.sbind (cOf sl w))⟩,
    ⟨0x08, fun sl w => .op (.sunb (cOf sl w))⟩,
    ⟨0x09, fun sl w => .op (.radv (cOf sl w))⟩,
    ⟨0x0A, fun sl w => .op (.pfill (cOf sl w))⟩,
    ⟨0x0B, fun sl w => .op (.pwb (cOf sl w))⟩,
    ⟨0x0C, fun sl w => .op (.pinv (cOf sl w))⟩,
    ⟨0x0D, fun sl w => .op (.cxadd (cOf sl w))⟩,
    ⟨0x0E, fun sl w => .op (.cwaite (cOf sl w))⟩ ]

/-- The four operations that only V0 runs (R52, R74). -/
def vZeroOnly (opc : Nat) : Bool := 0x180 ≤ opc && opc ≤ 0x183

/-- A form is accepted when its unused fields are zero (R72); a badForm has no other field judged. -/
def accept (o : SlotOp) : Except DecodeError SlotOp :=
  match o with
  | .badForm => .ok .badForm
  | .op i => if WellFormed i then .ok (.op i) else .error .unusedField

/-- The operation of one slot word. slot is the index of R51; imm the bundle's long immediate. -/
def decodeSlot (slot w imm : Nat) : Except DecodeError SlotOp :=
  match slot with
  | 0 => match sMap.find? (fun r => r.opc == w / 2 ^ 24) with
    | some r => accept (r.build w imm)
    | none => .error .unassignedOpcode
  | 3 => match mMap.find? (fun r => r.opc == w / 2 ^ 56) with
    | some r => accept (r.build w)
    | none => .error .unassignedOpcode
  | 1 => match vMap.find? (fun r => r.opc == w / 2 ^ 54) with
    | some r => accept (r.build 0 w)
    | none => .error .unassignedOpcode
  | 2 => if vZeroOnly (w / 2 ^ 54) then .error .vZeroOnly
    else match vMap.find? (fun r => r.opc == w / 2 ^ 54) with
    | some r => accept (r.build 1 w)
    | none => .error .unassignedOpcode
  | 4 => match cMap.find? (fun r => r.opc == w / 2 ^ 56) with
    | some r => accept (r.build 0 w)
    | none => .error .unassignedOpcode
  | _ => match cMap.find? (fun r => r.opc == w / 2 ^ 56) with
    | some r => accept (r.build 1 w)
    | none => .error .unassignedOpcode

/-- A number from its bytes, the lowest first (R4). -/
def leNat : List Byte → Nat
  | [] => 0
  | b :: bs => b.toNat + 256 * leNat bs

/-- n little-endian bytes of a number (R4). -/
def leBytes : Nat → Nat → List Byte
  | 0, _ => []
  | n + 1, w => BitVec.ofNat 8 w :: leBytes n (w / 256)

/-- The first n bytes as a number, with the rest. -/
def takeWord (n : Nat) (bs : List Byte) : Except DecodeError (Nat × List Byte) :=
  if bs.length < n then .error .truncated else .ok (leNat (bs.take n), bs.drop n)

/-- The slot words of the present slots, in slot order (R50). -/
def decodeSlots (present imm : Nat) : List Nat → List Byte → Except DecodeError (List (Option SlotOp) × List Byte)
  | [], bs => .ok ([], bs)
  | i :: is, bs =>
    if present.testBit i then do
      let (w, bs) ← takeWord (if i = 0 then 4 else 8) bs
      let o ← decodeSlot i w imm
      let (os, bs) ← decodeSlots present imm is bs
      pure (some o :: os, bs)
    else do
      let (os, bs) ← decodeSlots present imm is bs
      pure (none :: os, bs)

/-- The control transfers of R52. -/
def isTransfer : Instr → Bool
  | .beq _ | .bne _ | .blt _ | .bge _ | .bltn _ | .bgen _ | .bany _ | .ball _ | .bnone _
  | .j _ | .call _ | .ret _ | .loopb _ | .probe _ => true
  | _ => false

/-- LIL. -/
def isLil : Instr → Bool
  | .lil _ _ => true
  | _ => false

/-- CWAIT. -/
def isCwait : Instr → Bool
  | .cwait _ => true
  | _ => false

/-- The S-slot operation of a list of slots satisfies f. -/
def sHolds (f : Instr → Bool) (ops : List (Option SlotOp)) : Bool :=
  match ops with
  | some (.op i) :: _ => f i
  | _ => false

/-- The conditions of R52 that join the header with the S slot. -/
def checkBundle (b : Bundle) : Except DecodeError Unit :=
  if b.rpt ≠ 0 ∧ sHolds isTransfer b.ops then .error .transferRepeat
  else if (b.kind = .longImm) ≠ (sHolds isLil b.ops = true) then .error .lilMismatch
  else if sHolds isCwait b.ops ∧ (b.kind ≠ .safePoint ∨ b.rpt ≠ 0) then .error .cwaitMismatch
  else .ok ()

/-- The kind of header bits 31..30 (R51). -/
def kindOf (h : Nat) : Except DecodeError Kind :=
  match h / 2 ^ 30 % 4 with
  | 0 => .ok .standard
  | 1 => .ok .safePoint
  | 2 => .ok .longImm
  | _ => .error .reservedKind

/-- How many bytes the word after the header takes (R50). -/
def kindExtra : Kind → Nat
  | .standard => 0
  | .safePoint => 4
  | .longImm => 8

/-- A bundle from its bytes, with the bytes after it (R50 to R52). -/
def decodeBundle (bs : List Byte) : Except DecodeError (Bundle × List Byte) := do
  let (h, bs1) ← takeWord 4 bs
  let kind ← kindOf h
  if bitAt h 28 ∨ bitsOf h 3 0 ≠ 0 then throw .reservedHeader
  let present := bitsOf h 13 8
  let sticky := bitsOf h 19 14
  if bitAt sticky 0 then throw .stickyScalar
  if present &&& sticky ≠ 0 then throw .stickyPresent
  let (ex, bs2) ← takeWord (kindExtra kind) bs1
  if kind = .safePoint ∧ bitsOf ex 15 0 ≠ 0 then throw .reservedSafePoint
  let (ops, rest) ← decodeSlots present (if kind = .longImm then ex else 0) [0, 1, 2, 3, 4, 5] bs2
  let b : Bundle :=
    { kind := kind, sync := bitAt h 29, rpt := bitsOf h 27 20, sticky := BitVec.ofNat 6 sticky,
      stepSet := bitsOf h 7 4, spIndex := if kind = .safePoint then bitsOf ex 31 16 else 0,
      imm64 := BitVec.ofNat 64 (if kind = .longImm then ex else 0), ops := ops, len := bs.length - rest.length }
  checkBundle b
  pure (b, rest)

/-! ### The encoder -/

/-- The slot word of opcode opc with the SrOp fields. -/
def encSr (opc : Nat) (o : SrOp) : Nat :=
  opc * 2 ^ 24 + o.xd.toNat * 2 ^ 18 + o.xa.toNat * 2 ^ 12 + o.xb.toNat * 2 ^ 6 + o.fn.toNat

/-- The slot word of opcode opc with the SiOp fields. -/
def encSi (opc : Nat) (o : SiOp) : Nat :=
  opc * 2 ^ 24 + o.xd.toNat * 2 ^ 18 + o.xa.toNat * 2 ^ 12 + o.imm.toNat

/-- The slot word of opcode opc with the SlOp fields. -/
def encSl (opc : Nat) (o : SlOp) : Nat :=
  opc * 2 ^ 24 + o.xd.toNat * 2 ^ 18 + o.imm.toNat

/-- The slot word of opcode opc with the SbOp fields. -/
def encSb (opc : Nat) (o : SbOp) : Nat :=
  opc * 2 ^ 24 + o.xa.toNat * 2 ^ 18 + o.xb.toNat * 2 ^ 12 + o.off.toNat

/-- The slot word of opcode opc with the SjOp fields. -/
def encSj (opc : Nat) (o : SjOp) : Nat :=
  opc * 2 ^ 24 + o.xl.toNat * 2 ^ 18 + o.off.toNat

/-- The slot word of opcode opc with the SgOp fields. -/
def encSg (opc : Nat) (o : SgOp) : Nat :=
  opc * 2 ^ 24 + o.xd.toNat * 2 ^ 18 + o.xb.toNat * 2 ^ 12 + o.pg.toNat * 2 ^ 6 + o.pol.toNat * 2 ^ 5 + o.fn.toNat

/-- The slot word of opcode opc with the SkOp fields. -/
def encSk (opc : Nat) (o : SkOp) : Nat :=
  opc * 2 ^ 24 + o.x.toNat * 2 ^ 18 + o.g.toNat * 2 ^ 17 + o.pol.toNat * 2 ^ 16 + o.pg.toNat * 2 ^ 13 + o.off.toNat

/-- The slot word of opcode opc with the VrOp fields. -/
def encVr (opc : Nat) (o : VrOp) : Nat :=
  opc * 2 ^ 54 + o.vd.toNat * 2 ^ 45 + o.va.toNat * 2 ^ 36 + o.vb.toNat * 2 ^ 27 + o.vc.toNat * 2 ^ 18 + o.fmt.toNat * 2 ^ 13 + o.rnd.toNat * 2 ^ 10 + o.sm.toNat * 2 ^ 8 + o.fn.toNat

/-- The slot word of opcode opc with the VgOp fields. -/
def encVg (opc : Nat) (o : VgOp) : Nat :=
  opc * 2 ^ 54 + o.vd.toNat * 2 ^ 45 + o.va.toNat * 2 ^ 36 + o.vb.toNat * 2 ^ 27 + o.pg.toNat * 2 ^ 21 + o.pol.toNat * 2 ^ 20 + o.guard.toNat * 2 ^ 18 + o.fmt.toNat * 2 ^ 13 + o.rnd.toNat * 2 ^ 10 + o.sm.toNat * 2 ^ 8 + o.fn.toNat

/-- The slot word of opcode opc with the VmOp fields. -/
def encVm (opc : Nat) (o : VmOp) : Nat :=
  opc * 2 ^ 54 + o.v.toNat * 2 ^ 45 + o.xp.toNat * 2 ^ 39 + o.off.toNat * 2 ^ 27 + o.pg.toNat * 2 ^ 21 + o.pol.toNat * 2 ^ 20 + o.guard.toNat * 2 ^ 18 + o.fmt.toNat * 2 ^ 13 + o.cnt.toNat * 2 ^ 8 + o.fn.toNat

/-- The slot word of opcode opc with the VxOp fields. -/
def encVx (opc : Nat) (o : VxOp) : Nat :=
  opc * 2 ^ 54 + o.vd.toNat * 2 ^ 45 + o.xa.toNat * 2 ^ 39 + o.va.toNat * 2 ^ 30 + o.imm.toNat

/-- The slot word of opcode opc with the VkOp fields. -/
def encVk (opc : Nat) (o : VkOp) : Nat :=
  opc * 2 ^ 54 + o.v.toNat * 2 ^ 45 + o.off.toNat * 2 ^ 29 + o.z.toNat * 2 ^ 27 + o.pg.toNat * 2 ^ 21 + o.pol.toNat * 2 ^ 20 + o.guard.toNat * 2 ^ 18 + o.fmt.toNat * 2 ^ 13 + o.cnt.toNat * 2 ^ 8 + o.fn.toNat

/-- The slot word of opcode opc with the MOp fields. -/
def encM (opc : Nat) (o : MOp) : Nat :=
  opc * 2 ^ 56 + o.kd.toNat * 2 ^ 50 + o.k1.toNat * 2 ^ 44 + o.k2.toNat * 2 ^ 38 + o.k3.toNat * 2 ^ 32 + o.xa.toNat * 2 ^ 26 + o.xb.toNat * 2 ^ 20 + o.xc.toNat * 2 ^ 14 + o.mod.toNat

/-- The slot word of opcode opc with the COp fields. -/
def encC (opc : Nat) (o : COp) : Nat :=
  opc * 2 ^ 56 + o.kd.toNat * 2 ^ 50 + o.k1.toNat * 2 ^ 44 + o.k2.toNat * 2 ^ 38 + o.k3.toNat * 2 ^ 32 + o.xs.toNat * 2 ^ 26 + o.xt.toNat * 2 ^ 20 + o.xn.toNat * 2 ^ 14 + o.mod.toNat

/-- S-slot words (R73). -/
def encodeS : Instr → Option Nat
  | .add o => some (encSr 0x01 o)
  | .sub o => some (encSr 0x02 o)
  | .mul o => some (encSr 0x03 o)
  | .mulh o => some (encSr 0x04 o)
  | .mulhn o => some (encSr 0x05 o)
  | .div o => some (encSr 0x06 o)
  | .divn o => some (encSr 0x07 o)
  | .rem o => some (encSr 0x08 o)
  | .remn o => some (encSr 0x09 o)
  | .and o => some (encSr 0x0A o)
  | .or o => some (encSr 0x0B o)
  | .xor o => some (encSr 0x0C o)
  | .sll o => some (encSr 0x0D o)
  | .srl o => some (encSr 0x0E o)
  | .sra o => some (encSr 0x0F o)
  | .slt o => some (encSr 0x10 o)
  | .sltn o => some (encSr 0x11 o)
  | .min o => some (encSr 0x12 o)
  | .max o => some (encSr 0x13 o)
  | .minn o => some (encSr 0x14 o)
  | .maxn o => some (encSr 0x15 o)
  | .clz o => some (encSr 0x16 o)
  | .ctz o => some (encSr 0x17 o)
  | .popc o => some (encSr 0x18 o)
  | .addi o => some (encSi 0x20 o)
  | .andi o => some (encSi 0x21 o)
  | .ori o => some (encSi 0x22 o)
  | .xori o => some (encSi 0x23 o)
  | .slli o => some (encSi 0x24 o)
  | .srli o => some (encSi 0x25 o)
  | .srai o => some (encSi 0x26 o)
  | .slti o => some (encSi 0x27 o)
  | .li o => some (encSl 0x28 o)
  | .lih o => some (encSl 0x29 o)
  | .plx o => some (encSr 0x30 o)
  | .plr o => some (encSr 0x32 o)
  | .padd o => some (encSr 0x33 o)
  | .widf o => some (encSi 0x35 o)
  | .tfree o => some (encSr 0x37 o)
  | .tshape o => some (encSr 0x38 o)
  | .tqry o => some (encSr 0x39 o)
  | .beq o => some (encSb 0x40 o)
  | .bne o => some (encSb 0x41 o)
  | .blt o => some (encSb 0x42 o)
  | .bge o => some (encSb 0x43 o)
  | .bltn o => some (encSb 0x44 o)
  | .bgen o => some (encSb 0x45 o)
  | .bany o => some (encSb 0x46 o)
  | .ball o => some (encSb 0x47 o)
  | .bnone o => some (encSb 0x48 o)
  | .j o => some (encSj 0x49 o)
  | .call o => some (encSj 0x4A o)
  | .ret o => some (encSr 0x4B o)
  | .loopb o => some (encSj 0x4C o)
  | .probe o => some (encSb 0x4D o)
  | .kld o => some (encSk 0x50 o)
  | .kst o => some (encSk 0x51 o)
  | .crr o => some (encSi 0x52 o)
  | .crw o => some (encSi 0x53 o)
  | .crs o => some (encSi 0x54 o)
  | .crc o => some (encSi 0x55 o)
  | .fence o => some (encSi 0x56 o)
  | .mark o => some (encSr 0x57 o)
  | .trap o => some (encSi 0x58 o)
  | .brk o => some (encSi 0x59 o)
  | .halt o => some (encSr 0x5A o)
  | .yieldS o => some (encSr 0x5B o)
  | .cfree o => some (encSr 0x61 o)
  | .cadd o => some (encSg 0x62 o)
  | .cwait o => some (encSr 0x63 o)
  | .crd o => some (encSr 0x64 o)
  | .atom o => some (encSg 0x65 o)
  | .launch o => some (encSr 0x70 o)
  | .kstat o => some (encSr 0x71 o)
  | .gopen o => some (encSr 0x73 o)
  | .gcommit o => some (encSr 0x74 o)
  | .gabort o => some (encSr 0x75 o)
  | .gstat o => some (encSr 0x76 o)
  | .colrdy o => some (encSr 0x77 o)
  | .lil o _ => some (encSl 0x2A o)
  | .plt o => some (encSr 0x31 o)
  | .pltPeer o => some (encSr 0x31 o)
  | .xlook o => some (encSr 0x34 o)
  | .xlookW o => some (encSr 0x34 o)
  | .talloc o => some (encSr 0x36 o)
  | .tallocHandle o => some (encSr 0x36 o)
  | .calloc o => some (encSr 0x60 o)
  | .callocDie o => some (encSr 0x60 o)
  | .qctlQuery o => some (encSr 0x72 o)
  | .qctlSetmode o => some (encSr 0x72 o)
  | .qctlDrain o => some (encSr 0x72 o)
  | .qctlHalt o => some (encSr 0x72 o)
  | .qctlResume o => some (encSr 0x72 o)
  | .qctlAbort o => some (encSr 0x72 o)
  | .qctlReset o => some (encSr 0x72 o)
  | _ => none

/-- V-slot words (R74). -/
def encodeV : Instr → Option Nat
  | .vadd o => some (encVr 0x001 o)
  | .vsub o => some (encVr 0x002 o)
  | .vadds o => some (encVr 0x003 o)
  | .vsubs o => some (encVr 0x004 o)
  | .vmul o => some (encVr 0x005 o)
  | .vmulh o => some (encVr 0x006 o)
  | .vmad o => some (encVr 0x007 o)
  | .vabsd o => some (encVr 0x008 o)
  | .vmin o => some (encVr 0x009 o)
  | .vmax o => some (encVr 0x00A o)
  | .vand o => some (encVr 0x00B o)
  | .vor o => some (encVr 0x00C o)
  | .vxor o => some (encVr 0x00D o)
  | .vshl o => some (encVr 0x00E o)
  | .vshr o => some (encVr 0x00F o)
  | .vcmp o => some (encVr 0x010 o)
  | .vsel o => some (encVg 0x011 o)
  | .vbit o => some (encVr 0x012 o)
  | .vfadd o => some (encVr 0x040 o)
  | .vfsub o => some (encVr 0x041 o)
  | .vfmul o => some (encVr 0x042 o)
  | .vfma o => some (encVr 0x043 o)
  | .vfmin o => some (encVr 0x044 o)
  | .vfmax o => some (encVr 0x045 o)
  | .vfcmp o => some (encVr 0x046 o)
  | .vfrcp o => some (encVr 0x047 o)
  | .vfrsq o => some (encVr 0x048 o)
  | .vfexp2 o => some (encVr 0x049 o)
  | .vflog2 o => some (encVr 0x04A o)
  | .vfsgn o => some (encVr 0x04B o)
  | .vcvt o => some (encVr 0x080 o)
  | .vtag o => some (encVr 0x081 o)
  | .vbfpq o => some (encVr 0x082 o)
  | .vbfpd o => some (encVr 0x083 o)
  | .vplane o => some (encVr 0x084 o)
  | .vunpl o => some (encVr 0x085 o)
  | .vokey o => some (encVr 0x086 o)
  | .vpadd o => some (encVr 0x0A0 o)
  | .vpdot o => some (encVr 0x0A1 o)
  | .vpshl o => some (encVr 0x0A2 o)
  | .vred o => some (encVr 0x0C0 o)
  | .vscan o => some (encVr 0x0C1 o)
  | .vperm o => some (encVr 0x0C2 o)
  | .vslide o => some (encVx 0x0C3 o)
  | .viota o => some (encVx 0x0C5 o)
  | .vextr o => some (encVx 0x0C6 o)
  | .vins o => some (encVx 0x0C7 o)
  | .vmov o => some (encVr 0x0C8 o)
  | .vld o => some (encVm 0x100 o)
  | .vst o => some (encVm 0x101 o)
  | .vlde o => some (encVm 0x102 o)
  | .vste o => some (encVm 0x103 o)
  | .vgth o => some (encVx 0x104 o)
  | .vsct o => some (encVx 0x105 o)
  | .vldm o => some (encVm 0x106 o)
  | .vstm o => some (encVm 0x107 o)
  | .vkld o => some (encVk 0x108 o)
  | .vkst o => some (encVk 0x109 o)
  | .pand o => some (encVr 0x140 o)
  | .por o => some (encVr 0x141 o)
  | .pxor o => some (encVr 0x142 o)
  | .pnot o => some (encVr 0x143 o)
  | .pcnt o => some (encVr 0x144 o)
  | .pfirst o => some (encVr 0x145 o)
  | .pset o => some (encVr 0x146 o)
  | .pmov o => some (encVr 0x147 o)
  | .lsclr o => some (encVr 0x180 o)
  | .lsins o => some (encVr 0x181 o)
  | .lsrd o => some (encVr 0x182 o)
  | .vhist o => some (encVr 0x183 o)
  | .vbcast o => some (encVx 0x0C4 o)
  | .vbcastElement o => some (encVx 0x0C4 o)
  | _ => none

/-- M-slot words (R75). -/
def encodeM : Instr → Option Nat
  | .mlease o => some (encM 0x01 o)
  | .mrel o => some (encM 0x02 o)
  | .mmode o => some (encM 0x03 o)
  | .mloadp o => some (encM 0x04 o)
  | .mflow o => some (encM 0x05 o)
  | .mskew o => some (encM 0x06 o)
  | .mclr o => some (encM 0x07 o)
  | .mpre o => some (encM 0x08 o)
  | .mfeed o => some (encM 0x09 o)
  | .mfeedr o => some (encM 0x0A o)
  | .mdrain o => some (encM 0x0B o)
  | .mstat o => some (encM 0x0C o)
  | .mresume o => some (encM 0x0D o)
  | _ => none

/-- C-slot words (R75). -/
def encodeC : Instr → Option Nat
  | .cpy o => some (encC 0x01 o)
  | .cpyt o => some (encC 0x02 o)
  | .cpys o => some (encC 0x03 o)
  | .gth o => some (encC 0x04 o)
  | .sct o => some (encC 0x05 o)
  | .cpyg o => some (encC 0x06 o)
  | .sbind o => some (encC 0x07 o)
  | .sunb o => some (encC 0x08 o)
  | .radv o => some (encC 0x09 o)
  | .pfill o => some (encC 0x0A o)
  | .pwb o => some (encC 0x0B o)
  | .pinv o => some (encC 0x0C o)
  | .cxadd o => some (encC 0x0D o)
  | .cwaite o => some (encC 0x0E o)
  | _ => none

/-- The slot word of an instruction; a device step has none. -/
def encode (i : Instr) : Option Nat :=
  match encodeS i, encodeV i, encodeM i, encodeC i with
  | some w, _, _, _ => some w
  | _, some w, _, _ => some w
  | _, _, some w, _ => some w
  | _, _, _, c => c

/-- The V or C slot number an instruction carries. -/
def pairSlot : Instr → Nat
  | .vadd o | .vsub o | .vadds o | .vsubs o | .vmul o | .vmulh o | .vmad o | .vabsd o | .vmin o | .vmax o
  | .vand o | .vor o | .vxor o | .vbit o | .vshl o | .vshr o | .vcmp o | .vfadd o | .vfsub o | .vfmul o
  | .vfma o | .vfmin o | .vfmax o | .vfcmp o | .vfrcp o | .vfrsq o | .vfexp2 o | .vflog2 o | .vfsgn o
  | .vcvt o | .vtag o | .vbfpq o | .vbfpd o | .vplane o | .vunpl o | .vokey o | .vpadd o | .vpdot o
  | .vpshl o | .vred o | .vscan o | .vperm o | .vmov o | .pand o | .por o | .pxor o | .pnot o | .pcnt o
  | .pfirst o | .pset o | .pmov o | .lsclr o | .lsins o | .lsrd o | .vhist o => o.sl.toNat
  | .vsel o => o.sl.toNat
  | .vslide o | .vbcast o | .vbcastElement o | .viota o | .vextr o | .vins o | .vgth o | .vsct o => o.sl.toNat
  | .vld o | .vst o | .vlde o | .vste o | .vldm o | .vstm o => o.sl.toNat
  | .vkld o | .vkst o => o.sl.toNat
  | .cpy o | .cpyt o | .cpys o | .gth o | .sct o | .cpyg o | .sbind o | .sunb o | .radv o | .pfill o
  | .pwb o | .pinv o | .cxadd o | .cwaite o => o.sl.toNat
  | _ => 0

/-- The slot in which an instruction stands (R51, R78). -/
def slotOf (i : Instr) : Nat :=
  match encodeS i, encodeV i, encodeM i with
  | some _, _, _ => 0
  | _, some _, _ => 1 + pairSlot i
  | _, _, some _ => 3
  | _, _, _ => 4 + pairSlot i

/-- The long immediate an instruction carries. -/
def immOf : Instr → Nat
  | .lil _ imm => imm.toNat
  | _ => 0

/-- The header word of a bundle that holds one present slot and nothing else (R51). -/
def headerOne (i : Instr) : Nat :=
  2 ^ (8 + slotOf i) + (if isLil i then 2 * 2 ^ 30 else if isCwait i then 2 ^ 30 else 0)

/-- The bytes of the bundle that holds one instruction, kind and header chosen as R52 asks. -/
def encodeOne (i : Instr) : Option (List Byte) :=
  (encode i).map fun w =>
    leBytes 4 (headerOne i) ++
    (if isLil i then leBytes 8 (immOf i) else if isCwait i then leBytes 4 0 else []) ++
    leBytes (if slotOf i = 0 then 4 else 8) w

/-- The first present operation of a list of slots. -/
def firstOp : List (Option SlotOp) → Option Instr
  | [] => none
  | some (.op i) :: _ => some i
  | some .badForm :: _ => none
  | none :: os => firstOp os

/-- The instruction of the first present slot of the bundle whose bytes are the nbits low bits of w, every higher
bit zero up to the longest bundle (R50). -/
def decodeTableWord (nbits w : Nat) : Option Instr :=
  match decodeBundle (leBytes 56 (w % 2 ^ nbits)) with
  | .ok (b, _) => firstOp b.ops
  | .error _ => none

end Sys2Proof
end

