-- ==== Sys2Proof/Machine/Maps.lean ====
section
/-! DEFINITION. Sparse tables in ONE canonical form: keys strictly rising, no entry equal to the default. -/

namespace Sys2Proof.Machine

/-- The value at a key; d is what an unlisted key reads as. -/
def mget {α : Type} (d : α) : Map α → Nat → α
  | [], _ => d
  | (a, x) :: m, k => if a = k then x else mget d m k

/-- The table without a key. -/
def merase {α : Type} : Map α → Nat → Map α
  | [], _ => []
  | (a, x) :: m, k => if a = k then merase m k else (a, x) :: merase m k

/-- The table with a key listed in its place. -/
def minsert {α : Type} : Map α → Nat → α → Map α
  | [], k, v => [(k, v)]
  | (a, x) :: m, k, v =>
    if k < a then (k, v) :: (a, x) :: m
    else if a = k then (k, v) :: m
    else (a, x) :: minsert m k v

/-- A write: writing the default removes the entry. -/
def mset {α : Type} [DecidableEq α] (d : α) (m : Map α) (k : Nat) (v : α) : Map α :=
  if v = d then merase m k else minsert m k v

/-- Every key of the table is above b, and the keys rise; no entry is the default. -/
def mwfAbove {α : Type} [DecidableEq α] (d : α) (b : Nat) : Map α → Bool
  | [] => true
  | (a, x) :: m => decide (b < a) && decide (x ≠ d) && mwfAbove d a m

/-- The canonical form. -/
def mwf {α : Type} [DecidableEq α] (d : α) : Map α → Bool
  | [] => true
  | (a, x) :: m => decide (x ≠ d) && mwfAbove d a m

/-- The entry at a key changed by f. -/
def mmod {α : Type} [DecidableEq α] (d : α) (m : Map α) (k : Nat) (f : α → α) : Map α :=
  mset d m k (f (mget d m k))

/-- The values b, b+1, … of a list, from key b. -/
def mputs {α : Type} [DecidableEq α] (d : α) (m : Map α) (b : Nat) : List α → Map α
  | [] => m
  | v :: vs => mputs d (mset d m b v) (b + 1) vs

/-- The n values from key b. -/
def mgets {α : Type} (d : α) (m : Map α) (b : Nat) : Nat → List α
  | 0 => []
  | n + 1 => mget d m b :: mgets d m (b + 1) n

end Sys2Proof.Machine
end

