-- ==== Sys2Proof/Machine/State.lean ====
section
/-! DEFINITION. The state of one B960: plain data, holding everything the spec names, and the machine right after
reset. Tables are sparse (Maps.lean): an unlisted key reads as the default given with the field. -/

namespace Sys2Proof.Machine

/-! ### Registers of a bank (R21 to R27, R57) -/

/-- A vector register: 2048 bits and the format tag (R24, R83). -/
structure VReg where
  bits : VBits
  tag  : Nat
  deriving DecidableEq, Repr

/-- A vector register at task start: zero, RAW (R49). -/
abbrev VReg.zero : VReg := ⟨0, 0⟩

/-- The scoreboard of one scalar register (R22, R57): issue numbers outstanding, the earliest failing issue with its
value, the value of the latest success. -/
structure Tok where
  out  : List Nat
  fail : Option (Nat × Word)
  okv  : Word
  deriving DecidableEq, Repr

/-- No issue names the register. -/
abbrev Tok.idle : Tok := ⟨[], Option.none, 0⟩

/-- The registers that issues of a bundle read and write. Vector keys 0 to 63 are static, 64 + n rotating slot n;
predicate keys 0 to 15 static, 16 + n rotating slot n (R24, R26). -/
structure Regs where
  x   : Map Word
  v   : Map VReg
  p   : Map PBits
  tok : Map Tok
  deriving DecidableEq, Repr

/-! ### Control registers (R33 to R35) -/

/-- The control registers a task writes. efr keys 0 to 4 in the order V0, V1, M, C0, C1; steps key 6n + slot. -/
structure Ctl where
  frm    : BitVec 3
  fflags : BitVec 6
  seed   : BitVec 32
  efr    : Map Word
  rotV   : Nat
  rotP   : Nat
  lcount : Word
  pcfg   : Word
  cycle  : Word
  nancnt : Word
  mstat  : BitVec 3
  steps  : Map Word
  deriving DecidableEq, Repr

/-- A control-register write waiting for its bundle: the number, the value, and the dynamic bundle from which it is in
force (R35, R88). MSTAT's value is the bits to clear. -/
structure CrWrite where
  num  : Nat
  val  : Word
  due  : Nat
  deriving DecidableEq, Repr

/-- An extent register (R31); flags bits 5..0 of EXT.Fn. -/
structure Ext where
  base  : Word
  len   : Word
  flags : Nat
  deriving DecidableEq, Repr

/-- An unused extent (R31). -/
abbrev Ext.none : Ext := ⟨0, 0, 0⟩

/-! ### Tiles (R36 to R40) -/

/-- An ALLOCATED handle: shape word, granules held, contents, race counts, the stream that locks it, and bytes
poisoned by an uncorrectable error. -/
structure Tile where
  shape : Word
  gran  : Nat
  bytes : Map Byte
  head  : Nat
  tail  : Nat
  lock  : Option Nat
  poison : Map Bool
  deriving DecidableEq, Repr

/-! ### Memory accesses in flight -/

/-- Where a byte lies: expanded memory, or a tile of the bank. -/
inductive Loc where
  | mem (addr : Nat)
  | tile (h off : Nat)
  deriving DecidableEq, Repr

/-- A write of some bits of a byte (R244). -/
structure BWrite where
  loc  : Loc
  val  : Byte
  mask : Byte
  deriving DecidableEq, Repr

/-- What a store-queue entry does when its turn comes (R60, R131, R132, R316). -/
inductive SqKind where
  | store (ws : List BWrite) (granted : List (Nat × Nat)) (held : Bool)
  | fence (scope kind wtMark : Nat)
  | mark (reg : Nat)
  | cadd (id amount : Word) (scope : Nat)
  | release (what : Nat) (arg1 arg2 : Word) (reg : Nat)
  deriving DecidableEq, Repr

/-- A store-queue entry with what a fault record of it needs: done units before it, after it when it meets an
uncorrectable error (R167, R168); hint is the hint bit of a store's extent (R332). release entries are LAUNCH (0), QCTL (1) and COLRDY (2),
which wait for every earlier access at DEVICE scope (R285, R302, R404). -/
structure SqEntry where
  ord    : Nat
  iss    : Nat
  kind   : SqKind
  bundle : Word
  slot   : Nat
  wid    : Word
  done   : Nat
  after  : Nat
  place  : Word
  hint   : Bool := false
  deriving DecidableEq, Repr

/-! ### Slots and the sequencer (R53 to R67) -/

/-- The accumulated advance of a slot cursor: offset (and column), row and register steps (R34, R53). -/
structure Adv where
  off : Int
  row : Int
  reg : Int
  deriving DecidableEq, Repr

/-- No advance. -/
abbrev Adv.zero : Adv := ⟨0, 0, 0⟩

/-- A slot cursor (R53): the last operation, its captured scalar operands by register number, the advance; fresh says
that the present issue is the operation's first. -/
structure Cursor where
  op    : Option SlotOp
  val   : Map Word
  adv   : Adv
  fresh : Bool
  deriving DecidableEq, Repr

/-- At task start every cursor is empty (R53). -/
abbrev Cursor.empty : Cursor := ⟨none, [], Adv.zero, true⟩

/-- A bundle being issued: its address, the step words read at dispatch, the repetition, whether it has begun (R66), the
slots still to issue in it, whether the first of them has advanced its cursor (R53), the address of the next bundle once
a transfer has set it, whether a HALT ends the work item: some true for HALT.LAST (R288), and the period of the die's clock at its start, for a
step changes between bundles (R439). -/
structure Running where
  addr  : Word
  b     : Bundle
  steps : List Word
  rep   : Nat
  begun : Bool
  todo  : List Nat
  ready : Bool
  npc   : Option Word
  halt  : Option Bool
  period : Nat := 224
  deriving DecidableEq, Repr

/-- What the last issue did, read by the step that ran it: done, stalled, faulted, or met an error that stops the bank at the end of the
bundle (R41, R438). -/
inductive Issued where
  | done | stalled | faulted | late
  deriving DecidableEq, Repr

/-- Where a bank stands (R18, R19, R62, R277, R410). -/
inductive BankRun where
  | free        -- no task
  | ready       -- may issue
  | faulted     -- stopped by a fault record (R62)
  | waiting     -- in CWAIT with a registered waiter (R317)
  | ending      -- HALT taken, task end running (R277)
  | edge        -- in its edge phase (R277 to R280)
  | stopped     -- stopped at a safe point (R63)
  | dead        -- task of a stopped kernel, stopped (R282)
  deriving DecidableEq, Repr

/-- The identity of the running task (R33, R270, R288, R408). -/
structure TaskId where
  ctx   : Nat
  kid   : Nat
  task  : Nat
  wid   : Word
  sys   : Bool
  capVr : Nat
  mill  : Bool
  tileBound : Nat
  deriving DecidableEq, Repr

/-- A fault record of 64 bytes, by its fields (R418). -/
structure FaultRec where
  cause    : Nat
  detail   : Nat
  source   : Nat
  slot     : Nat
  core     : Nat
  bank     : Nat
  token    : Nat
  kernel   : Nat
  done     : Nat
  work     : Word
  bundle   : Word
  place    : Word
  window   : Word
  progress : List Nat
  seq      : Nat
  deriving DecidableEq, Repr

/-! ### Engines, streams, the probe cache (R212 to R241) -/

/-- A consumed token (R22): a value, or the register and issue number whose earlier issues it waits for. -/
inductive Dep where
  | val (v : Word)
  | tok (reg ord : Nat)
  deriving DecidableEq, Repr

/-- The progress of an engine operation (R213 to R217). -/
inductive OpState where
  | queued
  | running
  | waitRemote (tag : Nat)
  | failed
  | finished (value : Word)
  deriving DecidableEq, Repr

/-- An engine operation of the queue of R212, with the values it took at issue. caps holds xs, xt and xn under keys 0 to
2; next is the next item; vals are the values the item has read so far, sub the parts of it read or written at another
device, wr that it is being written; base holds the counts of the source and target race at the start (R223). -/
structure EngOp where
  ord    : Nat
  engine : Nat
  instr  : Instr
  caps   : Map Word
  adv    : Adv
  deps   : List Dep
  efr    : Word
  bundle : Word
  wid    : Word
  recs   : List Byte
  idx    : List Nat
  next   : Nat
  total  : Nat
  got    : Option (List Byte)
  vals   : List Nat
  sub    : Nat
  wr     : Bool
  base   : Nat × Nat
  fail   : Nat × Nat
  st     : OpState
  deriving DecidableEq, Repr

/-- A stream binding (R229 to R235). num is the stream register, bound from the dynamic bundle since to the bundle untl
that holds its SUNB; deps and udeps are the tokens that the SBIND and the SUNB consume, engine and uengine
the C slots that they were issued in, begun and ubegun say that they have started (R213); recd is the copied record, bias the copied bias vectors by stage, efr the width source, next the
next fill or drain item, used the pops or pushes so far, ord and kd the SBIND's issue and token, unb the SUNB's, more those of further
SUNBs of the same bundle as (engine, register, issue). An item
gathers the vectors of a block in inb (vals are those of the vector being read or the stretches written), and outb holds
the vectors that have passed the stages; waitd and got are a request to another device and its answer; err is a failure
not yet recorded, failed says that its record waits, fail is the final one. -/
structure Stream where
  num   : Nat
  since : Nat
  untl  : Option Nat
  recd  : List Byte
  bias  : Map Nat
  efr   : Word
  out   : Bool
  race  : Nat
  next  : Nat
  used  : Nat
  ord   : Nat
  kd    : Nat
  fail  : Option (Nat × Word)
  unb   : Option (Nat × Nat)
  bundle : Word
  wid    : Word
  waitd : Option Nat
  got   : Option (List Byte)
  vals  : List Nat
  inb   : List (List Nat)
  outb  : List (List Nat)
  failed : Bool
  engine : Nat
  uengine : Nat
  begun : Bool
  ubegun : Bool
  tokDone : Bool
  deps  : List Dep
  udeps : List Dep
  more  : List (Nat × Nat × Nat)
  err   : Nat × Nat
  deriving DecidableEq, Repr

/-- A block of the probe cache: its virtual address / 1024, its extent, and the bytes lo to hi - 1 that lie inside it. -/
structure Block where
  vtag : Nat
  ext  : Nat
  lo   : Nat
  hi   : Nat
  deriving DecidableEq, Repr

/-- A probe-cache entry of one row (R238). While a fill is pending, vic is the dirty block to be written back first, since
the issue number whose earlier accesses the fill follows, and waits the PROBEs (register, issue) that it answers; clob
says that a store has reached the row meanwhile (R239). -/
structure Probe where
  valid : Bool
  dirty : Bool
  fill  : Bool
  blk   : Block
  vic   : Option Block
  since : Nat
  age   : Nat
  waits : List (Nat × Nat)
  clob  : Bool
  deriving DecidableEq, Repr

/-- An invalid probe-cache entry. -/
abbrev Probe.none : Probe := ⟨false, false, false, ⟨0, 0, 0, 0⟩, Option.none, 0, 0, [], false⟩

/-- A sorted-list entry: the element's bits and its index (R171). -/
structure LsEntry where
  bits : Nat
  idx  : Nat
  deriving DecidableEq, Repr

/-- The sorted list unit (R171); cap 0 is unconfigured. -/
structure SList where
  cap      : Nat
  fmt      : Nat
  smallest : Bool
  entries  : List LsEntry
  deriving DecidableEq, Repr

/-- Operands on a hop between cogs: the beat they belong to and one value per step. -/
structure Hop where
  beat : Nat
  vals : List Nat
  deriving DecidableEq, Repr

/-- A cog (R177): micro store, local registers, east and south outputs, the WEST operand of the previous beat. -/
structure Cog where
  prog  : List (BitVec 32)
  l0    : Nat
  l1    : Nat
  east  : Option Hop
  south : Option Hop
  win   : Option Hop
  deriving DecidableEq, Repr

/-- One beat of operands at the edges (R178): the run's number of its first step, the step that LASTK names, the A
and B rows of its steps as cog values. -/
structure Beat where
  k0   : Nat
  last : Option Nat
  a    : List (List Nat)
  b    : List (List Nat)
  deriving DecidableEq, Repr

/-- A Mill with its lease (R177, R195 to R209). cogs and south are empty while every entry is zero; beats are those of
the stream in progress, whose feeds have all been gathered, told how many of them have had their status reported; fifo holds (bank, token register, issue); mark is the cycle
from which idle time counts; window and half are PAIR's current window; bad is an uncorrectable error in the cogs (R211).
-/
structure Mill where
  usable : Bool
  cogs   : List (List Cog)
  south  : List (List Nat)
  domain : Nat
  efr    : Word
  loaded : Bool
  flow   : Nat
  sA     : Nat
  sB     : Nat
  skd    : Nat
  open_  : Bool
  k      : Nat
  beats  : List Beat
  told   : Nat
  holder : Option Nat
  fifo   : List (Nat × Nat × Nat)
  count  : Nat
  idle   : Nat
  mark   : Nat
  pair   : Bool
  window : Nat
  half   : Bool
  drain  : Option ((Nat × Nat) × List (List Nat))
  sat    : Bool
  nan    : Bool
  bad    : Bool
  deriving DecidableEq, Repr

/-- A command of the Mill queue (R199), with the values it took at issue: caps holds xa, xb and xc under keys 0 to 2.
kd is its token register, waiting says that an MLEASE waits for its lease, k0 is the run's step at a feed's start, aRows and bRows the operand rows
a feed has gathered, rows what another device answered by step row, tag that such a row is asked for; captured says that
an MDRAIN's array is in the drain buffer, dom the domain and EFR it was captured under, fed the steps of a feed that an earlier failure
has left accumulated, stat the MSTAT bits raised so far, late what the advance of a feed's races answered (R207 to R210), value is what
the token receives. -/
structure MillCmd where
  ord     : Nat
  kd      : Nat
  instr   : Instr
  caps    : Map Word
  adv     : Adv
  deps    : List Dep
  efr     : Word
  bundle  : Word
  wid     : Word
  started : Bool
  waiting : Bool
  captured : Bool
  k0      : Nat
  base    : Nat × Nat
  aRows   : List (List Nat)
  bRows   : List (List Nat)
  full    : Bool
  tag     : Option Nat
  rows    : Map (List Byte)
  dom     : Nat × Word
  fed     : Nat
  stat    : Nat
  late    : Word
  value   : Option Word
  fail    : Nat × Nat
  recorded : Bool
  deriving DecidableEq, Repr

/-- A group binding of a bank (R351); marked by a halt (R363). -/
structure GBind where
  id     : Nat
  node   : Nat
  marked : Bool
  deriving DecidableEq, Repr

/-- A pending GCOMMIT or GABORT of a bank: its handle's binding, register, issue number and whether it is a commit. -/
structure GPend where
  bind   : Nat
  reg    : Nat
  ord    : Nat
  commit : Bool
  taken  : Bool
  deriving DecidableEq, Repr

/-- What an S slot waits for at a home (R313, R317): an answer to tag, or a registered waiter. -/
inductive SWait where
  | none
  | remote (tag : Nat)
  | counter (since bound : Nat)
  | answered (cause detail : Nat) (value : Word)
  deriving DecidableEq, Repr

/-! ### A bank (R18) -/

/-- A slot operation of a dispatched bundle that stands in its slot's queue while other slots run on (R58): its dynamic bundle and issue
numbers, its slot, its bundle at its repetition, what its issue reads of registers, kennel and control registers (R59, R60), and how much of it
is done. -/
structure LagOp where
  no    : Nat
  iss   : Nat
  slot  : Nat
  run   : Running
  view  : Regs
  kview : Map Byte
  ctl   : Ctl
  part  : Nat
  deriving DecidableEq, Repr

/-- One context bank: the complete program-visible state of one task. mheld is the Mill state of a pre-empted leaseholder
until its lease is granted again (R197); waitAge is one more than the cycle from which an MLEASE
token that an operation reads has been counted, wish that a wait has lasted long enough for a hand-over (R19). lag holds the
operations that lag behind, in program order; late is the earliest error that a read has met in this bundle, with its issue and slot; aside is the current bundle and its number while one of them is executed. preempt asks it to stop at its next safe point (R63), stop at its
next bundle boundary (R282). reissue says that it has been resumed and its held stores ask for their sectors again first (R340). -/
structure Bank where
  run     : BankRun
  id      : TaskId
  regs    : Regs
  view    : Regs
  ctl     : Ctl
  crq     : List CrWrite
  exts    : Map Ext
  tiles   : Map (Option Tile)
  kennel  : Map Byte
  kview   : Map Byte
  kpoison : Map Bool
  rpoison : Map Bool
  streams : List Stream
  probes  : Map Probe
  slist   : SList
  gbinds  : Map (Option GBind)
  gpend   : List GPend
  ops     : List EngOp
  cmds    : List MillCmd
  susp    : Option MillCmd
  mheld   : Option Mill
  prog    : Nat
  lost    : Nat
  sq      : List SqEntry
  cursors : Map Cursor
  pc      : Word
  cur     : Option Running
  fetched : Map (Option (BitVec 512))
  bundles : Nat
  ord     : Nat
  iss     : Nat
  dist    : Nat
  slot    : Nat
  issued  : Issued
  swait   : SWait
  waitAge : Nat
  part    : Nat
  late    : Option (Nat × Nat × FaultRec)
  lag     : List LagOp
  aside   : Option (Option Running × Nat)
  wish    : Bool
  preempt : Bool
  stop    : Bool
  reissue : Bool
  deriving DecidableEq, Repr

/-! ### Cores and Mills -/

/-- An entry of a frame array (R330): extent, first page number, pages of 64 KiB covered, first frame, WP and zero. -/
structure FrameEnt where
  ext    : Nat
  vpn    : Nat
  pages  : Nat
  frame  : Nat
  wp     : Bool
  zero   : Bool
  reported : Bool
  deriving DecidableEq, Repr

/-- An entry of an extent frame cache (R330): the context and the kernel id whose frame array it was filled from. -/
structure EfcEnt where
  ctx : Nat
  kid : Nat
  ent : FrameEnt
  deriving DecidableEq, Repr

/-- A core (R18, R28): its CAP.VR (0 when out of service), free granules of its level-1 pool, the bank that holds the
sequencer, a wish to hand it over, its instruction translation cache (page number to entry, R348) and its extent frame cache (R330). -/
structure Core where
  capVr  : Nat
  pool1  : Nat
  active : Nat
  give   : Bool
  itc    : Map Word
  efc    : List EfcEnt
  deriving DecidableEq, Repr

/-- A mill group: the Mill, the half of it that core 4g + 1 has in PAIR mode (R198), and the free granules of its
level-0 pool (R36). -/
structure MillGroup where
  mill  : Mill
  mill2 : Mill
  pool0 : Nat
  deriving DecidableEq, Repr

/-! ### Compute dies -/

/-- A far-cache line (R246): its 64 bytes, the cycle it was filled, the context whose data it holds. -/
structure FarLine where
  bits  : BitVec 512
  born  : Nat
  ctx   : Nat
  deriving DecidableEq, Repr

/-- A block-map entry (R331), with the generation its header names (R333). -/
structure BlockEnt where
  count  : Nat
  raw    : Bool
  poison : BitVec 8
  sector : Nat
  gen    : Nat
  deriving DecidableEq, Repr

/-- A zero block (R331). -/
abbrev BlockEnt.zero : BlockEnt := ⟨0, false, 0, 0, 0⟩

/-- A table record (R334): generation, values, code lengths. -/
structure Table where
  gen  : Nat
  vals : List Nat
  lens : List Nat
  deriving DecidableEq, Repr

/-- The compression controller of a die (R331 to R339, R427). runs are the free sectors as (first, count); learnAt, sampAt and nextAt
are the cycles from which the learning phase, the resample interval and the wait of a new table count; spaced says that CMP.EVT.SPACE
has been set since requesters last asked again (R341). -/
structure Cmp where
  runs   : List (Nat × Nat)
  free   : Nat
  held   : Nat
  low    : Nat
  high   : Nat
  rsv    : Nat
  resamp : Nat
  bln    : Word
  evt    : BitVec 3
  cur    : Option Table
  prev   : Option Table
  next   : Option Table
  learn  : Bool
  counts : Map Nat
  nblk   : Nat
  under  : Bool
  retr   : Bool
  spaced : Bool
  learnAt : Nat
  sampAt : Nat
  nextAt : Nat
  deriving DecidableEq, Repr

/-- A waiter of the synchronisation engine (R306, R309): whose it is, the counter (slot and generation, or word address), the target,
and the requester's device when it is another one. -/
structure Waiter where
  bank   : Nat
  op     : Option Nat
  ctx    : Nat
  slot   : Option Nat
  gen    : Nat
  addr   : Nat
  target : Word
  remote : Option (Nat × Nat)
  deriving DecidableEq, Repr

/-- Who asked for a counter add: a bank's CADD, an engine operation, the fantail for a kernel's completion, the
Sheepdog for an entry, the host through a function, another device. -/
inductive AddSrc where
  | cadd (bank ord : Nat)
  | cxadd (bank ord : Nat)
  | done (ctx slot : Nat)
  | coll (ctx entry : Nat)
  | host (fn : Nat)
  | remote (node tag : Nat)
  deriving DecidableEq, Repr

/-- A counter named at its home: the context's slot and generation, or the word's expanded address. -/
inductive CtrId where
  | slot (ctx idx gen : Nat)
  | word (ctx addr : Nat)
  | remote (node : Nat) (place : Word)
  deriving DecidableEq, Repr

/-- An add on its way to its home engine (R304, R310), with what a fault record of it needs; hint is the hint bit of a word's extent
(R332), ctx the context whose add it is, va the virtual address of a word. -/
structure CtrAdd where
  id     : CtrId
  amount : Word
  src    : AddSrc
  place  : Word
  bundle : Word
  wid    : Word
  kid    : Nat
  hint   : Bool := false
  ctx    : Nat := 0
  va     : Option Nat := none
  deriving DecidableEq, Repr

/-- An entry of a counter table (R307): state 0 FREE, 1 SLOT, 2 SPILLED, 3 RETIRED; used is its last access. -/
structure CtrEnt where
  st   : Nat
  gen  : Nat
  val  : Word
  used : Nat
  deriving DecidableEq, Repr

/-- A FREE entry of generation 0. -/
abbrev CtrEnt.free : CtrEnt := ⟨0, 0, 0, 0⟩

/-- A group of a group unit (R350, R355): state 1 OPEN, 2 PREPARING, 3 PREPARED, 4 COMMITTED, 5 ABORTED, 6 DOOMED;
weirs as (node, lines acknowledged), still to report, commit poisoned. -/
structure Group where
  st      : Nat
  bank    : Nat
  ctx     : Nat
  bind    : Nat
  cause   : Nat
  detail  : Nat
  weirs   : Map Nat
  ready   : List Nat
  report  : List Nat
  poison  : Bool
  timeout : Nat
  since   : Nat
  halted  : Bool
  auto    : Bool
  deriving DecidableEq, Repr

/-- An entry of the group unit: its generation and the group it holds. -/
structure GEntry where
  gen : Nat
  grp : Option Group
  deriving DecidableEq, Repr

/-- The weir state of a group at one weir (R358); called is the node by which its PREPARE named the weir. -/
structure WeirGroup where
  name     : GroupName
  called   : Nat
  ctx      : Nat
  prepared : Bool
  lines    : List StagedLine
  rsv      : List (Nat × Nat)
  since    : Nat
  queries  : Nat
  recd     : Bool
  deriving DecidableEq, Repr

/-- A run-time bank test (R429): unit and bank, state 0 IDLE to 4 FAILED, done, the row that PARKING or RESTORING is copying. -/
structure MemTest where
  unit  : Nat
  bank  : Nat
  st    : Nat
  done  : Bool
  row   : Nat
  deriving DecidableEq, Repr

/-- A compute die: far cache, compression controller, synchronisation engine (resend holds the waiters answered "full" as
node, tag, request, cycle), group unit, weir, memory controller and error counts. hmask keeps MEM.HMASKp.n under 16p + n; acts
and rows keep activation counts and physical rows under 65536 x bank + row, the bank as MEM.TEST bits 10..0 name it; redir lists
(bank, base of its park area), refresh (bank, cycle at which its refresh ends); step is the clock step from 0, 2.25 GHz, to 5. -/
structure Die where
  far     : Map (Option FarLine)
  cmp     : Cmp
  adds    : List CtrAdd
  regs_   : List Waiter
  waiters : List Waiter
  resend  : List (Nat × Nat × RemoteReq × Nat)
  slots   : Nat
  groups  : Map GEntry
  weir    : List WeirGroup
  inbox   : List (Nat × Nat × CommitMsg)
  reqs    : List (Packet)
  hmask   : Map Word
  rgn     : Map Bool
  rswp    : Nat
  acts    : Map Nat
  actsAt  : Nat
  rows    : Map (Option Nat)
  park    : Word
  test    : MemTest
  redir   : List (Nat × Nat)
  refresh : List (Nat × Nat)
  ras     : Map Nat
  rasEvt  : Nat
  rasThr  : Map Nat
  step    : Nat
  hot     : Bool
  ctrLog  : Map Nat
  deriving DecidableEq, Repr

/-- A write-through on its way to its home (R247): its number, dies, bytes, reserved sectors, whose it is, whether the
home has performed it, the hint bit of its extent (R332), the VC that carries it (R380). -/
structure WThru where
  num     : Nat
  src     : Nat
  home    : Nat
  ws      : List (Nat × Byte × Byte)
  rsv     : List (Nat × Nat)
  bank    : Nat
  op      : Option Nat
  arrived : Bool
  hint    : Bool
  vc      : Nat := 0
  deriving DecidableEq, Repr

/-- What the home controllers know of a 64 KiB frame (R326, R343, R346): compressible, write-protected, reported, its page. -/
structure Frame where
  comp     : Bool
  wp       : Bool
  reported : Bool
  ctx      : Nat
  va       : Nat
  deriving DecidableEq, Repr

/-- A frame no page uses; 1 is the address of no page. -/
abbrev Frame.none : Frame := ⟨true, false, true, 0, 1⟩

/-! ### Contexts and kernels -/

/-- Whom the disposition of a fault record concerns (R422). A record that waits for a slot with doomed makes its kernel FAULTED when it is
written (R267, R418). -/
inductive FaultWho where
  | bank (b : Nat)
  | op (b ord : Nat)
  | stream (b st : Nat)
  | cmd (b ord : Nat)
  | add (a : CtrAdd)
  | kernel (ctx slot : Nat)
  | doomed (ctx slot : Nat)
  | edge (b : Nat)
  | event
  deriving DecidableEq, Repr

/-- A fault record with its source: written and not disposed of, or waiting for a slot of the area (R418). -/
structure FaultHeld where
  recd : FaultRec
  who  : FaultWho
  deriving DecidableEq, Repr

/-- A region record (R264). -/
structure Region where
  base   : Word
  len    : Word
  access : Nat
  edge   : Nat
  shared : Bool
  hint   : Bool
  fwdH   : Nat
  fwdN   : Nat
  ext    : Nat
  deriving DecidableEq, Repr

/-- A launch header (R262). deps are (id, threshold). -/
structure Header where
  sys     : Bool
  overlap : Bool
  shared  : Bool
  prio    : Nat
  entry   : Word
  sptab   : Word
  widths  : List Nat
  binds   : List Nat
  n       : Nat
  vregs   : Nat
  kennel  : Nat
  tile    : Nat
  mill    : Bool
  deps    : List (Word × Word)
  doneId  : Word
  doneAmt : Word
  args    : List Word
  regions : List Region
  deriving DecidableEq, Repr

/-- Kernel states in the codes of KSTAT (R286). -/
inductive KState where
  | loaded | pending | dispatching | running | edge | done | faulted | aborted
  deriving DecidableEq, Repr

/-- FORWARD holdings of an ended task (R279): its task, core, and the tiles kept with their handles. -/
structure Forward where
  task  : Nat
  core  : Nat
  tiles : List (Nat × Tile)
  deriving DecidableEq, Repr

/-- A kernel of a context's table (R262 to R284). depFrm holds by dependence the expanded address of a memory-form word
(R464) or, from key 8, what another device answered of its counter: 1 met, 2 stale; key 16 + d says that its translation
is stopped. frames holds the pages translated so far, stop names the region at which a fault has stopped translation, next the first task not yet placed, placed the bank of a running task,
pred the predecessor it waits for until that is DONE (R290). placed keeps the bank of every task placed; fwds are the
holdings that wait for its tasks as the consumer (R279), consumer is the kernel paired with it as producer. aged is 2^25 more than
the cycle from which its wait as a ready head counts (R295), 0 for none. -/
structure Kernel where
  gen      : Nat
  st       : KState
  hdr      : Header
  queue    : Nat
  order    : Nat
  cause    : Nat
  detail   : Nat
  prio     : Nat
  aged     : Nat
  frames   : List FrameEnt
  depFrm   : Map (Option Nat)
  stop     : Option Nat
  next     : Nat
  placed   : Map (Option Nat)
  halted   : Nat
  ended    : Nat
  adding   : Bool
  addRes   : Option (Nat × Nat)
  fwds     : List Forward
  consumer : Option Nat
  pred     : Option Nat
  deriving DecidableEq, Repr

/-- Queue states in the codes of R301; BLOCKED is computed from the head. -/
inductive QState where
  | normal | draining | halted | error
  deriving DecidableEq, Repr

/-- A queue (R289): overlap mode, and its kernels (slots) in launch order; last is the kernel id of the latest
launch unless that kernel is DONE: the predecessor of the next (R290). -/
structure Queue where
  st      : QState
  overlap : Bool
  ks      : List Nat
  last    : Option Nat
  deriving DecidableEq, Repr

/-- A new queue: EMPTY, IN_ORDER (R289). -/
abbrev Queue.new : Queue := ⟨.normal, false, [], none⟩

/-- An export window (R378) with its frame array, and the EVICTED pages that it waits for (R273). -/
structure Window where
  base   : Word
  len    : Nat
  r      : Bool
  w      : Bool
  frames : List FrameEnt
  waits  : List Nat
  deriving DecidableEq, Repr

/-- A closed window. -/
abbrev Window.closed : Window := ⟨0, 0, false, false, [], []⟩

/-- An entry of a collective table (R394, R398, R399): its state, 0 UNLOADED, 1 IDLE, 2 RUNNING, 3 AWAITING, 4 FAILED; its
record, frame arrays (extent 0 the source, 1 the result), member words, ready flag, firing number; read and fold count the
steps read and sent and the steps folded; chans holds by 64 x rank + slot a step and its data, mine the own steps not yet
folded; released counts by rank the steps that a member has released to this one; finish lists (rank, firing); since is the
cycle of the latest line, release or report. -/
structure Coll where
  st      : Nat
  recd    : List Byte
  frames  : List FrameEnt
  members : List Nat
  ready   : Bool
  r       : Nat
  read    : Nat
  fold    : Nat
  chans   : Map (Option (Nat × List Byte))
  mine    : List (List Byte)
  released : Map Nat
  finish  : List (Nat × Nat)
  srcAdded : Bool
  since   : Nat
  cause   : Nat
  detail  : Nat
  deriving DecidableEq, Repr

/-- An unloaded entry. -/
abbrev Coll.unloaded : Coll := ⟨0, [], [], [], false, 0, 0, 0, [], [], [], [], false, 0, 0, 0⟩

/-- Context states (R409). -/
inductive CState where
  | free | created | runnable | running | preempted | halting | halted | imaged | resuming | faulted | destroyed
  deriving DecidableEq, Repr

/-- What a bank swapped out of its CWAIT waits for before it is placed again (R298): a counter of this device and its
target, or the answer of another device. -/
inductive SavedWait where
  | none
  | counter (id : CtrId) (target : Word)
  | remote
  deriving DecidableEq, Repr

/-- A bank saved off its core (R63, R410): its key (the bank it stood on, plus a multiple of 512), the safe-point index
when saved at one, what it waits for, the live masks (R64), and whether a halt saved it; the die that holds it, its size in bytes and
whether it stands in the die's shadow bank, else in HBM that Lorso reserves. The Mill it held stands in its mheld. -/
structure Saved where
  key   : Nat
  sp    : Option Nat
  bank  : Bank
  wait  : SavedWait
  masks : List Nat
  atHalt : Bool
  die   : Nat
  share : Nat
  shadow : Bool
  deriving DecidableEq, Repr

/-- A page being migrated or split (R342, R344). stage 0 acknowledged and copying, 1 updated and invalidating. -/
structure PageOp where
  va     : Nat
  split  : Bool
  target : Nat
  stage  : Nat
  r      : Option Bool
  w      : Option Bool
  wp     : Option Bool
  deriving DecidableEq, Repr

/-- A management command to a context (R409). -/
inductive CtxCmd where
  | create
  | ready
  | place (clusters : List Nat)
  | swapOut
  | swapIn (clusters : List Nat)
  | halt (timeout : Nat)
  | image (addr : Nat) (host : Bool)
  | resume
  | restore (addr : Nat) (host : Bool) (clusters : List Nat) (root fa : Word)
  | destroy
  deriving DecidableEq, Repr

/-- A context (R406 to R413). haltAt and haltTmo are the cycles at which its halt began and times out; wrote says which of CTX.ROOT, CTX.SIZE and CTX.FA have been
set (bits 0 to 2); redeliver holds the undisposed records of a restored image (R417); held are the clusters of its halt; stale keeps by address the table
entries that system software has changed and that walks do not see yet (R327); colsets are the COLSETs that wait for an EVICTED page; cmds are the
commands that wait for the one before them (R409); agedAt is the cycle at which the context left RUNNING, up to which its heads have aged (R295). -/
structure Ctx where
  st       : CState
  former   : CState
  root     : Word
  size     : Word
  fa       : Word
  fseq     : Nat
  flost    : Nat
  faults   : List FaultHeld
  waitq    : List FaultHeld
  pend     : Map (List FaultRec)
  dom      : Nat
  aliasNo  : Nat
  clusters : List Nat
  queues   : Map Queue
  kernels  : Map (Option Kernel)
  order    : Nat
  rr       : Map Nat
  wins     : Map Window
  colls    : Map Coll
  ctrs     : Map CtrEnt
  dlogBase : Word
  dlogCap  : Nat
  dlogHead : Nat
  dlogOn   : Bool
  dlogOvf  : Bool
  saved    : List Saved
  pageOps  : List PageOp
  haltAt   : Nat
  haltTmo  : Nat
  wrote    : Nat
  redeliver : List FaultHeld
  held     : List Nat
  stale    : Map (Option Word)
  colsets  : List (Nat × List Byte)
  cmds     : List CtxCmd
  agedAt   : Nat
  launchq  : List (Nat × Word × Nat × Nat × Nat)
  deriving DecidableEq, Repr

/-! ### The device's edges -/

/-- The windows of a PCIe function (R299, R324), queue the value of HLW.GO, go a launch under way, and its posted writes that are held: address and bytes, or a counter id and the
amount to add (R259, R341); refused says that the first of them has been refused for want of sectors. reads are the reads that wait: address and
length, none for HCA.VAL. -/
structure HostFn where
  bound  : Option Nat
  addr   : Word
  busy   : Bool
  ovr    : Bool
  result : Word
  go     : Option Word
  queue  : Word
  hcaId  : Word
  hcaAmt : Word
  hcaSt  : Nat × Nat
  posted : List (Nat × List Byte × Option Word)
  reads  : List (Option (Nat × Nat))
  refused : Bool
  deriving DecidableEq, Repr

/-- A key of a VC direction (R385, R386). -/
structure Key where
  key  : BitVec 256
  salt : BitVec 32
  deriving DecidableEq, Repr

/-- A virtual channel of a link (R384 to R390): state 0 UP, 1 REKEYING, 2 QUARANTINED, 3 DOWN; mode 0 to 2, nmode a mode that waits for the
next agreed count; cnt, key and next are the sender's, rcnt, rkey and rnext the receiver's; since is the cycle at which it stopped. -/
structure Vc where
  st    : Nat
  mode  : Nat
  nmode : Option Nat
  cnt   : Nat
  rcnt  : Nat
  key   : Option Key
  rkey  : Option Key
  next  : Option (Key × Nat)
  rnext : Option (Key × Nat)
  stop  : Bool
  bad   : Nat
  pause : Bool
  since : Nat
  deriving DecidableEq, Repr

/-- A link (R372, R389): phys 0 TRAINING, 1 UP, 2 DEGRADED, 3 DOWN. vcs holds the VCs under the keys of vcKey: a die link has a record for
each direction, an Ethernet port one for each peer device. -/
structure Link where
  phys  : Nat
  lanes : Nat
  encl  : Bool
  evt   : Word
  rkdl  : Nat
  vcs   : Map Vc
  drops : Nat
  deriving DecidableEq, Repr

/-- A packet sent and not yet acknowledged (R383), with the device number that its item named, by which its route is looked up, and the
cycle at which it was last sent. A commit packet or discard stays, acked, until the weir reports (R360). -/
structure Unacked where
  pkt   : Packet
  named : Nat
  tries : Nat
  at_   : Nat
  acked : Bool
  deriving DecidableEq, Repr

/-- Who waits for the answer to a remote request: a bank's S slot, an engine operation, a Mill command, a stream, an add, a
kernel's dependence, a bank swapped out of its CWAIT, a read of HCA.VAL. -/
inductive Asker where
  | bank (b : Nat)
  | op (b ord : Nat)
  | cmd (b ord row : Nat)
  | stream (b st item : Nat)
  | add (a : CtrAdd)
  | dep (ctx slot d : Nat)
  | swapped (ctx key : Nat)
  | host (fn : Nat)
  deriving DecidableEq, Repr

/-- A request waiting for its answer: the node asked, the die that asks and the VC of the request. -/
structure Asked where
  tag  : Nat
  node : Nat
  who  : Asker
  req  : RemoteReq
  die  : Nat
  vc   : Nat
  deriving DecidableEq, Repr

/-- An answer that waits at a die of this device for its VC to carry it to the die that asked (R387): for the request of a tag, or for who. -/
structure Back where
  src : Nat
  dst : Nat
  vc  : Nat
  tag : Nat
  who : Option Asker
  ans : RemoteAns
  deriving DecidableEq, Repr

/-- The gateway (R376, R382, R383): routes and overrides as port sets, sequence numbers sent and expected per (node,
VC), packets out of order, those received by (sequence key, VC, sequence number), unacknowledged packets, packets held with their ports and whether they wait at their die, requests waiting, answers that wait
at a die, lines and reports of collectives for members on this device with their contexts, failed route entries. -/
structure Gateway where
  routes : Map (List Nat)
  overs  : Map (Option (Nat × List Nat))
  seqOut : Map Nat
  seqIn  : Map Nat
  early  : List Packet
  seen   : List (Nat × Nat × Nat)
  unack  : List Unacked
  held   : List (Bool × List Nat × Packet)
  asked  : List Asked
  back   : List Back
  colq   : List (Nat × Payload)
  tag    : Nat
  dead   : List Nat
  deriving DecidableEq, Repr

/-- A copy of the start count in flash (R432): sequence number, count, reason and failing die of the last failed start, and whether its check
word matches. -/
structure FlashCopy where
  seq    : Nat
  count  : Nat
  reason : Nat
  die    : Nat
  valid  : Bool
  deriving DecidableEq, Repr

/-- Flash (R431, R432): slots A and B, the version floor, two copies of the start count, the certificate, the helper data of the SRAM
PUF (R435). -/
structure Flash where
  slotA  : Option FlashSlot
  slotB  : Option FlashSlot
  floor  : Nat
  copyA  : FlashCopy
  copyB  : FlashCopy
  cert   : List Byte
  helper : List Byte
  deriving DecidableEq, Repr

/-- The start sequence (R430 to R434): BOOTSTAT's fields, whether PCIe reset is deasserted, so that the ROMs run, the dies that
have completed their part of the stage, and the seed of the device's key pair, which die 0 derives in stage 2 (R435). -/
structure Boot where
  stage   : Nat
  slot    : Nat
  reason  : Nat
  fails   : Nat
  ready   : Nat
  faildie : Nat
  version : Nat
  ran     : Bool
  done    : List Nat
  seed    : List Byte
  deriving DecidableEq, Repr

/-- The SPDM responder (R436): what the session has reached and the latest answer. -/
structure Spdm where
  ver  : Bool
  caps : Bool
  alg  : Bool
  resp : List Byte
  deriving DecidableEq, Repr

/-- An image that this device has written (R414): its bytes and the context that they encode. Part of the encoding belongs to the
implementation (R465). -/
structure Image where
  bytes : List Byte
  ctx   : Ctx
  deriving DecidableEq, Repr

/-- Notices the device gives Lorso or the host. -/
inductive Notice where
  | fault (a : Area) (seq : Nat)
  | evict (die : Nat) | space (die : Nat)
  | rekey (link vc : Nat)
  | ras (die k : Nat)
  | refused (cause detail : Nat)
  | value (v : Word)
  | bytes (b : List Byte)
  | halt (ctx reason : Nat) (cores : List Nat)
  | restore (ctx reason : Nat)
  deriving DecidableEq, Repr

/-- The device fault area (R420). -/
structure DevArea where
  fa     : Word
  seq    : Nat
  lost   : Nat
  faults : List FaultHeld
  waitq  : List FaultHeld
  pend   : Map (List FaultRec)
  deriving DecidableEq, Repr

/-- Which agent moves next: a device step, or a bank to issue. -/
inductive Agent where
  | event (i : Instr)
  | bank (b : Nat)
  deriving DecidableEq, Repr

/-! ### The device -/

/-- An eviction slot (R326, R329, R375): the host address of the 65,536 bytes, the blocks of the page that held sectors, and the lines with an
uncorrectable error. -/
structure Evicted where
  addr : Nat
  held : List Nat
  bad  : List Nat
  deriving DecidableEq, Repr

/-- One Strelig B960. bank is the bank in focus, cur its number (2 x core + bank); the other banks are parked. time is the device time
in units of 1/504 ns (TIME, R2). space is the size of the exposed physical space that firmware sets (R14). ecc gives by block the
sectors that return an uncorrectable error, wbad the blocks whose writes fail (R320, R349): both are the memory's own, and nothing the
device does sets them. tick counts the free values drawn and lap the issues since the device's own steps last had a turn: both are
the model's own. -/
structure State where
  bank    : Bank
  cur     : Nat
  parked  : Map Bank
  agenda  : List Agent
  cores   : Map Core
  mgs     : Map MillGroup
  dies    : Map Die
  ctxs    : Map Ctx
  mem     : Map Byte
  blocks  : Map BlockEnt
  ecc     : Map (BitVec 8)
  wbad    : List Nat
  space   : Nat
  frames  : Map Frame
  host    : Map Byte
  evicted : Map (Option Evicted)
  wts     : List WThru
  wtNext  : Nat
  fns     : Map HostFn
  links   : Map Link
  gate    : Gateway
  outbox  : List Packet
  notices : List Notice
  dev     : DevArea
  boot    : Boot
  flash   : Flash
  spdm    : Spdm
  images  : List Image
  fabric  : Nat
  homeM   : Map Word
  time    : Nat
  cycle   : Nat
  margin  : Nat
  waitLim : Nat
  aging   : Nat
  cgTmax  : Nat
  cgDef   : Nat
  colTmo  : Nat
  colDrop : Nat
  ethType : Nat
  tick    : Nat
  lap     : Nat
  deriving DecidableEq, Repr

/-! ### Reset -/

/-- The registers of a bank with no task: the values of R49. -/
def Regs.reset : Regs := { x := [], v := [], p := [], tok := [] }

/-- The control registers at task start (R49). -/
def Ctl.reset : Ctl :=
  { frm := 0, fflags := 0, seed := 0x9E3779B9, efr := [], rotV := 0, rotP := 0, lcount := 0, pcfg := 0, cycle := 0,
    nancnt := 0, mstat := 0, steps := [] }

/-- The identity registers of a bank with no task. DESIGN CHOICE (log 2). -/
def TaskId.reset : TaskId :=
  { ctx := 0, kid := 0, task := 0, wid := 0, sys := false, capVr := 320, mill := false, tileBound := 0 }

/-- A bank with no task, every register at its value of R49. -/
def Bank.reset : Bank :=
  { run := .free, id := TaskId.reset, regs := Regs.reset, view := Regs.reset, ctl := Ctl.reset, crq := [], exts := [],
    tiles := [], kennel := [], kview := [], kpoison := [], rpoison := [], streams := [], probes := [],
    slist := { cap := 0, fmt := 0, smallest := false, entries := [] }, gbinds := [], gpend := [], ops := [], cmds := [],
    susp := none, mheld := none, prog := 0, lost := 0, sq := [], cursors := [], pc := 0, cur := none, fetched := [], bundles := 0,
    ord := 0, iss := 0, dist := 0, slot := 0, issued := .done, swait := .none, waitAge := 0, wish := false, lag := [], aside := none, part := 0,
    late := none, preempt := false, stop := false, reissue := false }

/-- A core before its self-test finds a faulty bank (R28, R36). -/
def Core.reset : Core := { capVr := 320, pool1 := 512, active := 0, give := false, itc := [], efc := [] }

/-- A Mill with its lease FREE and its program UNLOADED (R195, R204). -/
def Mill.reset : Mill :=
  { usable := true, cogs := [], south := [], domain := 0, efr := 0, loaded := false, flow := 0, sA := 1, sB := 1,
    skd := 0, open_ := false, k := 0, beats := [], told := 0, holder := none, fifo := [], count := 0, idle := 0, mark := 0,
    pair := false, window := 0, half := false, drain := none, sat := false, nan := false, bad := false }

/-- A mill group at reset: 4 MiB of edge memory in 1,024 granules (R36). -/
def MillGroup.reset : MillGroup := { mill := Mill.reset, mill2 := Mill.reset, pool0 := 1024 }

/-- The compression controller at boot (R337). -/
def Cmp.reset : Cmp :=
  { runs := [(0, 2 ^ 31)], free := 2 ^ 31, held := 0, low := 2 ^ 22, high := 2 ^ 23, rsv := 2 ^ 21, resamp := 0, bln := 0,
    evt := 0, cur := none, prev := none, next := none, learn := false, counts := [], nblk := 0, under := false,
    retr := false, spaced := false, learnAt := 0, sampAt := 0, nextAt := 0 }

/-- A compute die at reset. -/
def Die.reset : Die :=
  { far := [], cmp := Cmp.reset, adds := [], regs_ := [], waiters := [], resend := [], slots := 0, groups := [], weir := [], inbox := [],
    reqs := [], hmask := [], rgn := [], rswp := 0, acts := [], actsAt := 0, rows := [], park := 0,
    test := { unit := 0, bank := 0, st := 0, done := false, row := 0 }, redir := [], refresh := [], ras := [], rasEvt := 0,
    rasThr := [], step := 0, hot := false, ctrLog := [] }

/-- A FREE context (R409); its registers before creation are DESIGN CHOICE (log 2). -/
def Ctx.reset : Ctx :=
  { st := .free, former := .free, root := 0, size := 0, fa := 0, fseq := 0, flost := 0, faults := [], waitq := [], pend := [], dom := 0,
    aliasNo := 0, clusters := [], queues := [], kernels := [], order := 0, rr := [], wins := [], colls := [], ctrs := [],
    dlogBase := 0, dlogCap := 0, dlogHead := 0, dlogOn := false, dlogOvf := false, saved := [], pageOps := [],
    haltAt := 0, haltTmo := 0, wrote := 0, redeliver := [], held := [], stale := [], colsets := [], cmds := [], agedAt := 0, launchq := [] }

/-- A function's windows, unbound (R299). -/
def HostFn.reset : HostFn :=
  { bound := none, addr := 0, busy := false, ovr := false, result := 0, go := none, queue := 0, hcaId := 0, hcaAmt := 0,
    hcaSt := (0, 0), posted := [], reads := [], refused := false }

/-- A VC of a link that has not trained. DESIGN CHOICE (log 2): protection OFF, DOWN until the link is up (R390). -/
def Vc.reset : Vc :=
  { st := 3, mode := 0, nmode := none, cnt := 0, rcnt := 0, key := none, rkey := none, next := none, rnext := none, stop := false, bad := 0, pause := false, since := 0 }

/-- A link that has not trained (R389, R390). -/
def Link.reset : Link := { phys := 0, lanes := 0, encl := false, evt := 0, rkdl := 1000, vcs := [], drops := 0 }

/-- The gateway before Lorso writes its routes. -/
def Gateway.reset : Gateway :=
  { routes := [], overs := [], seqOut := [], seqIn := [], early := [], seen := [], unack := [], held := [], asked := [], back := [], colq := [], tag := 0,
    dead := [] }

/-- The device in reset: boot stage 0, nothing running, memory with nothing listed, as PCIE_RESET_DEASSERT finds it (R430). The
contents of flash, and an exposed physical space of 1 TiB before firmware sets it (R14), are DESIGN CHOICE (log 2). -/
def State.reset : State :=
  { bank := Bank.reset, cur := 0, parked := [], agenda := [], cores := [], mgs := [], dies := [], ctxs := [], mem := [],
    blocks := [], ecc := [], wbad := [], space := 2 ^ 40, frames := [], host := [], evicted := [], wts := [], wtNext := 0, fns := [], links := [],
    gate := Gateway.reset, outbox := [], notices := [],
    dev := { fa := 0, seq := 0, lost := 0, faults := [], waitq := [], pend := [] },
    boot := { stage := 0, slot := 0, reason := 0, fails := 0, ready := 0, faildie := 0xFF, version := 0, ran := false,
              done := [], seed := [] },
    flash := { slotA := none, slotB := none, floor := 0, copyA := ⟨0, 0, 0, 0xFF, true⟩, copyB := ⟨0, 0, 0, 0xFF, true⟩, cert := [], helper := [] },
    spdm := { ver := false, caps := false, alg := false, resp := [] }, images := [], fabric := 0, homeM := [], time := 0,
    cycle := 0, margin := 0, waitLim := 2 ^ 22, aging := 2 ^ 20, cgTmax := 10000, cgDef := 100, colTmo := 10000,
    colDrop := 0, ethType := 0x88B5, tick := 0, lap := 0 }

/-- Why the machine stops. No meaning of this model ends in a fault: the machine's own faults are taken (R62, R418) and
are next states. Safe: nothing is proved of a run that ends here. -/
inductive Fault where
  /-- Raised by step when the focus names no bank of the device. Safe. -/
  | noSuchBank
  deriving DecidableEq, Repr

/-- Why an instruction has no meaning. -/
inductive Refusal where
  /-- Raised by the dispatcher for an instruction not yet modelled. Safe: a run stops there. -/
  | notModelled (mnemonic : String)
  deriving DecidableEq, Repr

end Sys2Proof.Machine
end

