-- ==== Sys2Proof/Machine/Codec.lean ====
section
/-! DEFINITION. The form of a compressed block and of a table record (R333, R334). Memory holds blocks expanded; what stands in a
compressed block's sectors is a function of its bytes and of the table its header names. -/

namespace Sys2Proof.Machine

/-! ### Codewords -/

/-- The escape symbol. -/
abbrev escapeSymbol : Nat := 256

/-- The symbol of a halfword in a table. -/
def symbolOf (vals : List Nat) (h : Nat) : Nat := (vals.idxOf? h).getD escapeSymbol

/-- Symbols with their lengths, by length and then by number. -/
def codeOrder (lens : List Nat) : List (Nat × Nat) :=
  (List.range 15).flatMap fun l => ((List.range lens.length).filter fun y => lens[y]?.getD 0 == l + 1).map fun y => (y, l + 1)

/-- Codes given to symbols in order, after one of length len and code code: the next code, shifted to the new length. -/
def codesAfter (len code : Nat) : List (Nat × Nat) → List (Nat × Nat × Nat)
  | [] => []
  | (y, l) :: r =>
    let c := (code + 1) * 2 ^ (l - len)
    (y, l, c) :: codesAfter l c r

/-- The canonical codewords of some lengths, as (symbol, length, code). -/
def codewords (lens : List Nat) : List (Nat × Nat × Nat) :=
  match codeOrder lens with
  | [] => []
  | (y, l) :: r => (y, l, 0) :: codesAfter l 0 r

/-- The lowest n bits of a number, the most significant first. -/
def bitsDown : Nat → Nat → List Bool
  | 0, _ => []
  | n + 1, c => bitAt c n :: bitsDown n c

/-- The lowest n bits of a number, the least significant first. -/
def bitsUp : Nat → Nat → List Bool
  | 0, _ => []
  | n + 1, c => bitAt c 0 :: bitsUp n (c / 2)

/-- The codeword of a symbol. -/
def codeword (cs : List (Nat × Nat × Nat)) (y : Nat) : List Bool :=
  match cs.find? (·.1 == y) with
  | some (_, l, c) => bitsDown l c
  | none => []

/-! ### Blocks -/

/-- Little-endian halfwords of bytes. -/
def halves : List Byte → List Nat
  | a :: b :: bs => (a.toNat + 256 * b.toNat) :: halves bs
  | _ => []

/-- The code of one halfword: its symbol's codeword, and 16 bits of its own after an escape. -/
def halfCode (t : Table) (cs : List (Nat × Nat × Nat)) (h : Nat) : List Bool :=
  let y := symbolOf t.vals h
  codeword cs y ++ if y = escapeSymbol then bitsUp 16 h else []

/-- The payload of a block. -/
def payload (t : Table) (hs : List Nat) : List Bool := hs.flatMap (halfCode t (codewords t.lens))

/-- Bits of a payload without its bits: the code length of each halfword, and 16 more after an escape. -/
def payloadBits (t : Table) : List Nat → Nat
  | [] => 0
  | h :: hs =>
    let y := symbolOf t.vals h
    t.lens[y]?.getD 15 + (if y = escapeSymbol then 16 else 0) + payloadBits t hs

/-- A number from its bits, the least significant first. -/
def natOfBits : List Bool → Nat
  | [] => 0
  | b :: bs => b.toNat + 2 * natOfBits bs

/-- n bytes that hold a stream of bits, zero after its end. -/
def packBits : Nat → List Bool → List Byte
  | 0, _ => []
  | n + 1, bs => BitVec.ofNat 8 (natOfBits (bs.take 8)) :: packBits n (bs.drop 8)

/-- The bits of a stream. -/
def unpackBits (bs : List Byte) : List Bool := bs.flatMap fun b => bitsUp 8 b.toNat

/-- The header of a block: the length of its payload and its generation modulo 16. -/
def blockHeader (gen len : Nat) : Nat := len % 2 ^ 12 + gen % 16 * 2 ^ 12

/-- The count sectors of a compressed block. -/
def storedBlock (t : Table) (count : Nat) (bs : List Byte) : List Byte :=
  let p := payload t (halves bs)
  leBytes 2 (blockHeader t.gen p.length) ++ packBits (64 * count - 2) p

/-- The codeword at the head of a stream, found bit by bit: its symbol and the rest. len and code are the bits read. -/
def readCode (cs : List (Nat × Nat × Nat)) : Nat → Nat → List Bool → Option (Nat × List Bool)
  | _, _, [] => none
  | len, code, b :: bs =>
    let c := 2 * code + b.toNat
    match cs.find? fun x => x.2.1 == len + 1 && x.2.2 == c with
    | some x => some (x.1, bs)
    | none => readCode cs (len + 1) c bs

/-- n halfwords read from a stream. -/
def readHalves (t : Table) (cs : List (Nat × Nat × Nat)) : Nat → List Bool → Option (List Nat)
  | 0, _ => some []
  | n + 1, bs => do
    let (y, r) ← readCode cs 0 0 bs
    if y = escapeSymbol then
      if r.length < 16 then none else (readHalves t cs n (r.drop 16)).map (natOfBits (r.take 16) :: ·)
    else (readHalves t cs n r).map ((t.vals[y]?.getD 0) :: ·)

/-- A block decoded with the table that its header names among the live ones; none when it names none (R335). -/
def readBlock (live : List Table) (bs : List Byte) : Option (List Byte) := do
  let head := leNat (bs.take 2)
  let t ← live.find? fun t => t.gen % 16 == head / 2 ^ 12
  let hs ← readHalves t (codewords t.lens) 256 ((unpackBits (bs.drop 2)).take (head % 2 ^ 12))
  pure (hs.flatMap (leBytes 2))

/-! ### Table records -/

/-- The 784 bytes of a table record of the die with a node number. -/
def Table.record (t : Table) (node : Nat) : List Byte :=
  leBytes 2 t.gen ++ leBytes 2 node ++ leBytes 4 0 ++ t.vals.flatMap (leBytes 2) ++ t.lens.flatMap (leBytes 1) ++ leBytes 7 0

end Sys2Proof.Machine
end

