-- ==== Sys2Proof/Machine/Numbers.lean ====
section
/-! DEFINITION. Number formats, rounding and exact arithmetic (R83 to R103). Flags are the bits of FFLAGS (R96). -/

namespace Sys2Proof.Machine

/-! ### Cause codes (R421) -/

abbrev cILLEGAL_BUNDLE := 0x01
abbrev cILLEGAL_OPERAND := 0x02
abbrev cFORMAT_MISMATCH := 0x03
abbrev cUNDECLARED_ACCESS := 0x04
abbrev cNONCANONICAL := 0x05
abbrev cFETCH_FAULT := 0x06
abbrev cOUT_OF_SPACE := 0x07
abbrev cREMOTE_FAULT := 0x08
abbrev cMEMORY_ERROR := 0x09
abbrev cTILE_FAULT := 0x0A
abbrev cLEASE_FAULT := 0x0B
abbrev cCOUNTER_FAULT := 0x0C
abbrev cGROUP_FAULT := 0x0D
abbrev cLINK_FAULT := 0x0E
abbrev cSAFEPOINT_DISTANCE := 0x0F
abbrev cTRAP := 0x10
abbrev cBREAKPOINT := 0x11
abbrev cHALTED := 0x12
abbrev cDEP_FAILED := 0x13
abbrev cNOSLOT := 0x14
abbrev cCONFLICT := 0x15
abbrev cWEIR_FULL := 0x16
abbrev cNOSPACE := 0x17

/-! ### Formats (R83) -/

abbrev tRAW := 0x00
abbrev tI8 := 0x01
abbrev tN8 := 0x02
abbrev tI16 := 0x03
abbrev tN16 := 0x04
abbrev tI32 := 0x05
abbrev tN32 := 0x06
abbrev tI64 := 0x07
abbrev tN64 := 0x08
abbrev tFP32 := 0x09
abbrev tBF16 := 0x0A
abbrev tFP16 := 0x0B
abbrev tE4M3 := 0x0C
abbrev tE5M2 := 0x0D
abbrev tBFP := 0x0E
abbrev tPLANE := 0x0F
abbrev tIDX := 0x10
abbrev tPACKED := 0x11

/-- Element bits of the formats with 8-, 16-, 32- or 64-bit elements (R38, R136). -/
def fmtBits (f : Nat) : Option Nat :=
  match f with
  | 0x00 | 0x01 | 0x02 | 0x0C | 0x0D => some 8
  | 0x03 | 0x04 | 0x0A | 0x0B => some 16
  | 0x05 | 0x06 | 0x09 | 0x10 => some 32
  | 0x07 | 0x08 => some 64
  | _ => none

/-- I8 to N64 (R85). -/
def isInt (f : Nat) : Bool := 1 ≤ f && f ≤ 8

/-- The signed integer formats. -/
def isSigned (f : Nat) : Bool := f == 1 || f == 3 || f == 5 || f == 7

/-- FP32, BF16 and FP16 (R148). -/
def isFp3 (f : Nat) : Bool := f == tFP32 || f == tBF16 || f == tFP16

/-- FP32 to E5M2 (R93). -/
def isFp (f : Nat) : Bool := 9 ≤ f && f ≤ 13

/-- An engine format register's fields (R87). -/
structure Efr where
  signed : Bool
  width  : Nat
  subst  : Bool
  value  : Nat
  bfpw   : Nat
  deriving DecidableEq, Repr

/-- The fields of an EFR word (R87). -/
def efrOf (w : Word) : Efr :=
  let n := w.toNat
  { signed := bitAt n 0, width := bitsOf n 5 1 + 1, subst := bitAt n 6, value := bitsOf n 22 7,
    bfpw := bitsOf n 28 26 + 2 }

/-- Element bits of a format, PACKED and PLANE taking the width of the EFR; BFP its mantissa width. -/
def fmtWidth (f : Nat) (e : Efr) : Nat :=
  match fmtBits f with
  | some b => b
  | none => if f = tBFP then e.bfpw else e.width

/-- Two's-complement reading of the low w bits. -/
def toSigned (x w : Nat) : Int :=
  let x := x % 2 ^ w
  if 2 * x < 2 ^ w then (x : Int) else (x : Int) - (2 : Int) ^ w

/-- wrap(x, bits) as a bit pattern (R9). -/
def wrapBits (x : Int) (w : Nat) : Nat := (x % (2 : Int) ^ w).toNat

/-- Field i of size b of a register's bits. -/
def fieldAt (bits i b : Nat) : Nat := (bits >>> (i * b)) % 2 ^ b

/-- An integer kind: width, signedness, and whether it is a narrow format with a reserved code (R89). -/
structure IKind where
  width  : Nat
  signed : Bool
  narrow : Bool
  deriving DecidableEq, Repr

/-- The integer kind of a format; IDX is N32 (R92). -/
def ikindOf (f : Nat) (e : Efr) : IKind :=
  match fmtBits f with
  | some b => ⟨b, isSigned f, false⟩
  | none => ⟨e.width, e.signed, true⟩

/-- The smallest value sat leaves (R9). -/
def iMin (k : IKind) : Int :=
  if k.signed then (if k.narrow then -((2 : Int) ^ (k.width - 1) - 1) else -((2 : Int) ^ (k.width - 1))) else 0

/-- The largest value sat leaves (R9). -/
def iMax (k : IKind) : Int :=
  if k.signed then (2 : Int) ^ (k.width - 1) - 1 else (2 : Int) ^ k.width - 1

/-- sat(x, fmt), with whether the clamp changed x. -/
def satI (x : Int) (k : IKind) : Int × Bool :=
  if x < iMin k then (iMin k, true) else if iMax k < x then (iMax k, true) else (x, false)

/-- An element read as an integer, the reserved code read by R89. -/
def readInt (k : IKind) (e : Efr) (bits : Nat) : Int :=
  if k.signed then
    if k.narrow && e.subst && bits % 2 ^ k.width == 2 ^ (k.width - 1) then toSigned e.value 16
    else toSigned bits k.width
  else ((bits % 2 ^ k.width : Nat) : Int)

/-- Flags of FFLAGS (R96). -/
abbrev fNX := 1
abbrev fUF := 2
abbrev fOF := 4
abbrev fDZ := 8
abbrev fNV := 16
abbrev fSAT := 32

/-- Placing by sat/mode (R85): the element's bits and the flags. -/
def placeInt (x : Int) (k : IKind) (sat : Bool) : Nat × Nat :=
  if sat then
    let (y, c) := satI x k
    (wrapBits y k.width, if c then fSAT else 0)
  else (wrapBits x k.width, 0)

/-! ### Rounding (R95, R97) -/

/-- The rounding modes; rs carries the state after its advance. -/
inductive Rm where
  | rne | rtz | rdn | rup | rna
  | rs (q : Nat)
  deriving DecidableEq, Repr

/-- One advance of RS.SEED (R97). -/
def seedNext (s : BitVec 32) : BitVec 32 :=
  let s := s ^^^ (s <<< 13)
  let s := s ^^^ (s >>> 17)
  s ^^^ (s <<< 5)

/-- The mode of a code 000 to 101, the draw used by RS only. -/
def rmOf (code : Nat) (q : Nat) : Rm :=
  match code with
  | 1 => .rtz
  | 2 => .rdn
  | 3 => .rup
  | 4 => .rna
  | 5 => .rs q
  | _ => .rne

/-- Whether the magnitude m 2^(-k), with something below it when sticky, rounds up to the next integer. -/
def roundsUp (r : Rm) (neg : Bool) (m k : Nat) (sticky : Bool) : Bool :=
  let kept := m >>> k
  let rem := m % 2 ^ k
  let half := 2 ^ k / 2
  let inex := rem != 0 || sticky
  match r with
  | .rne => decide (half < rem) || (decide (k ≠ 0) && rem == half && (sticky || kept % 2 == 1))
  | .rtz => false
  | .rdn => neg && inex
  | .rup => !neg && inex
  | .rna => decide (k ≠ 0) && decide (half ≤ rem)
  | .rs q =>
    if k ≤ 32 then decide (2 ^ k ≤ rem + q % 2 ^ k) else decide (2 ^ 32 ≤ (rem >>> (k - 32)) + q % 2 ^ 32)

/-- The magnitude m 2^e rounded to a multiple of 2^lsb: the multiple and whether it is inexact. -/
def roundAt (r : Rm) (neg : Bool) (m : Nat) (e lsb : Int) (sticky : Bool) : Nat × Bool :=
  if lsb ≤ e then (m <<< (e - lsb).toNat, sticky)
  else
    let k := (lsb - e).toNat
    ((m >>> k) + (if roundsUp r neg m k sticky then 1 else 0), m % 2 ^ k != 0 || sticky)

/-! ### Floating point (R93, R94) -/

/-- A floating-point format: exponent bits, fraction bits, bias, largest finite code, code of infinity or of the
NaN that stands for it, canonical NaN. -/
structure FpFmt where
  eb     : Nat
  fb     : Nat
  bias   : Int
  maxFin : Nat
  inf    : Nat
  hasInf : Bool
  nan    : Nat
  deriving DecidableEq, Repr

/-- The five layouts of R93; other tags read as FP32. -/
def fpFmt (f : Nat) : FpFmt :=
  match f with
  | 0x0A => ⟨8, 7, 127, 0x7F7F, 0x7F80, true, 0x7FC0⟩
  | 0x0B => ⟨5, 10, 15, 0x7BFF, 0x7C00, true, 0x7E00⟩
  | 0x0C => ⟨4, 3, 7, 0x7E, 0x7F, false, 0x7F⟩
  | 0x0D => ⟨5, 2, 15, 0x7B, 0x7C, true, 0x7E⟩
  | _ => ⟨8, 23, 127, 0x7F7FFFFF, 0x7F800000, true, 0x7FC00000⟩

/-- An exact value: NaN, an infinity, or (-1)^neg m 2^e, zero carrying its sign. -/
inductive FV where
  | nan
  | inf (neg : Bool)
  | fin (neg : Bool) (m : Nat) (e : Int)
  deriving DecidableEq, Repr

/-- The sign bit of a code set. -/
def withSign (f : FpFmt) (neg : Bool) (code : Nat) : Nat :=
  if neg then code + 2 ^ (f.eb + f.fb) else code

/-- The value of a code (R93). -/
def fpDecode (f : FpFmt) (bits : Nat) : FV :=
  let neg := bitAt bits (f.eb + f.fb)
  let ex := bits / 2 ^ f.fb % 2 ^ f.eb
  let fr := bits % 2 ^ f.fb
  let mag := bits % 2 ^ (f.eb + f.fb)
  if f.hasInf && ex == 2 ^ f.eb - 1 then (if fr == 0 then .inf neg else .nan)
  else if !f.hasInf && mag == f.nan then .nan
  else if ex == 0 then .fin neg fr (1 - f.bias - f.fb)
  else .fin neg (2 ^ f.fb + fr) (ex - f.bias - f.fb)

/-- The delivered code of an overflow (R94). -/
def fpOverflow (f : FpFmt) (r : Rm) (neg : Bool) : Nat :=
  let inf := withSign f neg f.inf
  let top := withSign f neg f.maxFin
  match r with
  | .rtz => top
  | .rup => if neg then top else inf
  | .rdn => if neg then inf else top
  | _ => inf

/-- A nonzero magnitude m 2^e (and something below it when sticky) rounded to a format: its code and flags (R94).
sat asks for the largest finite value on overflow (R98). -/
def fpRound (f : FpFmt) (r : Rm) (sat neg : Bool) (m : Nat) (e : Int) (sticky : Bool) : Nat × Nat :=
  let emin : Int := 1 - f.bias
  let top : Int := (Nat.log2 m : Int) + e
  let free : Int := top - f.fb
  let low : Int := emin - f.fb
  let lsb : Int := max free low
  let (ku, _) := roundAt r neg m e free sticky
  let (k, inex) := roundAt r neg m e lsb sticky
  let code := ((lsb - low).toNat <<< f.fb) + k
  if f.maxFin < code then
    (if sat then withSign f neg f.maxFin else fpOverflow f r neg, fOF + fNX + (if sat then fSAT else 0))
  else
    let tiny := match r with
      | .rs _ => decide (code < 2 ^ f.fb)
      | _ => decide ((if ku = 2 ^ (f.fb + 1) then free + f.fb + 1 else free + f.fb) < emin)
    (withSign f neg code, (if inex then fNX else 0) + (if tiny && inex then fUF else 0))

/-- Signed zero's code. -/
def fpZero (f : FpFmt) (neg : Bool) : Nat := withSign f neg 0

/-- An exact value rounded to a format: arithmetic results (R94). -/
def fpPack (f : FpFmt) (r : Rm) (v : FV) : Nat × Nat :=
  match v with
  | .nan => (f.nan, 0)
  | .inf neg => (withSign f neg f.inf, 0)
  | .fin neg 0 _ => (fpZero f neg, 0)
  | .fin neg m e => fpRound f r false neg m e false

/-- The signed magnitude of a finite value at exponent e, at or below its own unless the value is zero. -/
def atExp (neg : Bool) (m : Nat) (e0 e : Int) : Int :=
  let x : Int := ((m <<< (e0 - e).toNat : Nat) : Int)
  if neg then -x else x

/-- The sign of an exact zero sum (R94). -/
def zeroSign (r : Rm) : Bool :=
  match r with
  | .rdn => true
  | _ => false

/-- a + b exactly, with the NV flag; two zeros of one sign keep it (IEEE 754, R94). The significand is counted from the
finer operand's last place, which under RS fixes the length d of the discarded field: DESIGN CHOICE (log 68), R97 does
not say how many trailing zeros an exact significand has. -/
def fvAdd (r : Rm) (a b : FV) : FV × Nat :=
  match a, b with
  | .nan, _ | _, .nan => (.nan, 0)
  | .inf s, .inf t => if s = t then (.inf s, 0) else (.nan, fNV)
  | .inf s, _ => (.inf s, 0)
  | _, .inf t => (.inf t, 0)
  | .fin s m e, .fin t n g =>
    let lo := if n = 0 then e else if m = 0 then g else min e g
    let x := atExp s m e lo + atExp t n g lo
    if x = 0 then (.fin (if m = 0 ∧ n = 0 ∧ s = t then s else zeroSign r) 0 0, 0)
    else (.fin (decide (x < 0)) x.natAbs lo, 0)

/-- The negation of a value. -/
def fvNeg : FV → FV
  | .nan => .nan
  | .inf s => .inf (!s)
  | .fin s m e => .fin (!s) m e

/-- a × b exactly, with the NV flag; the significand has the full width of the product (log 68). -/
def fvMul (a b : FV) : FV × Nat :=
  match a, b with
  | .nan, _ | _, .nan => (.nan, 0)
  | .inf s, .inf t => (.inf (s != t), 0)
  | .inf s, .fin t n _ => if n = 0 then (.nan, fNV) else (.inf (s != t), 0)
  | .fin s m _, .inf t => if m = 0 then (.nan, fNV) else (.inf (s != t), 0)
  | .fin s m e, .fin t n g => (.fin (s != t) (m * n) (e + g), 0)

/-- a × b + c exactly, rounded by the caller once. -/
def fvFma (r : Rm) (a b c : FV) : FV × Nat :=
  let (p, f1) := fvMul a b
  let (x, f2) := fvAdd r p c
  (x, f1 ||| f2)

/-- a < b numerically, −0 equal to +0; false on NaN. -/
def fvLt (a b : FV) : Bool :=
  match a, b with
  | .nan, _ | _, .nan => false
  | .inf s, .inf t => s && !t
  | .inf s, .fin _ _ _ => s
  | .fin _ _ _, .inf t => !t
  | .fin s m e, .fin t n g => decide (atExp s m e (min e g) < atExp t n g (min e g))

/-- Whether a value is NaN. -/
def fvNan : FV → Bool
  | .nan => true
  | _ => false

/-- The sign of a value. -/
def fvSign : FV → Bool
  | .nan => false
  | .inf s => s
  | .fin s _ _ => s

/-- Numeric equality, −0 equal to +0. -/
def fvEq (a b : FV) : Bool := !fvNan a && !fvNan b && !fvLt a b && !fvLt b a

/-- The order of minimum, maximum and the sorted list: −0 below +0 (R94, R172). -/
def fvBelow (a b : FV) : Bool := fvLt a b || (fvEq a b && fvSign a && !fvSign b)

/-- min or max by R94. -/
def fvMinMax (isMax : Bool) (a b : FV) : FV :=
  if fvNan a then b else if fvNan b then a
  else if fvBelow a b then (if isMax then b else a) else (if isMax then a else b)

/-! ### Roots, exponentials and logarithms (R148) -/

/-- floor(sqrt n) bit by bit from bit b downwards. -/
def isqrtGo (n : Nat) : Nat → Nat → Nat
  | 0, r => r
  | b + 1, r => isqrtGo n b (if (r + 2 ^ b) * (r + 2 ^ b) ≤ n then r + 2 ^ b else r)

/-- floor(sqrt n). -/
def isqrt (n : Nat) : Nat := isqrtGo n (Nat.log2 n / 2 + 1) 0

/-- A result not exactly known: magnitude m 2^e with a nonzero part below it when sticky. -/
structure Approx where
  neg    : Bool
  m      : Nat
  e      : Int
  sticky : Bool
  deriving DecidableEq, Repr

/-- 1 / (m 2^e), m nonzero. -/
def recip (neg : Bool) (m : Nat) (e : Int) : Approx :=
  let k := Nat.log2 m + 96
  { neg := neg, m := 2 ^ k / m, e := -(k : Int) - e, sticky := 2 ^ k % m != 0 }

/-- 1 / sqrt(m 2^e), m nonzero. -/
def recipSqrt (m : Nat) (e : Int) : Approx :=
  let odd := decide (e % 2 ≠ 0)
  let m := if odd then 2 * m else m
  let e := if odd then e - 1 else e
  let k := Nat.log2 m + 96
  let q := isqrt (2 ^ (2 * k) / m)
  { neg := false, m := q, e := -(k : Int) - e / 2, sticky := q * q * m != 2 ^ (2 * k) }

/-- The product of the roots 2^(2^-i) chosen by the bits of f below bit n, at P = 256 fraction bits. c is the root
for bit n. -/
def expGo : Nat → Nat → Nat → Nat → Nat
  | 0, _, _, acc => acc
  | n + 1, f, c, acc =>
    let c := isqrt (c <<< 256)
    expGo n f c (if bitAt f n then (acc * c) >>> 256 else acc)

/-- 2^(±m 2^e), m nonzero. Beyond 2^11 the result is beyond every format's range; below 2^-80 it is 1 with
something to one side of it. -/
def exp2 (neg : Bool) (m : Nat) (e : Int) : Approx :=
  let top : Int := (Nat.log2 m : Int) + e
  if 11 ≤ top then { neg := false, m := 1, e := if neg then -4096 else 4096, sticky := true }
  else if top < -80 then
    if neg then { neg := false, m := 2 ^ 128 - 1, e := -128, sticky := true }
    else { neg := false, m := 2 ^ 128, e := -128, sticky := true }
  else
    let s := (if e < 0 then (-e).toNat else 0)
    let x : Int := ((m <<< (e + s).toNat : Nat) : Int)
    let x := if neg then -x else x
    let ip := x / (2 : Int) ^ s
    let f := (x % (2 : Int) ^ s).toNat
    if f = 0 then { neg := false, m := 1, e := ip, sticky := false }
    else { neg := false, m := expGo s f (2 <<< 256) (1 <<< 256) >>> 128, e := ip - 128, sticky := true }

/-- n bits of the fraction of log2 y, y in [1, 2) at 384 fraction bits, by repeated squaring. -/
def logGo : Nat → Nat → Nat → Nat
  | 0, _, acc => acc
  | n + 1, y, acc =>
    let z := (y * y) >>> 384
    if 2 <<< 384 ≤ z then logGo n (z / 2) (2 * acc + 1) else logGo n z (2 * acc)

/-- log2(m 2^e), m nonzero. -/
def log2 (m : Nat) (e : Int) : Approx :=
  let l := Nat.log2 m
  let ip : Int := (l : Int) + e
  if m = 2 ^ l then { neg := decide (ip < 0), m := ip.natAbs, e := 0, sticky := false }
  else
    let fr := logGo 128 (m <<< (384 - l)) 0
    if 0 ≤ ip then { neg := false, m := (ip.toNat <<< 128) + fr, e := -128, sticky := true }
    else { neg := true, m := (ip.natAbs <<< 128) - fr - 1, e := -128, sticky := true }

/-- An approximation rounded to a format. -/
def fpPackA (f : FpFmt) (r : Rm) (a : Approx) : Nat × Nat :=
  if a.m = 0 ∧ a.sticky = false then (fpZero f a.neg, 0) else fpRound f r false a.neg a.m a.e a.sticky

/-! ### Conversions (R98) -/

/-- A number to convert: floating point or integer. -/
inductive Num where
  | fp (v : FV)
  | int (z : Int)
  deriving DecidableEq, Repr

/-- Every value of the format a is a value of f: "wider or equal" of R98, whose conversions are exact. DEDUCED (log 66). -/
def FpFmt.within (a f : FpFmt) : Bool := decide (a.eb ≤ f.eb) && decide (a.fb ≤ f.fb) && (!a.hasInf || f.hasInf)

/-- Conversion to a floating-point format; wide says that the source is a floating-point format that f holds exactly (R98). -/
def convFp (f : FpFmt) (wide : Bool) (r : Rm) (sat : Bool) (x : Num) : Nat × Nat :=
  match x with
  | .fp .nan => (f.nan, 0)
  | .fp (.inf s) =>
    if sat && !wide then (withSign f s f.maxFin, fSAT + (if f.hasInf then 0 else fOF + fNX))
    else (withSign f s f.inf, if f.hasInf then 0 else fOF + fNX)
  | .fp (.fin s m e) => if m = 0 then (fpZero f s, 0) else fpRound f r sat s m e false
  | .int z => if z = 0 then (0, 0) else fpRound f r sat (decide (z < 0)) z.natAbs 0 false

/-- Conversion to an integer format (R98). -/
def convInt (k : IKind) (r : Rm) (sat : Bool) (x : Num) : Nat × Nat :=
  match x with
  | .fp .nan => (0, fNV)
  | .fp (.inf s) => (wrapBits (if s then iMin k else iMax k) k.width, fNV)
  | .fp (.fin s m e) =>
    let (n, inex) := roundAt r s m e 0 false
    let y : Int := if s then -(n : Int) else n
    let (z, c) := satI y k
    if c then (wrapBits z k.width, fNV + (if sat then fSAT else 0)) else (wrapBits y k.width, if inex then fNX else 0)
  | .int z => placeInt z k sat

/-- An element of a format as a number; BFP and PLANE elements are read by their own operations. -/
def readNum (f : Nat) (e : Efr) (bits : Nat) : Num :=
  if isFp f then .fp (fpDecode (fpFmt f) bits) else .int (readInt (ikindOf f e) e bits)

/-- A number of the format a placed in the format f (R98). -/
def convNum (a f : Nat) (e : Efr) (r : Rm) (sat : Bool) (x : Num) : Nat × Nat :=
  if isFp f then convFp (fpFmt f) (isFp a && (fpFmt a).within (fpFmt f)) r sat x else convInt (ikindOf f e) r sat x

/-! ### Block floating point (R99, R100) -/

/-- The larger magnitude of two values. -/
def magMax (a b : FV) : FV :=
  let abs : FV → FV
    | .nan => .nan
    | .inf _ => .inf false
    | .fin _ m e => .fin false m e
  if fvLt (abs a) (abs b) then abs b else abs a

/-- floor(log2 M) of R100; an infinity gives 127. -/
def floorLog (v : FV) : Int :=
  match v with
  | .fin _ m e => (Nat.log2 m : Int) + e
  | _ => 127

/-- Quantisation of a block: (element, is padding) to exponent byte, mantissas and flags (R100). An infinite element is
clamped and sets SAT alone: DESIGN CHOICE (log 67), R100 does not say whether its mantissa is inexact. -/
def bfpQuant (w : Nat) (xs : List (FV × Bool)) : Nat × List Nat × Nat :=
  let live := xs.filter (fun x => !x.2)
  if live.any (fun x => fvNan x.1) then (0xFF, xs.map (fun _ => 0), fNV)
  else
    let mx := live.foldl (fun a x => magMax a x.1) (.fin false 0 0)
    if fvEq mx (.fin false 0 0) then (0, xs.map (fun _ => 0), 0)
    else
      let e := floorLog mx
      let ex : Int := min (max (e + 127) 1) 254
      let k : IKind := ⟨w, true, true⟩
      let one : FV × Bool → Nat × Nat := fun x =>
        if x.2 then (0, 0) else
        match x.1 with
        | .fin s m g =>
          let (n, inex) := roundAt .rne s m (g + ((w : Int) - 2 - (ex - 127))) 0 false
          let (z, c) := satI (if s then -(n : Int) else n) k
          (wrapBits z w, (if inex then fNX else 0) ||| (if c then fSAT else 0))
        | .inf s => (wrapBits (if s then iMin k else iMax k) w, fSAT)
        | .nan => (0, 0)
      let rs := xs.map one
      (ex.toNat, rs.map (·.1), rs.foldl (fun a r => a ||| r.2) (if ex = e + 127 then 0 else fSAT))

/-- A BFP element's value (R99, R89). -/
def bfpValue (w ex mant : Nat) (e : Efr) : FV :=
  if ex = 0 then .fin false 0 0
  else if ex = 0xFF then .nan
  else if e.subst && mant % 2 ^ w == 2 ^ (w - 1) then fpDecode (fpFmt tBF16) e.value
  else
    let z := toSigned mant w
    .fin (decide (z < 0)) z.natAbs ((ex : Int) - 127 - ((w : Int) - 2))

/-- Flags of FFLAGS merged. -/
def orFlags (a b : Nat) : Nat := a ||| b

end Sys2Proof.Machine
end

