-- ==== Sys2Proof/Machine/Ops.lean ====
section
/-! DEFINITION. The named operations over the state: the bank in focus, registers, fault records and the taking of a
fault, memory at its home, far caches, page walks. Every meaning is written over these. -/

namespace Sys2Proof.Machine

/-- The little-endian number of n bytes of a record. -/
def recNat (r : List Byte) (off n : Nat) : Nat := leNat ((r.drop off).take n)

/-- What a meaning answers. -/
abbrev Out := Host.Outcome State Fault Refusal

/-- A fault of the machine (R62): cause, detail, items or units done, the place field; after says that the slot's
recorded point is the one after the operation (R133, R320), whole that no slot is named (R462), late that the bank
stops only when the other slots of the bundle's issue are done (R41, R438), met the line whose uncorrectable error a read has met (R349). -/
structure Flt where
  cause  : Nat
  detail : Nat
  done   : Nat := 0
  place  : Word := 0
  after  : Bool := false
  whole  : Bool := false
  late   : Bool := false
  met    : Option Nat := none
  deriving DecidableEq, Repr

/-- How an operation does not complete: a fault, or a stall (R22, R59). -/
inductive Stop where
  | fault (f : Flt)
  | stall
  deriving DecidableEq, Repr

/-- A computation that completes or stops. -/
abbrev M (α : Type) := Except Stop α

/-- A fault with cause and detail. -/
def raise {α : Type} (c d : Nat) : M α := .error (.fault { cause := c, detail := d })

/-- A fault that names a place. -/
def raiseAt {α : Type} (c d : Nat) (p : Word) : M α := .error (.fault { cause := c, detail := d, place := p })

/-- An uncorrectable error in a register or a kennel byte, by its number (R41, R438). -/
def raiseLate {α : Type} (d n : Nat) : M α :=
  .error (.fault { cause := cMEMORY_ERROR, detail := d, place := BitVec.ofNat 64 n, late := true })

/-- A read of a line has met an uncorrectable error (R349). -/
def raiseMet {α : Type} (line : Nat) : M α := .error (.fault { cause := cMEMORY_ERROR, detail := 0, met := some line })

/-- ILLEGAL_OPERAND. -/
def illegal {α : Type} : M α := raise cILLEGAL_OPERAND 0

/-- The operation waits. -/
def stall {α : Type} : M α := .error .stall

/-- c or a fault. -/
def need (c : Bool) (cause detail : Nat) : M Unit := if c then .ok () else raise cause detail

/-- c or ILLEGAL_OPERAND. -/
def legal (c : Bool) : M Unit := need c cILLEGAL_OPERAND 0

/-- c or a stall. -/
def await (c : Bool) : M Unit := if c then .ok () else stall

/-- The failure value of a token (R23). -/
def failVal (cause detail done : Nat) : Word :=
  BitVec.ofNat 64 (cause % 256 + detail % 256 * 2 ^ 8 + done % 2 ^ 32 * 2 ^ 16)

/-! ### Banks, cores, dies, contexts -/

/-- Bank b. -/
def State.getBank (s : State) (b : Nat) : Bank := if b = s.cur then s.bank else mget Bank.reset s.parked b

/-- Bank b replaced. -/
def State.setBank (s : State) (b : Nat) (k : Bank) : State :=
  if b = s.cur then { s with bank := k } else { s with parked := mset Bank.reset s.parked b k }

/-- Bank b changed. -/
def State.modBank (s : State) (b : Nat) (f : Bank → Bank) : State := s.setBank b (f (s.getBank b))

/-- The focus moved to bank b. -/
def State.focus (s : State) (b : Nat) : State :=
  if b = s.cur then s
  else { s with cur := b, bank := s.getBank b,
                parked := mset Bank.reset (mset Bank.reset s.parked s.cur s.bank) b Bank.reset }

/-- f run with bank b in focus. -/
def State.onBank (s : State) (b : Nat) (f : State → State) : State := (f (s.focus b)).focus s.cur

/-- Core of a bank (R18). -/
abbrev coreOf (b : Nat) : Nat := b / 2

/-- Compute die of a bank (R13). -/
abbrev dieOf (b : Nat) : Nat := b / 128

/-- Device cluster of a bank (R13). -/
abbrev clusterOf (b : Nat) : Nat := b / 32

/-- Mill group of a bank, by device Mill index (R13). -/
abbrev mgOf (b : Nat) : Nat := b / 8

/-- Core c. -/
def State.core (s : State) (c : Nat) : Core := mget Core.reset s.cores c

/-- Core c changed. -/
def State.modCore (s : State) (c : Nat) (f : Core → Core) : State :=
  { s with cores := mmod Core.reset s.cores c f }

/-- Mill group g. -/
def State.mg (s : State) (g : Nat) : MillGroup := mget MillGroup.reset s.mgs g

/-- Mill group g changed. -/
def State.modMg (s : State) (g : Nat) (f : MillGroup → MillGroup) : State :=
  { s with mgs := mmod MillGroup.reset s.mgs g f }

/-- The Mill of mill group g changed. -/
def State.modMill (s : State) (g : Nat) (f : Mill → Mill) : State :=
  s.modMg g fun m => { m with mill := f m.mill }

/-- Compute die d. -/
def State.die (s : State) (d : Nat) : Die := mget Die.reset s.dies d

/-- Compute die d changed. -/
def State.modDie (s : State) (d : Nat) (f : Die → Die) : State := { s with dies := mmod Die.reset s.dies d f }

/-- The length of a cycle in units of 1/504 ns: 2.25, 2.0, 1.8, 1.6, 1.4 or 1.2 GHz by the clock step of the die of the bank in focus,
and 1.2 GHz on a die that is hot (R2, R439); within a bundle, the length at its start. -/
def State.period (s : State) : Nat :=
  let d := s.die (dieOf s.cur)
  match s.bank.cur with
  | some r => r.period
  | none => if d.hot then 420 else ([224, 252, 280, 315, 360] : List Nat)[d.step]?.getD 420

/-- A cycle counted by a bank that holds its core's sequencer (R35). -/
def Bank.cycled (k : Bank) (on : Bool) : Bank :=
  if on && k.run != .free then { k with ctl := { k.ctl with cycle := k.ctl.cycle + 1 } } else k

/-- A cycle of the arithmetic clock passes: CYCLE of every issuing bank, and TIME (R35). -/
def State.passCycle (s : State) : State :=
  let on (b : Nat) : Bool := (s.core (coreOf b)).active == b % 2
  { s with cycle := s.cycle + 1, time := s.time + s.period, bank := s.bank.cycled (on s.cur),
           parked := s.parked.map fun x => (x.1, x.2.cycled (on x.1)) }

/-- Context c. -/
def State.ctx (s : State) (c : Nat) : Ctx := mget Ctx.reset s.ctxs c

/-- Context c changed. -/
def State.modCtx (s : State) (c : Nat) (f : Ctx → Ctx) : State := { s with ctxs := mmod Ctx.reset s.ctxs c f }

/-- Kernel in slot k of context c. -/
def State.kernel (s : State) (c k : Nat) : Option Kernel := mget none (s.ctx c).kernels k

/-- The kernel in slot k of context c changed, if there is one. -/
def State.modKernel (s : State) (c k : Nat) (f : Kernel → Kernel) : State :=
  s.modCtx c fun x => { x with kernels := mmod none x.kernels k (Option.map f) }

/-- Table slot of a kernel id (R266). -/
abbrev kslot (kid : Nat) : Nat := kid % 4096

/-- The key under which a context keeps a kernel whose slot a later kernel has taken while a stopped task of it still runs (R266). -/
abbrev goneKey (kid : Nat) : Nat := 2 ^ 32 + kid

/-- The kernel of a context that bears an id (R266). -/
def State.kernelOf (s : State) (c kid : Nat) : Option Kernel :=
  match s.kernel c (kslot kid) with
  | some x => if x.gen = kid / 65536 then some x else s.kernel c (goneKey kid)
  | none => s.kernel c (goneKey kid)

/-- The kernel of the task in focus. -/
def State.myKernel (s : State) : Option Kernel := s.kernelOf s.bank.id.ctx s.bank.id.kid

/-- A notice to Lorso or the host. -/
def State.notify (s : State) (n : Notice) : State := { s with notices := s.notices ++ [n] }

/-- A command that the hardware refuses, its register or page as it was (R16). -/
def State.refuse (s : State) : State := s.notify (.refused 0 0)

/-- A command that finds no row of its table (R11): refused with ILLEGAL_OPERAND. -/
def State.noRow (s : State) : State := s.notify (.refused cILLEGAL_OPERAND 0)

/-- The next value of the counter that free values are applied to. -/
def State.ticked (s : State) : State := { s with tick := s.tick + 1 }

/-! ### Scalar registers (R21, R22) -/

/-- The bank in focus changed. -/
def State.upd (s : State) (f : Bank → Bank) : State := { s with bank := f s.bank }

/-- Register a as the issue reads it: the value before any write of the issue (R59); x0 reads zero. -/
def State.rx (s : State) (a : XReg) : Word := if a = 0 then 0 else mget 0 s.bank.view.x a.toNat

/-- An ordinary write to register a, which ends its accumulation (R57) and its poison (R438); a write to x0 is discarded. -/
def State.setX (s : State) (a : XReg) (v : Word) : State :=
  if a = 0 then s
  else s.upd fun b => { b with regs := { b.regs with x := mset 0 b.regs.x a.toNat v,
                                                      tok := mset Tok.idle b.regs.tok a.toNat Tok.idle },
                               rpoison := mset false b.rpoison a.toNat false }

/-- Register a is pending (R22) in a register file. -/
def Regs.pending (r : Regs) (a : XReg) : Bool := a != 0 && (mget Tok.idle r.tok a.toNat).out != []

/-- An uncorrectable error in a register (R438): scalar 0 to 63, vector 64 + key, predicate 512 + key. -/
def State.poisoned (s : State) (n : Nat) : Bool := mget false s.bank.rpoison n

/-- The sources are readable and the destination writable: a pending one stalls (R22, R107), a poisoned source is
MEMORY_ERROR detail 4 with the register number in the place field (R438). -/
def State.operands (s : State) (srcs : List XReg) (dst : XReg) : M Unit :=
  if srcs.any s.bank.view.pending || s.bank.regs.pending dst then stall
  else match srcs.find? (fun a => a != 0 && s.poisoned a.toNat) with
    | some a => raiseLate 4 a.toNat
    | none => .ok ()

/-- Tokens of a register file after issue n names register k: a present operation starts a new accumulation. -/
def Regs.mark (r : Regs) (k : XReg) (n : Nat) (fresh : Bool) : Regs :=
  if k = 0 then r
  else
    let t := if fresh then Tok.idle else mget Tok.idle r.tok k.toNat
    { r with tok := mset Tok.idle r.tok k.toNat { t with out := t.out ++ [n] } }

/-- Register k becomes pending for issue n of the bank in focus (R22). -/
def State.markTok (s : State) (k : XReg) (n : Nat) (fresh : Bool) : State :=
  s.upd fun b => { b with regs := b.regs.mark k n fresh }

/-- The value a register receives when the last of its issues has completed (R57). -/
def Tok.value (t : Tok) : Word :=
  match t.fail with
  | some (_, v) => v
  | none => t.okv

/-- A register file after issue n, which names register k, completes with a value; ok says that it is a success. -/
def Regs.complete (r : Regs) (k n : Nat) (ok : Bool) (v : Word) : Regs :=
  let t := mget Tok.idle r.tok k
  if n ∈ t.out then
    let out := t.out.erase n
    let fail := if ok then t.fail else
      match t.fail with
      | some (m, w) => if m ≤ n then some (m, w) else some (n, v)
      | none => some (n, v)
    let t := { t with out := out, fail := fail, okv := if ok then v else t.okv }
    { r with tok := mset Tok.idle r.tok k t, x := if out = [] then mset 0 r.x k t.value else r.x }
  else r

/-- The value that a token read standing before issue n receives, if every issue naming it before n is done (R57). -/
def Tok.before (t : Tok) (n : Nat) : Option Word :=
  if t.out.any (· < n) then none
  else match t.fail with
    | some (m, v) => if m < n then some v else some 0
    | none => some t.okv

/-- A waiting dependence after a completion. -/
def Dep.settle (r : Regs) : Dep → Dep
  | .val v => .val v
  | .tok k n => match (mget Tok.idle r.tok k).before n with
    | some v => .val v
    | none => .tok k n

/-- complete(k, status) for issue n in a bank (R9, R22, R57): the register, and every operation, command and stream that
waits on it. A register that is written is no longer poisoned (R438). -/
def Bank.completeTok (x : Bank) (k n : Nat) (ok : Bool) (v : Word) : Bank :=
  if k = 0 then x
  else
    let r := x.regs.complete k n ok v
    let written := n ∈ (mget Tok.idle x.regs.tok k).out ∧ (mget Tok.idle r.tok k).out = []
    { x with regs := r, rpoison := if written then mset false x.rpoison k false else x.rpoison, view := x.view.complete k n ok v, lag := x.lag.map fun e => { e with view := e.view.complete k n ok v },
             ops := x.ops.map fun o => { o with deps := o.deps.map (Dep.settle r) },
             cmds := x.cmds.map fun o => { o with deps := o.deps.map (Dep.settle r) },
             streams := x.streams.map fun o =>
               { o with deps := o.deps.map (Dep.settle r), udeps := o.udeps.map (Dep.settle r) } }

/-- complete(k, status) for issue n of bank b (R9, R22, R57). -/
def State.completeTok (s : State) (b k n : Nat) (ok : Bool) (v : Word) : State :=
  s.modBank b fun x => x.completeTok k n ok v

/-- One more than the latest issue that a register's scoreboard tells of. -/
def Tok.bound (t : Tok) : Nat := ((t.out ++ (t.fail.map (·.1)).toList).foldl max 0) + 1

/-- How an issue takes a consumed token: the value of a register with nothing pending, else its number (R22), waiting for the issues that
name it before this issue: what another slot of the same issue names is written after every read (R57, R59). x0 consumes none. -/
def State.depOf (s : State) (a : XReg) : Dep :=
  if a = 0 then .val 0
  else if s.bank.view.pending a then .tok a.toNat (mget Tok.idle s.bank.view.tok a.toNat).bound
  else .val (mget 0 s.bank.view.x a.toNat)

/-- The tokens that an operation consumes hold no uncorrectable error, unless they are pending (R22, R438). -/
def State.tokensGood (s : State) (ks : List XReg) : M Unit :=
  match ks.find? fun a => a != 0 && !s.bank.view.pending a && s.poisoned a.toNat with
  | some a => raiseLate 4 a.toNat
  | none => .ok ()

/-! ### Homes, far caches and memory (R246, R424) -/

/-- Exclusive or of the low n bits. -/
def parityGo (w : Nat) : Nat → Bool
  | 0 => false
  | n + 1 => xor (w.testBit n) (parityGo w n)

/-- The mask of die bit n, its default where none is written (R424). -/
def State.homeMask (s : State) (n : Nat) : Nat :=
  let w := mget 0 s.homeM n
  if w = 0 then (if n = 0 then 0x0080_2008_0200 else 0x0100_4010_0400) else w.toNat

/-- The home die of an expanded address (R331, R424). -/
def State.home (s : State) (a : Nat) : Nat :=
  (if parityGo (a &&& s.homeMask 0) 48 then 1 else 0) + (if parityGo (a &&& s.homeMask 1) 48 then 2 else 0)

/-- The byte of an expanded address at its home; a byte nothing has written reads zero (R331). -/
def State.byteAt (s : State) (a : Nat) : Byte := mget 0 s.mem a

/-- n bytes at their homes. -/
def State.bytesAt (s : State) (a n : Nat) : List Byte := mgets 0 s.mem a n

/-- The little-endian word of n bytes at its home. -/
def State.wordAt (s : State) (a n : Nat) : Word := BitVec.ofNat 64 (leNat (s.bytesAt a n))

/-- A live table of the die is that of a block header's generation, which is kept modulo 16 (R333, R335). -/
def Cmp.names (c : Cmp) (gen : Nat) : Bool :=
  let is (t : Option Table) : Bool := t.any fun t => t.gen % 16 == gen % 16
  is c.cur || is c.prev

/-- A block as an access finds it (R331, R335, R349): sectors that return an uncorrectable error, or a header that names no live
generation, poison lines of it; all of them when it is compressed. -/
def State.blockAt (s : State) (blk : Nat) : BlockEnt :=
  let e := mget BlockEnt.zero s.blocks blk
  let bad := mget 0 s.ecc blk
  if e.count = 0 then e
  else if e.raw then { e with poison := e.poison ||| bad }
  else if bad.toNat % 2 ^ e.count ≠ 0 ∨ !(s.die (s.home (blk * 512))).cmp.names e.gen then { e with poison := 0xFF }
  else e

/-- The line of an address holds an uncorrectable error (R331, R349). -/
def State.linePoison (s : State) (a : Nat) : Bool := (s.blockAt (a / 512)).poison.getLsbD (a / 64 % 8)

/-- A line of 64 bytes at its home. -/
def State.lineBits (s : State) (line : Nat) : BitVec 512 := BitVec.ofNat 512 (leNat (s.bytesAt (line * 64) 64))

/-- A line is staged by a group that some weir holds PREPARED (R359). -/
def State.prepHeld (s : State) (line : Nat) : Bool :=
  [0, 1, 2, 3].any fun d => (s.die d).weir.any fun g =>
    g.prepared && g.lines.any fun l => l.addr / 64 == line

/-- The age at which a far-cache line is dropped (R248). -/
abbrev farAge : Nat := 2 ^ 20

/-- Die d's far-cache line, unless it has passed its age (R246, R248). -/
def State.farLine (s : State) (d line : Nat) : Option FarLine :=
  match mget none (s.die d).far line with
  | some l => if s.cycle < l.born + farAge then some l else none
  | none => none

/-- Lines of a far cache: 16 MiB (R14). -/
abbrev farLines : Nat := 2 ^ 18

/-- A far cache with a free line: a full one gives up some line (R248). -/
def farRoom (m : Map (Option FarLine)) (tick : Nat) : Map (Option FarLine) :=
  if m.length < farLines then m else m.eraseIdx (Config.entryChoice tick % m.length)

/-! ### Links (R372, R385 to R390) -/

/-- The Sheepdog, numbered after the compute dies. -/
abbrev sheepdog : Nat := 4

/-- Cycles of a time in µs: 2.25 GHz (R2). -/
abbrev usCycles (n : Nat) : Nat := 2250 * n

/-- The number of the die link between two dies (R372); die 4 is the Sheepdog. -/
def dieLink (a b : Nat) : Nat :=
  let lo := min a b
  let hi := max a b
  if lo = 0 then hi - 1 else if lo = 1 then hi + 2 else if lo = 2 then hi + 4 else 9

/-- A link. -/
def State.link (s : State) (l : Nat) : Link := mget Link.reset s.links l

/-- A link changed. -/
def State.modLink (s : State) (l : Nat) (f : Link → Link) : State := { s with links := mmod Link.reset s.links l f }

/-- The Ethernet ports (R372). -/
def ethPort (l : Nat) : Bool := decide (32 ≤ l ∧ l ≤ 35)

/-- The key of VC v of link l (R372, R384, R385): way is 0 or 1 on a die link, from the lower die or from the higher one, and the peer
device on an Ethernet port. -/
def vcKey (l v way : Nat) : Nat := if l < 10 then v + 8 * (way % 2) else if ethPort l then 16 + 8 * way + v else v

/-- The VC under a key of a link: an Ethernet peer without a record has the port's mode and state (R384). -/
def Link.vc (l : Link) (v : Nat) : Vc :=
  if v < 16 then mget Vc.reset l.vcs v
  else mget { mget Vc.reset l.vcs (v % 8) with cnt := 0, rcnt := 0, key := none, rkey := none, next := none, rnext := none } l.vcs v

/-- A VC of a link changed. -/
def Link.modVc (l : Link) (v : Nat) (f : Vc → Vc) : Link := { l with vcs := mset Vc.reset l.vcs v (f (l.vc v)) }

/-- Whether a VC of a link carries new items: none, or the detail of LINK_FAULT (R390). -/
def State.vcFails (s : State) (l v : Nat) : Option Nat :=
  let k := s.link l
  if k.phys = 3 then some 3
  else if (k.vc v).st = 2 then some 2
  else if (k.vc v).st = 3 then some 3
  else none

/-- A mode that waits takes effect once both ends have come to the agreed count (R384). -/
def Vc.agreed (x : Vc) : Vc :=
  if x.next.isNone && x.rnext.isNone then { x with mode := x.nmode.getD x.mode, nmode := none } else x

/-- The key of a VC's sending direction changed (R386). -/
def Vc.switch (x : Vc) (k : Key) : Vc :=
  Vc.agreed { x with key := some k, next := none, cnt := 0, stop := false, st := if x.st = 1 ∧ x.rnext.isNone then 0 else x.st }

/-- The key of a VC's receiving direction changed. -/
def Vc.rswitch (x : Vc) (k : Key) : Vc :=
  Vc.agreed { x with rkey := some k, rnext := none, rcnt := 0, st := if x.st = 1 ∧ x.next.isNone ∧ !x.stop then 0 else x.st }

/-- A group accepted by a receiver: the next counter value is expected, or that of the new key (R385, R386). -/
def Vc.accepted (x : Vc) (counter : Nat) : Vc :=
  let x := { x with rcnt := counter + 1, bad := 0 }
  match x.rnext with
  | some (k, at_) => if x.rcnt = at_ then x.rswitch k else x
  | none => x

/-- One flit group sent on a VC (R385 to R387): a protected VC counts it, changes keys at its switch count, and stops before the last
counter value when no next key is installed. -/
def State.sendGroup (s : State) (l v : Nat) : State :=
  let x := (s.link l).vc v
  if x.mode = 0 then s
  else
    let n := x.cnt + 1
    let put (y : Vc) : State := s.modLink l fun k => { k with vcs := mset Vc.reset k.vcs v y }
    match x.next with
    | some (k, at_) => if n = at_ then put (x.switch k) else put { x with cnt := n }
    | none =>
      if n = 2 ^ 32 - 1 then
        ((put { x with cnt := n, st := 1, stop := true, since := s.cycle }).modLink l fun k => { k with evt := k.evt ||| BitVec.ofNat 64 (2 ^ v) }).notify
          (.rekey l v)
      else put { x with cnt := n }

/-- The direction of a die link from die a to die b: 0 from the lower one. -/
def dieWay (a b : Nat) : Nat := if a < b then 0 else 1

/-- Whether VC v from die a to die b carries new items: none, or the detail of LINK_FAULT (R372, R390). -/
def State.dieFails (s : State) (a b v : Nat) : Option Nat :=
  if a = b then none else s.vcFails (dieLink a b) (vcKey (dieLink a b) v (dieWay a b))

/-- A receiver takes the groups of its sender: without protection, or under the same key at the same count (R385, R386). -/
def Vc.inStep (x : Vc) : Bool := x.mode == 0 || (x.key == x.rkey && x.cnt == x.rcnt)

/-- An item crosses from die a to die b in VC v and is received there (R372, R380, R385 to R387): none while the VC is QUARANTINED or DOWN, has
stopped for want of a key, or its two ends hold different keys. -/
def State.cross (s : State) (a b v : Nat) : Option State :=
  let l := dieLink a b
  let k := vcKey l v (dieWay a b)
  let x := (s.link l).vc k
  if a = b then some s
  else if (s.dieFails a b v).isSome || x.stop || !x.inStep then none
  else if x.mode = 0 then some s
  else some ((s.sendGroup l k).modLink l fun y => y.modVc k fun z => z.accepted x.rcnt)

/-- A request in VC v from die a to die b and its answer in VC r (R372, R380): LINK_FAULT where a VC fails, a wait where one has stopped. -/
def State.round (s : State) (a b v r : Nat) : M State :=
  match (s.dieFails a b v).or (s.dieFails b a r) with
  | some x => raise cLINK_FAULT x
  | none => match (s.cross a b v).bind fun t => t.cross b a r with
    | some t => .ok t
    | none => stall

/-- Requests from a die to several others and their answers. -/
def State.rounds (s : State) (a : Nat) (bs : List Nat) (v r : Nat) : M State := bs.foldlM (fun s b => s.round a b v r) s

/-! ### HBM banks and rows (R423 to R429) -/

/-- The mask of hashed selector n in profile p of a die: the default where none is written (R425). -/
def Die.hashMask (x : Die) (p n : Nat) : Nat :=
  let w := mget 0 x.hmask (16 * p + n)
  if w = 0 then 2 ^ (6 + n) + (if 7 ≤ n then 2 ^ (14 + n) else 0) else w.toNat

/-- The unit and bank of a die-local address, as MEM.TEST bits 10..0 name them (R425, R429). -/
def Die.bankOf (x : Die) (a : Nat) : Nat :=
  let p := if mget false x.rgn (a / 2 ^ 30) then 1 else 0
  let bit (n : Nat) : Nat := if parityGo (a &&& x.hashMask p n) 37 then 1 else 0
  let at_ (n : Nat) : Nat := bit n * 2 ^ (if n = 7 ∨ n = 8 then n + 2 else if n = 9 ∨ n = 10 then n - 2 else n)
  ((List.range 11).map at_).foldl (· + ·) 0

/-- MEM.TEST bits 10..0: the bank under test (R429). -/
def MemTest.bits (t : MemTest) : Nat := t.unit + t.bank * 2 ^ 7

/-- A row of a redirected bank is served from its park copy (R429): in PARKING once it is copied, in RESTORING until it is copied back. -/
def MemTest.inPark (t : MemTest) (bank row : Nat) : Bool :=
  t.bits != bank || (if t.st = 1 then decide (row < t.row) else if t.st = 3 then decide (t.row ≤ row) else true)

/-- The die-local address at which a sector is served: a tested bank's rows stand in its park area (R429). -/
def Die.served (x : Die) (sector : Nat) : Nat :=
  let a := sector * 64
  match x.redir.find? (·.1 == x.bankOf a) with
  | some (b, base) => if x.test.inPark b (bitsOf a 36 21) then base + bitsOf a 36 21 * 1024 + bitsOf a 20 17 * 64 else a
  | none => a

/-- The row of a sector: its bank and row (R425, R428). -/
def Die.rowOf (x : Die) (sector : Nat) : Nat := x.bankOf (x.served sector) * 65536 + bitsOf (x.served sector) 36 21

/-- An access to a sector waits (R423, R428, R429): for the refresh of its bank, for a row of it that has reached 2,048 activations to be
exchanged, or for the copy of its row in a bank test. -/
def Die.sectorWaits (x : Die) (now sector : Nat) : Bool :=
  let b := x.bankOf (x.served sector)
  x.refresh.any (fun r => r.1 == b && decide (now < r.2)) || x.acts.any (fun a => decide (2048 ≤ a.2) && a.1 / 65536 == b) ||
  ((x.test.st == 1 || x.test.st == 3) && bitsOf (sector * 64) 36 21 == x.test.row && x.bankOf (sector * 64) == x.test.bits)

/-- Each access activates its row (R423, R428). -/
def Die.activate (x : Die) (sectors : List Nat) : Die := { x with acts := sectors.foldl (fun m k => mmod 0 m (x.rowOf k) (· + 1)) x.acts }

/-- The sectors of a block that a read of its line i reaches: one of a raw block, all of a compressed one (R331). -/
def BlockEnt.sectors (b : BlockEnt) (i : Nat) : List Nat := if b.raw then [b.sector + i] else (List.range b.count).map (b.sector + ·)

/-- The accesses of a read of a line at its home. -/
def State.readRows (s : State) (line : Nat) : State :=
  let b := mget BlockEnt.zero s.blocks (line / 8)
  if b.count = 0 then s else s.modDie (s.home (line * 64)) (·.activate (b.sectors (line % 8)))

/-- A read of a line waits for a bank that holds it (R423, R428, R429). -/
def State.lineWaits (s : State) (line : Nat) : Bool :=
  let b := mget BlockEnt.zero s.blocks (line / 8)
  b.count != 0 && (b.sectors (line % 8)).any ((s.die (s.home (line * 64))).sectorWaits s.cycle)

/-- A write of a block waits for a bank that holds its sectors (R423, R428, R429). -/
def State.blockWaits (s : State) (blk : Nat) : Bool :=
  let b := mget BlockEnt.zero s.blocks blk
  b.count != 0 && ((List.range b.count).map (b.sector + ·)).any ((s.die (s.home (blk * 512))).sectorWaits s.cycle)

/-- A fill of a far-cache line from its home (R246, R247), over the die link in VC v: not while a write-through of the die to the line is
unsettled, and not while the line is under prepare-hold. -/
def State.fillLine (s : State) (d line c : Nat) (v : Nat := 0) : M State :=
  if s.wts.any (fun w => w.src == d && w.ws.any (fun x => x.1 / 64 == line)) || s.prepHeld line || s.lineWaits line then stall
  else do
    let t ← s.round d (s.home (line * 64)) v 1
    if s.linePoison (line * 64) then raiseMet line
    else pure ((t.readRows line).modDie d fun x => { x with far := mset none (farRoom x.far s.tick) line (some ⟨s.lineBits line, s.cycle, c⟩) })

/-- The homes of some expanded addresses, each once. -/
def State.homesOf (s : State) (as : List Nat) : List Nat := ((as.map (· / 64)).eraseDups.map fun l => s.home (l * 64)).eraseDups

/-- The far-cache lines of die d that satisfy f dropped (R248). -/
def State.dropFar (s : State) (d : Nat) (f : Nat → FarLine → Bool) : State :=
  s.modDie d fun x => { x with far := x.far.filter fun (k, l) => match l with
    | some l => !f k l
    | none => false }

/-- The drop of an acquire at DEVICE or SYSTEM scope: the lines of the context on the die (R131, R248). -/
def State.dropCtx (s : State) (d c : Nat) : State := s.dropFar d fun _ l => l.ctx == c

/-- A list of lines dropped on every die (R248). -/
def State.dropLines (s : State) (ls : List Nat) : State :=
  [0, 1, 2, 3].foldl (fun s d => s.dropFar d fun k _ => ls.contains k) s

/-! ### Sectors and blocks (R331 to R339, R427) -/

/-- n contiguous sectors within one 1 GiB region, the lowest first (R427); none when no run is long enough. -/
def takeRun (n : Nat) : List (Nat × Nat) → Option (Nat × List (Nat × Nat))
  | [] => none
  | (a, l) :: rs =>
    let start := if a % 2 ^ 24 + n ≤ 2 ^ 24 then a else (a / 2 ^ 24 + 1) * 2 ^ 24
    if start + n ≤ a + l then
      some (start, (if a < start then [(a, start - a)] else []) ++
        (if start + n < a + l then [(start + n, a + l - (start + n))] else []) ++ rs)
    else (takeRun n rs).map fun (x, rs) => (x, (a, l) :: rs)

/-- Sectors returned to the pool, merged with their neighbours. -/
def giveRun (a n : Nat) : List (Nat × Nat) → List (Nat × Nat)
  | [] => [(a, n)]
  | (b, l) :: rs =>
    if b + l = a then giveRun b (l + n) rs
    else if a + n = b then (a, n + l) :: rs
    else if a < b then (a, n) :: (b, l) :: rs
    else (b, l) :: giveRun a n rs

/-- The sectors a block needs on its home die, and whether it is stored raw (R332, R333). -/
def encodeBlock (cur : Option Table) (raw : Bool) (bs : List Byte) : Nat × Bool :=
  match cur with
  | none => (8, true)
  | some t =>
    let n := (16 + payloadBits t (halves bs) + 511) / 512
    if raw || 7 < n then (8, true) else (n, false)

/-- Whether a request for e extra sectors is granted (R339). -/
def Cmp.grants (c : Cmp) (lv : Level) (e : Nat) : Bool :=
  match lv with
  | .bank => c.rsv + e ≤ c.free
  | .reserve => e ≤ c.free

/-- free changes, and falling below low or rising to it is seen (R337, R338, R341). -/
def Cmp.setFree (c : Cmp) (f : Nat) : Cmp :=
  let rose := c.under && c.low ≤ f
  { c with free := f, under := decide (f < c.low), retr := c.retr || decide (f < c.low),
           evt := if rose then c.evt ||| 1 else c.evt, spaced := c.spaced || rose }

/-- The blocks of a die, but for one, moved together in the sectors that they and the free runs hold. -/
def State.compacted (s : State) (d blk : Nat) (runs : List (Nat × Nat)) : Option (List (Nat × Nat) × Map BlockEnt) :=
  let mine := s.blocks.filter fun b => b.1 != blk && s.home (b.1 * 512) == d
  mine.foldlM (fun (r : List (Nat × Nat) × Map BlockEnt) b =>
      (takeRun b.2.count r.1).map fun x => (x.2, mset BlockEnt.zero r.2 b.1 { b.2 with sector := x.1 }))
    (mine.foldl (fun r b => giveRun b.2.sector b.2.count r) runs, s.blocks)

/-- n sectors for a block out of free runs (R427), with the runs left and the block map. Where no run is long enough the controller
first moves the die's blocks together, since R339 grants by the number of free sectors alone: DESIGN CHOICE (log 74). -/
def State.runFor (s : State) (d blk n : Nat) (runs : List (Nat × Nat)) : Option (Nat × List (Nat × Nat) × Map BlockEnt) :=
  match takeRun n runs with
  | some (a, r) => some (a, r, s.blocks)
  | none => (s.compacted d blk runs).bind fun x => (takeRun n x.1).map fun y => (y.1, y.2, x.2)

/-- A block's sectors changed to n, from the pool: a block that asks for no extra sectors keeps its first ones and returns the others, one
that grows is granted a run of its own (R332, R427). rsv sectors of the change were reserved beforehand and are returned as far as they
are not used. -/
def State.regrant (s : State) (blk : Nat) (n : Nat) (raw : Bool) (poison : BitVec 8) (rsv : Nat) : Option State :=
  let d := s.home (blk * 512)
  let old := mget BlockEnt.zero s.blocks blk
  let c := (s.die d).cmp
  let got := if n = old.count then some (old.sector, c.runs, s.blocks)
    else if n < old.count then some (old.sector, giveRun (old.sector + n) (old.count - n) c.runs, s.blocks)
    else s.runFor d blk n (if old.count = 0 then c.runs else giveRun old.sector old.count c.runs)
  got.map fun (first, runs, blocks) =>
    let gen := match c.cur with
      | some t => t.gen
      | none => 0
    let ent := if n = 0 then BlockEnt.zero else ⟨n, raw, poison, first, if raw then 0 else gen⟩
    let c := ({ c with runs := runs }).setFree (c.free + rsv + old.count - n)
    let touched := (List.range old.count).map (old.sector + ·) ++ (List.range ent.count).map (ent.sector + ·)
    { (s.modDie d fun x => { x.activate touched with cmp := c }) with
      blocks := mset BlockEnt.zero blocks blk ent, ecc := mset 0 s.ecc blk 0 }

/-- A change of a block's sectors that is no request for more of them. -/
def State.resize (s : State) (blk : Nat) (n : Nat) (raw : Bool) (poison : BitVec 8) (rsv : Nat) : State :=
  (s.regrant blk n raw poison rsv).getD s

/-- A line whose uncorrectable error a read has met (R349): the block's entry keeps it and the block is stored raw from then on, if the
free sectors suffice; else its form waits for its next write. DESIGN CHOICE (log 98). -/
def State.keepError (s : State) (line : Nat) : State :=
  let blk := line / 8
  let e := s.blockAt blk
  if e = mget BlockEnt.zero s.blocks blk then s
  else match (if (s.die (s.home (blk * 512))).cmp.grants .reserve (8 - e.count) then s.regrant blk 8 true e.poison 0 else none) with
    | some t => t
    | none => { s with blocks := mset BlockEnt.zero s.blocks blk e }

/-- The error that a failed read has met kept in its block's entry. -/
def State.metError (s : State) (f : Flt) : State := match f.met with
  | some line => s.keepError line
  | none => s

/-- The bytes of a block. -/
def State.blockBytes (s : State) (blk : Nat) : List Byte := s.bytesAt (blk * 512) 512

/-- What stands in a block's sectors (R331, R333): its bytes when raw, else their code in the table that its header names. -/
def State.sectorBytes (s : State) (blk : Nat) : List Byte :=
  let e := mget BlockEnt.zero s.blocks blk
  let c := (s.die (s.home (blk * 512))).cmp
  if e.count = 0 then []
  else if e.raw then s.blockBytes blk
  else match [c.cur, c.prev].find? fun t => t.any fun t => t.gen % 16 == e.gen % 16 with
    | some (some t) => storedBlock t e.count (s.blockBytes blk)
    | _ => []

/-- A write of some bits of expanded bytes: (address, value, mask). -/
abbrev AWrite := Nat × Byte × Byte

/-- One masked byte merged at its home (R244). -/
def State.mergeByte (s : State) (w : AWrite) : State :=
  { s with mem := mset 0 s.mem w.1 ((s.byteAt w.1 &&& ~~~w.2.2) ||| (w.2.1 &&& w.2.2)) }

/-- The blocks a list of writes touches, each once. -/
def blocksOf (ws : List AWrite) : List Nat := (ws.map (·.1 / 512)).eraseDups

/-- A frame's blocks are always stored raw: its page has C = 0 (R326, R332). -/
def State.rawFrame (s : State) (a : Nat) : Bool := !(mget Frame.none s.frames (a / 65536)).comp

/-- A line of the block is covered whole by the writes, so its poison bit clears (R349). -/
def coversLine (ws : List AWrite) (line : Nat) : Bool :=
  (List.range 64).all fun i => ws.any fun w => w.1 == line * 64 + i && w.2.2 == 0xFF#8

/-- The poison bits of a block after writes (R349). -/
def newPoison (old : BitVec 8) (blk : Nat) (ws : List AWrite) : BitVec 8 :=
  (List.range 8).foldl (fun p i => if old.getLsbD i && coversLine ws (blk * 8 + i) then p &&& ~~~(1#8 <<< i) else p) old

/-- The halfwords that a learning phase counts: every 16th block written (R334). -/
def Cmp.sample (c : Cmp) (bs : List Byte) : Cmp :=
  if c.learn then
    { c with nblk := c.nblk + 1,
             counts := if c.nblk % 16 = 0 then (halves bs).foldl (fun m h => mmod 0 m h (· + 1)) c.counts else c.counts }
  else c

/-- The form of a block after writes: sectors, raw, poison. hint is the hint bit of the writing extent (R264, R332). -/
def State.blockForm (s : State) (merged : State) (ws : List AWrite) (hint : Bool) (blk : Nat) : Nat × Bool × BitVec 8 :=
  let p := newPoison (s.blockAt blk).poison blk ws
  let (n, raw) := encodeBlock (s.die (s.home (blk * 512))).cmp.cur (s.rawFrame (blk * 512) || hint || p != 0) (merged.blockBytes blk)
  (n, raw, p)

/-- Sectors reserved for a block by a grant. -/
def rsvOf (rsv : List (Nat × Nat)) (blk : Nat) : Nat :=
  match rsv.find? (fun x => x.1 == blk) with
  | some x => x.2
  | none => 0

/-- Writes performed at their homes (R332): decode, merge, encode; every block's extra sectors are had before any byte
is written (R166). none is a refusal (R339, R340). rsv are the reservations granted before (R247); hint is the hint bit of the writing
extent. -/
def State.homeWrite (s : State) (lv : Level) (rsv : List (Nat × Nat)) (ws : List AWrite) (hint : Bool := false) : Option State :=
  let merged := ws.foldl State.mergeByte s
  let blks := blocksOf ws
  let ok := [0, 1, 2, 3].all fun d =>
    let mine := blks.filter fun b => s.home (b * 512) == d
    let grow := mine.foldl (fun e b =>
      let old := mget BlockEnt.zero s.blocks b
      let n := (s.blockForm merged ws hint b).1
      e + (n - (old.count + rsvOf rsv b))) 0
    grow == 0 || (s.die d).cmp.grants lv grow
  if ok then
    blks.foldlM (fun (t : State) b =>
      let (n, raw, p) := s.blockForm merged ws hint b
      (t.regrant b n raw p (rsvOf rsv b)).map fun t =>
        t.modDie (s.home (b * 512)) fun x => { x with cmp := x.cmp.sample (merged.blockBytes b) }) merged
  else none

/-- Some written block of 512 bytes already holds an uncorrectable error (R166, R215); one that the writes clear counts too (log 72). -/
def State.writePoison (s : State) (ws : List AWrite) : Bool :=
  (blocksOf ws).any fun b => (s.blockAt b).poison != 0

/-- Far-cache lines with one masked byte written. -/
def farPut (m : Map (Option FarLine)) (w : AWrite) : Map (Option FarLine) :=
  match mget none m (w.1 / 64) with
  | some l =>
    let sh := 8 * (w.1 % 64)
    let mk : BitVec 512 := (w.2.2.zeroExtend 512) <<< sh
    mset none m (w.1 / 64) (some { l with bits := (l.bits &&& ~~~mk) ||| (((w.2.1 &&& w.2.2).zeroExtend 512) <<< sh) })
  | none => m

/-- The far-cache lines of a die updated by a store that enters its view (R247). -/
def State.updateFar (s : State) (d : Nat) (ws : List AWrite) : State :=
  s.modDie d fun x => { x with far := ws.foldl farPut x.far }

/-- Sectors to reserve for writes to another die's lines: 8 minus those each block holds (R247). -/
def State.rsvNeed (s : State) (ws : List AWrite) : List (Nat × Nat) :=
  (blocksOf ws).map fun b => (b, 8 - (mget BlockEnt.zero s.blocks b).count)

/-- Reservations taken from the pools, if every home grants (R247, R339). -/
def State.reserve (s : State) (lv : Level) (rs : List (Nat × Nat)) : Option State :=
  rs.foldl (fun (o : Option State) r => o.bind fun s =>
    let d := s.home (r.1 * 512)
    let c := (s.die d).cmp
    if c.grants lv r.2 then some (s.modDie d fun x => { x with cmp := c.setFree (c.free - r.2) }) else none) (some s)

/-- Whole bytes written from an address. -/
def wholeBytes (a : Nat) (bs : List Byte) : List AWrite :=
  (bs.zip (List.range bs.length)).map fun x => (a + x.2, x.1, 0xFF#8)

/-- The device's own writes by expanded address (fault records, page table entries, the dirty log): performed at the home
from the reserve, and in the step that makes them even where a bank would make an access wait. DESIGN CHOICE (log 98): where the pool is
empty the bytes are written all the same; the spec states no refusal of them. -/
def State.poke (s : State) (a : Nat) (bs : List Byte) : State :=
  match s.homeWrite .reserve [] (wholeBytes a bs) with
  | some t => t
  | none => { s with mem := mputs 0 s.mem a bs }

/-! ### Page tables (R47, R326, R327) -/

/-- Fields of a page table entry. -/
structure Pte where
  v     : Bool
  r     : Bool
  w     : Bool
  x     : Bool
  a     : Bool
  d     : Bool
  c     : Bool
  wp    : Bool
  size  : Nat
  st    : Nat
  res   : Bool
  frame : Nat
  deriving DecidableEq, Repr

/-- The fields of an entry (R326). -/
def pteOf (w : Word) : Pte :=
  let n := w.toNat
  { v := bitAt n 0, r := bitAt n 1, w := bitAt n 2, x := bitAt n 3, a := bitAt n 4, d := bitAt n 5, c := bitAt n 6,
    wp := bitAt n 7, size := bitsOf n 9 8, st := bitsOf n 11 10, res := bitsOf n 15 12 != 0 || bitsOf n 63 48 != 0,
    frame := bitsOf n 47 16 }

/-- The table page that an entry of level 1 or 2 points to (R327). -/
def ptrFrame (w : Word) : Option Nat :=
  let p := pteOf w
  if !p.v || p.r || p.w || p.x || p.size != 0 || p.st != 0 || p.res then none else some p.frame

/-- A level 2 entry that is a leaf of 512 MiB (R327). -/
def Pte.large (p : Pte) : Bool := p.v && (p.r || p.w || p.x) && p.size == 1 && !p.res && p.frame % 2 ^ 13 == 0

/-- A level 3 entry that is a leaf of 64 KiB (R327). -/
def Pte.small (p : Pte) : Bool := p.v && p.size == 0 && !p.res

/-- What a walk finds (R327): a leaf with the address of its entry, no translation, or a malformed entry. -/
inductive Walk where
  | leaf (at_ : Nat) (w : Word)
  | absent
  | malformed
  deriving DecidableEq, Repr

/-- A table entry as walks see it: a change made by system software reaches them only through the invalidation command (R327). -/
def State.pteWord (s : State) (c a : Nat) : Word := (mget none (s.ctx c).stale a).getD (s.wordAt a 8)

/-- A table entry written by the device, where walks see it. -/
def State.pokePte (s : State) (c a : Nat) (w : Word) : State :=
  if (mget none (s.ctx c).stale a).isSome then s.modCtx c fun x => { x with stale := mset none x.stale a (some w) }
  else s.poke a (leBytes 8 w.toNat)

/-- The walk of a virtual address through the table of context c (R47, R327). -/
def State.walk (s : State) (c va : Nat) : Walk :=
  let e1 := s.pteWord c (bitsOf (s.ctx c).root.toNat 47 16 * 65536 + 8 * bitsOf va 54 42)
  if !(pteOf e1).v then .absent
  else match ptrFrame e1 with
    | none => .malformed
    | some f2 =>
      let a2 := f2 * 65536 + 8 * bitsOf va 41 29
      let e2 := s.pteWord c a2
      let p2 := pteOf e2
      if !p2.v then .absent
      else if p2.large then .leaf a2 e2
      else match ptrFrame e2 with
        | none => .malformed
        | some f3 =>
          let a3 := f3 * 65536 + 8 * bitsOf va 28 16
          let e3 := s.pteWord c a3
          let p3 := pteOf e3
          if !p3.v then .absent
          else if p3.small then .leaf a3 e3
          else .malformed

/-- The table entries that a walk reads (R47, R327). -/
def State.walkAddrs (s : State) (c va : Nat) : List Nat :=
  let a1 := bitsOf (s.ctx c).root.toNat 47 16 * 65536 + 8 * bitsOf va 54 42
  a1 :: match ptrFrame (s.pteWord c a1) with
    | none => []
    | some f2 =>
      let a2 := f2 * 65536 + 8 * bitsOf va 41 29
      a2 :: match ptrFrame (s.pteWord c a2) with
        | none => []
        | some f3 => [f3 * 65536 + 8 * bitsOf va 28 16]

/-- The accesses of a walk (R423, R428). -/
def State.walked (s : State) (c va : Nat) : State := (s.walkAddrs c va).foldl (fun s a => s.readRows (a / 64)) s

/-- A walk waits for a bank that holds an entry it reads (R423, R428, R429). -/
def State.walkWaits (s : State) (c va : Nat) : Bool := (s.walkAddrs c va).any fun a => s.lineWaits (a / 64)

/-- The entries of a table page that memory lists. -/
def State.tableWords (s : State) (c frame : Nat) : List (Nat × Word) :=
  (((s.mem.filter fun m => m.1 / 65536 == frame).map (·.1 / 8 * 8)).eraseDups).map fun a => (a, s.pteWord c a)

/-- The table pages of a context, as walks see them (R47, R327). -/
def State.tableFrames (s : State) (c : Nat) : List Nat :=
  let root := bitsOf (s.ctx c).root.toNat 47 16
  let l2 := (s.tableWords c root).filterMap fun x => ptrFrame x.2
  root :: (l2 ++ (l2.flatMap (s.tableWords c)).filterMap fun x => ptrFrame x.2)

/-- A change of a table entry that the device has not made: memory holds it, and walks see it from the invalidation command on (R327). w
is what the entry holds from now on. -/
def State.staled (s : State) (c a : Nat) (w : Word) : State :=
  let old := s.pteWord c a
  s.modCtx c fun x => { x with stale := mset none x.stale a (if old = w then none else some old) }

/-- Walks of a context's table have begun: from RUNNABLE on (R409). -/
def CState.walks : CState → Bool
  | .free | .created | .destroyed => false
  | .runnable | .running | .preempted | .halting | .halted | .imaged | .resuming | .faulted => true

/-- After writes from s to t that are not the device's own: walks go on seeing the table entries that they have changed as they were, up
to the invalidation command (R327). -/
def State.tablesKept (s t : State) (ws : List AWrite) : State :=
  (s.ctxs.filter (·.2.st.walks)).foldl (fun t x =>
    let fs := s.tableFrames x.1
    ((ws.filter fun w => fs.contains (w.1 / 65536)).map (·.1 / 8 * 8)).eraseDups.foldl (fun (t : State) a =>
      let old := s.pteWord x.1 a
      t.modCtx x.1 fun y => { y with stale := mset none y.stale a (if old = t.wordAt a 8 then none else some old) }) t) t

/-- Writes at their homes by anyone but the device itself. -/
def State.softWrite (s : State) (lv : Level) (rsv : List (Nat × Nat)) (ws : List AWrite) (hint : Bool := false) : Option State :=
  (s.homeWrite lv rsv ws hint).map fun t => s.tablesKept t ws

/-- A write enters the view of die d (R247): lines homed on the die are written; for the others the far-cache line is
updated and a write-through is sent with its reservation. bank and op name the writer, for fences and tokens; hint is the hint bit of
its extent, vc the VC of its write-throughs. -/
def State.enterView (s : State) (d bank : Nat) (op : Option Nat) (rsv : List (Nat × Nat)) (ws : List AWrite) (hint : Bool := false)
    (vc : Nat := 0) : Option State := do
  let mine := ws.filter fun w => s.home w.1 == d
  let s ← if mine = [] then some s else s.softWrite .bank [] mine hint
  let s := s.updateFar d ws
  pure <| [0, 1, 2, 3].foldl (fun s h =>
    let far := ws.filter fun w => s.home w.1 == h
    if h = d ∨ far = [] then s
    else
      let blks := blocksOf far
      let w : WThru := ⟨s.wtNext, d, h, far, rsv.filter (fun r => blks.contains r.1), bank, op, false, hint, vc⟩
      { s with wtNext := s.wtNext + 1, wts := s.wts ++ [w] }) s

/-- The frame of a virtual address under a leaf. -/
def leafFrame (p : Pte) (va : Nat) : Nat := if p.size = 1 then p.frame + bitsOf va 28 16 else p.frame

/-- A canonical virtual address (R46). -/
def canonical (a : Word) : Bool := (BitVec.signExtend 64 (a.extractLsb' 0 55)) == a

/-- An entry of a frame array for an extent and a page number; a small entry applies before a large one (R345). -/
def findFrame (fs : List FrameEnt) (ext vpn : Nat) : Option FrameEnt :=
  let hit := fs.filter fun f => f.ext == ext && f.vpn ≤ vpn && vpn < f.vpn + f.pages
  match hit.find? (fun f => f.pages == 1) with
  | some f => some f
  | none => hit.head?

/-- The expanded address of a virtual address through a frame array. -/
def frameAddr (fs : List FrameEnt) (ext va : Nat) : Option Nat :=
  (findFrame fs ext (va / 65536)).map fun f => (f.frame + (va / 65536 - f.vpn)) * 65536 + va % 65536

/-! ### The taking of a fault (R62, R418, R462) -/

/-- A fault record with every field at its "none" (R462). -/
def FaultRec.blank : FaultRec :=
  { cause := 0, detail := 0, source := 0, slot := 0xFF, core := 0xFFFF, bank := 0xFF, token := 0, kernel := 0, done := 0,
    work := 0, bundle := 0, place := 0, window := 0, progress := [0, 0, 0, 0, 0, 0], seq := 0 }

/-- The 64 bytes of a fault record (R418). -/
def FaultRec.bytes (r : FaultRec) : List Byte :=
  leBytes 1 r.cause ++ leBytes 1 r.detail ++ leBytes 1 r.source ++ leBytes 1 r.slot ++ leBytes 2 r.core ++
  leBytes 1 r.bank ++ leBytes 1 r.token ++ leBytes 4 r.kernel ++ leBytes 4 r.done ++ leBytes 8 r.work.toNat ++
  leBytes 8 r.bundle.toNat ++ leBytes 8 r.place.toNat ++ leBytes 8 r.window.toNat ++
  r.progress.flatMap (leBytes 2) ++ leBytes 4 r.seq


/-- Base address and capacity of a fault area word (R406, R420). -/
def faBase (w : Word) : Nat := bitsOf w.toNat 47 6 * 64

/-- Capacity in records. -/
def faCap (w : Word) : Nat := bitsOf w.toNat 63 48

/-- A record written into a free slot of a context's fault area (R418). -/
def State.ctxPut (s : State) (c : Nat) (r : FaultRec) (who : FaultWho) : State :=
  let x := s.ctx c
  let r := { r with seq := x.fseq }
  let s := s.poke (faBase x.fa + 64 * (x.fseq % faCap x.fa)) r.bytes
  (s.modCtx c fun x => { x with fseq := (x.fseq + 1) % 2 ^ 32, faults := x.faults ++ [⟨r, who⟩] }).notify
    (.fault (.ctx c) r.seq)

/-- A context's fault area takes a record at once: a slot is free, and no earlier record waits for one (R418). -/
def State.faTakes (s : State) (c : Nat) : Bool := (s.ctx c).waitq == [] && decide ((s.ctx c).faults.length < faCap (s.ctx c).fa)

/-- A record enters a context's fault area, or waits with its source when the area is full (R418). -/
def State.ctxFault (s : State) (c : Nat) (r : FaultRec) (who : FaultWho) : State :=
  if s.faTakes c then s.ctxPut c r who else s.modCtx c fun x => { x with waitq := x.waitq ++ [⟨r, who⟩] }

/-- A record written into a free slot of the device fault area (R420). -/
def State.devPut (s : State) (r : FaultRec) (who : FaultWho) : State :=
  let r := { r with seq := s.dev.seq }
  let s := s.poke (faBase s.dev.fa + 64 * (s.dev.seq % faCap s.dev.fa)) r.bytes
  { s with dev := { s.dev with seq := (s.dev.seq + 1) % 2 ^ 32, faults := s.dev.faults ++ [⟨r, who⟩] },
           notices := s.notices ++ [.fault .dev r.seq] }

/-- The device fault area takes a record at once. -/
def State.devTakes (s : State) : Bool := s.dev.waitq == [] && decide (s.dev.faults.length < faCap s.dev.fa)

/-- A record enters the device fault area (R420). -/
def State.devFault (s : State) (r : FaultRec) (who : FaultWho) : State :=
  if s.devTakes then s.devPut r who else { s with dev := { s.dev with waitq := s.dev.waitq ++ [⟨r, who⟩] } }

/-- An event record of a link, the Sheepdog or the memory controller on die d: written, kept pending behind those that the die keeps, or
counted as lost (R418). -/
def State.eventFault (s : State) (a : Area) (d : Nat) (r : FaultRec) : State :=
  match a with
  | .ctx c =>
    let x := s.ctx c
    if s.faTakes c ∧ mget [] x.pend d = [] then s.ctxPut c r .event
    else if (mget [] x.pend d).length < 64 then
      s.modCtx c fun x => { x with pend := mmod [] x.pend d (· ++ [r]) }
    else s.modCtx c fun x => { x with flost := min (x.flost + 1) (2 ^ 32 - 1) }
  | .dev =>
    if s.devTakes ∧ mget [] s.dev.pend d = [] then s.devPut r .event
    else if (mget [] s.dev.pend d).length < 64 then
      { s with dev := { s.dev with pend := mmod [] s.dev.pend d (· ++ [r]) } }
    else { s with dev := { s.dev with lost := min (s.dev.lost + 1) (2 ^ 32 - 1) } }

/-- The progress entry of a slot from the current bundle on (R418, R419): position and repetition of its next issue. -/
def progressOf (r : Running) (i : Nat) : Nat :=
  let present := (r.b.ops[i]?.getD none).isSome
  let stickyOn := r.b.sticky.getLsbD i
  if !present && !stickyOn then 0
  else if i = 0 then (if r.rep = 0 ∧ (!r.begun ∨ i ∈ r.todo) then 0 else 2 ^ 8)
  else if !r.begun ∨ i ∈ r.todo then r.rep
  else if r.rep < r.b.rpt then r.rep + 1
  else 2 ^ 8

/-- Every slot of the bundle has made its last issue. -/
def Running.spent (r : Running) : Bool := r.begun && r.todo == [] && decide (r.b.rpt ≤ r.rep)

/-- The current bundle and its dynamic number, also while an operation that lags behind is executed. -/
def Bank.front (b : Bank) : Option Running × Nat := b.aside.getD (b.cur, b.bundles)

/-- Progress entries counted from an earlier bundle of the dispatch window. -/
def slotProgress (lag : List LagOp) (base no : Nat) (here : Nat → Nat) (i : Nat) : Nat :=
  match lag.find? (·.slot == i) with
  | some e => e.run.rep + (e.no - base) * 2 ^ 8
  | none => here i + (no - base) * 2 ^ 8

/-- The earliest bundle with an outstanding issue, and the progress of the slots from it (R62, R418). -/
def Bank.windowOf (b : Bank) : Word × List Nat :=
  let (addr, no, here) : Word × Nat × (Nat → Nat) := match b.front with
    | (some r, n) => if r.spent then (r.npc.getD (r.addr + BitVec.ofNat 64 r.b.len), n + 1, fun _ => 0) else (r.addr, n, progressOf r)
    | (none, n) => (b.pc, n, fun _ => 0)
  match b.lag with
  | [] => (addr, [0, 1, 2, 3, 4, 5].map here)
  | e :: _ => (e.run.addr, [0, 1, 2, 3, 4, 5].map (slotProgress b.lag e.no no here))

/-- The record of a fault of the bank in focus (R462, source 0). -/
def State.bankRec (s : State) (f : Flt) (slot : Nat) : FaultRec :=
  let b := s.bank
  { FaultRec.blank with
    cause := f.cause, detail := f.detail, source := 0, slot := if f.whole then 0xFF else slot,
    core := coreOf s.cur, bank := s.cur % 2, kernel := b.id.kid, done := f.done, work := b.id.wid,
    bundle := match b.cur with
      | some r => r.addr
      | none => b.pc,
    place := f.place,
    window := b.windowOf.1, progress := b.windowOf.2 }

/-- The bank past the slot operation at which it stands. -/
def Bank.pastOp (b : Bank) : Bank :=
  { b with cur := b.cur.map fun r => { r with todo := r.todo.erase b.slot, ready := false },
           lag := if b.aside.isSome then b.lag.filter fun e => !(e.iss == b.iss && e.slot == b.slot) else b.lag }

/-- A read that met an uncorrectable error stops the bank (R41, R438): the record, its window and progress as they stand. -/
def State.lateFault (s : State) : State :=
  match s.bank.late with
  | none => s
  | some (_, _, rec_) =>
    let rec_ := { rec_ with window := s.bank.windowOf.1, progress := s.bank.windowOf.2 }
    (s.upd fun b => { b with late := none, run := .faulted, issued := .faulted }).ctxFault s.bank.id.ctx rec_ (.bank s.cur)

/-- A read earlier in program order than the operation at which the bank stands has met an uncorrectable error (R62). -/
def Bank.lateFirst (b : Bank) : Bool := match b.late with
  | some (i, sl, _) => decide (i < b.iss ∨ i = b.iss ∧ sl < b.slot)
  | none => false

/-- THE TAKING OF A FAULT by the bank in focus (R19, R62, R418): the faulting slot stops at its next unissued issue, or
past the operation when the entry says so; the record is written to the context's fault area; the bank is not ready
until firmware disposes of it. After a FETCH_FAULT fetch restarts at the bundle's first byte (R67). Where a read earlier in program order has
met an error, that one is reported, and this fault arises again (R62). -/
def State.takeFault (s : State) (f : Flt) : State :=
  let s := s.metError f
  if s.bank.lateFirst then s.lateFault else
  let slot := s.bank.slot
  let s := if f.after then s.upd Bank.pastOp else s
  let r := s.bankRec f slot
  let s := s.upd fun b => { b with run := .faulted, issued := .faulted, swait := .none, part := if f.after then 0 else f.done,
                                   fetched := if f.cause = cFETCH_FAULT then [] else b.fetched }
  s.ctxFault s.bank.id.ctx r (.bank s.cur)

/-- The answer of a meaning: an effect, a fault taken, or a stall that leaves the operation queued (R22). A register or
kennel read that meets an uncorrectable error leaves the operation queued too, and stops the bank at the end of the bundle: the
earliest such record is kept in late (R41, R62, R438). -/
def run (s : State) (r : M State) : Out :=
  match r with
  | .ok t => .next (t.upd fun b => { b with issued := .done })
  | .error (.fault f) =>
    if f.late then
      .next (s.upd fun b => { b with issued := .late, late := if b.lateFirst then b.late else some (b.iss, b.slot, s.bankRec f b.slot) })
    else .next (s.takeFault f)
  | .error .stall => .next (s.upd fun b => { b with issued := .stalled })

/-- The answer of a meaning that may have asked a home and waits for it: false leaves the operation queued. -/
def runW (s : State) (r : M (Bool × State)) : Out :=
  match r with
  | .ok (false, t) => .next (t.upd fun b => { b with issued := .stalled })
  | .ok (true, t) => run s (.ok t)
  | .error e => run s (.error e)

/-- A scalar operation: the sources readable and the destination writable, then the value written to xd (R107). -/
def scalar (s : State) (srcs : List XReg) (xd : XReg) (f : M Word) : Out :=
  run s (do
    s.operands srcs xd
    let v ← f
    pure (s.setX xd v))

end Sys2Proof.Machine
end

