-- ==== Sys2Proof/Machine/Operands.lean ====
section
/-! DEFINITION. Operand forms: place words and their stepping, captured scalars, vector fields, groups and streams,
predicates, extents, tiles, and the reads and writes of bit ranges. -/

namespace Sys2Proof.Machine

/-! ### Places (R42, R54) -/

/-- A place word taken apart (R42). -/
inductive Place where
  | ext (n off : Nat)
  | own (h row col : Nat)
  | remote (node win off : Nat)
  | peer (core h row col : Nat)
  | ctr (node gen slot : Nat)
  deriving DecidableEq, Repr

/-- A place word checked when it is used (R42); none is ILLEGAL_OPERAND. -/
def placeOf (w : Word) : Option Place :=
  let n := w.toNat
  match n / 2 ^ 61 with
  | 0 => some (.ext (bitsOf n 60 57) (bitsOf n 56 0))
  | 1 => if bitsOf n 52 48 = 0 ∧ bitsOf n 15 0 = 0 then some (.own (bitsOf n 60 53) (bitsOf n 47 32) (bitsOf n 31 16))
    else none
  | 2 => some (.remote (bitsOf n 60 48) (bitsOf n 47 44) (bitsOf n 43 0))
  | 3 =>
    if bitAt n 48 = false ∧ bitsOf n 15 0 = 0 then
      some (.peer (bitsOf n 60 57) (bitsOf n 56 49) (bitsOf n 47 32) (bitsOf n 31 16))
    else none
  | 5 => if bitsOf n 31 24 = 0 then some (.ctr (bitsOf n 60 48) (bitsOf n 47 32) (bitsOf n 23 0)) else none
  | _ => none

/-- The word of a place (R42). -/
def Place.word : Place → Word
  | .ext n off => BitVec.ofNat 64 (n * 2 ^ 57 + off)
  | .own h r c => BitVec.ofNat 64 (2 ^ 61 + h * 2 ^ 53 + r * 2 ^ 32 + c * 2 ^ 16)
  | .remote n w off => BitVec.ofNat 64 (2 * 2 ^ 61 + n * 2 ^ 48 + w * 2 ^ 44 + off)
  | .peer k h r c => BitVec.ofNat 64 (3 * 2 ^ 61 + k * 2 ^ 57 + h * 2 ^ 49 + r * 2 ^ 32 + c * 2 ^ 16)
  | .ctr n g i => BitVec.ofNat 64 (5 * 2 ^ 61 + n * 2 ^ 48 + g * 2 ^ 32 + i)

/-- A fault raised inside m names the place w, unless it names one itself. -/
def atPlace {α : Type} (w : Word) (m : M α) : M α :=
  match m with
  | .error (.fault f) => .error (.fault (if f.place = 0 then { f with place := w } else f))
  | r => r

/-! ### Captured scalars and the cursor (R53) -/

/-- The cursor of a slot. -/
def State.cursor (s : State) (slot : Nat) : Cursor := mget Cursor.empty s.bank.cursors slot

/-- A scalar operand of a V, M or C operation: read at the first issue of the present operation, captured for the later
ones (R53). A pending register stalls (R22). -/
def State.scap (s : State) (slot : Nat) (a : XReg) : M Word :=
  let c := s.cursor slot
  if c.fresh then
    if s.bank.view.pending a then stall
    else if a != 0 && s.poisoned a.toNat then raiseLate 4 a.toNat
    else .ok (s.rx a)
  else .ok (mget 0 c.val a.toNat)

/-- The advance of a slot's operands (R54). -/
def State.adv (s : State) (slot : Nat) : Adv := (s.cursor slot).adv

/-- The EFR of a slot, in force for the issuing bundle (R87, R88): slots V0 to C1. -/
def State.efrWord (s : State) (slot : Nat) : Word := mget 0 s.bank.ctl.efr (slot - 1)

/-- The fields of a slot's EFR. -/
def State.efr (s : State) (slot : Nat) : Efr := efrOf (s.efrWord slot)

/-- The slot of a V operation. -/
abbrev vslot (sl : BitVec 1) : Nat := 1 + sl.toNat

/-- The slot of a C operation. -/
abbrev cslot (sl : BitVec 1) : Nat := 4 + sl.toNat

/-! ### Vector registers (R24, R25, R30, R54) -/

/-- Size of the rotating region. -/
def State.rotM (s : State) : Nat := s.bank.id.capVr - 64

/-- The registers named by n consecutive fields from f after a register step, as keys (R24, R25, R54, R55). -/
def State.vkeys (s : State) (slot : Nat) (f : VFld) (n : Nat) : M (List Nat) :=
  let f := f.toNat
  let d := (s.adv slot).reg
  let m := s.rotM
  if f < 64 then
    let g : Int := f + d
    if 0 ≤ g ∧ g + n ≤ 64 then .ok ((List.range n).map (g.toNat + ·)) else illegal
  else if f < s.bank.id.capVr then
    if n ≤ m then
      .ok ((List.range n).map fun (i : Nat) => 64 + (((f : Int) - 64 + d + (i : Int) + s.bank.ctl.rotV) % (m : Int)).toNat)
    else illegal
  else illegal

/-- The register a field names after stepping, in architectural numbering: a pair needs it even (R99). -/
def State.vnumber (s : State) (slot : Nat) (f : VFld) : Int :=
  let d := (s.adv slot).reg
  if f.toNat < 64 then f.toNat + d else 64 + ((f.toNat : Int) - 64 + d) % (s.rotM : Int)

/-- A vector field that names a stream (R24). -/
def isStream (f : VFld) : Bool := 320 ≤ f.toNat && f.toNat ≤ 335

/-- The number of the vector register that a key names under the rotation base in force (R24, R27). -/
def State.vnum (s : State) (k : Nat) : Nat :=
  if k < 64 then k else 64 + (((k : Int) - 64 - s.bank.ctl.rotV) % (s.rotM : Int)).toNat

/-- A vector register as the issue reads it; an uncorrectable error in it is MEMORY_ERROR detail 4 with its number (R438). -/
def State.vget (s : State) (k : Nat) : M VReg :=
  if s.poisoned (64 + k) then raiseLate 4 (s.vnum k) else .ok (mget VReg.zero s.bank.view.v k)

/-- A vector register written; writing it ends its poison (R438). -/
def State.vset (s : State) (k : Nat) (v : VReg) : State :=
  s.upd fun b => { b with regs := { b.regs with v := mset VReg.zero b.regs.v k v },
                          rpoison := mset false b.rpoison (64 + k) false }

/-! ### Shapes and tiles (R37 to R40) -/

/-- A shape word taken apart (R37). width is the element or mantissa width of PACKED, PLANE and BFP. -/
structure Shape where
  rows  : Nat
  cols  : Nat
  fmt   : Nat
  level : Nat
  race  : Bool
  slots : Nat
  width : Nat
  deriving DecidableEq, Repr

/-- The fields of a shape word. -/
def shapeRaw (w : Word) : Shape :=
  let n := w.toNat
  { rows := bitsOf n 63 48, cols := bitsOf n 47 32, fmt := bitsOf n 31 27, level := bitsOf n 26 26,
    race := bitAt n 24, slots := bitsOf n 23 16 + 1, width := bitsOf n 15 12 + 1 }

/-- A shape word checked by R37; none is ILLEGAL_OPERAND. -/
def shapeOf (w : Word) : Option Shape :=
  let n := w.toNat
  let h := shapeRaw w
  let narrow := h.fmt == tPACKED || h.fmt == tPLANE
  if h.rows != 0 && h.cols != 0 && h.fmt < 0x12 && !bitAt n 25 && bitsOf n 11 0 == 0 &&
      (if h.race then 2 ≤ h.slots && h.rows % h.slots == 0 else h.slots == 1) &&
      (narrow || (if h.fmt == tBFP then 2 ≤ h.width && h.width ≤ 8 else h.width == 1)) then some h else none

/-- Bits of an element; BFP is laid out by blocks. -/
def Shape.bits (h : Shape) : Nat := (fmtBits h.fmt).getD h.width

/-- Bytes of a BFP block (R99). -/
abbrev bfpBytes (w : Nat) : Nat := 1 + 4 * w

/-- Bytes of a row (R38). -/
def Shape.rowBytes (h : Shape) : Nat :=
  if h.fmt = tBFP then (h.cols + 31) / 32 * bfpBytes h.width else (h.cols * h.bits + 7) / 8

/-- The row pitch (R38). -/
def Shape.pitch (h : Shape) : Nat := (h.rowBytes + 31) / 32 * 32

/-- Granules of a shape (R38). -/
def Shape.granules (h : Shape) : Nat := (h.rows * h.pitch + 4095) / 4096

/-- Bit position of a column within a row; for BFP the column is a multiple of 32. -/
def Shape.colBit (h : Shape) (col : Nat) : Nat := if h.fmt = tBFP then col / 32 * (8 * bfpBytes h.width) else col * h.bits

/-- Whether a bit of a row belongs to an element inside the row; exponent bytes belong to their block (R165). -/
def Shape.live (h : Shape) (bit : Nat) : Bool :=
  if h.fmt = tBFP then
    let blk := bit / (8 * bfpBytes h.width)
    let r := bit % (8 * bfpBytes h.width)
    if r < 8 then decide (blk < (h.cols + 31) / 32) else decide (32 * blk + (r - 8) / h.width < h.cols)
  else decide (bit < h.cols * h.bits)

/-- A number whose bit i, below n, is f i. -/
def maskOf (f : Nat → Bool) : Nat → Nat
  | 0 => 0
  | n + 1 => maskOf f n + (if f n then 2 ^ n else 0)

/-- The live bits among n from a position of a row. -/
def Shape.liveMask (h : Shape) (bit n : Nat) : Nat :=
  if h.fmt = tBFP then maskOf (fun i => h.live (bit + i)) n else 2 ^ min n (h.cols * h.bits - bit) - 1

/-- The tile of a handle. -/
def State.tile (s : State) (h : Nat) : Option Tile := mget none s.bank.tiles h

/-- A tile replaced. -/
def State.setTile (s : State) (h : Nat) (t : Option Tile) : State :=
  s.upd fun b => { b with tiles := mset none b.tiles h t }

/-- Filled slots of a race (R40). -/
def Tile.filled (t : Tile) : Nat := (t.head + 2 ^ 32 - t.tail) % 2 ^ 32

/-- Free slots of a race (R40). -/
def Tile.free (t : Tile) : Nat := (shapeRaw t.shape).slots - t.filled

/-- n bits from bit position p of a tile's bytes. -/
def Tile.bitsAt (t : Tile) (p n : Nat) : Nat :=
  (leNat (mgets 0 t.bytes (p / 8) ((p % 8 + n + 7) / 8)) >>> (p % 8)) % 2 ^ n

/-- Some byte of a span of a tile holds an uncorrectable error. -/
def Tile.bad (t : Tile) (p n : Nat) : Bool :=
  t.poison != [] && (List.range ((p % 8 + n + 7) / 8)).any fun i => mget false t.poison (p / 8 + i)

/-- The byte writes that put the masked bits of a value at a bit position, as (byte number, value, mask). -/
def maskedBytes (p val mask : Nat) : List (Nat × Byte × Byte) :=
  let v := val <<< (p % 8)
  let m := mask <<< (p % 8)
  let n := (Nat.log2 m) / 8 + 1
  ((List.range n).map fun i => (p / 8 + i, BitVec.ofNat 8 (v >>> (8 * i)), BitVec.ofNat 8 (m >>> (8 * i)))).filter
    fun x => x.2.2 != 0

/-- A tile byte with masked bits written; a whole byte written ends its poison. -/
def Tile.put (t : Tile) (w : Nat × Byte × Byte) : Tile :=
  { t with bytes := mset 0 t.bytes w.1 ((mget 0 t.bytes w.1 &&& ~~~w.2.2) ||| (w.2.1 &&& w.2.2)),
           poison := if w.2.2 = 0xFF#8 then mset false t.poison w.1 false else t.poison }

/-- The granules a bank holds over both levels (R117). -/
def Bank.granules (b : Bank) : Nat :=
  b.tiles.foldl (fun n t => n + match t.2 with
    | some t => t.gran
    | none => 0) 0

/-- TILE_FAULT with a detail of R117. -/
def tileFault {α : Type} (d : Nat) : M α := raise cTILE_FAULT d

/-- A row and column that steps have moved still lie in the tile (R55). -/
def Shape.stepped (sh : Shape) (a : Adv) (row col : Int) : M Unit :=
  if (a.off = 0 ∨ 0 ≤ col + a.off ∧ col + a.off < sh.cols) ∧ (a.row = 0 ∨ 0 ≤ row + a.row ∧ row + a.row < sh.rows) then .ok ()
  else tileFault 5

/-! ### Streams as operands (R30, R232, R233) -/

/-- The stream bound to register n for the issuing bundle (R231, R234): the latest that an earlier bundle has bound. -/
def Bank.streamOf (b : Bank) (n : Nat) : Option Stream :=
  match (b.streams.filter fun t => t.num == n && t.since ≤ b.bundles).getLast? with
  | some t => if (match t.untl with
    | some u => decide (b.bundles ≤ u)
    | none => true) then some t else none
  | none => none

/-- The stream replaced by one that began at the same issue. -/
def Bank.setStream (b : Bank) (t : Stream) : Bank :=
  { b with streams := b.streams.map fun u => if u.ord = t.ord then t else u }

/-- The length of a stream's pattern (R229). -/
def patLength (recd : List Byte) : Nat :=
  (List.range 4).foldl (fun n d => n * leNat ((recd.drop (8 + 8 * d)).take 4)) 1

/-- Elements of a stream's vectors: those of the race's format (R231). -/
def Stream.width (t : Stream) (tile : Tile) : Nat :=
  let h := shapeRaw tile.shape
  2048 / h.bits

/-- The vectors of a stream. -/
def Stream.total (t : Stream) (tile : Tile) : Nat := (patLength t.recd + t.width tile - 1) / t.width tile

/-- A pop of stream n (R232). A failed item is one whether or not firmware has disposed of its record. -/
def State.pop (s : State) (n : Nat) : M (VReg × State) :=
  match s.bank.streamOf n with
  | none => illegal
  | some t =>
    match s.tile t.race with
    | none => illegal
    | some tile =>
      let h := shapeRaw tile.shape
      if t.out then illegal
      else if t.total tile ≤ t.used then raise cILLEGAL_OPERAND 2
      else if tile.filled = 0 then (if t.failed ∨ t.fail.isSome then raise cDEP_FAILED n else stall)
      else
        let p := tile.tail % h.rows * (8 * h.pitch)
        let len := t.width tile * h.bits
        if tile.bad p len then raise cMEMORY_ERROR 0
        else
          let s := s.setTile t.race (some { tile with tail := (tile.tail + 1) % 2 ^ 32 })
          .ok (⟨BitVec.ofNat 2048 (tile.bitsAt p len), h.fmt⟩, s.upd fun b => b.setStream { t with used := t.used + 1 })

/-- A push to stream n (R233). -/
def State.push (s : State) (n : Nat) (v : VReg) : M State :=
  match s.bank.streamOf n with
  | none => illegal
  | some t =>
    match s.tile t.race with
    | none => illegal
    | some tile =>
      let h := shapeRaw tile.shape
      if !t.out then illegal
      else if v.tag ≠ h.fmt then raise cFORMAT_MISMATCH 0
      else if t.total tile ≤ t.used then raise cILLEGAL_OPERAND 2
      else if t.failed ∨ t.fail.isSome then raise cDEP_FAILED n
      else if tile.free = 0 then stall
      else
        let p := tile.head % h.rows * (8 * h.pitch)
        let len := t.width tile * h.bits
        let tile := (maskedBytes p (v.bits.toNat % 2 ^ len) (2 ^ len - 1)).foldl Tile.put tile
        let s := s.setTile t.race (some { tile with head := (tile.head + 1) % 2 ^ 32 })
        .ok (s.upd fun b => b.setStream { t with used := t.used + 1 })

/-- A single vector source: a register or a pop (R24, R30). -/
def State.vsrc (s : State) (slot : Nat) (f : VFld) : M (VReg × State) :=
  if isStream f then s.pop (f.toNat - 320)
  else do
    let ks ← s.vkeys slot f 1
    let v ← s.vget (ks.headD 0)
    pure (v, s)

/-- A group of n vector sources; a stream is a single register (R25, R139). -/
def State.vsrcs (s : State) (slot : Nat) (f : VFld) (n : Nat) : M (List VReg × State) :=
  if isStream f && n == 1 then do
    let (v, s) ← s.pop (f.toNat - 320)
    pure ([v], s)
  else do
    let ks ← s.vkeys slot f n
    let vs ← ks.mapM s.vget
    pure (vs, s)

/-- A single vector destination: a register or a push. -/
def State.vdst (s : State) (slot : Nat) (f : VFld) (v : VReg) : M State :=
  if isStream f then s.push (f.toNat - 320) v
  else do
    let ks ← s.vkeys slot f 1
    pure (s.vset (ks.headD 0) v)

/-- A group of vector destinations. -/
def State.vdsts (s : State) (slot : Nat) (f : VFld) (vs : List VReg) : M State :=
  match vs with
  | [v] => s.vdst slot f v
  | vs => do
    let ks ← s.vkeys slot f vs.length
    pure ((ks.zip vs).foldl (fun s x => s.vset x.1 x.2) s)

/-- What n destination registers hold before a partial write. A stream has no earlier bits: the ones a partial result
pushes are a free value. -/
def State.volds (s : State) (slot : Nat) (f : VFld) (n : Nat) : M (List VReg × State) :=
  if isStream f && n == 1 then .ok ([⟨Config.pushedBits s.tick, 0⟩], s.ticked)
  else do
    let ks ← s.vkeys slot f n
    let vs ← ks.mapM s.vget
    pure (vs, s)

/-- One register before a partial write. -/
def State.vold (s : State) (slot : Nat) (f : VFld) : M (VReg × State) := do
  let (vs, s) ← s.volds slot f 1
  pure (vs.headD VReg.zero, s)

/-- A tag check (R84). -/
def tagged (v : VReg) (f : Nat) : M Unit := need (v.tag = f) cFORMAT_MISMATCH 0

/-! ### Elements (R136) -/

/-- The low n elements of b bits. -/
def elems (bits b : Nat) : Nat → List Nat
  | 0 => []
  | n + 1 => bits % 2 ^ b :: elems (bits >>> b) b n

/-- Elements of b bits put together, element 0 lowest. -/
def packed (b : Nat) : List Nat → Nat
  | [] => 0
  | x :: xs => x % 2 ^ b + (packed b xs) <<< b

/-- Elements of format f in a register (R136). -/
def nElems (f : Nat) (e : Efr) : Nat := 2048 / fmtWidth f e

/-- The elements of a register in format f. -/
def VReg.elems (v : VReg) (f : Nat) (e : Efr) : List Nat :=
  Machine.elems v.bits.toNat (fmtWidth f e) (nElems f e)

/-- A number with len bits from position pos replaced. -/
def setField (old pos len val : Nat) : Nat :=
  old % 2 ^ pos + ((val % 2 ^ len) <<< pos) + ((old >>> (pos + len)) <<< (pos + len))

/-- A number with consecutive fields of len bits from position pos replaced. -/
def setFields (old pos len : Nat) : List Nat → Nat
  | [] => old
  | x :: xs => setFields (setField old pos len x) (pos + len) len xs

/-- A register of format f with the given elements. -/
def vpack (f : Nat) (e : Efr) (xs : List Nat) : VReg := ⟨BitVec.ofNat 2048 (packed (fmtWidth f e) xs), f⟩

/-! ### Predicates (R26) -/

/-- The key of predicate p under the rotation base in force (R26, R27). -/
def State.pkey (s : State) (p : BitVec 6) : Nat :=
  if p.toNat < 16 then p.toNat else 16 + (p.toNat - 16 + s.bank.ctl.rotP) % 48

/-- A predicate as the issue reads it. -/
def State.pget (s : State) (p : BitVec 6) : M PBits :=
  if s.poisoned (512 + s.pkey p) then raiseLate 4 p.toNat
  else .ok (mget 0 s.bank.view.p (s.pkey p))

/-- A predicate written. -/
def State.pset (s : State) (p : BitVec 6) (v : PBits) : State :=
  s.upd fun b => { b with regs := { b.regs with p := mset 0 b.regs.p (s.pkey p) v },
                          rpoison := mset false b.rpoison (512 + s.pkey p) false }

/-- The predicate a vector field names in its low bits (R74). -/
abbrev predOf (f : VFld) : BitVec 6 := f.extractLsb' 0 6

/-- The predicate bit that governs element i of b bits (R26, R136). -/
abbrev govBit (i b : Nat) : Nat := i * b / 8

/-- Whether the governing bit of element i lets it act, read through the polarity (R71). -/
def governs (p : PBits) (pol : BitVec 1) (i b : Nat) : Bool := p.getLsbD (govBit i b) != (pol == 1)

/-- A predicate with every bit of the chosen elements set (R145, R170); b in bits. -/
def predOfElems (b n : Nat) (f : Nat → Bool) : PBits :=
  BitVec.ofNat 256 (packed (b / 8) ((List.range n).map fun i => if f i then 2 ^ (b / 8) - 1 else 0))

/-! ### Extents (R31, R32, R330) -/

/-- Extent register n. -/
def State.ext (s : State) (n : Nat) : Ext := mget Ext.none s.bank.exts n

/-- The extent permits an access of len bytes at an offset (R32). -/
def Ext.permits (e : Ext) (off : Int) (len : Nat) (write : Bool) : Bool :=
  decide (0 ≤ off ∧ off + len ≤ e.len.toNat) && bitAt e.flags (if write then 1 else 0)

/-- An access to an extent checked (R32). -/
def State.extCheck (s : State) (n : Nat) (off : Int) (len : Nat) (write : Bool) : M Unit :=
  if (s.ext n).permits off len write then .ok ()
  else raiseAt cUNDECLARED_ACCESS 0 (Place.ext n (off % 2 ^ 57).toNat).word

/-- The virtual address of a byte of an extent. -/
def State.extVa (s : State) (n off : Nat) : Nat := ((s.ext n).base + BitVec.ofNat 64 off).toNat % 2 ^ 55

/-- The entries of the task's frame array that the core's extent frame cache holds (R330). -/
def State.efcHeld (s : State) : List FrameEnt :=
  ((s.core (coreOf s.cur)).efc.filter fun e => e.ctx == s.bank.id.ctx && e.kid == s.bank.id.kid).map (·.ent)

/-- Entries of an extent frame cache (R330). -/
abbrev efcLines : Nat := 1024

/-- A page of an extent looked up in the core's extent frame cache: a miss fills from the frame array, and a full cache gives up some
entry (R330). -/
def State.efcFill (s : State) (n vpn : Nat) : State :=
  match findFrame s.efcHeld n vpn, s.myKernel.bind fun k => findFrame k.frames n vpn with
  | none, some f =>
    let l := (s.core (coreOf s.cur)).efc
    let l := if l.length < efcLines then l else l.eraseIdx (Config.entryChoice s.tick % efcLines)
    (s.modCore (coreOf s.cur) fun c => { c with efc := l ++ [⟨s.bank.id.ctx, s.bank.id.kid, f⟩] }).ticked
  | _, _ => s

/-- The extent frame cache after an access to bytes of an extent (R330). -/
def State.efcTouch (s : State) (n : Nat) (offs : List Nat) : State :=
  ((offs.map fun o => s.extVa n o / 65536).eraseDups).foldl (fun s p => s.efcFill n p) s

/-- The frame entry of a byte of an extent (R330, R345): what the extent frame cache or the frame array holds, a small entry before a
large one. -/
def State.extFrame (s : State) (n off : Nat) : Option FrameEnt :=
  match s.myKernel with
  | some k => findFrame (s.efcHeld ++ k.frames) n (s.extVa n off / 65536)
  | none => none

/-- The expanded address of a byte of an extent; an entry not there yet is waited for. -/
def State.extAddr (s : State) (n off : Nat) : M Nat :=
  match s.extFrame n off with
  | some f => .ok ((f.frame + (s.extVa n off / 65536 - f.vpn)) * 65536 + s.extVa n off % 65536)
  | none => stall

/-! ### Loads of a bank (R60, R251, R340) -/

/-- A byte with the pending stores of earlier issues of the bank applied, in queue order (R60). -/
def Bank.forward (b : Bank) (l : Loc) (v : Byte) : Byte :=
  b.sq.foldl (fun v e => match e.kind with
    | .store ws _ _ =>
      if e.iss < b.iss then
        ws.foldl (fun v w => if w.loc = l then (v &&& ~~~w.mask) ||| (w.val &&& w.mask) else v) v
      else v
    | _ => v) v

/-- A marker that holds every later load until the earlier accesses have performed: a fence of kind ACQREL or SC, a MARK (R131, R132). -/
def SqKind.bars : SqKind → Bool
  | .fence _ kind _ => 2 ≤ kind
  | .mark _ => true
  | _ => false

/-- A marker that holds every later load stands in the queue; an ACQ fence stands there only behind such a marker (R131, R132). -/
def Bank.heldBack (b : Bank) : Bool := b.sq.any fun e => e.kind.bars

/-- A line made readable through a die's view (R246, R247): a fill, in VC v, when another die's line is absent. -/
def State.openLine (s : State) (d c line : Nat) (v : Nat := 0) : M State :=
  if s.home (line * 64) = d then
    if s.prepHeld line || s.lineWaits line then stall
    else if s.linePoison (line * 64) then raiseMet line
    else .ok (s.readRows line)
  else match s.farLine d line with
    | some _ => .ok s
    | none => s.fillLine d line c v

/-- A byte of a line that openLine has made readable. -/
def State.seen (s : State) (d a : Nat) : Byte :=
  if s.home a = d then s.byteAt a
  else match s.farLine d (a / 64) with
    | some l => l.bits.extractLsb' (8 * (a % 64)) 8
    | none => s.byteAt a

/-- Lines opened one by one, each with the state in which it is read. -/
def State.openLines (s : State) (d c : Nat) (ls : List Nat) (v : Nat := 0) : M (List (Nat × State) × State) :=
  ls.foldlM (fun (r : List (Nat × State) × State) l => do
    let t ← r.2.openLine d c l v
    pure (r.1 ++ [(l, t)], t)) ([], s)

/-- Bytes of expanded addresses read through die d's view for context c: each line as it stands when it is opened. -/
def State.viewBytes (s : State) (d c : Nat) (as : List Nat) (v : Nat := 0) : M (List Byte × State) := do
  let (opened, t) ← s.openLines d c ((as.map (· / 64)).eraseDups) v
  pure (as.map (fun a => (((opened.find? fun x => x.1 == a / 64).map (·.2)).getD t).seen d a), t)

/-- Bytes of extent n at given offsets through the die view of the bank in focus, with their expanded addresses; a ZERO
page reads zero (R246, R326). v is the VC of fills. -/
def State.extBytes (s : State) (n : Nat) (offs : List Nat) (v : Nat := 0) : M (List (Nat × Byte) × State) := do
  let as ← offs.mapM (s.extAddr n)
  let zeros := offs.map fun o => match s.extFrame n o with
    | some f => f.zero
    | none => false
  let (bs, s) ← (s.efcTouch n offs).viewBytes (dieOf s.cur) s.bank.id.ctx ((as.zip zeros).filterMap fun x => if x.2 then none else some x.1) v
  let full := (as.zip zeros).foldl (fun (r : List Byte × List Byte) x =>
    if x.2 then (r.1 ++ [0], r.2) else (r.1 ++ [r.2.headD 0], r.2.tail)) ([], bs)
  pure (as.zip full.1, s)

/-- Bytes of extent n at given offsets, as a load of the bank in focus reads them. -/
def State.loadExt (s : State) (n : Nat) (offs : List Nat) : M (List Byte × State) := do
  await (!s.bank.heldBack)
  let (bs, s) ← s.extBytes n offs
  pure (bs.map (fun x => s.bank.forward (.mem x.1) x.2), s)

/-- n bits from bit p of an own tile, as a load of the bank reads them; a tile error is MEMORY_ERROR. -/
def State.loadTile (s : State) (h : Nat) (t : Tile) (p n : Nat) : M Nat := do
  await (!s.bank.heldBack)
  need (!t.bad p n) cMEMORY_ERROR 0
  let len := (p % 8 + n + 7) / 8
  let bs := (List.range len).map fun i => s.bank.forward (.tile h (p / 8 + i)) (mget 0 t.bytes (p / 8 + i))
  pure ((leNat bs >>> (p % 8)) % 2 ^ n)

/-! ### Store-queue entries -/

/-- The address of the bundle being issued. -/
def Bank.bundleAt (b : Bank) : Word :=
  match b.cur with
  | some r => r.addr
  | none => b.pc

/-- The hint bit of the extent that a place names (R264, R332). -/
def State.hintOf (s : State) (place : Word) : Bool := match placeOf place with
  | some (.ext n _) => bitAt (s.ext n).flags 5
  | _ => false

/-- The virtual address that a place in an extent names. -/
def State.vaOf (s : State) (place : Word) : Option Nat := match placeOf place with
  | some (.ext n off) => some (s.extVa n off)
  | _ => none

/-- An entry placed in the store queue at its program-order position (R60). done is what a fault of it reports as
units or items, place what it names. -/
def State.enqueue (s : State) (k : SqKind) (done : Nat) (place : Word) : State :=
  s.upd fun b =>
    { b with ord := b.ord + 1,
             sq := b.sq ++ [⟨b.ord, b.iss, k, b.bundleAt, b.slot, b.id.wid, done, 0, place, s.hintOf place⟩] }

/-- A store of some bytes. -/
def State.pushStore (s : State) (ws : List BWrite) (done : Nat) (place : Word) : State :=
  if ws = [] then s else s.enqueue (.store ws [] false) done place

/-- A store of unit or element done of an issue that moves several (R167, R168). -/
def State.pushUnit (s : State) (ws : List BWrite) (done : Nat) (place : Word) : State :=
  if ws = [] then s
  else (s.enqueue (.store ws [] false) done place).upd fun b =>
    { b with sq := b.sq.map fun e => if e.ord + 1 = b.ord then { e with after := done + 1 } else e }

/-- The bank's next issue number for a token, and the state that has used it. -/
def State.newOrd (s : State) : Nat × State := (s.bank.ord, s.upd fun b => { b with ord := b.ord + 1 })

/-! ### The kennel (R41) -/

/-- n kennel bytes from an offset as the bundle reads them: before its own stores. A poisoned byte is MEMORY_ERROR
naming the offset. -/
def State.kennelBytes (s : State) (off n : Nat) : M (List Byte) :=
  match (List.range n).find? (fun i => mget false s.bank.kpoison ((off + i) % 65536)) with
  | some i => raiseLate 0 ((off + i) % 65536)
  | none => .ok ((List.range n).map fun i => mget 0 s.bank.kview ((off + i) % 65536))

/-- A kennel byte written. -/
def State.kput (s : State) (off : Nat) (v : Byte) : State :=
  s.upd fun b => { b with kennel := mset 0 b.kennel (off % 65536) v, kpoison := mset false b.kpoison (off % 65536) false }

/-- Kennel bytes written from an offset, wrapping. -/
def State.kputs (s : State) (off : Nat) : List Byte → State
  | [] => s
  | v :: vs => (s.kput off v).kputs (off + 1) vs

end Sys2Proof.Machine
end

