-- ==== Sys2Proof/Machine/Flags.lean ====
section
/-! DEFINITION. Flags and rounding of the V slots: FFLAGS, the rounding field, stochastic rounding, and the folds over
elements that carry them (R95 to R97, R102, R137). -/

namespace Sys2Proof.Machine

/-- Flags merged into FFLAGS (R96). -/
def State.addFlags (s : State) (f : Nat) : State :=
  s.upd fun b => { b with ctl := { b.ctl with fflags := b.ctl.fflags ||| BitVec.ofNat 6 f } }

/-- The rounding mode a rnd field names (R95): 111 is ILLEGAL_OPERAND, DYN reads FRM. -/
def State.rmCode (s : State) (rnd : BitVec 3) : M Nat :=
  if rnd = 7 then illegal
  else if rnd = 6 then .ok s.bank.ctl.frm.toNat
  else .ok rnd.toNat

/-- A rounding step: the element's bits, the flags so far, the state of RS.SEED. -/
structure Rounding where
  flags : Nat
  seed  : BitVec 32
  deriving DecidableEq, Repr

/-- One element rounded: under RS the state advances once and the element draws from the new state (R97). -/
def roundElem (code : Nat) (r : Rounding) (f : Rm → Nat × Nat) : Nat × Rounding :=
  let seed := if code = 5 then seedNext r.seed else r.seed
  let (x, fl) := f (rmOf code seed.toNat)
  (x, { flags := r.flags ||| fl, seed := seed })

/-- Elements rounded in ascending order. -/
def roundElems (code : Nat) : Rounding → List (Rm → Nat × Nat) → List Nat × Rounding
  | r, [] => ([], r)
  | r, f :: fs =>
    let (x, r) := roundElem code r f
    let (xs, r) := roundElems code r fs
    (x :: xs, r)

/-- The rounding state of the bank in focus, with no flag yet. -/
def State.rounding (s : State) : Rounding := ⟨0, s.bank.ctl.seed⟩

/-- The flags merged and RS.SEED left after its last advance (R96, R97). -/
def State.rounded (s : State) (r : Rounding) : State :=
  (s.addFlags r.flags).upd fun b => { b with ctl := { b.ctl with seed := r.seed } }

/-- One pass of the reduction tree: the lower half combined with the upper half (R102). -/
def redPass (code : Nat) (op : Nat → Nat → Rm → Nat × Nat) (r : Rounding) (xs : List Nat) : List Nat × Rounding :=
  let h := xs.length / 2
  roundElems code r ((xs.take h).zip (xs.drop h) |>.map fun p => op p.1 p.2)

/-- The reduction tree over 2^n elements (R102). -/
def redTree (code : Nat) (op : Nat → Nat → Rm → Nat × Nat) : Nat → Rounding → List Nat → List Nat × Rounding
  | 0, r, xs => (xs, r)
  | n + 1, r, xs =>
    let (xs, r) := redPass code op r xs
    redTree code op n r xs

/-- The scan tree: n passes of distance d, 2d, … (R102). -/
def scanTree (code : Nat) (op : Nat → Nat → Rm → Nat × Nat) : Nat → Nat → Rounding → List Nat → List Nat × Rounding
  | 0, _, r, xs => (xs, r)
  | n + 1, d, r, xs =>
    let (ys, r) := roundElems code r (xs.zip (xs.drop d) |>.map fun p => op p.1 p.2)
    scanTree code op n (2 * d) r (xs.take d ++ ys)

end Sys2Proof.Machine
end

