-- ==== Sys2Proof/Machine/Issue.lean ====
section
/-! DEFINITION. The sequencer: fetch and its translation cache, dispatch, the issues of a bundle, the slot cursors, the
end of an issue and of a bundle (R52 to R67, R288, R348). -/

namespace Sys2Proof.Machine

/-! ### Fetch (R67, R348) -/

/-- The key of a page in a core's instruction translation cache. -/
abbrev itcKey (c page : Nat) : Nat := c * 2 ^ 39 + page

/-- Entries of an instruction translation cache (R348). -/
abbrev itcLines : Nat := 64

/-- An entry placed in a core's instruction translation cache; a full one gives up some entry (R348). -/
def State.itcPut (s : State) (core key : Nat) (w : Word) : State :=
  let m := (s.core core).itc
  if m.length < itcLines then s.modCore core fun k => { k with itc := mset 0 m key w }
  else (s.modCore core fun k => { k with itc := mset 0 (m.eraseIdx (Config.entryChoice s.tick % itcLines)) key w }).ticked

/-- The entry that translates a page of code for the bank in focus, or the detail of FETCH_FAULT. A walk sets A. -/
def State.itcFill (s : State) (page : Nat) : Except Nat Word × State :=
  let c := s.bank.id.ctx
  let core := coreOf s.cur
  let w := mget 0 (s.core core).itc (itcKey c page)
  if w ≠ 0 then (.ok w, s)
  else
    let t := s.walked c (page * 65536)
    match s.walk c (page * 65536) with
    | .absent => (.error 0, t)
    | .malformed => (.error 6, t)
    | .leaf a w =>
      let p := pteOf w
      if p.st = 1 then (.error 0, t)
      else
        let w := w ||| 16
        let s := t
        let s := if p.a then s else s.pokePte c a w
        if p.x then (.ok w, s.itcPut core (itcKey c page) w)
        else (.error 1, s)

/-- How the fetch of a line ends. -/
inductive Fetched where
  | line (s : State)
  | fails (s : State) (f : Flt)
  | waits

/-- A line of code brought into the fetch buffer of the bank in focus. pc is the bundle whose bytes are wanted: a failure
names the first byte of it that could not be fetched. -/
def State.fetchLine (s : State) (pc line : Nat) : Fetched :=
  let v := line / 1024 * 65536
  if (mget none s.bank.fetched line).isSome then .line s
  else if mget 0 (s.core (coreOf s.cur)).itc (itcKey s.bank.id.ctx (line / 1024)) = 0 && s.walkWaits s.bank.id.ctx v then .waits
  else
    let place := BitVec.signExtend 64 (BitVec.ofNat 55 (max pc (line * 64)))
    match s.itcFill (line / 1024) with
    | (.error d, s) => .fails s { cause := cFETCH_FAULT, detail := d, place := place, whole := true }
    | (.ok w, s) =>
      let p := pteOf w
      let keep (s : State) (bits : BitVec 512) : Fetched :=
        .line (s.upd fun b => { b with fetched := mset none b.fetched line (some bits) })
      if p.st = 2 then keep s 0
      else
        let a := leafFrame p (line * 64) * 65536 + line * 64 % 65536
        match s.viewBytes (dieOf s.cur) s.bank.id.ctx ((List.range 64).map (a + ·)) with
        | .ok (bs, s) => keep s (BitVec.ofNat 512 (leNat bs))
        | .error .stall => .waits
        | .error (.fault f) => .fails s { f with place := place, whole := true }

/-- Bytes of the fetch buffer from an address. -/
def Bank.code (b : Bank) (pc n : Nat) : List Byte :=
  (List.range n).map fun i => match mget none b.fetched ((pc + i) / 64) with
    | some l => l.extractLsb' (8 * ((pc + i) % 64)) 8
    | none => 0

/-- The length a header gives its bundle (R50); a reserved kind is judged by the header alone. -/
def headerLen (h : Nat) : Nat :=
  match kindOf h with
  | .error _ => 4
  | .ok k => 4 + kindExtra k + (if bitAt h 8 then 4 else 0) + 8 * ((List.range 5).countP fun i => bitAt h (9 + i))

/-- The address of the next bundle, as a virtual address. -/
def Bank.at_ (b : Bank) : Nat := b.pc.toNat % 2 ^ 55

/-- Every line of the bundle at the program counter in the fetch buffer: first the header's, then the last one's. -/
def State.fetchBundle (s : State) : Fetched :=
  let pc := s.bank.at_
  match s.fetchLine pc (pc / 64) with
  | .line s =>
    let n := headerLen (leNat (s.bank.code pc 4))
    s.fetchLine pc ((pc + n - 1) % 2 ^ 55 / 64)
  | r => r

/-! ### Steppable operations (R56) and captured operands (R53) -/

/-- The steppable operations (R56). -/
def steppable : Instr → Bool
  | .vadd _ | .vsub _ | .vadds _ | .vsubs _ | .vmul _ | .vmulh _ | .vmad _ | .vabsd _ | .vmin _ | .vmax _
  | .vand _ | .vor _ | .vxor _ | .vbit _ | .vshl _ | .vshr _ | .vcmp _ | .vsel _
  | .vfadd _ | .vfsub _ | .vfmul _ | .vfma _ | .vfmin _ | .vfmax _ | .vfcmp _ | .vfrcp _ | .vfrsq _ | .vfexp2 _
  | .vflog2 _ | .vfsgn _ | .vcvt _ | .vtag _ | .vbfpq _ | .vbfpd _ | .vplane _ | .vunpl _ | .vokey _ | .vpadd _
  | .vpdot _ | .vpshl _ | .vred _ | .vscan _ | .vperm _ | .vslide _ | .vbcast _ | .vbcastElement _ | .viota _
  | .vextr _ | .vins _ | .vmov _ | .vld _ | .vst _ | .vlde _ | .vste _ | .vgth _ | .vsct _ | .vldm _ | .vstm _
  | .vkld _ | .vkst _ | .vhist _ | .mpre _ | .mfeed _ | .mfeedr _ | .mdrain _ | .cpy _ | .cpyt _ | .cpys _ | .gth _
  | .sct _ | .cpyg _ | .pfill _ => true
  | .pwb o | .pinv o => !bitAt o.mod.toNat 0  -- R241: not with ALL
  | _ => false

/-- The scalar registers whose values a V, M or C operation captures (R53). -/
def captured : Instr → List XReg
  | .vld o | .vst o | .vlde o | .vste o | .vldm o | .vstm o => [o.xp]
  | .vslide o | .vbcast o | .vbcastElement o | .viota o | .vins o | .vgth o | .vsct o => [o.xa]
  | .mlease o | .mrel o | .mmode o | .mloadp o | .mflow o | .mskew o | .mclr o | .mpre o | .mfeed o | .mfeedr o
  | .mdrain o | .mstat o | .mresume o => [o.xa, o.xb, o.xc]
  | .cpy o | .cpyt o | .cpys o | .gth o | .sct o | .cpyg o | .sbind o | .sunb o | .radv o | .pfill o | .pwb o
  | .pinv o | .cxadd o | .cwaite o => [o.xs, o.xt, o.xn]
  | _ => []

/-! ### Dispatch (R52, R58) -/

/-- A sticky slot without a last operation, or with one that is not steppable (R52). -/
def Bank.badSticky (b : Bank) (u : Bundle) : Bool :=
  let last (i : Nat) : Option SlotOp :=
    match (b.lag.filter fun e => e.slot == i && (e.run.b.ops[i]?.getD none).isSome).getLast? with
    | some e => e.run.b.ops[i]?.getD none
    | none => (mget Cursor.empty b.cursors i).op
  (List.range 6).any fun i => u.sticky.getLsbD i && (match last i with
    | some (.op o) => !steppable o
    | _ => true)

/-- The bundle whose bytes stand in the fetch buffer, checked and made current; none is ILLEGAL_BUNDLE. The lines before
its last one leave the buffer. A YIELD that found no ready bank has had no effect (R134). -/
def State.dispatch (s : State) : Option State :=
  let pc := s.bank.at_
  let n := headerLen (leNat (s.bank.code pc 4))
  match decodeBundle (s.bank.code pc n) with
  | .error _ => none
  | .ok (u, _) =>
    if s.bank.badSticky u then none
    else
      let steps := (List.range 6).map fun i => mget 0 s.bank.ctl.steps (6 * u.stepSet + i)
      some ((s.modCore (coreOf s.cur) fun c => { c with give := false }).upd fun b =>
        { b with cur := some { addr := b.pc, b := u, steps := steps, rep := 0, begun := false, todo := [], ready := false,
                               npc := none, halt := none, period := s.period },
                 view := b.regs, kview := b.kennel,
                 fetched := b.fetched.filter fun x => (pc + n - 1) % 2 ^ 55 / 64 ≤ x.1 })

/-! ### Issues (R53, R66) -/

/-- Whether slot i issues in repetition r. -/
def slotIssues (u : Bundle) (r i : Nat) : Bool :=
  ((u.ops[i]?.getD none).isSome && (i != 0 || r == 0)) || u.sticky.getLsbD i

/-- The next issue of the current bundle begun: the distance count (R66), the cycle it takes, the slots that issue. none
is SAFEPOINT_DISTANCE. -/
def State.beginIssue (s : State) (r : Running) : Option State :=
  if 4096 < s.bank.dist + 1 then none
  else
    let todo := (List.range 6).filter (slotIssues r.b r.rep)
    let d := if r.b.kind = .safePoint ∧ r.rep = 0 then 0 else s.bank.dist + 1
    some (s.passCycle.upd fun b =>
      { b with dist := d, iss := b.iss + 1, view := b.regs, cur := some { r with begun := true, todo := todo, ready := false } })

/-- A step word as an advance (R34, R53). -/
def stepOf (w : Word) : Adv :=
  { off := (w.extractLsb' 32 32).toInt, row := (w.extractLsb' 16 16).toInt, reg := (w.extractLsb' 8 8).toInt }

/-- Two advances together. -/
def Adv.add (a b : Adv) : Adv := ⟨a.off + b.off, a.row + b.row, a.reg + b.reg⟩

/-- The operation that slot i issues now: the slot word, or the cursor's for a sticky slot. -/
def Bank.opOf (b : Bank) (r : Running) (i : Nat) : Option SlotOp :=
  match r.b.ops[i]?.getD none with
  | some o => some o
  | none => (mget Cursor.empty b.cursors i).op

/-- Slot i made ready to issue: the cursor starts afresh with a present operation's first issue and advances by one step
at every other (R53). -/
def Bank.readySlot (b : Bank) (r : Running) (i : Nat) : Bank :=
  if r.ready then { b with slot := i }
  else
    let c := mget Cursor.empty b.cursors i
    let c := match r.b.ops[i]?.getD none with
      | some o =>
        if r.rep = 0 then { op := some o, val := [], adv := Adv.zero, fresh := true }
        else { c with adv := c.adv.add (stepOf (r.steps[i]?.getD 0)) }
      | none => { c with adv := c.adv.add (stepOf (r.steps[i]?.getD 0)) }
    { b with slot := i, cursors := mset Cursor.empty b.cursors i c, cur := some { r with ready := true } }

/-! ### Control registers, work items and the end of a bundle (R35, R288) -/

/-- A control-register write that comes into force: FRM, the EFRs, ROT.V, ROT.P, LCOUNT, PCFG, MSTAT, the step sets. -/
def Ctl.apply (c : Ctl) (w : CrWrite) : Ctl :=
  if w.num = 0 then { c with frm := w.val.extractLsb' 0 3 }
  else if 0x10 ≤ w.num ∧ w.num ≤ 0x14 then { c with efr := mset 0 c.efr (w.num - 0x10) w.val }
  else if w.num = 0x20 then { c with rotV := w.val.toNat }
  else if w.num = 0x21 then { c with rotP := w.val.toNat }
  else if w.num = 0x22 then { c with lcount := w.val }
  else if w.num = 0x30 then { c with pcfg := w.val }
  else if w.num = 0x50 then { c with cycle := w.val }
  else if w.num = 0x71 then { c with mstat := c.mstat &&& ~~~(w.val.extractLsb' 0 3) }
  else if 0x100 ≤ w.num ∧ w.num < 0x180 then
    { c with steps := mset 0 c.steps (6 * ((w.num - 0x100) / 8) + (w.num - 0x100) % 8) w.val }
  else c

/-- The writes due by the dynamic bundle n come into force, in the order they were made. -/
def Bank.applyCr (b : Bank) (n : Nat) : Bank :=
  { b with ctl := (b.crq.filter (·.due ≤ n)).foldl Ctl.apply b.ctl, crq := b.crq.filter (n < ·.due) }

/-- Low bits of a work ID that number the items of a task: the fields bound to SEQ (R270). -/
def Header.seqBits (h : Header) : Nat :=
  ((h.widths.zip h.binds).filter (·.2 == 5)).foldl (fun n x => n + x.1) 0

/-- The work ID after w in its task (R270, R288). -/
def Header.nextWid (h : Header) (w : Nat) : Option Nat :=
  if w + 1 < h.n ∧ (w + 1) / 2 ^ h.seqBits = w / 2 ^ h.seqBits then some (w + 1) else none

/-- x1 to x8 the argument words and x9 the work ID, every one written as a destination (R49, R288). -/
def Regs.args (r : Regs) (args : List Word) (wid : Word) : Regs :=
  let vals := (List.range 8).map (fun i => (i + 1, args[i]?.getD 0)) ++ [(9, wid)]
  { r with x := vals.foldl (fun m v => mset 0 m v.1 v.2) r.x, tok := vals.foldl (fun m v => mset Tok.idle m v.1 Tok.idle) r.tok }

/-- Some of x1 to x9 is pending, so the start of a further item waits as a write does (R22). -/
def Bank.argsPending (b : Bank) : Bool := (List.range 9).any fun i => b.regs.pending (BitVec.ofNat 6 (i + 1))

/-- The work item that comes after a HALT: none at the task's final HALT (R288). -/
def State.nextItem (s : State) (last : Bool) : Option Nat :=
  if last then none else s.myKernel.bind fun k => k.hdr.nextWid s.bank.id.wid.toNat

/-- A HALT that starts a further item waits for x1 to x9 (R22, R288). -/
def State.itemWaits (s : State) (h : Option Bool) : Bool :=
  h == some false && (s.nextItem false).isSome && s.bank.argsPending

/-- A task executes its final HALT: its kernel is EDGE with the last one (R267). -/
def State.finalHalt (s : State) : State :=
  let c := s.bank.id.ctx
  let s := s.upd fun b => { b with run := .ending }
  match s.kernel c (kslot s.bank.id.kid) with
  | none => s
  | some k =>
    if k.gen ≠ s.bank.id.kid / 65536 then s
    else s.modKernel c (kslot s.bank.id.kid) fun x =>
      let n := x.halted + 1
      { x with halted := n, st := if x.st = .running ∧ n = (x.hdr.n + 2 ^ x.hdr.seqBits - 1) / 2 ^ x.hdr.seqBits then .edge else x.st }

/-- The work item ends after its bundle (R288): the next item of the task, or task end (R277). -/
def State.endItem (s : State) (last : Bool) : State :=
  match s.nextItem last with
  | some w =>
    let args := match s.myKernel with
      | some k => (k.hdr.args, k.hdr.entry)
      | none => ([], 0)
    s.upd fun b =>
      let regs := b.regs.args args.1 (BitVec.ofNat 64 w)
      { b with id := { b.id with wid := BitVec.ofNat 64 w }, regs := regs, view := regs, pc := args.2,
               rpoison := b.rpoison.filter fun x => !(1 ≤ x.1 && x.1 ≤ 9) }
  | none => s.finalHalt

/-- The bundle is finished: due control-register writes come into force and the next bundle is known (R35, R50). -/
def State.endBundle (s : State) (r : Running) : State :=
  let s := s.upd fun b => { (b.applyCr (b.bundles + 1)) with
    bundles := b.bundles + 1, cur := none, view := b.regs, pc := r.npc.getD (r.addr + BitVec.ofNat 64 r.b.len) }
  match r.halt with
  | some last => s.endItem last
  | none => s

/-! ### Slots that run ahead (R58 to R62) -/

/-- The scalar registers whose values an operation waits for: sources of the S slot, captured operands elsewhere. A field
that an operation does not use is zero (R75), and x0 never waits. -/
def readsOf : Instr → List XReg
  | .add o | .sub o | .mul o | .mulh o | .mulhn o | .div o | .divn o | .rem o | .remn o | .and o | .or o | .xor o | .sll o
  | .srl o | .sra o | .slt o | .sltn o | .min o | .max o | .minn o | .maxn o | .clz o | .ctz o | .popc o | .plx o | .plt o
  | .pltPeer o | .plr o | .padd o | .xlook o | .xlookW o | .talloc o | .tallocHandle o | .tfree o | .tshape o | .tqry o
  | .ret o | .calloc o | .callocDie o | .cfree o | .cwait o | .crd o | .launch o | .kstat o | .qctlQuery o | .qctlSetmode o
  | .qctlDrain o | .qctlHalt o | .qctlResume o | .qctlAbort o | .qctlReset o | .gopen o | .gcommit o | .gabort o | .gstat o
  | .colrdy o => [o.xa, o.xb]
  | .addi o | .andi o | .ori o | .xori o | .slli o | .srli o | .srai o | .slti o | .widf o | .crw o | .crs o | .crc o | .trap o => [o.xa]
  | .lih o => [o.xd]
  | .beq o | .bne o | .blt o | .bge o | .bltn o | .bgen o => [o.xa, o.xb]
  | .probe o => [o.xb]
  | .kst o => [o.x]
  | .cadd o => [o.xd, o.xb]
  | .atom o => [o.xd, o.xb] ++ (if o.fn.toNat % 8 = 7 then [o.xd ^^^ 1] else [])
  | i => captured i

/-- The tokens that an M or C operation consumes and the one it names (R22). -/
def tokensOf : Instr → List XReg × List XReg
  | .mlease o | .mrel o | .mmode o | .mloadp o | .mflow o | .mskew o | .mclr o | .mpre o | .mfeed o | .mfeedr o
  | .mdrain o | .mstat o | .mresume o => ([o.k1, o.k2, o.k3], [o.kd])
  | .cpy o | .cpyt o | .cpys o | .gth o | .sct o | .cpyg o | .sbind o | .sunb o | .radv o | .pfill o | .pwb o
  | .pinv o | .cxadd o | .cwaite o => ([o.k1, o.k2, o.k3], [o.kd])
  | _ => ([], [])

/-- The scalar registers that an operation writes. -/
def writesOf : Instr → List XReg
  | .add o | .sub o | .mul o | .mulh o | .mulhn o | .div o | .divn o | .rem o | .remn o | .and o | .or o | .xor o | .sll o
  | .srl o | .sra o | .slt o | .sltn o | .min o | .max o | .minn o | .maxn o | .clz o | .ctz o | .popc o | .plx o | .plt o
  | .pltPeer o | .plr o | .padd o | .xlook o | .xlookW o | .talloc o | .tallocHandle o | .tfree o | .tshape o | .tqry o
  | .calloc o | .callocDie o | .cfree o | .cwait o | .crd o | .launch o | .kstat o | .qctlQuery o | .qctlSetmode o
  | .qctlDrain o | .qctlHalt o | .qctlResume o | .qctlAbort o | .qctlReset o | .gopen o | .gcommit o | .gabort o | .gstat o
  | .colrdy o | .mark o => [o.xd]
  | .addi o | .andi o | .ori o | .xori o | .slli o | .srli o | .srai o | .slti o | .widf o | .crr o | .crw o | .crs o | .crc o => [o.xd]
  | .li o | .lih o | .lil o _ => [o.xd]
  | .call o => [o.xl]
  | .probe o => [o.xa]
  | .kld o => [o.x]
  | .atom o => [o.xd]
  | .vextr o => [o.xa]
  | i => (tokensOf i).2

/-- What an operation touches besides scalar registers, as bits: 0 memory and order markers, 1 the tile table, 2 places in tiles, 3 vector
registers and streams, 4 predicates, 5 stream bindings, 6 the kennel, 7 control registers, 8 groups. -/
def touches : Instr → Nat
  | .bany _ | .ball _ | .bnone _ => 16
  | .talloc _ | .tallocHandle _ | .tfree _ | .tshape _ | .tqry _ | .probe _ | .radv _ => 2
  | .kld _ => 64
  | .kst _ => 80
  | .crr _ | .crw _ | .crs _ | .crc _ => 128
  | .fence _ | .mark _ | .calloc _ | .callocDie _ | .cfree _ | .cwait _ | .crd _ | .launch _ | .kstat _ | .qctlQuery _ | .qctlSetmode _
  | .qctlDrain _ | .qctlHalt _ | .qctlResume _ | .qctlAbort _ | .qctlReset _ | .colrdy _ => 1
  | .gopen _ | .gcommit _ | .gabort _ | .gstat _ => 257
  | .cadd _ | .atom _ => 17
  | .vld _ | .vst _ | .vlde _ | .vste _ | .vgth _ | .vsct _ | .vldm _ | .vstm _ => 9
  | .vkld _ | .vkst _ => 72
  | .vadd _ | .vsub _ | .vadds _ | .vsubs _ | .vmul _ | .vmulh _ | .vmad _ | .vabsd _ | .vmin _ | .vmax _
  | .vand _ | .vor _ | .vxor _ | .vbit _ | .vshl _ | .vshr _ | .vcmp _ | .vsel _
  | .vfadd _ | .vfsub _ | .vfmul _ | .vfma _ | .vfmin _ | .vfmax _ | .vfcmp _ | .vfrcp _ | .vfrsq _ | .vfexp2 _
  | .vflog2 _ | .vfsgn _ | .vcvt _ | .vtag _ | .vbfpq _ | .vbfpd _ | .vplane _ | .vunpl _ | .vokey _ | .vpadd _
  | .vpdot _ | .vpshl _ | .vred _ | .vscan _ | .vperm _ | .vslide _ | .vbcast _ | .vbcastElement _ | .viota _
  | .vextr _ | .vins _ | .vmov _ | .pand _ | .por _ | .pxor _ | .pnot _ | .pcnt _ | .pfirst _ | .pset _ | .pmov _
  | .lsclr _ | .lsins _ | .lsrd _ | .vhist _ => 8
  | .sbind _ | .sunb _ => 100
  | .cpys _ => 68
  | .cpyg _ => 260
  | .mlease _ | .mrel _ | .mmode _ | .mloadp _ | .mflow _ | .mskew _ | .mclr _ | .mpre _ | .mfeed _ | .mfeedr _ | .mdrain _ | .mstat _
  | .mresume _ | .cpy _ | .cpyt _ | .gth _ | .sct _ | .pfill _ | .pwb _ | .pinv _ | .cxadd _ | .cwaite _ => 4
  | _ => 0

/-- Two sets of what is touched keep program order between two operations. -/
def orderedBy (a b : Nat) : Bool :=
  let h (m n : Nat) : Bool := (bitAt a m && bitAt b n) || (bitAt a n && bitAt b m)
  h 0 0 || h 0 1 || h 1 1 || h 1 2 || h 3 3 || h 3 4 || h 3 5 || h 5 5 || h 5 1 || h 6 6 || h 8 8 || bitAt a 7 || bitAt b 7

/-- Lists of registers other than x0 have one in common. -/
def sharesX (a b : List XReg) : Bool := a.any fun x => x != 0 && b.contains x

/-- Operation j waits for an earlier operation i of another slot that has not issued: the register dependences of R59, and program order where
both touch memory (R60, R251), the kennel (R41, R128), the tile table, streams, groups or control registers. -/
def waitsFor (i j : Instr) : Bool :=
  let ri := readsOf i ++ (tokensOf i).1
  let rj := readsOf j ++ (tokensOf j).1
  sharesX (writesOf i) rj || sharesX (writesOf i) (writesOf j) || sharesX ri (writesOf j) || orderedBy (touches i) (touches j)

/-- Loads of memory and tiles, which R255 holds until a token is read. -/
def isLoad : Instr → Bool
  | .vld _ | .vlde _ | .vldm _ | .vgth _ | .atom _ | .crd _ => true
  | _ => false

/-- The operation that stands in a slot's queue: its bundle's, or for a sticky slot the last one present before. -/
def Bank.lagOp (b : Bank) (e : LagOp) : Option Instr :=
  match (match (b.lag.filter fun x => x.slot == e.slot && x.iss ≤ e.iss && (x.run.b.ops[e.slot]?.getD none).isSome).getLast? with
    | some x => x.run.b.ops[e.slot]?.getD none
    | none => (mget Cursor.empty b.cursors e.slot).op) with
  | some (.op i) => some i
  | _ => none

/-- A load waits for the operations of its bundle that read a pending token, and for earlier ones (R255). -/
def Bank.tokenHolds (b : Bank) (before : List LagOp) (r : Running) (slot : Nat) : Bool :=
  let reads (v : Regs) (o : Option SlotOp) : Bool := match o with
    | some (.op i) => (readsOf i).any v.pending
    | _ => false
  before.any (fun e => reads e.view ((b.lagOp e).map .op)) ||
    (r.todo.any fun k => k != slot && reads b.view (b.opOf r k))

/-- An operation of slot k waits for operations that lag behind: an earlier one of its own slot, or one that it depends on. -/
def Bank.heldBehind (b : Bank) (before : List LagOp) (k : Nat) (i : Instr) : Bool :=
  before.any fun e => e.slot == k || (match b.lagOp e with
    | some j => waitsFor j i
    | none => true)

/-- Operations that change the tile table: their bundle is dispatched as if its SYNC bit were set (R122). -/
def changesTiles : Instr → Bool
  | .talloc _ | .tallocHandle _ | .tfree _ | .tshape _ => true
  | _ => false

/-- No slot issues a bundle before every earlier one has issued: SYNC, a safe point, a change of the tile table (R61, R122). -/
def syncs (u : Bundle) : Bool :=
  u.sync || u.kind == .safePoint || (match (u.ops[0]?.getD none : Option SlotOp) with
    | some (.op i) => changesTiles i
    | _ => false)

/-- A bundle that holds a YIELD. -/
def hasYield (u : Bundle) : Bool := match (u.ops[0]?.getD none : Option SlotOp) with
  | some (.op (.yieldS _)) => true
  | _ => false

/-- Operations that keep their bundle open while they lag: transfers, YIELD, traps, accesses of control registers and changes of the tile
table. -/
def holdsBundle : Instr → Bool
  | .beq _ | .bne _ | .blt _ | .bge _ | .bltn _ | .bgen _ | .bany _ | .ball _ | .bnone _ | .j _ | .call _ | .ret _ | .loopb _ | .probe _
  | .crr _ | .crw _ | .crs _ | .crc _ | .trap _ | .brk _ | .halt _ | .yieldS _ | .cwait _ => true
  | i => changesTiles i

/-- The last issue of the current bundle is over: no operation holds it open, a HALT finds every slot done and starts no item that waits, and
every repetition of the other slots has issued before a YIELD hands the sequencer over (R134). -/
def State.canEnd (s : State) (r : Running) : Bool :=
  !(s.bank.lag.any fun e => e.no == s.bank.bundles && (match s.bank.lagOp e with
      | some i => holdsBundle i
      | none => true)) &&
    (r.halt.isNone || s.bank.lag == []) && !s.itemWaits r.halt &&
    !(hasYield r.b && (s.core (coreOf s.cur)).give && s.bank.lag.any fun e => e.no == s.bank.bundles)

/-- The values under which a map differs between two states of it carried into a third. -/
def mcarry {α : Type} [DecidableEq α] (d : α) (old new m : Map α) : Map α :=
  ((old ++ new).map (·.1)).foldl (fun m k => if mget d old k = mget d new k then m else mset d m k (mget d new k)) m

/-- What an operation has written carried into the registers that a later issue reads (R59). -/
def Regs.carry (old new v : Regs) : Regs :=
  { x := mcarry 0 old.x new.x v.x, v := mcarry VReg.zero old.v new.v v.v, p := mcarry 0 old.p new.p v.p,
    tok := mcarry Tok.idle old.tok new.tok v.tok }

/-- Control registers as an earlier bundle reads them, with the accumulated ones as they stand (R35, R96, R97, R174). -/
def Ctl.readAs (now c : Ctl) : Ctl :=
  { c with fflags := now.fflags, seed := now.seed, nancnt := now.nancnt, mstat := now.mstat, cycle := now.cycle }

/-- The bank in focus made ready to execute an operation that lags behind: what its issue reads is in force. -/
def State.enter (s : State) (e : LagOp) : State :=
  s.upd fun b => { b with
    aside := some (b.cur, b.bundles), cur := some e.run, bundles := e.no, iss := e.iss, slot := e.slot, view := e.view, kview := e.kview,
    part := e.part, ctl := b.ctl.readAs e.ctl }

/-- The bank in focus after an attempt at an operation that lags behind, begun in state old: its writes reach the later issues, a
transfer, trap or HALT of the current bundle takes effect there, and the operation leaves its queue when it has issued. -/
def State.leave (s old : State) (e : LagOp) : State :=
  let o := old.bank
  s.upd fun b =>
    let done := match b.cur with
      | some r => r.todo == []
      | none => true
    let fix (iss no : Nat) (v : Regs) (k : Map Byte) : Regs × Map Byte :=
      (if e.iss < iss then Regs.carry o.regs b.regs v else v, if e.no < no then mcarry 0 o.kennel b.kennel k else k)
    let here := fix o.iss o.bundles o.view o.kview
    { b with
      aside := none, bundles := o.bundles, iss := o.iss, slot := o.slot, part := o.part, view := here.1, kview := here.2,
      ctl := b.ctl.readAs o.ctl,
      cur := match o.cur, b.cur with
        | some r, some q => some (if e.no = o.bundles then { r with npc := q.npc, halt := q.halt } else r)
        | c, _ => c,
      lag := (b.lag.filter fun x => !(done && x.iss == e.iss && x.slot == e.slot)).map fun x =>
        if x.iss = e.iss ∧ x.slot = e.slot then { x with run := b.cur.getD x.run, part := b.part }
        else
          let v := fix x.iss x.no x.view x.kview
          { x with view := v.1, kview := v.2 } }

/-- The head operation of the current issue put aside in its slot's queue, so that the next slot may issue (R58). -/
def State.putAside (s : State) : State :=
  match s.bank.cur with
  | none => s
  | some r => s.upd fun b =>
    { b with part := 0, cur := some { r with todo := r.todo.tail, ready := false }, issued := .done,
             lag := b.lag ++ [⟨b.bundles, b.iss, b.slot, { r with todo := [b.slot] }, b.view, b.kview, b.ctl, b.part⟩] }

/-! ### The ends of an issue and of a bundle (R35, R41, R59, R288) -/

/-- The issue is finished: its writes become readable (R59). At the end of the bundle an error that a read has met stops the bank (R41,
R438). -/
def State.endIssue (s : State) (r : Running) : State :=
  let s := s.upd fun b => { b with cur := some r }
  if r.rep < r.b.rpt then
    s.upd fun b => { b with cur := some { r with rep := r.rep + 1, begun := false }, view := b.regs }
  else if s.bank.late.isSome then s.lateFault
  else if s.canEnd r then s.endBundle r
  else s

/-- An MLEASE whose token is pending. -/
def MillCmd.awaitsLease (c : MillCmd) : Bool := match c.instr with
  | .mlease _ => c.value.isNone
  | _ => false

/-- An operation reads the pending token of an MLEASE of the bank (R19). -/
def Bank.leaseRead (b : Bank) (i : Instr) : Bool := b.cmds.any fun c => c.awaitsLease && (readsOf i).any fun x => x.toNat == c.kd && x != 0

/-- An operation that lags behind reads the pending token of an MLEASE (R19). -/
def Bank.lagReadsLease (b : Bank) : Bool := b.lag.any fun e => match b.lagOp e with
  | some i => b.leaseRead i
  | none => false

/-- The operation at which the bank stands has issued: its captured operands are kept (R53). While another one still reads the pending token
of an MLEASE, the count of R19 goes on. -/
def State.opMark (s : State) (i : Instr) : State :=
  s.upd fun b =>
    let c := mget Cursor.empty b.cursors b.slot
    let val := (captured i).foldl (fun m a => mset 0 m a.toNat (if a = 0 then 0 else mget 0 b.view.x a.toNat)) []
    let c := if c.fresh then { c with val := val, fresh := false } else c
    let keep := b.lagReadsLease
    { b with cursors := mset Cursor.empty b.cursors b.slot c, part := 0, waitAge := if keep then b.waitAge else 0, wish := keep && b.wish,
             cur := b.cur.map fun r => { r with todo := r.todo.tail, ready := false } }

/-- The operation at the head of the issue is done, and the next slot comes (R53). -/
def State.opDone (s : State) (i : Instr) : State :=
  let s := s.opMark i
  match s.bank.cur with
  | none => s
  | some r => if r.todo = [] then s.endIssue r else s

/-! ### What a bank does next -/

/-- What stands before a bank: an operation to execute, a word of no form, an operation that must stand behind others in its queue, a
step without an operation, or a wait. -/
inductive Ready where
  | op (i : Instr) (s : State)
  | bad (s : State)
  | behind (s : State)
  | moved (s : State)
  | blocked

/-- The head slot of an issue that has begun. -/
def State.headOp (s : State) (r : Running) : Ready :=
  match r.todo with
  | [] => if r.rep < r.b.rpt ∨ s.bank.late.isSome ∨ s.canEnd r then .moved (s.endIssue r) else .blocked
  | i :: _ =>
    if s.bank.lag.any (·.slot == i) then .behind (s.upd fun b => { b with slot := i })
    else
      let s := s.upd fun b => b.readySlot r i
      match s.bank.opOf r i with
      | some (.op o) =>
        if s.bank.heldBehind s.bank.lag i o || (isLoad o && s.bank.tokenHolds s.bank.lag r i) then .behind s else .op o s
      | _ => .bad s

/-- The dispatch window has no room for the current bundle's issues: an operation of a bundle more than 16 before it is outstanding, or the
bundle waits for every earlier one (R58, R61, R122). -/
def Bank.windowFull (b : Bank) (u : Bundle) : Bool :=
  match b.lag with
  | [] => false
  | e :: _ => decide (e.no + 16 < b.bundles) || (e.no != b.bundles && syncs u)

/-- The current bundle carried on. -/
def State.issueNext (s : State) (r : Running) : Ready :=
  if r.begun then s.headOp r
  else if s.bank.windowFull r.b then .blocked
  else match s.beginIssue r with
    | none => if s.bank.lag = [] then .moved (s.takeFault { cause := cSAFEPOINT_DISTANCE, detail := 0, whole := true }) else .blocked
    | some s => match s.bank.cur with
      | some r => s.headOp r
      | none => .blocked

/-- A pre-emption or halt stands at the boundary before a safe-point bundle, every earlier bundle finished (R63). -/
def Bank.atBoundary (b : Bank) (u : Bundle) : Bool := b.preempt && u.kind == .safePoint && b.lag == []

/-- The next bundle fetched and dispatched. What is wrong with a whole bundle is reported when the operations before it are done (R52, R67). -/
def State.nextBundle (s : State) : Ready :=
  if s.bank.stop then .blocked
  else match s.fetchBundle with
  | .waits => .blocked
  | .fails t f => if s.bank.lag = [] then .moved (t.takeFault f) else .blocked
  | .line s =>
    match s.dispatch with
    | none =>
      if s.bank.lag = [] then .moved (s.takeFault { cause := cILLEGAL_BUNDLE, detail := 0, whole := true }) else .blocked
    | some t => match t.bank.cur with
      | some r => if s.bank.atBoundary r.b then .blocked else t.issueNext r
      | none => .blocked

/-- The other bank of the core. -/
abbrev otherBank (b : Nat) : Nat := b / 2 * 2 + (1 - b % 2)

/-- The sequencer passes to the other bank before this one issues a further bundle (R19, R134). -/
def State.givesWay (s : State) : Bool :=
  (s.core (coreOf s.cur)).give && (s.getBank (otherBank s.cur)).run == .ready

/-- A store of a store queue. -/
def SqEntry.isStore (e : SqEntry) : Bool := match e.kind with
  | .store _ _ _ => true
  | _ => false

/-- The bank in focus may issue: it is ready and holds its core's sequencer (R18), and stores that a refusal held have performed (R340). -/
def State.mayIssue (s : State) : Bool :=
  s.bank.run == .ready && (s.core (coreOf s.cur)).active == s.cur % 2 && !(s.bank.reissue && s.bank.sq.any (·.isStore))

/-- What the bank in focus issues in program order. -/
def State.ready (s : State) : Ready :=
  if s.mayIssue then
    let s := if s.bank.reissue then s.upd fun b => { b with reissue := false } else s
    match s.bank.cur with
    | some r => s.issueNext r
    | none => if s.givesWay then .blocked else s.nextBundle
  else .blocked

/-- An operation that lags behind, if it may issue now: with the state in which it executes. -/
def State.lagReady (s : State) (iss slot : Nat) : Option (LagOp × Instr × State) :=
  match s.bank.lag.find? fun e => e.iss == iss && e.slot == slot with
  | none => none
  | some e =>
    let before := s.bank.lag.takeWhile fun x => !(x.iss == iss && x.slot == slot)
    let bundle := s.bank.lag.filter fun x => x.no ≤ e.no && !(x.iss == iss && x.slot == slot)
    let todo := match s.bank.cur with
      | some r => if e.no = s.bank.bundles then r.todo else []
      | none => []
    if before.any (·.slot == slot) then none
    else
      let t := (s.enter e).upd fun b => b.readySlot e.run slot
      match t.bank.opOf e.run slot with
      | some (.op i) =>
        if s.bank.heldBehind before slot i || (isLoad i && s.bank.tokenHolds bundle { e.run with todo := todo } slot) then none
        else some (e, i, t)
      | _ => none

/-- The head operation is a CWAIT, before whose end no slot issues an operation of its bundle (R317). -/
def Bank.atCwait (b : Bank) (r : Running) : Bool := match r.todo with
  | i :: _ => (match b.opOf r i with
    | some (.op (.cwait _)) => true
    | _ => false)
  | [] => false

/-- The head operation may be put aside: its bank runs on (R58). -/
def State.mayPutAside (s : State) : Bool :=
  s.bank.run == .ready && !s.bank.stop && (match s.bank.cur with
    | some r => r.todo != [] && !s.bank.atCwait r
    | none => false)

end Sys2Proof.Machine
end

