-- ==== Sys2Proof/Machine/Scalar.lean ====
section
/-! DEFINITION. The S slot's integer operations and constants (R107 to R111). -/

namespace Sys2Proof.Machine

/-- The widths of the immediates as words. -/
abbrev sext12 (i : BitVec 12) : Word := i.signExtend 64

/-- An operation of two registers. -/
def bin (s : State) (o : SrOp) (f : Word → Word → Word) : Out :=
  scalar s [o.xa, o.xb] o.xd (.ok (f (s.rx o.xa) (s.rx o.xb)))

/-- An operation of one register. -/
def un (s : State) (o : SrOp) (f : Word → Word) : Out := scalar s [o.xa] o.xd (.ok (f (s.rx o.xa)))

/-- An operation of a register and an immediate. -/
def imm (s : State) (o : SiOp) (f : Word → Word → Word) : Out :=
  scalar s [o.xa] o.xd (.ok (f (s.rx o.xa) (sext12 o.imm)))

/-- A shift by an immediate from 0 to 63 (R110). -/
def immShift (s : State) (o : SiOp) (f : Word → Nat → Word) : Out :=
  scalar s [o.xa] o.xd (do
    legal (o.imm.toNat < 64)
    pure (f (s.rx o.xa) o.imm.toNat))

/-- 1 for true, 0 for false. -/
def bit (c : Bool) : Word := if c then 1 else 0

/-- The signed quotient (R86). -/
def quot (a b : Word) : Word := if b = 0 then BitVec.allOnes 64 else a.sdiv b

/-- The signed remainder (R86). -/
def rema (a b : Word) : Word := if b = 0 then a else a.srem b

/-- Zero bits above the highest set bit (R109). -/
def clzGo (a : Word) : Nat → Nat
  | 0 => 0
  | n + 1 => if a.getLsbD n then 0 else 1 + clzGo a n

/-- Zero bits below the lowest set bit, of the n bits from bit i (R109). -/
def ctzGo (a : Word) (i : Nat) : Nat → Nat
  | 0 => 0
  | n + 1 => if a.getLsbD i then 0 else 1 + ctzGo a (i + 1) n

/-- Set bits among the low n (R109). -/
def popGo (a : Word) : Nat → Nat
  | 0 => 0
  | n + 1 => popGo a n + (if a.getLsbD n then 1 else 0)

/-- Bits 127..64 of a product. -/
def upper (p : Int) : Word := BitVec.ofInt 64 (p / (2 : Int) ^ 64)

/-- ADD (R109). -/
def execAdd (o : SrOp) (s : State) : Out := bin s o fun a b => a + b

/-- SUB (R109). -/
def execSub (o : SrOp) (s : State) : Out := bin s o fun a b => a - b

/-- MUL (R109). -/
def execMul (o : SrOp) (s : State) : Out := bin s o fun a b => a * b

/-- MULH (R109). -/
def execMulh (o : SrOp) (s : State) : Out := bin s o fun a b => upper (a.toInt * b.toInt)

/-- MULHN (R109). -/
def execMulhn (o : SrOp) (s : State) : Out := bin s o fun a b => BitVec.ofNat 64 (a.toNat * b.toNat / 2 ^ 64)

/-- DIV (R109, R86). -/
def execDiv (o : SrOp) (s : State) : Out := bin s o fun a b => quot a b

/-- DIVN (R109, R86). -/
def execDivn (o : SrOp) (s : State) : Out := bin s o fun a b => if b = 0 then BitVec.allOnes 64 else a.udiv b

/-- REM (R109, R86). -/
def execRem (o : SrOp) (s : State) : Out := bin s o fun a b => rema a b

/-- REMN (R109, R86). -/
def execRemn (o : SrOp) (s : State) : Out := bin s o fun a b => if b = 0 then a else a.umod b

/-- AND (R109). -/
def execAnd (o : SrOp) (s : State) : Out := bin s o fun a b => a &&& b

/-- OR (R109). -/
def execOr (o : SrOp) (s : State) : Out := bin s o fun a b => a ||| b

/-- XOR (R109). -/
def execXor (o : SrOp) (s : State) : Out := bin s o fun a b => a ^^^ b

/-- SLL (R109). -/
def execSll (o : SrOp) (s : State) : Out := bin s o fun a b => a <<< (b.toNat % 64)

/-- SRL (R109). -/
def execSrl (o : SrOp) (s : State) : Out := bin s o fun a b => a >>> (b.toNat % 64)

/-- SRA (R109). -/
def execSra (o : SrOp) (s : State) : Out := bin s o fun a b => a.sshiftRight (b.toNat % 64)

/-- SLT (R109). -/
def execSlt (o : SrOp) (s : State) : Out := bin s o fun a b => bit (a.slt b)

/-- SLTN (R109). -/
def execSltn (o : SrOp) (s : State) : Out := bin s o fun a b => bit (a.ult b)

/-- MIN (R109). -/
def execMin (o : SrOp) (s : State) : Out := bin s o fun a b => if b.slt a then b else a

/-- MAX (R109). -/
def execMax (o : SrOp) (s : State) : Out := bin s o fun a b => if a.slt b then b else a

/-- MINN (R109). -/
def execMinn (o : SrOp) (s : State) : Out := bin s o fun a b => if b.ult a then b else a

/-- MAXN (R109). -/
def execMaxn (o : SrOp) (s : State) : Out := bin s o fun a b => if a.ult b then b else a

/-- CLZ (R109). -/
def execClz (o : SrOp) (s : State) : Out := un s o fun a => BitVec.ofNat 64 (clzGo a 64)

/-- CTZ (R109). -/
def execCtz (o : SrOp) (s : State) : Out := un s o fun a => BitVec.ofNat 64 (ctzGo a 0 64)

/-- POPC (R109). -/
def execPopc (o : SrOp) (s : State) : Out := un s o fun a => BitVec.ofNat 64 (popGo a 64)

/-- ADDI (R110). -/
def execAddi (o : SiOp) (s : State) : Out := imm s o fun a i => a + i

/-- ANDI (R110). -/
def execAndi (o : SiOp) (s : State) : Out := imm s o fun a i => a &&& i

/-- ORI (R110). -/
def execOri (o : SiOp) (s : State) : Out := imm s o fun a i => a ||| i

/-- XORI (R110). -/
def execXori (o : SiOp) (s : State) : Out := imm s o fun a i => a ^^^ i

/-- SLLI (R110). -/
def execSlli (o : SiOp) (s : State) : Out := immShift s o fun a i => a <<< i

/-- SRLI (R110). -/
def execSrli (o : SiOp) (s : State) : Out := immShift s o fun a i => a >>> i

/-- SRAI (R110). -/
def execSrai (o : SiOp) (s : State) : Out := immShift s o fun a i => a.sshiftRight i

/-- SLTI (R110). -/
def execSlti (o : SiOp) (s : State) : Out := imm s o fun a i => bit (a.slt i)

/-- LI (R111). -/
def execLi (o : SlOp) (s : State) : Out := scalar s [] o.xd (.ok (o.imm.signExtend 64))

/-- LIH (R111): bits 17..0 of xd are kept. -/
def execLih (o : SlOp) (s : State) : Out :=
  scalar s [o.xd] o.xd (.ok ((o.imm.signExtend 64 <<< 18) + ((s.rx o.xd).extractLsb' 0 18).zeroExtend 64))

/-- LIL (R111): the bundle's immediate. -/
def execLil (o : SlOp) (imm64 : Word) (s : State) : Out := scalar s [] o.xd (.ok imm64)

end Sys2Proof.Machine
end

