-- ==== Sys2Proof/Machine/Branch.lean ====
section
/-! DEFINITION. Branches, calls and loops (R123 to R127). -/

namespace Sys2Proof.Machine

/-- The target made the next bundle: a non-canonical one is NONCANONICAL (R123). -/
def State.jump (s : State) (target : Word) : M State :=
  if !canonical target then raiseAt cNONCANONICAL 0 target
  else .ok (s.upd fun b => { b with cur := b.cur.map fun r => { r with npc := some target } })

/-- The target of a branch with a signed offset in 4-byte units from the bundle's first byte (R68). -/
def State.target (s : State) (off : Word) : Word := s.bank.bundleAt + (off <<< 2)

/-- The address of the next bundle in sequence (R50). -/
def State.sequel (s : State) : Word :=
  match s.bank.cur with
  | some r => r.addr + BitVec.ofNat 64 r.b.len
  | none => s.bank.pc

/-- A compare branch (R124). -/
def branch (s : State) (o : SbOp) (c : Word → Word → Bool) : Out :=
  run s (do
    s.operands [o.xa, o.xb] 0
    if c (s.rx o.xa) (s.rx o.xb) then s.jump (s.target (o.off.signExtend 64)) else pure s)

/-- BEQ (R124). -/
def execBeq (o : SbOp) (s : State) : Out := branch s o fun a b => a == b

/-- BNE (R124). -/
def execBne (o : SbOp) (s : State) : Out := branch s o fun a b => a != b

/-- BLT (R124). -/
def execBlt (o : SbOp) (s : State) : Out := branch s o fun a b => a.slt b

/-- BGE (R124). -/
def execBge (o : SbOp) (s : State) : Out := branch s o fun a b => b.sle a

/-- BLTN (R124). -/
def execBltn (o : SbOp) (s : State) : Out := branch s o fun a b => a.ult b

/-- BGEN (R124). -/
def execBgen (o : SbOp) (s : State) : Out := branch s o fun a b => b.ule a

/-- The bits a predicate branch tests: one for each element of 2^z bytes (R125). -/
def tested (p : PBits) (z : Nat) : List Bool := (List.range (256 / 2 ^ z)).map fun i => p.getLsbD (i * 2 ^ z)

/-- A predicate branch (R125): z in bits 23..22, that is bits 5..4 of the xa field. -/
def predBranch (s : State) (o : SbOp) (c : List Bool → Bool) : Out :=
  run s (do
    let p ← s.pget o.xb
    if c (tested p (o.xa.toNat / 16)) then s.jump (s.target (o.off.signExtend 64)) else pure s)

/-- BANY (R125). -/
def execBany (o : SbOp) (s : State) : Out := predBranch s o fun l => l.any id

/-- BALL (R125). -/
def execBall (o : SbOp) (s : State) : Out := predBranch s o fun l => l.all id

/-- BNONE (R125). -/
def execBnone (o : SbOp) (s : State) : Out := predBranch s o fun l => !l.any id

/-- J (R126). -/
def execJ (o : SjOp) (s : State) : Out := run s (s.jump (s.target (o.off.signExtend 64)))

/-- CALL (R126): the link is the next bundle in sequence. -/
def execCall (o : SjOp) (s : State) : Out :=
  run s (do
    s.operands [] o.xl
    let t ← s.jump (s.target (o.off.signExtend 64))
    pure (t.setX o.xl s.sequel))

/-- RET (R123, R126): an unaligned address is ILLEGAL_OPERAND. One that is not canonical either raises NONCANONICAL: DESIGN CHOICE
(log 73). -/
def execRet (o : SrOp) (s : State) : Out :=
  run s (do
    s.operands [o.xa] 0
    let t ← s.jump (s.rx o.xa)
    legal ((s.rx o.xa).toNat % 4 = 0)
    pure t)

/-- A control-register write that comes into force with the next bundle (R27, R35). -/
def State.queueCr (s : State) (num : Nat) (v : Word) (after : Nat) : State :=
  s.upd fun b => { b with crq := b.crq ++ [⟨num, v, b.bundles + after⟩] }

/-- LOOPB (R127): the rotation and the count come into force with the next bundle. -/
def execLoopb (o : SjOp) (s : State) : Out :=
  run s (do
    let c := s.bank.ctl
    let n := if c.lcount = 0 then 0 else c.lcount - 1
    let t ← if n = 0 then pure s else s.jump (s.target (o.off.signExtend 64))
    pure (((t.queueCr 0x20 (BitVec.ofNat 64 ((c.rotV + s.rotM - 1) % s.rotM)) 1).queueCr 0x21
      (BitVec.ofNat 64 ((c.rotP + 47) % 48)) 1).queueCr 0x22 n 1))

end Sys2Proof.Machine
end

