-- ==== Sys2Proof/Machine/Control.lean ====
section
/-! DEFINITION. The kennel word, control registers, order markers, traps, the end of a work item and YIELD (R33 to R35,
R128 to R134, R237, R288). -/

namespace Sys2Proof.Machine

/-! ### The kennel (R128) -/

/-- KLD (R128). -/
def execKld (o : SkOp) (s : State) : Out :=
  scalar s [] o.x (do
    let bs ← s.kennelBytes (8 * o.off.toNat) 8
    pure (BitVec.ofNat 64 (leNat bs)))

/-- The scalar guard of SK: g = 0 is none, else bit 0 of p0 to p7 through the polarity (R71). -/
def State.skGuard (s : State) (o : SkOp) : M Bool :=
  if o.g = 0 then .ok true
  else do
    let p ← s.pget (o.pg.zeroExtend 6)
    pure (governs p o.pol 0 8)

/-- KST (R128). -/
def execKst (o : SkOp) (s : State) : Out :=
  run s (do
    s.operands [o.x] 0
    let go ← s.skGuard o
    pure (if go then s.kputs (8 * o.off.toNat) (leBytes 8 (s.rx o.x).toNat) else s))

/-! ### Control registers (R33 to R35, R129, R130) -/

/-- CAP.CORE (R34). -/
def State.capCore (s : State) : Word :=
  let c := coreOf s.cur
  BitVec.ofNat 64 ((if (s.core c).capVr = 0 then 0 else 1) + (if (s.mg (mgOf s.cur)).mill.usable then 2 else 0) + c * 256)

/-- MSTAT (R209). -/
def Bank.mstatWord (b : Bank) : Word :=
  BitVec.ofNat 64 (b.ctl.mstat.toNat + (if b.susp.isSome then 8 else 0) + b.prog * 2 ^ 16)

/-- The value of a control register in force for this bundle (R33, R129); an unassigned number is ILLEGAL_OPERAND. -/
def State.crGet (s : State) (n : Nat) : M Word :=
  let b := s.bank
  let c := b.ctl
  if n = 0x000 then .ok (c.frm.zeroExtend 64)
  else if n = 0x001 then .ok (c.fflags.zeroExtend 64)
  else if n = 0x002 then .ok (c.seed.zeroExtend 64)
  else if 0x010 ≤ n ∧ n ≤ 0x014 then .ok (mget 0 c.efr (n - 0x010))
  else if n = 0x020 then .ok (BitVec.ofNat 64 c.rotV)
  else if n = 0x021 then .ok (BitVec.ofNat 64 c.rotP)
  else if n = 0x022 then .ok c.lcount
  else if n = 0x030 then .ok c.pcfg
  else if n = 0x040 then .ok (BitVec.ofNat 64 b.id.capVr)
  else if n = 0x041 then .ok s.capCore
  else if n = 0x050 then .ok c.cycle
  else if n = 0x051 then .ok (BitVec.ofNat 64 (s.time / 504))
  else if n = 0x060 then .ok (BitVec.ofNat 64 (s.cur % 2 + (if b.id.sys then 256 else 0)))
  else if n = 0x061 then .ok (BitVec.ofNat 64 b.id.task)
  else if n = 0x062 then .ok (BitVec.ofNat 64 b.id.kid)
  else if n = 0x063 then .ok (BitVec.ofNat 64 b.id.ctx)
  else if n = 0x070 then .ok c.nancnt
  else if n = 0x071 then .ok b.mstatWord
  else if 0x100 ≤ n ∧ n < 0x180 ∧ n % 8 < 6 then .ok (mget 0 c.steps (6 * ((n - 0x100) / 8) + n % 8))
  else if 0x200 ≤ n ∧ n < 0x210 then .ok (s.ext (n - 0x200)).base
  else if 0x210 ≤ n ∧ n < 0x220 then .ok (s.ext (n - 0x210)).len
  else if 0x220 ≤ n ∧ n < 0x230 then .ok (BitVec.ofNat 64 (s.ext (n - 0x220)).flags)
  else illegal

/-- The reserved bits of a writable register (R34, R87, R96, R97, R209, R237); none for a register that no write may
name: unassigned, or with RO fields only (R130). -/
def crReserved (n : Nat) : Option Word :=
  if n = 0x000 then some (~~~0x7)
  else if n = 0x001 then some (~~~0x3F)
  else if n = 0x002 then some (~~~0xFFFFFFFF)
  else if 0x010 ≤ n ∧ n ≤ 0x014 then some (~~~0x1C7FFFFF)
  else if n = 0x020 ∨ n = 0x021 ∨ n = 0x022 ∨ n = 0x050 ∨ n = 0x070 then some 0
  else if n = 0x030 then some (~~~0x1FF)
  else if n = 0x071 then some (~~~0x1FFF000F)
  else if 0x100 ≤ n ∧ n < 0x180 ∧ n % 8 < 6 then some 0xFF
  else none

/-- The rows of a probe-cache tile that meets R237. -/
def probeRows (t : Tile) : Option Nat :=
  let h := shapeRaw t.shape
  if !h.race && h.level == 1 && h.rowBytes == 1024 && [64, 128, 256, 512, 1024, 2048].contains h.rows then some h.rows
  else none

/-- The tag entries that a bank's PCFG holds (R237). -/
def Bank.tagEntries (b : Bank) : Nat :=
  if b.ctl.pcfg.getLsbD 8 then
    match mget none b.tiles (b.ctl.pcfg.toNat % 256) with
    | some t => (probeRows t).getD 0
    | none => 0
  else 0

/-- The conditions on a write of PCFG (R237). -/
def State.pcfgOk (s : State) (v : Word) : Bool :=
  let changes := v != s.bank.ctl.pcfg
  let busy := s.bank.probes.any fun p => p.2.dirty || p.2.fill
  let fits := !v.getLsbD 8 || (match s.tile (v.toNat % 256) with
    | some t => match probeRows t with
      | some r => decide (r + (s.getBank (otherBank s.cur)).tagEntries ≤ 2048)
      | none => false
    | none => false)
  fits && !(changes && busy)

/-- The value limits of a register (R34, R87, R96, R97, R130, R237). -/
def State.crOk (s : State) (n : Nat) (v : Word) : Bool :=
  if n = 0x000 then v.toNat < 6
  else if n = 0x002 then v != 0
  else if 0x010 ≤ n ∧ n ≤ 0x014 then
    let x := v.toNat
    bitsOf x 28 26 != 7 && !(bitAt x 0 && bitsOf x 5 1 == 0)
  else if n = 0x020 then v.toNat < s.rotM
  else if n = 0x021 then v.toNat < 48
  else if n = 0x030 then s.pcfgOk v
  else if n = 0x050 then s.bank.id.sys
  else true

/-- A checked write applied (R35, R88, R96, R97, R130, R174): at once, with the next bundle, or with the third. -/
def State.crPut (s : State) (n : Nat) (v : Word) : State :=
  if n = 0x001 then s.upd fun b => { b with ctl := { b.ctl with fflags := v.extractLsb' 0 6 } }
  else if n = 0x002 then s.upd fun b => { b with ctl := { b.ctl with seed := v.extractLsb' 0 32 } }
  else if n = 0x070 then s.upd fun b => { b with ctl := { b.ctl with nancnt := v } }
  else if n = 0x030 then
    let s := if v = s.bank.ctl.pcfg then s else s.upd fun b => { b with probes := [] }
    s.queueCr n v 1
  else s.queueCr n v (if 0x010 ≤ n ∧ n ≤ 0x014 then 3 else 1)

/-- A write of a control register: sets says that ones in the operand are brought in (CRW, CRS), which refuses reserved
bits; comb makes the new value of the old one and the operand. -/
def crWrite (o : SiOp) (s : State) (sets : Bool) (comb : Word → Word → Word) : Out :=
  run s (do
    s.operands [o.xa] o.xd
    let n := o.imm.toNat
    let a := s.rx o.xa
    let old ← s.crGet n
    match crReserved n with
    | none => illegal
    | some res => do
      legal (!sets || a &&& res == 0)
      if n = 0x071 then pure ((if sets then s.queueCr n (a &&& 7) 1 else s).setX o.xd old)
      else do
        let v := comb old a
        legal (s.crOk n v)
        pure ((s.crPut n v).setX o.xd old))

/-- CRR (R129). -/
def execCrr (o : SiOp) (s : State) : Out := scalar s [] o.xd (s.crGet o.imm.toNat)

/-- CRW (R129, R130). -/
def execCrw (o : SiOp) (s : State) : Out := crWrite o s true fun _ a => a

/-- CRS (R129, R130). -/
def execCrs (o : SiOp) (s : State) : Out := crWrite o s true fun old a => old ||| a

/-- CRC (R129, R130). -/
def execCrc (o : SiOp) (s : State) : Out := crWrite o s false fun old a => old &&& ~~~a

/-! ### Order markers (R131, R132) -/

/-- A scope at which a fence or wait drops far-cache lines: DEVICE or SYSTEM (R131, R248). -/
abbrev wideScope (sc : Nat) : Bool := 3 ≤ sc

/-- The far-cache drop of an acquire (R131, R248, R256). -/
def State.acquire (s : State) (scope : Nat) : State :=
  if wideScope scope then s.dropCtx (dieOf s.cur) s.bank.id.ctx else s

/-- FENCE (R131). Loads are bound when they issue, so ACQ has nothing to wait for; the other kinds stand in the store
queue until the accesses before them have performed. -/
def execFence (o : SiOp) (s : State) : Out :=
  run s (do
    let scope := o.imm.toNat % 8
    let kind := o.imm.toNat / 16 % 4
    legal (scope < 5)
    if kind = 0 ∧ s.bank.heldBack = false then pure (s.acquire scope)
    else pure (s.enqueue (.fence scope kind s.wtNext) 0 0))

/-- MARK (R132). -/
def execMark (o : SrOp) (s : State) : Out :=
  run s (do
    s.operands [] o.xd
    pure ((s.enqueue (.mark o.xd.toNat) 0 0).markTok o.xd s.bank.ord true))

/-! ### Traps, the end of a work item, YIELD (R133, R134, R288) -/

/-- A trap with its code: above 255 ILLEGAL_OPERAND, else the fault, past which the slot's recorded point lies (R133). -/
def trapWith (cause code : Nat) (place : Word) : M State :=
  if 255 < code then illegal
  else .error (.fault { cause := cause, detail := code, place := place, after := true })

/-- TRAP (R133). -/
def execTrap (o : SiOp) (s : State) : Out :=
  run s (do
    s.operands [o.xa] 0
    trapWith cTRAP o.imm.toNat (s.rx o.xa))

/-- BRK (R133). -/
def execBrk (o : SiOp) (s : State) : Out := run s (trapWith cBREAKPOINT o.imm.toNat 0)

/-- HALT (R288): the work item ends after the bundle's last issue. -/
def execHalt (o : SrOp) (s : State) : Out :=
  run s (do
    legal (o.fn.toNat < 2)
    pure (s.upd fun b => { b with cur := b.cur.map fun r => { r with halt := some (o.fn == 1) } }))

/-- YIELD (R134): the sequencer passes to the other bank, if that is ready, at the end of the bundle. -/
def execYieldS (_o : SrOp) (s : State) : Out :=
  run s (.ok (if (s.getBank (otherBank s.cur)).run = .ready then
    s.modCore (coreOf s.cur) fun c => { c with give := true } else s))

end Sys2Proof.Machine
end

