-- ==== Sys2Proof/Machine/PageOps.lean ====
section
/-! DEFINITION. Shared operations of the page layer: dirty reports, write-protect, writes at the home (R326 to R349). -/

namespace Sys2Proof.Machine

/-- The home controller's entry for the frame of an expanded address. -/
def State.frameOf (s : State) (a : Nat) : Frame := mget Frame.none s.frames (a / 65536)

/-- A frame entry covers a frame. -/
def FrameEnt.covers (e : FrameEnt) (frame : Nat) : Bool := e.frame ≤ frame && frame < e.frame + e.pages

/-- Every frame-array entry of a context changed: of its kernels, export windows and collectives. -/
def Ctx.mapFrames (x : Ctx) (f : FrameEnt → FrameEnt) : Ctx :=
  { x with kernels := x.kernels.map fun k => (k.1, k.2.map fun k => { k with frames := k.frames.map f }),
           wins := x.wins.map fun w => (w.1, { w.2 with frames := w.2.frames.map f }),
           colls := x.colls.map fun c => (c.1, { c.2 with frames := c.2.frames.map f }) }

/-- Every frame-array entry of context c changed, those that extent frame caches hold among them (R330). -/
def State.mapFrames (s : State) (c : Nat) (f : FrameEnt → FrameEnt) : State :=
  let t := s.modCtx c fun x => x.mapFrames f
  { t with cores := t.cores.map fun k => (k.1, { k.2 with efc := k.2.efc.map fun e =>
      if e.ctx = c then { e with ent := f e.ent } else e }) }

/-- The dirty log of a context with a page appended (R347). code is the page size code of R326. -/
def State.dlogAppend (s : State) (c va code : Nat) : State :=
  let x := s.ctx c
  if !x.dlogOn then s
  else if x.dlogHead = x.dlogCap then s.modCtx c fun x => { x with dlogOvf := true }
  else
    let w := (BitVec.signExtend 64 (BitVec.ofNat 55 (va / 65536 * 65536))).toNat + code
    (s.poke (bitsOf x.dlogBase.toNat 47 6 * 64 + 8 * x.dlogHead) (leBytes 8 w)).modCtx c fun x =>
      { x with dlogHead := x.dlogHead + 1 }

/-- The state field of an entry set (R326). -/
def pteState (w : Word) (st : Nat) : Word := (w &&& ~~~0xC00) ||| BitVec.ofNat 64 (st * 2 ^ 10)

/-- A D-set (R346): PTE.D, a ZERO page made RESIDENT, the page logged when its D was clear, and every reported bit of the
frame set. -/
def State.dset (s : State) (a : Nat) : State :=
  let fr := s.frameOf a
  if fr.reported then s
  else
    let frame := a / 65536
    let s := { s with frames := mset Frame.none s.frames frame { fr with reported := true } }
    let s := match s.walk fr.ctx fr.va with
      | .leaf at_ w =>
        let p := pteOf w
        let w' := (if p.st = 2 then pteState w 0 else w) ||| 0x20
        let s := if w' = w then s else s.pokePte fr.ctx at_ w'
        if p.d then s else s.dlogAppend fr.ctx (if p.size = 1 then fr.va / 2 ^ 29 * 2 ^ 29 else fr.va) p.size
      | _ => s
    s.mapFrames fr.ctx fun e =>
      if e.covers frame then { e with reported := true, zero := false } else e

/-- The page of a frame is write-protected: writes to it wait (R330, R342, R345). -/
def State.wpAt (s : State) (a : Nat) : Bool := (s.frameOf a).wp

/-- The weirs and windows of a device refuse what would change a halted context (R363, R379). -/
def State.stagingHalted (s : State) (c : Nat) : Bool :=
  (s.ctx c).st == .halting || (s.ctx c).st == .halted || (s.ctx c).st == .imaged

/-- A line's uncorrectable error kept in its block's entry, the block stored raw from then on (R349). -/
def State.poisonLine (s : State) (line : Nat) : State :=
  s.resize (line / 8) 8 true ((s.blockAt (line / 8)).poison ||| (1#8 <<< (line % 8))) 0

/-- Writes wait for a migration, for prepare-hold or for a bank of their blocks (R342, R359, R423, R428, R429). -/
def State.heldUp (s : State) (ws : List AWrite) : Bool :=
  (ws.any fun w => s.wpAt w.1 || s.prepHeld (w.1 / 64)) || (blocksOf ws).any s.blockWaits

/-- Writes performed at their homes whatever the pools hold: their sectors were reserved before (R247). -/
def State.homeForce (s : State) (rsv : List (Nat × Nat)) (ws : List AWrite) (hint : Bool := false) : State :=
  match s.softWrite .reserve rsv ws hint with
  | some t => t
  | none => ws.foldl State.mergeByte s

/-- A write-through that reaches its home (R247): encoded there, the unused sectors of its reservation returned; none while it waits for
prepare-hold, a bank of its blocks, or the VC. -/
def State.arrive (s : State) (w : WThru) : Option State :=
  if w.ws.any (fun x => s.prepHeld (x.1 / 64)) || (blocksOf w.ws).any s.blockWaits then none
  else (s.cross w.src w.home w.vc).map fun t =>
    let t := t.homeForce w.rsv w.ws w.hint
    let t := { t with wts := t.wts.map fun x => if x.num = w.num then { x with arrived := true } else x }
    (blocksOf w.ws).foldl (fun t b => t.dset (b * 512)) t

/-- Writes by expanded address performed at their homes: they wait for a migration and for prepare-hold, are refused for
want of sectors, and are reported as dirty before they perform (R332, R339, R342, R346, R359). -/
def State.homeStore (s : State) (lv : Level) (ws : List AWrite) (hint : Bool := false) : M State :=
  if s.heldUp ws then stall
  else match s.softWrite lv [] ws hint with
    | none => raise cOUT_OF_SPACE 0
    | some t => .ok ((blocksOf ws).foldl (fun t b => t.dset (b * 512)) t)

/-- Bytes read at their homes (R246): a line under prepare-hold or in a bank that makes accesses wait is waited for, a poisoned one is
MEMORY_ERROR. -/
def State.homeRead (s : State) (as : List Nat) : M (List Byte × State) :=
  let ls := (as.map (· / 64)).eraseDups
  if ls.any fun l => s.prepHeld l || s.lineWaits l then stall
  else match ls.find? fun l => s.linePoison (l * 64) with
    | some l => raiseMet l
    | none => .ok (as.map s.byteAt, ls.foldl State.readRows s)

/-- A word of size bytes at its home. -/
def State.homeWord (s : State) (a size : Nat) : M (Word × State) := do
  let (bs, s) ← s.homeRead ((List.range size).map (a + ·))
  pure (BitVec.ofNat 64 (leNat bs), s)

end Sys2Proof.Machine
end

