-- ==== Sys2Proof/Machine/Fabric.lean ====
section
/-! DEFINITION. Sending over the links: routes, packets, link failures, and the delivery of answers (R376 to R391). -/

namespace Sys2Proof.Machine

/-- The device number of a node (R43). -/
abbrev devOf (node : Nat) : Nat := node / 4

/-- The die of a node (R43). -/
abbrev dieOfNode (node : Nat) : Nat := node % 4

/-- A node names this device for a context when its device number is the context's alias (R407). -/
def State.ownNode (s : State) (c node : Nat) : Bool := devOf node == (s.ctx c).aliasNo

/-- The set of ports toward a device for a domain, with the physical device number (R376). -/
def State.route (s : State) (dom dev : Nat) : Nat × List Nat :=
  match mget none s.gate.overs (dom * 2048 + dev) with
  | some r => r
  | none => (dev, mget [] s.gate.routes dev)

/-- The route entry that a domain and a device number name: an override, or the entry of the number itself (R376). -/
def State.routeEntry (s : State) (dom dev : Nat) : Nat :=
  if (mget none s.gate.overs (dom * 2048 + dev)).isSome then 2048 + dom * 2048 + dev else dev

/-- The ports of a set that still carry VC v toward a device (R376, R384, R390). -/
def State.livePorts (s : State) (ports : List Nat) (v dev : Nat) : List Nat :=
  ports.filter fun p => (s.vcFails p (vcKey p v dev)).isNone && ((s.link p).phys == 1 || (s.link p).phys == 2)

/-- Why a packet cannot leave for a device: LINK_FAULT detail 1 without a route, 2 or 3 without a live port (R376, R383,
R390). -/
def State.routeFails (s : State) (dom dev v : Nat) : Option Nat :=
  let (phys, ports) := s.route dom dev
  if ports = [] then some 1
  else if s.gate.dead.contains (s.routeEntry dom dev) then some 3
  else if s.livePorts ports v phys ≠ [] then none
  else if ports.all fun p => s.vcFails p (vcKey p v phys) == some 2 then some 2
  else some 3

/-- Why a die's packet cannot leave for another device: its die link to the Sheepdog, or the route (R372, R376, R390). -/
def State.farFails (s : State) (die dom dev v : Nat) : Option Nat :=
  (s.dieFails die sheepdog v).or (s.routeFails dom dev v)

/-- The key of a sequence number: per source node, destination node and VC (R382). -/
def seqKey (src dst v : Nat) : Nat := (src * 2 ^ 13 + dst) * 8 + v

/-- The ports of a set that can send on VC v to a device now: up, neither stopped for a key nor paused by the switch (R373, R387). -/
def State.openPorts (s : State) (ports : List Nat) (v dev : Nat) : List Nat :=
  (s.livePorts ports v dev).filter fun p => !((s.link p).vc (vcKey p v dev)).stop && !((s.link p).vc v).pause

/-- A packet leaves by one of its ports, or is held at the gateway until one can send (R373, R376, R387). -/
def State.post (s : State) (ports : List Nat) (p : Packet) : State :=
  let ok := s.openPorts ports p.vc (devOf p.dst)
  match ok[Config.entryChoice s.tick % ok.length]? with
  | none => { s with gate := { s.gate with held := s.gate.held ++ [(false, ports, p)] } }
  | some l =>
    let t := (s.sendGroup l (vcKey l p.vc (devOf p.dst))).ticked
    { t with outbox := t.outbox ++ [p] }

/-- A packet crosses from its die to the gateway and leaves, or waits at the die while the die link's VC has stopped (R372, R387). -/
def State.depart (s : State) (die : Nat) (ports : List Nat) (p : Packet) : State :=
  match s.cross die sheepdog p.vc with
  | some t => t.post ports p
  | none => { s with gate := { s.gate with held := s.gate.held ++ [(true, ports, p)] } }

/-- The held packets that can now leave, in order. -/
def State.packetsHeld (s : State) : State :=
  s.gate.held.foldl (fun (s : State) h => if h.1 then s.depart (dieOfNode h.2.2.src) h.2.1 h.2.2 else s.post h.2.1 h.2.2)
    { s with gate := { s.gate with held := [] } }

/-- The node of a die of this device. What the Sheepdog sends bears that of die 0, since no node names it (R43). -/
def State.nodeOf (s : State) (d : Nat) : Nat := s.fabric * 4 + d % 4

/-- A packet of a die, or of the Sheepdog, on its way to another device (R382, R383). -/
def State.emit (s : State) (die dst dom v : Nat) (body : Payload) : State :=
  let src := s.nodeOf die
  let dst' := (s.route dom (devOf dst)).1 * 4 + dieOfNode dst
  let k := seqKey src dst' v
  let n := mget 0 s.gate.seqOut k
  let p : Packet := { dst := dst', src := src, dom := dom, vc := v, seq := n, body := body }
  let t : State := { s with gate := { s.gate with seqOut := mset 0 s.gate.seqOut k ((n + 1) % 2 ^ 32), unack := s.gate.unack ++ [⟨p, devOf dst, 0, s.cycle, false⟩] } }
  t.depart die (s.route dom (devOf dst)).2 p

/-- An answer stored with the one that waits for it: a bank's S slot, an engine item, a Mill row, a stream item, a kernel's
dependence, or given to the host; what a failed read of HCA.VAL returns is open (R324). The answer to an add goes to its source (heard). -/
def State.hand (s : State) (who : Asker) (a : RemoteAns) : State :=
  match who with
  | .bank b => s.modBank b fun x =>
      { x with swait := .answered a.cause a.detail a.value, run := if x.run = .waiting then .ready else x.run }
  | .op b ord => s.modBank b fun x => { x with ops := x.ops.map fun o =>
      if o.ord ≠ ord then o
      else if a.cause = 0 then { o with got := some a.data, st := .running }
      else { o with fail := (a.cause, a.detail), st := .running } }
  | .cmd b ord row => s.modBank b fun x => { x with cmds := x.cmds.map fun c =>
      if c.ord ≠ ord then c
      else if a.cause = 0 then { c with rows := mset [] c.rows row a.data, tag := none }
      else { c with fail := (a.cause, a.detail), tag := none } }
  | .stream b st item => s.modBank b fun x => { x with streams := x.streams.map fun t =>
      if t.ord ≠ st ∨ t.next ≠ item then t
      else if a.cause = 0 then { t with got := some a.data, waitd := none }
      else { t with err := (a.cause, a.detail), waitd := none } }
  | .dep c k d => s.modKernel c k fun x => { x with
      depFrm := mset none x.depFrm (8 + d) (if a.cause = 0 then some 1 else if a.cause = cCOUNTER_FAULT then some 2 else none) }
  | .swapped c k => s.modCtx c fun x => { x with saved := x.saved.map fun v => if v.key = k then { v with wait := .none } else v }
  | .host fn =>
    let t := { s with fns := mmod HostFn.reset s.fns fn fun f => { f with hcaSt := (a.cause, a.detail) } }
    (t.notify (.value (if a.cause = 0 then a.value else Config.freeWord s.tick))).ticked
  | .add _ => s

/-- A request sent toward a node by the context's domain; who waits for its answer. A request that cannot leave is
answered with LINK_FAULT at once (R376, R390). -/
def State.ask (s : State) (die c node v : Nat) (r : RemoteReq) (who : Asker) : State :=
  let dom := (s.ctx c).dom
  let fails (d : Nat) : State := s.hand who ⟨cLINK_FAULT, d, 0, [], false⟩
  let tag := s.gate.tag
  let wait (s : State) : State :=
    { s with gate := { s.gate with tag := tag + 1, asked := s.gate.asked ++ [⟨tag, node, who, r, die, v⟩] } }
  if s.ownNode c node then
    let t := dieOfNode node
    match s.dieFails die t v with
    | some d => fails d
    | none => wait (s.modDie t fun x =>
        { x with reqs := x.reqs ++ [{ dst := node, src := s.nodeOf die, dom := dom, vc := v, seq := 0, body := .request tag r }] })
  else match s.farFails die dom (devOf node) v with
    | some d => fails d
    | none => wait (s.emit die node dom v (.request tag r))

/-- What an add's source on this device hears: cause 0 that the add has been performed. A CADD or a collective's add that failed is recorded,
the others hear the cause (R284, R316, R321, R324, R400, R462). -/
def State.heard (s : State) (a : CtrAdd) (cause detail : Nat) : State :=
  let r := { FaultRec.blank with cause := cause, detail := detail, place := a.place }
  match a.src with
  | .cadd b _ =>
    let r := { r with source := 6, slot := 0, core := coreOf (b % 512), bank := b % 2 }
    if cause = 0 then s
    else s.ctxFault a.ctx { r with kernel := a.kid, work := a.wid, bundle := a.bundle } (.add a)
  | .cxadd b ord => s.hand (.op b ord) ⟨cause, detail, 0, [], false⟩
  | .done c slot => s.modKernel c slot fun k => if k.adding then { k with addRes := some (cause, detail) } else k
  | .coll c entry => if cause = 0 then s else s.eventFault (.ctx c) 4 { r with source := 8, done := entry, work := a.wid }
  | .host fn => { s with fns := mmod HostFn.reset s.fns fn fun f => { f with hcaSt := (cause, detail) } }
  | .remote _ _ => s

/-- An answer that has reached the die that asked. A waiter answered "full" is to be sent again (R306). -/
def State.taken (s : State) (b : Back) : State :=
  let give (s : State) (w : Asker) : State := match w with
    | .add x => s.heard x b.ans.cause b.ans.detail
    | w => s.hand w b.ans
  match b.who with
  | some w => give s w
  | none => match s.gate.asked.find? (fun q => q.tag == b.tag) with
    | none => s
    | some q =>
      if b.ans.full then s.modDie (b.dst % 4) fun d => { d with resend := d.resend ++ [(q.node, b.tag, q.req, s.cycle)] }
      else give { s with gate := { s.gate with asked := s.gate.asked.filter fun x => x.tag != b.tag } } q.who

/-- An answer crosses to the die that asked (R372, R380, R387): behind those that wait for the same VC; over a failed VC the item fails
(R390). -/
def State.giveBack (s : State) (b : Back) : State :=
  match s.dieFails b.src b.dst b.vc with
  | some d => s.taken { b with ans := ⟨cLINK_FAULT, d, 0, [], false⟩ }
  | none =>
    let wait : State := { s with gate := { s.gate with back := s.gate.back ++ [b] } }
    if s.gate.back.any fun x => x.src == b.src && x.dst == b.dst && x.vc == b.vc then wait
    else match s.cross b.src b.dst b.vc with
      | some t => t.taken b
      | none => wait

/-- The answers that wait at a die take their turn again. -/
def State.backHeld (s : State) : State :=
  s.gate.back.foldl State.giveBack { s with gate := { s.gate with back := [] } }

/-- The VC of the answer to a request in VC v (R380): 4 for counters, 1 for the others. -/
def backVc (v : Nat) : Nat := if v = 4 then 4 else 1

/-- An answer sent back to the node that asked: over the die links to a die of this device, else as a packet (R372, R380). -/
def State.reply (s : State) (die src dom v tag : Nat) (a : RemoteAns) : State :=
  if devOf src = s.fabric then
    s.giveBack ⟨die, ((s.gate.asked.find? fun q => q.tag == tag).map (·.die)).getD (dieOfNode src), backVc v, tag, none, a⟩
  else s.emit die src dom (backVc v) (.answer tag a)

/-- Whatever waited for a link goes on as far as it can: held packets and answers. -/
def State.postHeld (s : State) : State := s.packetsHeld.backHeld

end Sys2Proof.Machine
end

