-- ==== Sys2Proof/Machine/CounterOps.lean ====
section
/-! DEFINITION. The synchronisation engine: counter tables, adds, waiters, atomics (R303 to R312, R319, R320). -/

namespace Sys2Proof.Machine

/-- The key of slot i of a context's table on a die. -/
abbrev ctrKey (die i : Nat) : Nat := die * 2 ^ 24 + i

/-- The die of a table key. -/
abbrev keyDie (k : Nat) : Nat := k / 2 ^ 24

/-- COUNTER_FAULT with a detail of R305. -/
def counterFault {α : Type} (d : Nat) : M α := raise cCOUNTER_FAULT d

/-- An entry of a context's counter tables. -/
def State.ctrEnt (s : State) (c k : Nat) : CtrEnt := mget CtrEnt.free (s.ctx c).ctrs k

/-- An entry changed. -/
def State.modCtr (s : State) (c k : Nat) (f : CtrEnt → CtrEnt) : State :=
  s.modCtx c fun x => { x with ctrs := mmod CtrEnt.free x.ctrs k f }

/-- Entries of a context's table on a die (R306): 2^12 until Lorso sets another size. -/
def State.ctrSize (s : State) (c die : Nat) : Nat := 2 ^ mget 12 (s.die die).ctrLog c

/-- Some waiter of the die waits on the slot. -/
def Die.waitsOn (d : Die) (c k : Nat) : Bool := d.waiters.any fun w => w.slot == some k && w.ctx == c

/-- The victim of a spill on a die (R308): the least recently used SLOT counter without a waiter, else the least recently
used one, as (context, key). -/
def State.spillVictim (s : State) (die : Nat) : Option (Nat × Nat) :=
  let all := s.ctxs.flatMap fun x => (x.2.ctrs.filter fun e => e.2.st == 1 && keyDie e.1 == die).map fun e => (x.1, e.1, e.2.used)
  let idle := all.filter fun e => !(s.die die).waitsOn e.1 e.2.1
  let best := (if idle = [] then all else idle).foldl (fun (b : Option (Nat × Nat × Nat)) e => match b with
    | none => some e
    | some x => if e.2.2 < x.2.2 then some e else some x) none
  best.map fun e => (e.1, e.2.1)

/-- An SRAM slot taken on a die, after a spill where none is free (R308); false when none can be had. -/
def State.takeSram (s : State) (die : Nat) : Bool × State :=
  if (s.die die).slots < 65536 then (true, s.modDie die fun d => { d with slots := d.slots + 1 })
  else match s.spillVictim die with
    | some (c, k) => (true, s.modCtr c k fun e => { e with st := 2 })
    | none => (false, s)

/-- A live entry accessed: a SPILLED one is loaded when a slot can be had, and the access is its latest (R307, R308). -/
def State.ctrTouch (s : State) (c k : Nat) : State :=
  let s := if (s.ctrEnt c k).st = 2 then
      match s.takeSram (keyDie k) with
      | (true, s) => s.modCtr c k fun e => { e with st := 1 }
      | (false, s) => s
    else s
  (s.modCtr c k fun e => { e with used := s.tick }).ticked

/-- A request to a slot counter finds it live under its generation, or COUNTER_FAULT 1 (R305, R307). -/
def State.ctrLive (s : State) (c k gen : Nat) : M State :=
  let e := s.ctrEnt c k
  if k % 2 ^ 24 < s.ctrSize c (keyDie k) && e.gen == gen && (e.st == 1 || e.st == 2) then .ok (s.ctrTouch c k)
  else counterFault 1

/-- The home die of a counter of this device. -/
def State.ctrDie (s : State) : CtrId → Nat
  | .slot _ k _ => keyDie k
  | .word _ a => s.home a
  | .remote _ _ => 4

/-- The counter a bank names (R303): a live check is left to the home. -/
def State.bankCtr (s : State) (w : Word) (write : Bool) : M CtrId :=
  match placeOf w with
  | some (.ctr node gen i) =>
    if s.ownNode s.bank.id.ctx node then .ok (.slot s.bank.id.ctx (ctrKey (dieOfNode node) i) gen)
    else .ok (.remote node w)
  | some (.ext n off) => do
    if off % 8 ≠ 0 then raise cILLEGAL_OPERAND 1
    s.extCheck n off 8 write
    let a ← s.extAddr n off
    pure (.word s.bank.id.ctx a)
  | _ => illegal

/-- The value a counter of this device holds (R318). -/
def State.ctrRead (s : State) : CtrId → M (Word × State)
  | .slot c k gen => do
    let s ← s.ctrLive c k gen
    pure ((s.ctrEnt c k).val, s)
  | .word _ a => do
    s.homeWord a 8
  | .remote _ _ => illegal

/-! ### Waiters (R309) -/

/-- The counter on which a waiter stands. -/
def Waiter.ctr (w : Waiter) : CtrId := match w.slot with
  | some k => .slot w.ctx k w.gen
  | none => .word w.ctx w.addr

/-- A waiter stands on a counter. -/
def Waiter.isOn (w : Waiter) : CtrId → Bool
  | .slot c k _ => w.slot == some k && w.ctx == c
  | .word _ a => w.slot == none && w.addr == a
  | .remote _ _ => false

/-- A waiter answered: its bank's CWAIT, its CWAITE operation, or the device that sent it (R309, R315, R317, R322). -/
def State.answerWaiter (s : State) (cause detail : Nat) (v : Word) (w : Waiter) : State :=
  match w.remote with
  | some (node, tag) => s.reply (keyDie (w.slot.getD 0)) node (s.ctx w.ctx).dom 4 tag ⟨cause, detail, v, [], false⟩
  | none =>
    s.giveBack ⟨s.ctrDie w.ctr, dieOf (w.bank % 512), 4, 0, some (match w.op with
      | none => .bank w.bank
      | some ord => .op w.bank ord), ⟨cause, detail, v, [], false⟩⟩

/-- The waiters of a die that satisfy f answered and removed. -/
def State.answerWaiters (s : State) (die : Nat) (f : Waiter → Bool) (cause detail : Nat) (v : Word) : State :=
  let ws := (s.die die).waiters.filter f
  ws.foldl (fun s w => s.answerWaiter cause detail v w) (s.modDie die fun d => { d with waiters := d.waiters.filter fun w => !f w })

/-- The waiters of a counter evaluated: those whose target is reached are released with the value (R309). -/
def State.evalWaiters (s : State) (id : CtrId) (v : Word) : State :=
  s.answerWaiters (s.ctrDie id) (fun w => w.isOn id && w.target.ule v) 0 0 v

/-- An add performed at a counter of this device (R304, R309, R311): an add that would wrap is COUNTER_FAULT 2. hint is the hint bit of a
word's extent (R332). -/
def State.ctrAdd (s : State) (id : CtrId) (amount : Word) (hint : Bool := false) : M State :=
  match id with
  | .slot c k gen => do
    let s ← s.ctrLive c k gen
    let v := (s.ctrEnt c k).val
    if 2 ^ 64 ≤ v.toNat + amount.toNat then counterFault 2
    pure ((s.modCtr c k fun e => { e with val := v + amount }).evalWaiters id (v + amount))
  | .word _ a => do
    let (v, s) ← s.homeWord a 8
    if 2 ^ 64 ≤ v.toNat + amount.toNat then counterFault 2
    let s ← s.homeStore .reserve (wholeBytes a (leBytes 8 (v + amount).toNat)) hint
    pure (s.evalWaiters id (v + amount))
  | .remote _ _ => illegal

/-! ### What an add's source hears (R284, R316, R321, R324) -/

/-- Some add of a CADD of bank b is on its way to its counter (R316). -/
def State.addsOut (s : State) (b : Nat) : Bool :=
  let mine (a : CtrAdd) : Bool := match a.src with
    | .cadd x _ => x == b
    | _ => false
  ([0, 1, 2, 3].any fun d => (s.die d).adds.any mine) || s.gate.asked.any fun q => match q.who with
    | .add a => mine a
    | _ => false

/-- The answer of a counter's home to the source of an add (R284, R316, R321, R324, R380, R400): cause 0 says that it has been performed. -/
def State.addAnswer (s : State) (a : CtrAdd) (cause detail : Nat) : State :=
  match a.src with
  | .remote node tag => s.reply (s.ctrDie a.id) node (match a.id with
      | .slot c _ _ | .word c _ => (s.ctx c).dom
      | .remote _ _ => 0) 4 tag ⟨cause, detail, 0, [], false⟩
  | .cxadd b ord => s.giveBack ⟨s.ctrDie a.id % 4, dieOf (b % 512), 4, 0, some (.op b ord), ⟨cause, detail, 0, [], false⟩⟩
  | _ => s.heard a cause detail

/-- An add was performed. -/
def State.addDone (s : State) (a : CtrAdd) : State := s.addAnswer a 0 0

/-- An add failed. -/
def State.addFailed (s : State) (a : CtrAdd) (cause detail : Nat) : State := s.heard a cause detail

/-- An add leaves for its counter's home: a die of this device, or another device over the counter VC (R316, R380). -/
def State.sendAdd (s : State) (die c : Nat) (a : CtrAdd) : State :=
  match a.id with
  | .remote node place =>
    match s.farFails die (s.ctx c).dom (devOf node) 4 with
    | some d => s.addFailed a cLINK_FAULT d
    | none => s.ask die c node 4 (.cadd place a.amount) (.add a)
  | id =>
    let t := s.ctrDie id
    match s.dieFails die t 4 with
    | some d => s.addFailed a cLINK_FAULT d
    | none => s.modDie t fun d => { d with adds := d.adds ++ [a] }

/-! ### Atomics (R319, R320) -/

/-- The new word of an ATOM (R319). opnd is the operand, or for CAS the new value; n is the size in bits. -/
def atomNew (op n : Nat) (signed : Bool) (old opnd expected : Nat) : Nat :=
  let lt : Bool := if signed then decide (toSigned old n < toSigned opnd n) else decide (old < opnd)
  match op with
  | 0 => (old + opnd) % 2 ^ n
  | 1 => if lt then old else opnd
  | 2 => if lt then opnd else old
  | 3 => old &&& opnd
  | 4 => old ||| opnd
  | 5 => old ^^^ opnd
  | 6 => opnd
  | _ => if old = expected then opnd else old

/-- An ATOM performed at the home of its word (R311, R312, R319, R320, R341): the old word, whether the write has failed after a good
read, and the state with the word written, the write reported and the waiters of the word evaluated. Sectors are had before the word is
read; a write that fails leaves the word's line poisoned. hint is the hint bit of the extent. -/
def State.atomAt (s : State) (a size op : Nat) (signed : Bool) (opnd expected : Word) (hint : Bool := false) : M (Word × Bool × State) := do
  let n := 8 * size
  let new := atomNew op n signed (s.wordAt a size).toNat (opnd.toNat % 2 ^ n) (expected.toNat % 2 ^ n)
  let t ← s.homeStore .reserve (wholeBytes a (leBytes size new)) hint
  let (old, u) ← s.homeWord a size
  let w := a / 8 * 8
  if s.wbad.contains (a / 512) then pure (old, true, u.poisonLine (a / 64))
  else pure (old, false, t.evalWaiters (.word 0 w) (t.wordAt w 8))

/-- The value an ATOM delivers (R319). -/
def atomResult (size : Nat) (signed : Bool) (old : Word) : Word :=
  if size = 4 ∧ signed then (old.extractLsb' 0 32).signExtend 64 else old

end Sys2Proof.Machine
end

