-- ==== Sys2Proof/Machine/Tiles.lean ====
section
/-! DEFINITION. Tile management (R36, R37, R117 to R122). -/

namespace Sys2Proof.Machine

/-- A handle held in bits 7..0; other bits are ILLEGAL_OPERAND (R119). -/
def handleOf (w : Word) : M Nat := if w.toNat < 256 then .ok w.toNat else illegal

/-- The free granules of the pool of a level, for the bank in focus (R36). -/
def State.pool (s : State) (level : Nat) : Nat :=
  if level = 0 then (s.mg (mgOf s.cur)).pool0 else (s.core (coreOf s.cur)).pool1

/-- The pool of a level changed for bank b. -/
def State.modPool (s : State) (b level : Nat) (f : Nat → Nat) : State :=
  if level = 0 then s.modMg (mgOf b) fun m => { m with pool0 := f m.pool0 }
  else s.modCore (coreOf b) fun c => { c with pool1 := f c.pool1 }

/-- A tile newly allocated (R118): every byte zero, head and tail zero. -/
def freshTile (w : Word) (g : Nat) : Tile := ⟨w, g, [], 0, 0, none, []⟩

/-- The allocation of handle h, once it is chosen (R118). -/
def State.allocate (s : State) (w : Word) (sh : Shape) (h : Nat) : M State := do
  let g := sh.granules
  if s.bank.id.tileBound < s.bank.granules + g then tileFault 2
  if s.pool sh.level < g then tileFault 1
  pure ((s.modPool s.cur sh.level (· - g)).setTile h (some (freshTile w g)))

/-- TALLOC, lowest free handle (R118). -/
def execTalloc (o : SrOp) (s : State) : Out :=
  run s (do
    s.operands [o.xa] o.xd
    let w := s.rx o.xa
    match shapeOf w with
    | none => illegal
    | some sh =>
      match (List.range 256).find? (fun h => (s.tile h).isNone) with
      | none => tileFault 3
      | some h => do
        let t ← s.allocate w sh h
        pure (t.setX o.xd (BitVec.ofNat 64 h)))

/-- TALLOC of a named handle (R118). -/
def execTallocHandle (o : SrOp) (s : State) : Out :=
  run s (do
    s.operands [o.xa, o.xb] o.xd
    let w := s.rx o.xa
    let h ← handleOf (s.rx o.xb)
    match shapeOf w with
    | none => illegal
    | some sh => do
      if (s.tile h).isSome then tileFault 3
      let t ← s.allocate w sh h
      pure (t.setX o.xd (BitVec.ofNat 64 h)))

/-- A captured value that names a handle of the bank: by its own place, or by a peer place of its own core (R44). -/
def namesTile (core h : Nat) (w : Word) : Bool :=
  match placeOf w with
  | some (.own k _ _) => k == h
  | some (.peer c k _ _) => c == core % 16 && k == h
  | _ => false

/-- The handle of the index tile of a CPYG or CPYS, in bits 8 to 1 of its mod field (R228). -/
def EngOp.idxTile (o : EngOp) : Option Nat :=
  match o.instr with
  | .gth x | .sct x => some (x.mod.toNat / 2 % 256)
  | _ => none

/-- The captured operands of an engine operation that may be places of tiles (R225 to R236). -/
def EngOp.placeWords (o : EngOp) : List Word :=
  match o.instr with
  | .cpy _ | .cpyt _ | .cpys _ | .gth _ | .sct _ | .cpyg _ => [mget 0 o.caps 0, mget 0 o.caps 1]
  | .radv _ => [mget 0 o.caps 0]
  | _ => []

/-- The captured operands of a Mill command that are places (R206, R207, R208, R210). -/
def MillCmd.placeWords (c : MillCmd) : List Word :=
  match c.instr with
  | .mpre _ | .mdrain _ => [mget 0 c.caps 0]
  | .mfeed _ | .mfeedr _ => [mget 0 c.caps 0, mget 0 c.caps 1]
  | _ => []

/-- Some engine operation, Mill command or queued store of the bank still names a handle (R119). -/
def Bank.usesTile (b : Bank) (core h : Nat) : Bool :=
  b.ops.any (fun o => o.idxTile == some h || o.placeWords.any (namesTile core h)) ||
  b.cmds.any (fun c => c.placeWords.any (namesTile core h)) ||
  b.sq.any (fun e => match e.kind with
    | .store ws _ _ => ws.any fun w => match w.loc with
      | .tile k _ => k == h
      | _ => false
    | _ => false)

/-- The probe-cache tile named by PCFG (R237). -/
def Bank.pcfgTile (b : Bank) (h : Nat) : Bool := b.ctl.pcfg.getLsbD 8 && b.ctl.pcfg.toNat % 256 == h

/-- A bound stream uses the handle: as its race, or as the base of its pattern (R117, R229, R231). -/
def Bank.streamTile (b : Bank) (core h : Nat) (t : Tile) : Bool :=
  t.lock.isSome || b.streams.any fun x => namesTile core h (BitVec.ofNat 64 (recNat x.recd 0 8))

/-- The tile of a handle that is ALLOCATED and in use by no stream and not by the probe cache (R117, R119, R120). -/
def State.unusedTile (s : State) (h : Nat) : M Tile :=
  match s.tile h with
  | none => tileFault 4
  | some t => if s.bank.streamTile (coreOf s.cur) h t || s.bank.pcfgTile h then tileFault 7 else .ok t

/-- TFREE and TSHAPE wait for what the bank still does with the handle (R119, R120). -/
def State.awaitTile (s : State) (h : Nat) : M Unit := await (!s.bank.usesTile (coreOf s.cur) h)

/-- TFREE (R119). -/
def execTfree (o : SrOp) (s : State) : Out :=
  run s (do
    s.operands [o.xa] 0
    let h ← handleOf (s.rx o.xa)
    let t ← s.unusedTile h
    s.awaitTile h
    pure ((s.modPool s.cur (shapeRaw t.shape).level (· + t.gran)).setTile h none))

/-- The checks of TSHAPE on the old shape and the new one (R120). -/
def reshape (t : Tile) (w : Word) (sh : Shape) : M Tile := do
  let old := shapeRaw t.shape
  legal (sh.level == old.level)
  if t.gran < sh.granules then tileFault 6
  let same := sh.race == old.race && sh.slots == old.slots
  pure { t with shape := w, head := if same then t.head else 0, tail := if same then t.tail else 0 }

/-- TSHAPE (R120). -/
def execTshape (o : SrOp) (s : State) : Out :=
  run s (do
    s.operands [o.xa, o.xb] 0
    let h ← handleOf (s.rx o.xa)
    let w := s.rx o.xb
    match shapeOf w with
    | none => illegal
    | some sh => do
      let t ← s.unusedTile h
      let t ← reshape t w sh
      s.awaitTile h
      pure (s.setTile h (some t)))

/-- What TQRY reads of a tile (R121). -/
def tqry (q : Nat) : Option Tile → Word
  | none => 0
  | some t =>
    if q = 0 then t.shape
    else if q = 1 then (if (shapeRaw t.shape).race then BitVec.ofNat 64 (t.head * 2 ^ 32 + t.tail) else 0)
    else BitVec.ofNat 64 t.gran

/-- TQRY (R121): xa is a handle but for fn 3. -/
def execTqry (o : SrOp) (s : State) : Out :=
  scalar s [o.xa] o.xd (do
    let q := o.fn.toNat
    let a := s.rx o.xa
    if q < 3 then do
      let h ← handleOf a
      pure (tqry q (s.tile h))
    else if q = 3 then do
      legal (a.toNat < 2)
      pure (BitVec.ofNat 64 (s.pool a.toNat))
    else if q = 4 then do
      let _ ← handleOf a
      pure (BitVec.ofNat 64 s.bank.granules)
    else illegal)

end Sys2Proof.Machine
end

