-- ==== Sys2Proof/Machine/EngineOps.lean ====
section
/-! DEFINITION. The copy engines: the issue of a C-slot operation, the sides of an operation, reads and writes of stretches
of bits, items, failures and completion (R212 to R224, R254). -/

namespace Sys2Proof.Machine

/-! ### Issue (R212, R214, R55) -/

/-- The fields of a C-slot operation. -/
def copOf : Instr → Option COp
  | .cpy o | .cpyt o | .cpys o | .gth o | .sct o | .cpyg o | .sbind o | .sunb o | .radv o | .pfill o | .pwb o | .pinv o
  | .cxadd o | .cwaite o => some o
  | _ => none

/-- The token register of an engine operation. -/
def EngOp.kd (o : EngOp) : Nat := match copOf o.instr with
  | some c => c.kd.toNat
  | none => 0

/-- The mod field of an engine operation. -/
def EngOp.mod (o : EngOp) : Nat := match copOf o.instr with
  | some c => c.mod.toNat
  | none => 0

/-- A captured operand: 0 xs, 1 xt, 2 xn. -/
def EngOp.cap (o : EngOp) (n : Nat) : Word := mget 0 o.caps n

/-- Entries of the queue of engine e that the bank's operations and streams hold (R212). -/
def Bank.engLoad (b : Bank) (e : Nat) : Nat :=
  (b.ops.filter (·.engine == e)).length +
  (b.streams.filter fun t => t.engine == e && !t.tokDone).length +
  (b.streams.filter fun t => t.uengine == e && t.unb.isSome).length +
  (b.streams.map fun t => (t.more.filter (·.1 == e)).length).sum

/-- The operands of a C-slot issue: the queue has room, the scalars are readable, the token register may be named (R22,
R57, R212). -/
def State.cTake (s : State) (o : COp) : M (Word × Word × Word) := do
  let slot := cslot o.sl
  await (s.bank.engLoad o.sl.toNat < 16)
  let xs ← s.scap slot o.xs
  let xt ← s.scap slot o.xt
  let xn ← s.scap slot o.xn
  s.tokensGood [o.k1, o.k2, o.k3]
  await (!((s.cursor slot).fresh && s.bank.regs.pending o.kd))
  pure (xs, xt, xn)

/-- An operation placed in its engine's queue (R212). -/
def State.cPush (s : State) (o : COp) (i : Instr) (v : Word × Word × Word) (recs : List Byte) : State :=
  let slot := cslot o.sl
  let (n, t) := s.newOrd
  let op : EngOp :=
    { ord := n, engine := o.sl.toNat, instr := i, caps := mputs 0 [] 0 [v.1, v.2.1, v.2.2], adv := s.adv slot,
      deps := [o.k1, o.k2, o.k3].map s.depOf, efr := s.efrWord slot, bundle := s.bank.bundleAt, wid := s.bank.id.wid,
      recs := recs, idx := [], next := 0, total := 0, got := none, vals := [], sub := 0, wr := false, base := (0, 0),
      fail := (0, 0), st := .queued }
  (t.upd fun b => { b with ops := b.ops ++ [op] }).markTok o.kd n (s.cursor slot).fresh

/-- Bits that an offset step of an extent place moves by: bytes, or elements of sub-byte formats and of BFP (R54). -/
def stepBits (f w : Nat) (adv : Adv) : Int :=
  if f = tPACKED ∨ f = tPLANE then adv.off * w
  else if f = tBFP then adv.off / 32 * (8 * (1 + 4 * w) : Nat)
  else adv.off * 8

/-! ### Sides (R44, R219, R222) -/

/-- One side of an operation: the bits of an extent, of a tile (of a bank, reached as a peer of a core or not), or of a
remote window. -/
inductive Side where
  | ext (n : Nat) (bit : Int)
  | tile (b h : Nat) (peer : Option Nat) (row col : Int)
  | remote (node win : Nat) (bit : Int)
  deriving DecidableEq, Repr

/-- A stretch of bits: its first bit and its length. -/
abbrev Span := Nat × Nat

/-- The bank a peer place reaches (R44). -/
def State.peerBank (s : State) (k : Nat) : M Nat :=
  let c := clusterOf s.cur * 16 + k
  let mine (b : Nat) : Bool :=
    let x := s.getBank b
    x.run != .free && x.id.ctx == s.bank.id.ctx && x.id.kid == s.bank.id.kid
  if c = coreOf s.cur then .ok s.cur
  else if mine (2 * c + s.cur % 2) then .ok (2 * c + s.cur % 2)
  else if mine (2 * c + (1 - s.cur % 2)) then .ok (2 * c + (1 - s.cur % 2))
  else tileFault 9

/-- The side that a stepped place names, with a bit offset (R54, R219, R222). -/
def State.sideOf (s : State) (f w : Nat) (adv : Adv) (boff : Nat) (x : Word) : M Side :=
  match placeOf x with
  | some (.ext n off) => do
    legal (f != tBFP || adv.off % 32 == 0)
    pure (.ext n (8 * off + stepBits f w adv + boff))
  | some (.remote node win off) => .ok (.remote node win (8 * (off + adv.off) + boff))
  | some (.own h r c) => do
    legal (boff == 0)
    pure (.tile s.cur h none (r + adv.row) (c + adv.off))
  | some (.peer k h r c) => do
    legal (boff == 0)
    let b ← s.peerBank k
    pure (.tile b h (some k) (r + adv.row) (c + adv.off))
  | _ => illegal

/-- A side of tile kind. -/
def Side.isTile : Side → Bool
  | .tile _ _ _ _ _ => true
  | _ => false

/-- A remote side. -/
def Side.isRemote : Side → Bool
  | .remote _ _ _ => true
  | _ => false

/-- A tile of any bank. -/
def State.tileOf (s : State) (b h : Nat) : Option Tile := mget none (s.getBank b).tiles h

/-- A tile of any bank replaced. -/
def State.setTileOf (s : State) (b h : Nat) (t : Tile) : State :=
  s.modBank b fun k => { k with tiles := mset none k.tiles h (some t) }

/-- A stepped row and column of a tile that need not be there: their ranges, and where it is, its own bounds (R55). -/
def steppedIn (t : Option Tile) (adv : Adv) (r c : Nat) : M Unit := do
  if !decide (0 ≤ r + adv.row ∧ r + adv.row < 65536 ∧ 0 ≤ c + adv.off ∧ c + adv.off < 65536) then tileFault 5
  match t with
  | some t => (shapeRaw t.shape).stepped adv r c
  | none => .ok ()

/-- A place that steps have moved out of its range, its extent or its tile faults at the issue (R55); one that has not moved is judged
when the operation starts. -/
def State.stepOk (s : State) (f w : Nat) (adv : Adv) (x : Word) : M Unit :=
  atPlace x (match placeOf x with
    | some (.ext n off) =>
      let b : Int := 8 * off + stepBits f w adv
      if adv.off = 0 ∨ 0 ≤ b ∧ b < 8 * ((s.ext n).len.toNat : Int) then .ok () else raise cUNDECLARED_ACCESS 0
    | some (.remote _ _ off) => legal (decide (0 ≤ off + adv.off ∧ off + adv.off < 2 ^ 44))
    | some (.own h r c) => steppedIn (s.tileOf s.cur h) adv r c
    | some (.peer k h r c) => steppedIn (match s.peerBank k with
        | .ok b => s.tileOf b h
        | .error _ => none) adv r c
    | _ => .ok ())

/-- The race that a side names. -/
def State.raceOf (s : State) : Side → Option Tile
  | .tile b h _ _ _ => match s.tileOf b h with
    | some t => if (shapeRaw t.shape).race then some t else none
    | none => none
  | _ => none

/-- Bits of n elements, in blocks of 32 for BFP (R222). -/
def elemBits (f w n : Nat) : Nat := if f = tBFP then n / 32 * (8 * bfpBytes w) else n * w

/-- Rows per slot of a race. -/
def Shape.slotRows (h : Shape) : Nat := h.rows / h.slots

/-- The row of a tile that row r of an operation addresses, from the count of a race that stood at its start (R223). -/
def Shape.rowAt (h : Shape) (cnt r : Nat) : Nat :=
  if h.race then (cnt % h.slots * h.slotRows + r) % h.rows else r

/-- The stretch of n elements from element c of row r of a side (R221, R222, R223). -/
def State.rowSpan (s : State) (f w pitch cnt : Nat) (sd : Side) (r c n : Nat) : Span :=
  match sd with
  | .ext _ bit | .remote _ _ bit => ((bit + elemBits f w (r * pitch + c)).toNat, elemBits f w n)
  | .tile b h _ row col => match s.tileOf b h with
    | some t =>
      let sh := shapeRaw t.shape
      (sh.rowAt cnt (row.toNat + r) * (8 * sh.pitch) + sh.colBit (col.toNat + c), elemBits f w n)
    | none => (0, 0)

/-- The place word of a stretch of a side, for a fault record (R462). -/
def Side.place (sd : Side) (p : Span) (r : Nat) : Word :=
  match sd with
  | .ext n _ => (Place.ext n (p.1 / 8)).word
  | .remote node win _ => (Place.remote node win (p.1 / 8)).word
  | .tile _ h none row col => (Place.own h (row.toNat + r) col.toNat).word
  | .tile _ h (some k) row col => (Place.peer k h (row.toNat + r) col.toNat).word

/-! ### Checks at start (R219 to R224) -/

/-- A tile side: allocated, bound to no stream unless it is the stream's own, and of the format and width (R117, R220,
R224). -/
def State.tileSide (s : State) (f w : Nat) (sd : Side) : M Unit :=
  match sd with
  | .tile b h _ _ _ =>
    match s.tileOf b h with
    | none => tileFault 4
    | some t => do
      let sh := shapeRaw t.shape
      if t.lock.isSome then tileFault 7
      need (f == sh.fmt && (!(f == tPACKED || f == tBFP || f == tPLANE) || w == sh.width)) cFORMAT_MISMATCH 0
  | _ => .ok ()

/-- Alignment of an extent or remote side: whole elements of 8 bits or more (R222). -/
def sideAligned (f w boff : Nat) : Side → M Unit
  | .ext _ bit | .remote _ _ bit =>
    if f = tPACKED ∨ f = tPLANE then .ok ()
    else if f = tBFP then legal (boff == 0)
    else legal (boff == 0 && bit % w == 0)
  | .tile _ _ _ _ _ => .ok ()

/-- The rows of a side lie inside it: n elements of each listed row (R32, R39, R223). -/
def State.sideBounds (s : State) (f w pitch : Nat) (write : Bool) (sd : Side) (rows : List Nat) (c n : Nat) : M Unit :=
  match sd with
  | .remote _ _ _ => .ok ()
  | .ext x _ => rows.forM fun r =>
      let p := s.rowSpan f w pitch 0 sd r c n
      s.extCheck x (p.1 / 8) ((p.1 % 8 + p.2 + 7) / 8) write
  | .tile b h _ row col =>
    match s.tileOf b h with
    | none => tileFault 4
    | some t => do
      let sh := shapeRaw t.shape
      let top := rows.foldl max 0
      legal (f != tBFP || col % 32 == 0)
      if !decide (0 ≤ row ∧ 0 ≤ col ∧ col + (c + n : Nat) ≤ sh.cols) then tileFault 5
      if sh.race then
        (if sh.slots < (row.toNat + top + sh.slotRows) / sh.slotRows then tileFault 8 else pure ())
      else if !decide (row + (top : Nat) < sh.rows) then tileFault 5

/-- The slots that an operation of some rows moves in a race (R223). -/
def slotsMoved (sh : Shape) (row rows : Nat) : Nat := (row + rows + sh.slotRows - 1) / sh.slotRows

/-- The count of a race that fixes the current slot: the tail of a source, the head of a target (R223). -/
def State.raceCount (s : State) (sd : Side) (target : Bool) : Nat :=
  match s.raceOf sd with
  | some t => if target then t.head else t.tail
  | none => 0

/-- A race's head or tail advanced, or TILE_FAULT 8 (R40, R224, R236). -/
def State.raceAdvance (s : State) (b h n : Nat) (head : Bool) : M State :=
  match s.tileOf b h with
  | none => tileFault 4
  | some t =>
    if head then
      if t.free < n then tileFault 8 else .ok (s.setTileOf b h { t with head := (t.head + n) % 2 ^ 32 })
    else if t.filled < n then tileFault 8 else .ok (s.setTileOf b h { t with tail := (t.tail + n) % 2 ^ 32 })

/-! ### Reads and writes (R215, R239, R247, R254) -/

/-- The number that a stretch of bits holds among bytes that begin with the one it starts in. -/
def spanOf (bs : List Byte) (p : Span) : Nat := (leNat bs >>> (p.1 % 8)) % 2 ^ p.2

/-- Byte numbers of a stretch. -/
def spanBytes (p : Span) : List Nat := (List.range ((p.1 % 8 + p.2 + 7) / 8)).map (p.1 / 8 + ·)

/-- Stretches of a local side read (R246, R254). -/
def State.readSpans (s : State) (sd : Side) (ps : List Span) (v : Nat := 0) : M (List Nat × State) :=
  match sd with
  | .ext n _ => ps.foldlM (fun (r : List Nat × State) p => do
      let (bs, t) ← r.2.extBytes n (spanBytes p) v
      pure (r.1 ++ [spanOf (bs.map (·.2)) p], t)) ([], s)
  | .tile b h _ _ _ =>
    match s.tileOf b h with
    | none => tileFault 4
    | some t => do
      need (!ps.any fun p => t.bad p.1 p.2) cMEMORY_ERROR 0
      pure (ps.map fun p => t.bitsAt p.1 p.2, s)
  | .remote _ _ _ => illegal

/-- A tile of bank b written; rows of its probe-cache tile become dirty (R239). -/
def State.tileWrite (s : State) (b h : Nat) (ws : List (Nat × Byte × Byte)) : State :=
  s.modBank b fun k =>
    match mget none k.tiles h with
    | none => k
    | some t =>
      let k := { k with tiles := mset none k.tiles h (some (ws.foldl Tile.put t)) }
      if k.pcfgTile h then
        let rows := (ws.map (·.1 / 1024)).eraseDups
        { k with probes := rows.foldl (fun m r => mmod Probe.none m r fun p =>
            { p with dirty := p.dirty || p.valid, clob := p.clob || p.fill }) k.probes }
      else k

/-- Writes of the focus bank's engines to extents (R215, R247, R339, R342, R346): they wait for a migration and for
prepare-hold, their sectors are granted, they enter the die's view and are reported as dirty; true says that a block
already held an uncorrectable error. v is the VC of the requests to homes on other dies. -/
def State.viewWrite (s : State) (op : Option Nat) (ws : List AWrite) (hint : Bool := false) (v : Nat := 0) : M (Bool × State) := do
  let d := dieOf s.cur
  await (!s.heldUp ws)
  let u ← s.rounds d (s.homesOf (ws.map (·.1))) v 1
  let rsv := s.rsvNeed (ws.filter fun w => s.home w.1 != d)
  match (u.reserve .bank rsv).bind fun t => t.enterView d s.cur op rsv ws hint v with
  | none => raise cOUT_OF_SPACE 0
  | some t => pure (s.writePoison ws, (blocksOf ws).foldl (fun t b => t.dset (b * 512)) t)

/-- Expanded writes of stretches of an extent. -/
def State.extWrites (s : State) (n : Nat) (ps : List (Span × Nat)) : M (List AWrite) := do
  let ws ← ps.mapM fun x => (maskedBytes x.1.1 (x.2 % 2 ^ x.1.2) (2 ^ x.1.2 - 1)).mapM fun b => do
    let a ← s.extAddr n b.1
    pure (a, b.2.1, b.2.2)
  pure ws.flatten

/-- Stretches of a local side written with values; true says that a block held an uncorrectable error (R215). -/
def State.writeSpans (s : State) (op : Option Nat) (sd : Side) (ps : List (Span × Nat)) (v : Nat := 0) : M (Bool × State) :=
  match sd with
  | .ext n _ => do
    let ws ← s.extWrites n ps
    (s.efcTouch n (ps.flatMap fun x => spanBytes x.1)).viewWrite op ws (bitAt (s.ext n).flags 5) v
  | .tile b h _ _ _ =>
    match s.tileOf b h with
    | none => tileFault 4
    | some _ => .ok (false, s.tileWrite b h (ps.flatMap fun x => maskedBytes x.1.1 (x.2 % 2 ^ x.1.2) (2 ^ x.1.2 - 1)))
  | .remote _ _ _ => illegal

/-! ### Operations of the queue -/

/-- An operation of a bank. -/
def State.opOf (s : State) (b ord : Nat) : Option EngOp := (s.getBank b).ops.find? (·.ord == ord)

/-- An operation changed. -/
def State.modOp (s : State) (b ord : Nat) (f : EngOp → EngOp) : State :=
  s.modBank b fun x => { x with ops := x.ops.map fun o => if o.ord = ord then f o else o }

/-- An operation's token completes with a value and its queue entry is released (R212, R217). -/
def State.opEnd (s : State) (b : Nat) (o : EngOp) (v : Word) : State :=
  (s.modBank b fun x => { x with ops := x.ops.filter (·.ord != o.ord) }).completeTok b o.kd o.ord (v == 0) v

/-- The record of a failed item of the focus bank, and the operation stopped at it (R215, R462). -/
def State.opFail (s : State) (o : EngOp) (cause detail : Nat) (place : Word) : State :=
  let r := { FaultRec.blank with
    cause := cause, detail := detail, source := 1 + o.engine, slot := 4 + o.engine, core := coreOf s.cur, bank := s.cur % 2,
    token := o.kd, kernel := s.bank.id.kid, done := o.next, work := o.wid, bundle := o.bundle, place := place }
  (s.modOp s.cur o.ord fun o => { o with fail := (cause, detail), st := .failed, got := none }).ctxFault s.bank.id.ctx r
    (.op s.cur o.ord)

/-- Started operations of an engine, over both banks of its core, SBIND and SUNB among them (R213). A waiting CWAITE holds no position
(R322). -/
def State.engRunning (s : State) (b e : Nat) : Nat :=
  let n (k : Bank) : Nat := (k.ops.filter fun o => o.engine == e && o.st != .queued && !(match o.instr with
    | .cwaite _ => o.st == .running
    | _ => false)).length + (k.streams.filter fun t => t.engine == e && t.begun && !t.tokDone).length +
    (k.streams.filter fun t => t.uengine == e && t.ubegun && t.unb.isSome).length
  n (s.getBank b) + n (s.getBank (otherBank b))

/-- An engine has a position for one more operation (R213). -/
def State.engFree (s : State) (e : Nat) : Bool := s.engRunning s.cur e < 4

/-- What a copy does: its sides, its items, the stretches each reads and writes, their rows, and the values written for
those read. -/
structure Plan where
  src   : Side
  dst   : Side
  items : Nat
  reads : Nat → List Span
  writes : Nat → List Span
  rowS  : Nat → Nat
  rowD  : Nat → Nat
  conv  : Nat → List Nat → List Nat

/-- A request for a part of an item at another device, its answer awaited (R376). -/
def State.opAsk (s : State) (o : EngOp) (node vc : Nat) (r : RemoteReq) : State :=
  (s.modOp s.cur o.ord fun o => { o with st := .waitRemote s.gate.tag }).ask (dieOf s.cur) s.bank.id.ctx node vc r
    (.op s.cur o.ord)

/-- The request that reads a stretch of a window. -/
def readReq (win : Nat) (p : Span) : RemoteReq := .read win (p.1 / 8) (spanBytes p).length

/-- The request that writes a stretch of a window. -/
def writeReq (win : Nat) (p : Span) (v : Nat) : RemoteReq :=
  let bs := maskedBytes p.1 (v % 2 ^ p.2) (2 ^ p.2 - 1)
  .write win (p.1 / 8) (bs.map (·.2.1)) (bs.map (·.2.2))

/-- The read part of an item (R215): all of a local side at once, a remote side part by part. The operation then holds its
values; none says that it waits for an answer. -/
def State.itemRead (s : State) (o : EngOp) (p : Plan) (vc : Nat) : M (Option (EngOp × State)) :=
  let ps := p.reads o.next
  match p.src with
  | .remote node win _ =>
    let vals := match o.got with
      | some bs => o.vals ++ [spanOf bs (ps[o.vals.length]?.getD (0, 0))]
      | none => o.vals
    match ps[vals.length]? with
    | none => .ok (some ({ o with vals := vals, got := none }, s))
    | some q => .ok (some ({ o with vals := vals, got := none, st := .waitRemote 0 },
        (s.modOp s.cur o.ord fun o => { o with vals := vals, got := none }).opAsk o node vc (readReq win q)))
  | sd => do
    let (vals, s) ← s.readSpans sd ps
    pure (some ({ o with vals := vals }, s))

/-- The write part of an item. The item is done when the operation's next rises. -/
def State.itemWrite (s : State) (o : EngOp) (p : Plan) (vc : Nat) : M (Bool × State) :=
  let ps := (p.writes o.next).zip (p.conv o.next o.vals)
  let done (s : State) : State := s.modOp s.cur o.ord fun o =>
    { o with next := o.next + 1, vals := [], sub := 0, wr := false, got := none }
  match p.dst with
  | .remote node win _ =>
    let n := if o.got.isSome then o.sub + 1 else o.sub
    match ps[n]? with
    | none => .ok (false, done s)
    | some q => .ok (false, (s.modOp s.cur o.ord fun x => { x with vals := o.vals, sub := n, wr := true, got := none }).opAsk o
        node vc (writeReq win q.1 q.2))
  | sd => do
    let (bad, s) ← s.writeSpans (some o.ord) sd ps
    pure (bad, if bad then s else done s)

/-- One step of an item of a copy by the bank in focus (R215): its reads, and then its writes. A fault of either is the
item's failure. -/
def State.copyItem (s : State) (o : EngOp) (p : Plan) (vc : Nat) : State :=
  let readPlace := p.src.place ((p.reads o.next).headD (0, 0)) (p.rowS o.next)
  let writePlace := p.dst.place ((p.writes o.next).headD (0, 0)) (p.rowD o.next)
  let write (o : EngOp) (s : State) : State :=
    match s.itemWrite o p vc with
    | .ok (false, t) => t
    | .ok (true, t) => t.opFail o cMEMORY_ERROR 1 writePlace
    | .error (.fault f) => (s.metError f).opFail o f.cause f.detail writePlace
    | .error .stall => s
  if o.fail ≠ (0, 0) then s.opFail o o.fail.1 o.fail.2 (if o.wr then writePlace else readPlace)
  else if o.wr then write o s
  else match s.itemRead o p vc with
    | .ok (some (o', t)) => if o'.st = .running then write o' t else t
    | .ok none => s
    | .error (.fault f) => (s.metError f).opFail o f.cause f.detail readPlace
    | .error .stall => s

end Sys2Proof.Machine
end

