-- ==== Sys2Proof/Machine/Patterns.lean ====
section
/-! DEFINITION. Pattern records and operator stages of streams and of CPYS (R227, R229, R230). -/

namespace Sys2Proof.Machine

/-- A pattern record taken apart (R229). -/
structure Pat where
  base    : Word
  counts  : List Nat
  strides : List Int
  fmt     : Nat
  race    : Nat
  flags   : Nat
  nstage  : Nat
  stages  : List Nat
  tail    : Nat
  deriving DecidableEq, Repr

/-- The fields of a record. -/
def patOf (r : List Byte) : Pat :=
  { base := BitVec.ofNat 64 (recNat r 0 8), counts := (List.range 4).map fun d => recNat r (8 + 8 * d) 4,
    strides := (List.range 4).map fun d => toSigned (recNat r (12 + 8 * d) 4) 32,
    fmt := recNat r 0x28 1, race := recNat r 0x29 1, flags := recNat r 0x2A 1, nstage := recNat r 0x2B 1,
    stages := (List.range 4).map fun i => recNat r (0x2C + 4 * i) 4, tail := recNat r 0x3C 4 }

/-- The pattern's length. -/
def Pat.len (p : Pat) : Nat := p.counts.foldl (· * ·) 1

/-- The stages in use. -/
def Pat.used (p : Pat) : List Nat := p.stages.take p.nstage

/-- Operation, a and b of a stage word (R230). -/
abbrev stOp (w : Nat) : Nat := bitsOf w 7 0
abbrev stA (w : Nat) : Nat := bitsOf w 15 8
abbrev stB (w : Nat) : Nat := bitsOf w 31 16

/-- The formats of the CVT stage (R230). -/
def stCvt (f : Nat) : Bool := isInt f || isFp f || f == tIDX || f == tPACKED

/-- The format a stage gives for its input's, n elements a vector; none is an invalid stage (R230). -/
def stageFmt (n : Nat) (w : Nat) (f : Nat) : Option Nat :=
  let a := stA w
  let b := stB w
  match stOp w with
  | 1 => if f = tBFP ∧ (a = 2 ∨ a = 4 ∨ a = 8) ∧ b = 0 then some tBF16 else none
  | 2 => if stCvt f && stCvt a && decide (b < 16) && decide (b % 8 < 5) then some a else none
  | 3 => if isFp3 f && a == 0 then some f else none
  | 4 => if a = 0 ∧ 1 ≤ b ∧ b ≤ n then some f else none
  | 5 => if (isInt f || isFp3 f) && a == 0 then some f else none
  | 6 => if (fmtBits f == some 32 || fmtBits f == some 64) && a == 0 && b == 0 then some f else none
  | _ => none

/-- The format after a list of stages. -/
def stagesFmt (n : Nat) : List Nat → Nat → Option Nat
  | [], f => some f
  | w :: ws, f => (stageFmt n w f).bind (stagesFmt n ws)

/-- A record that meets R229, but for its stages' formats. -/
def Pat.valid (p : Pat) : Bool :=
  p.counts.all (· != 0) && decide (p.len ≤ 2 ^ 48) && decide (p.fmt < 0x12) && decide (p.flags < 2) && decide (p.nstage ≤ 4) &&
    (p.stages.drop p.nstage).all (· == 0) && p.tail == 0

/-- The memory width of a record's format: the mantissa width that a DEQUANT stage names, else the EFR's (R230, R231). -/
def Pat.width (p : Pat) (e : Efr) : Nat :=
  match p.used with
  | w :: _ => if p.fmt = tBFP ∧ stOp w = 1 then stA w else fmtWidth p.fmt e
  | [] => fmtWidth p.fmt e

/-- Element index of pattern element n: the mixed radix of the counts, the innermost first (R227). -/
def patIndex : List Nat → List Int → Nat → Int
  | c :: cs, s :: ss, n => (n % c : Nat) * s + patIndex cs ss (n / c)
  | _, _, _ => 0

/-- The least and the greatest element index of a pattern. -/
def patReach : List Nat → List Int → Int × Int
  | c :: cs, s :: ss =>
    let (lo, hi) := patReach cs ss
    let t : Int := (c - 1 : Nat) * s
    (lo + min 0 t, hi + max 0 t)
  | _, _ => (0, 0)

/-- Bits of element x counted from a side's base: for BFP the exponent byte of its block and its mantissa (R99, R222). -/
def elemParts (f w : Nat) (x : Int) : List (Int × Nat) :=
  if f = tBFP then
    let blk : Int := x / 32 * (8 * bfpBytes w : Nat)
    [(blk, 8), (blk + 8 + x % 32 * (w : Nat), w)]
  else [(x * (w : Nat), w)]

/-- The stretches of one pattern element of a side (R168, R227): tiles by the row-major position. -/
def State.elemSpans (s : State) (f w cnt : Nat) (sd : Side) (x : Int) : List Span :=
  match sd with
  | .ext _ bit | .remote _ _ bit => (elemParts f w x).map fun p => ((bit + p.1).toNat, p.2)
  | .tile b h _ row col => match s.tileOf b h with
    | some t =>
      let sh := shapeRaw t.shape
      let e := (row * sh.cols + col + x).toNat
      let at_ := sh.rowAt cnt (e / sh.cols) * (8 * sh.pitch)
      (elemParts f w (e % sh.cols : Nat)).map fun p => (at_ + p.1.toNat, p.2)
    | none => []

/-- A pattern lies inside its side (R32, R39). -/
def State.patBounds (s : State) (f w : Nat) (write : Bool) (sd : Side) (p : Pat) : M Unit :=
  let (lo, hi) := patReach p.counts p.strides
  match sd with
  | .remote _ _ bit => legal (decide (0 ≤ bit + (elemParts f w lo).foldl (fun m x => min m x.1) (lo * (w : Nat))))
  | .ext n bit =>
    let los := (elemParts f w lo).map fun x => bit + x.1
    let his := (elemParts f w hi).map fun x => bit + x.1 + x.2
    let a := los.foldl min (los.headD 0)
    let z := his.foldl max (his.headD 0)
    s.extCheck n (a / 8) (((z + 7) / 8) - a / 8).toNat write
  | .tile b h _ row col =>
    match s.tileOf b h with
    | none => tileFault 4
    | some t =>
      let sh := shapeRaw t.shape
      let e : Int := row * sh.cols + col
      if 0 ≤ row ∧ 0 ≤ col ∧ 0 ≤ e + lo ∧ e + hi < sh.rows * sh.cols then .ok () else tileFault 5

/-! ### Stages (R230) -/

/-- A product of two floating-point elements rounded once by RNE to the first one's format. -/
def scaleBy (f x factor : Nat) : Nat :=
  (fpPack (fpFmt f) .rne (fvMul (fpDecode (fpFmt f) x) (fpDecode (fpFmt tBF16) factor)).1).1

/-- A bias added to an element (R230). -/
def addBias (f x y : Nat) : Nat :=
  if isFp f then (fpPack (fpFmt f) .rne (fvAdd .rne (fpDecode (fpFmt f) x) (fpDecode (fpFmt f) y)).1).1
  else
    let w := (fmtBits f).getD 8
    (x + y) % 2 ^ w

/-- One stage on element i of a vector in format f; bias are the bits of its bias vector, which a longer vector takes again from element 0
on: DESIGN CHOICE (log 100). A BFP element is its exponent byte with the mantissa above it. -/
def stageElem (e : Efr) (f w bias i x : Nat) : Nat :=
  let a := stA w
  let b := stB w
  match stOp w with
  | 1 => (fpPack (fpFmt tBF16) .rne (bfpValue a (x % 256) (x / 256) e)).1
  | 2 => (convNum f a e (rmOf (b % 8) 0) (bitAt b 3) (readNum f e x)).1
  | 3 => scaleBy f x b
  | 4 => if i < b then x else 0
  | 5 =>
    let k := (fmtBits f).getD 8
    addBias f x (fieldAt bias (i % (2048 / k)) k)
  | _ => x

/-- The stages after the first, on element i. -/
def stagesElem (n : Nat) (e : Efr) (bias : Map Nat) (i : Nat) : Nat → Nat → List Nat → Nat → Nat
  | _, _, [], x => x
  | k, f, w :: ws, x =>
    stagesElem n e bias i (k + 1) ((stageFmt n w f).getD f) ws (stageElem e f w (mget 0 bias k) i x)

/-- The transposition of n vectors of n elements. -/
def transposed (n : Nat) (vs : List (List Nat)) : List (List Nat) :=
  (List.range n).map fun i => vs.map fun v => v[i]?.getD 0

/-- Stages on the vectors of a block: TRANSPOSE moves elements between them (R230). -/
def stagesBlock (n : Nat) (e : Efr) (bias : Map Nat) : Nat → Nat → List Nat → List (List Nat) → List (List Nat)
  | _, _, [], vs => vs
  | k, f, w :: ws, vs =>
    let vs := if stOp w = 6 then transposed n vs
      else vs.map fun v => v.zipIdx.map fun x => stageElem e f w (mget 0 bias k) x.2 x.1
    stagesBlock n e bias (k + 1) ((stageFmt n w f).getD f) ws vs

/-- The bias vectors of a record's ADDBIAS stages, by stage, as the kennel holds them. -/
def State.biases (s : State) (p : Pat) : M (Map Nat) :=
  p.used.zipIdx.foldlM (fun (m : Map Nat) x =>
    if stOp x.1 = 5 then do
      let bs ← s.kennelBytes (stB x.1) 256
      pure (mset 0 m x.2 (leNat bs))
    else pure m) []

end Sys2Proof.Machine
end

