-- ==== Sys2Proof/Machine/GroupOps.lean ====
section
/-! DEFINITION. The group units: groups, bindings, the states of a group at its origin, and the messages to its weirs
(R350 to R364). -/

namespace Sys2Proof.Machine

/-- One of the free entries of a table; the spec names no choice. -/
def State.pickFree (s : State) (free : List Nat) : Option Nat := free[Config.entryChoice s.tick % free.length]?

/-- A free group entry. -/
abbrev GEntry.free : GEntry := ⟨0, none⟩

/-- Entry i of the group unit of die d. -/
def State.gent (s : State) (d i : Nat) : GEntry := mget GEntry.free (s.die d).groups i

/-- Entry i of the group unit of die d replaced. -/
def State.setGent (s : State) (d i : Nat) (e : GEntry) : State :=
  s.modDie d fun x => { x with groups := mset GEntry.free x.groups i e }

/-- A group changed. -/
def State.modGroup (s : State) (d i : Nat) (f : Group → Group) : State :=
  let e := s.gent d i
  s.setGent d i { e with grp := e.grp.map f }

/-- The id of an entry (R350). -/
abbrev groupId (e : GEntry) (i : Nat) : Nat := e.gen * 4096 + i

/-- The name of the group of an entry on the fabric. -/
def State.gname (s : State) (d i : Nat) : GroupName := ⟨groupId (s.gent d i) i, s.nodeOf d⟩

/-- The group that a binding names, with its die and entry; none when it is gone. -/
def State.boundGroup (s : State) (b : GBind) : Option (Nat × Nat × Group) :=
  let d := dieOfNode b.node
  let i := b.id % 4096
  match (s.gent d i).grp with
  | some g => if groupId (s.gent d i) i = b.id ∧ b.marked = false then some (d, i, g) else none
  | none => none

/-- A bank of the core, by its number, or a saved one of the context, by its key (R363, R410). -/
abbrev Holder := Sum Nat Nat

/-- The bank of a holder. -/
def State.held (s : State) (c : Nat) : Holder → Bank
  | .inl b => s.getBank b
  | .inr k => match (s.ctx c).saved.find? (·.key == k) with
    | some v => v.bank
    | none => Bank.reset

/-- The bank of a holder changed. -/
def State.modHeld (s : State) (c : Nat) (h : Holder) (f : Bank → Bank) : State :=
  match h with
  | .inl b => s.modBank b f
  | .inr k => s.modCtx c fun x => { x with saved := x.saved.map fun v => if v.key = k then { v with bank := f v.bank } else v }

/-- The bank that holds the binding of a group: one on its core, or a saved one (R363). -/
def State.binder (s : State) (d i : Nat) (g : Group) : Option Holder :=
  let id := groupId (s.gent d i) i
  let node := (s.ctx g.ctx).aliasNo * 4 + d
  let holds (b : Bank) : Bool := b.id.ctx == g.ctx && mget none b.gbinds g.bind == some ⟨id, node, false⟩
  if holds s.bank then some (.inl s.cur)
  else match s.parked.find? fun x => x.1 != s.cur && holds x.2 with
    | some x => some (.inl x.1)
    | none => ((s.ctx g.ctx).saved.find? fun v => holds v.bank).map fun v => .inr v.key

/-- A binding of a bank changed. -/
def Bank.setBind (k : Bank) (n : Nat) (x : Option GBind) : Bank := { k with gbinds := mset none k.gbinds n x }

/-- A binding of a bank of a core changed. -/
def State.setBind (s : State) (b n : Nat) (x : Option GBind) : State := s.modBank b fun k => k.setBind n x

/-- The pending GCOMMITs and GABORTs of a binding complete with their values (R355, R361, R369). -/
def Bank.endPends (k : Bank) (n : Nat) (vc va : Word) : Bank :=
  (k.gpend.filter (·.bind == n)).foldl (fun k p =>
    let v := if p.commit then vc else va
    k.completeTok p.reg p.ord (v == 0) v) { k with gpend := k.gpend.filter (·.bind != n) }

/-- A commit-control message from a die of this device to a node of the fabric (R360, R380). -/
def State.sendCommit (s : State) (d dom node : Nat) (m : CommitMsg) : State :=
  if devOf node = s.fabric then s.modDie (dieOfNode node) fun x => { x with inbox := x.inbox ++ [(s.nodeOf d, dom, m)] }
  else s.emit d node dom 2 (.commit m)

/-- Whether the commit VC from a die to a node fails (R390). -/
def State.commitFails (s : State) (d dom node : Nat) : Bool :=
  if devOf node = s.fabric then (s.dieFails d (dieOfNode node) 2).isSome
  else (s.farFails d dom (devOf node) 2).isSome

/-- A group whose outcome is known and reported ends (R351, R355, R363, R364): its tokens complete, its entry is free and
its binding released, or kept with the mark of a halt. -/
def State.settleGroup (s : State) (d i : Nat) : State :=
  match (s.gent d i).grp with
  | none => s
  | some g =>
    let free (s : State) : State := s.setGent d i ⟨((s.gent d i).gen + 1) % 16, none⟩
    if !((g.st == 4 || g.st == 5) && g.report == []) then s
    else match s.binder d i g with
      | none => if g.auto then free s else s
      | some b =>
        let pending := (s.held g.ctx b).gpend.any (·.bind == g.bind)
        let vc := if g.st = 4 then (if g.poison then failVal cMEMORY_ERROR 1 0 else 0) else failVal g.cause g.detail 0
        let va := if g.halted then failVal g.cause g.detail 0 else 0
        if pending then free (s.modHeld g.ctx b fun k => (k.endPends g.bind vc va).setBind g.bind none)
        else if g.halted then
          free (s.modHeld g.ctx b fun k => k.setBind g.bind ((mget none k.gbinds g.bind).map fun x => { x with marked := true }))
        else if g.auto then free (s.modHeld g.ctx b fun k => k.setBind g.bind none)
        else s

/-- A group aborted with its first cause (R355, R361): a discard to every weir touched. -/
def State.abortGroup (s : State) (d i cause detail : Nat) : State :=
  match (s.gent d i).grp with
  | none => s
  | some g =>
    let (c, t) := if g.cause = 0 then (cause, detail) else (g.cause, g.detail)
    let nodes := g.weirs.map (·.1)
    let s := s.modGroup d i fun g => { g with st := 5, cause := c, detail := t, report := nodes, ready := [] }
    let s := nodes.foldl (fun s n => s.sendCommit d (s.ctx g.ctx).dom n (.discard (s.gname d i) n)) s
    s.settleGroup d i

/-- A group doomed by its first cause (R355, R361): a LINK_FAULT keeps no detail of its item. -/
def State.doomGroup (s : State) (d i cause detail : Nat) : State :=
  s.modGroup d i fun g => if g.st = 1 then { g with st := 6, cause := cause, detail := if cause = cLINK_FAULT then 0 else detail } else g

/-- GCOMMIT reaches its group (R355, R357, R368): none when no row matches. In ABORTED its token completes with the last discard report. -/
def State.commitGroup (s : State) (d i : Nat) (g : Group) : Option State :=
  if g.st = 1 then
    let nodes := g.weirs.map (·.1)
    if nodes = [] then some ((s.modGroup d i fun g => { g with st := 4 }).settleGroup d i)
    else
      let dom := (s.ctx g.ctx).dom
      if nodes.any (s.commitFails d dom) then some (s.abortGroup d i cLINK_FAULT 0)
      else
        let s := s.modGroup d i fun g => { g with st := 2, ready := nodes, since := s.cycle }
        some (g.weirs.foldl (fun s w => s.sendCommit d dom w.1 (.prepare (s.gname d i) w.1 (w.2 - 1))) s)
  else if g.st = 6 then some (s.abortGroup d i g.cause g.detail)
  else if g.st = 5 then some (s.settleGroup d i)
  else none

/-- A CPYG of a binding, issued before a GCOMMIT, is not complete yet (R368). -/
def Bank.cpygBefore (b : Bank) (n ord : Nat) : Bool :=
  b.ops.any fun o => match o.instr with
    | .cpyg c => c.mod.toNat / 256 == n && o.ord < ord
    | _ => false

/-- A pending entry of a bank's group instructions answered at once. -/
def State.answerPend (s : State) (b : Nat) (p : GPend) (v : Word) : State :=
  (s.modBank b fun k => { k with gpend := k.gpend.filter fun q => q.ord != p.ord }).completeTok b p.reg p.ord (v == 0) v

/-- The first GCOMMIT or GABORT of a bank that its group unit can take (R355, R366, R368, R369). -/
def State.takePend (s : State) (b : Nat) (p : GPend) : State :=
  match mget none (s.getBank b).gbinds p.bind with
  | none => s.answerPend b p (failVal cGROUP_FAULT 3 0)
  | some x =>
    if x.marked then (s.setBind b p.bind none).answerPend b p (failVal cHALTED 0 0)
    else match s.boundGroup x with
      | none => s.answerPend b p (failVal cGROUP_FAULT 3 0)
      | some (d, i, g) =>
        let s := s.modBank b fun k => { k with gpend := k.gpend.map fun q => if q.ord = p.ord then { q with taken := true } else q }
        if p.commit then
          match s.commitGroup d i g with
          | some t => t
          | none => s.answerPend b p (failVal cILLEGAL_OPERAND 0 0)
        else if g.st = 1 ∨ g.st = 2 ∨ g.st = 6 then s.abortGroup d i cGROUP_FAULT 1
        else if g.st = 5 then s.settleGroup d i
        else s.answerPend b p (failVal cILLEGAL_OPERAND 0 0)

/-- Every GCOMMIT and GABORT of a bank that can be taken is taken, in program order. -/
def State.takePends (s : State) (b : Nat) : State :=
  ((s.getBank b).gpend.filter fun p => !p.taken).foldl (fun s p =>
    if p.commit && (s.getBank b).cpygBefore p.bind p.ord then s
    else if (s.getBank b).gpend.any (fun q => q.ord == p.ord && !q.taken) then s.takePend b p else s) s

end Sys2Proof.Machine
end

