-- ==== Sys2Proof/Machine/WeirOps.lean ====
section
/-! DEFINITION. Weirs: staging of lines (R352 to R354, R358, R363). -/

namespace Sys2Proof.Machine

/-- What the weir of die d holds for a group. -/
def State.weirOf (s : State) (d : Nat) (g : GroupName) : Option WeirGroup := (s.die d).weir.find? (·.name == g)

/-- The weir state of a group replaced; none removes it. -/
def State.setWeir (s : State) (d : Nat) (g : GroupName) (w : Option WeirGroup) : State :=
  s.modDie d fun x => { x with weir := (x.weir.filter (·.name != g)) ++ w.toList }

/-- Bits of the bytes that a line mask selects. -/
def lineMask (m : BitVec 64) : BitVec 512 := BitVec.ofNat 512 (maskOf (fun i => m.getLsbD (i / 8)) 512)

/-- A later staging merged into a staged line (R352). -/
def mergeLine (a b : StagedLine) : StagedLine :=
  { addr := a.addr, data := (a.data &&& ~~~(lineMask b.mask)) ||| (b.data &&& lineMask b.mask), mask := a.mask ||| b.mask, hint := a.hint || b.hint }

/-- Staged lines a weir holds (R352). -/
abbrev weirRoom : Nat := 262144

/-- A line staged at the weir of die d into the memory of context c; true says that it is a further line (R352, R354,
R358, R363). -/
def State.stageLine (s : State) (d : Nat) (g : GroupName) (c : Nat) (l : StagedLine) : M (Bool × State) :=
  if s.stagingHalted c then raise cHALTED 0
  else
    let room := decide (((s.die d).weir.foldl (fun n w => n + w.lines.length) 0) < weirRoom)
    match s.weirOf d g with
    | none =>
      if room then .ok (true, s.setWeir d g (some { name := g, called := 0, ctx := c, prepared := false, lines := [l], rsv := [], since := 0,
                                                     queries := 0, recd := false }))
      else raise cWEIR_FULL 0
    | some w =>
      if w.prepared then raise cGROUP_FAULT 7
      else if w.lines.any (·.addr == l.addr) then
        .ok (false, s.setWeir d g (some { w with lines := w.lines.map fun x => if x.addr = l.addr then mergeLine x l else x }))
      else if room then .ok (true, s.setWeir d g (some { w with lines := w.lines ++ [l] }))
      else raise cWEIR_FULL 0

/-- A byte brought into a line. -/
def lineByte (d : BitVec 512) (i : Nat) (v : Byte) : BitVec 512 :=
  let x : BitVec 512 := v.zeroExtend 512
  d ||| (x <<< (8 * i))

/-- The lines that masked bytes of expanded memory make, one for each 64-byte line (R352). -/
def linesOf (ws : List AWrite) : List StagedLine :=
  ((ws.map (·.1 / 64)).eraseDups).map fun n =>
    let mine := ws.filter fun w => w.1 / 64 == n
    { addr := n * 64,
      data := mine.foldl (fun d w => lineByte d (w.1 % 64) w.2.1) 0,
      mask := mine.foldl (fun (m : BitVec 64) w => m ||| (1#64 <<< (w.1 % 64))) 0 }

/-- Lines staged at their home weirs on this device (R352); the numbers of further lines by die. -/
def State.stageLines (s : State) (g : GroupName) (c : Nat) (ls : List StagedLine) : M (List Nat × State) :=
  ls.foldlM (fun (r : List Nat × State) l => do
    let d := r.2.home l.addr
    let (new, t) ← r.2.stageLine d g c l
    pure (if new then r.1.set d (r.1[d]?.getD 0 + 1) else r.1, t)) ([0, 0, 0, 0], s)

end Sys2Proof.Machine
end

