-- ==== Sys2Proof/Machine/Copy.lean ====
section
/-! DEFINITION. The copy instructions of the C slots, their plans, and the starts of RADV, CXADD and CWAITE (R225 to R228,
R236, R321, R322, R371). -/

namespace Sys2Proof.Machine

/-! ### Issue -/

/-- The issue of a copy: its field check, its operands, the ranges of its stepped places xs and xt, its queue entry. two says that xt is a
place too. -/
def copyIssue (o : COp) (i : Instr) (f : Nat) (ok : Bool) (s : State) (two : Bool := true) : Out :=
  run s (do
    legal ok
    let v ← s.cTake o
    let w := fmtWidth f (s.efr (cslot o.sl))
    s.stepOk f w (s.adv (cslot o.sl)) v.1
    if two then s.stepOk f w (s.adv (cslot o.sl)) v.2.1
    pure (s.cPush o i v []))

/-- The format field of CPY, CPYT, GTH and SCT (R220). -/
abbrev copyFmt (o : COp) : Nat := o.mod.toNat / 512

/-- CPY (R225). -/
def execCpy (o : COp) (s : State) : Out := copyIssue o (.cpy o) (copyFmt o) (copyFmt o < 0x12) s

/-- A format of 8-, 16-, 32- or 64-bit elements other than RAW (R226, R371). -/
def plainFmt (f : Nat) : Bool := f != tRAW && (fmtBits f).isSome

/-- CPYT (R226). -/
def execCpyt (o : COp) (s : State) : Out := copyIssue o (.cpyt o) (copyFmt o) (plainFmt (copyFmt o)) s

/-- GTH (R228). -/
def execGth (o : COp) (s : State) : Out := copyIssue o (.gth o) (copyFmt o) (copyFmt o < 0x12) s

/-- SCT (R228). -/
def execSct (o : COp) (s : State) : Out := copyIssue o (.sct o) (copyFmt o) (copyFmt o < 0x12) s

/-- The format field of CPYG (R371). -/
abbrev cpygFmt (mod : Nat) : Nat := mod / 8 % 32

/-- CPYG (R371). -/
def execCpyg (o : COp) (s : State) : Out :=
  let f := cpygFmt o.mod.toNat
  copyIssue o (.cpyg o) f (f == tRAW || plainFmt f) s

/-- Elements of a vector of a format: those of a stream's races, and the vectors of CPYS stages. -/
def vecElems (f : Nat) (e : Efr) : Nat := 2048 / fmtWidth f e

/-- The checks of CPYS on its two records (R227). -/
def cpysOk (e : Efr) (p q : Pat) : Bool :=
  p.valid && q.valid && p.base == 0 && q.base == 0 && p.race == 0 && q.race == 0 && p.flags == 0 && q.flags == 0 &&
  q.nstage == 0 && p.used.all (fun w => stOp w != 6) && stagesFmt (vecElems q.fmt e) p.used p.fmt == some q.fmt &&
  p.len == q.len

/-- CPYS (R227): its records and bias vectors are read at issue. -/
def execCpys (o : COp) (s : State) : Out :=
  run s (do
    let slot := cslot o.sl
    let v ← s.cTake o
    let xn := v.2.2.toNat
    legal (xn < 2 ^ 32 && xn % 8 == 0 && bitsOf xn 31 16 % 8 == 0)
    let rs ← s.kennelBytes (bitsOf xn 15 0) 64
    let rt ← s.kennelBytes (bitsOf xn 31 16) 64
    let e := s.efr slot
    let p := patOf rs
    let q := patOf rt
    legal (cpysOk e p q)
    let bias ← s.biases p
    s.stepOk p.fmt (p.width e) (s.adv slot) v.1
    s.stepOk q.fmt (q.width e) (s.adv slot) v.2.1
    pure (s.cPush o (.cpys o) v (rs ++ rt ++ (List.range 4).flatMap fun k => leBytes 256 (mget 0 bias k))))

/-- RADV (R236). -/
def execRadv (o : COp) (s : State) : Out :=
  run s (do
    let v ← s.cTake o
    pure (s.cPush o (.radv o) v []))

/-- CXADD (R321). -/
def execCxadd (o : COp) (s : State) : Out :=
  run s (do
    let v ← s.cTake o
    pure (s.cPush o (.cxadd o) v []))

/-- CWAITE (R322). -/
def execCwaite (o : COp) (s : State) : Out :=
  run s (do
    legal (o.mod.toNat < 5)
    let v ← s.cTake o
    pure (s.cPush o (.cwaite o) v []))

/-! ### Plans (R219 to R228) -/

/-- The shape register of a copy (R221). -/
structure CopyShape where
  rows   : Nat
  cols   : Nat
  spitch : Nat
  tpitch : Nat
  deriving DecidableEq, Repr

/-- The fields of xn. -/
def copyShape (w : Word) : CopyShape :=
  let n := w.toNat
  { rows := bitsOf n 63 48, cols := bitsOf n 47 32, spitch := bitsOf n 31 16, tpitch := bitsOf n 15 0 }

/-- The checks on xn (R221, R222), the same for every copy: CPYT's target pitch too is held against the rows and cols of xn. -/
def shapeOk (f : Nat) (src dst : Side) (x : CopyShape) : M Unit :=
  legal (x.rows != 0 && x.cols != 0 && (!src.isTile || x.spitch == 0) &&
    (if dst.isTile then x.tpitch == 0 else decide (x.rows ≤ 1 ∨ x.cols ≤ x.tpitch)) &&
    (f != tBFP || (x.cols % 32 == 0 && x.spitch % 32 == 0 && x.tpitch % 32 == 0)))

/-- The two sides of a copy with the checks of both (R219, R220, R222). -/
def State.copySides (s : State) (o : EngOp) (f w sbit tbit : Nat) : M (Side × Side) := do
  let src ← s.sideOf f w o.adv sbit (o.cap 0)
  let dst ← s.sideOf f w o.adv tbit (o.cap 1)
  pure (src, dst)

/-- Formats and alignment of both sides. -/
def State.sidesOk (s : State) (f w sbit tbit : Nat) (src dst : Side) : M Unit := do
  s.tileSide f w src
  s.tileSide f w dst
  sideAligned f w sbit src
  sideAligned f w tbit dst

/-- The plan of CPY (R225). chk asks for the checks of the start. -/
def State.planCpy (s : State) (o : EngOp) (chk : Bool) : M Plan := do
  let f := o.mod / 512
  let w := fmtWidth f (efrOf o.efr)
  let sbit := o.mod / 64 % 8
  let tbit := o.mod / 8 % 8
  let (src, dst) ← s.copySides o f w sbit tbit
  let x := copyShape (o.cap 2)
  if chk then
    legal (!(src.isRemote && dst.isRemote))
    s.sidesOk f w sbit tbit src dst
    shapeOk f src dst x
    s.sideBounds f w x.spitch false src (List.range x.rows) 0 x.cols
    s.sideBounds f w x.tpitch true dst (List.range x.rows) 0 x.cols
  pure { src := src, dst := dst, items := x.rows,
         reads := fun i => [s.rowSpan f w x.spitch o.base.1 src i 0 x.cols],
         writes := fun i => [s.rowSpan f w x.tpitch o.base.2 dst i 0 x.cols],
         rowS := id, rowD := id, conv := fun _ v => v }

/-- The pad element of CPYT (R226). -/
def padElem (f code : Nat) : Nat :=
  let w := (fmtBits f).getD 8
  match code with
  | 0 => 0
  | 1 => 2 ^ w - 1
  | c =>
    if f = tE4M3 then (if c = 2 then 0x7E else 0xFE)
    else if isFp f then withSign (fpFmt f) (c == 3) (fpFmt f).inf
    else
      let k : IKind := ⟨w, isSigned f, false⟩
      wrapBits (if c = 2 then iMax k else iMin k) w

/-- n rounded up to a multiple of 32. -/
def up32 (n : Nat) : Nat := (n + 31) / 32 * 32

/-- The plan of CPYT (R226). The slots of a target race are counted from the rows of xn, as R223 says, though the target has other rows:
DEDUCED (log 76). -/
def State.planCpyt (s : State) (o : EngOp) (chk : Bool) : M Plan := do
  let f := o.mod / 512
  let w := fmtWidth f (efrOf o.efr)
  let nopad := bitAt o.mod 6
  let (src, dst) ← s.copySides o f w 0 0
  let x := copyShape (o.cap 2)
  let trows := if nopad then x.cols else up32 x.cols
  let tcols := if nopad then x.rows else up32 x.rows
  if chk then
    legal (!(src.isRemote && dst.isRemote))
    s.sidesOk f w 0 0 src dst
    shapeOk f src dst x
    s.sideBounds f w x.spitch false src (List.range x.rows) 0 x.cols
    s.sideBounds f w x.tpitch true dst (List.range (if (s.raceOf dst).isSome then x.rows else trows)) 0 tcols
  pure { src := src, dst := dst, items := trows,
         reads := fun i => if i < x.cols then (List.range x.rows).map fun j => s.rowSpan f w x.spitch o.base.1 src j i 1 else [],
         writes := fun i => [s.rowSpan f w x.tpitch o.base.2 dst i 0 tcols],
         rowS := fun _ => 0, rowD := id,
         conv := fun _ v => [packed w (v ++ List.replicate (tcols - v.length) (padElem f (o.mod / 128 % 4)))] }

/-- The index tile of GTH and SCT (R228): m indices in row-major order. -/
def State.gatherIdx (s : State) (h m : Nat) : M (List Nat) :=
  match s.tile h with
  | none => tileFault 4
  | some t => do
    let sh := shapeRaw t.shape
    if t.lock.isSome then tileFault 7
    need (sh.fmt == tIDX) cFORMAT_MISMATCH 0
    if sh.rows * sh.cols < m then tileFault 5
    let at_ (i : Nat) : Nat := i / sh.cols * (8 * sh.pitch) + i % sh.cols * 32
    need (!(List.range m).any fun i => t.bad (at_ i) 32) cMEMORY_ERROR 0
    pure ((List.range m).map fun i => t.bitsAt (at_ i) 32)

/-- The plan of GTH, and of SCT (R228). -/
def State.planIdx (s : State) (o : EngOp) (scatter chk : Bool) (idx : List Nat) : M Plan := do
  let f := o.mod / 512
  let w := fmtWidth f (efrOf o.efr)
  let (src, dst) ← s.copySides o f w 0 0
  let x := copyShape (o.cap 2)
  let k (i : Nat) : Nat := idx[i]?.getD 0
  let srow : Nat → Nat := if scatter then id else k
  let trow : Nat → Nat := if scatter then k else id
  if chk then
    legal (!(if scatter then src.isRemote else dst.isRemote))
    s.sidesOk f w 0 0 src dst
    legal ((s.raceOf src).isNone && (s.raceOf dst).isNone)
    shapeOk f src dst x
    s.sideBounds f w x.spitch false src ((List.range x.rows).map srow) 0 x.cols
    s.sideBounds f w x.tpitch true dst ((List.range x.rows).map trow) 0 x.cols
  pure { src := src, dst := dst, items := x.rows,
         reads := fun i => [s.rowSpan f w x.spitch 0 src (srow i) 0 x.cols],
         writes := fun i => [s.rowSpan f w x.tpitch 0 dst (trow i) 0 x.cols],
         rowS := srow, rowD := trow, conv := fun _ v => v }

/-- The elements of a list of BFP parts: the exponent byte with the mantissa above it. -/
def joinParts (f : Nat) : List Nat → List Nat
  | a :: b :: r => if f = tBFP then (a + b * 256) :: joinParts f r else a :: joinParts f (b :: r)
  | l => l

/-- The parts of elements. -/
def splitParts (f : Nat) (xs : List Nat) : List Nat := if f = tBFP then xs.flatMap fun x => [x % 256, x / 256] else xs

/-- The plan of CPYS (R227): an item is a run of the target's innermost count. The vectors of its stages are as long as a register of the
target's format: DESIGN CHOICE (log 101). -/
def State.planCpys (s : State) (o : EngOp) (chk : Bool) : M Plan := do
  let e := efrOf o.efr
  let p := patOf o.recs
  let q := patOf (o.recs.drop 64)
  let ws := p.width e
  let wt := q.width e
  let src ← s.sideOf p.fmt ws o.adv 0 (o.cap 0)
  let dst ← s.sideOf q.fmt wt o.adv 0 (o.cap 1)
  if chk then
    legal (!(src.isRemote && dst.isRemote))
    s.tileSide p.fmt ws src
    s.tileSide q.fmt wt dst
    sideAligned p.fmt ws 0 src
    sideAligned q.fmt wt 0 dst
    s.patBounds p.fmt ws false src p
    s.patBounds q.fmt wt true dst q
  let run := q.counts.headD 1
  let n := vecElems q.fmt e
  let bias := mputs 0 [] 0 ((List.range 4).map fun k => recNat o.recs (128 + 256 * k) 256)
  let els (i : Nat) : List Nat := (List.range run).map (i * run + ·)
  pure { src := src, dst := dst, items := q.len / run,
         reads := fun i => (els i).flatMap fun x => s.elemSpans p.fmt ws o.base.1 src (patIndex p.counts p.strides x),
         writes := fun i => (els i).flatMap fun x => s.elemSpans q.fmt wt o.base.2 dst (patIndex q.counts q.strides x),
         rowS := fun _ => 0, rowD := fun _ => 0,
         conv := fun i v => splitParts q.fmt (((joinParts p.fmt v).zip (els i)).map fun x =>
           stagesElem n e bias (x.2 % n) 0 p.fmt p.used x.1) }

/-- The plan of a copy; none for an operation that is no copy. -/
def State.planOf (s : State) (o : EngOp) (chk : Bool) : Option (M Plan) :=
  match o.instr with
  | .cpy _ => some (s.planCpy o chk)
  | .cpyt _ => some (s.planCpyt o chk)
  | .cpys _ => some (s.planCpys o chk)
  | .gth _ => some (s.planIdx o false chk o.idx)
  | .sct _ => some (s.planIdx o true chk o.idx)
  | _ => none

/-- The rows that a copy moves in a race of either side, for its race wait and its advance (R223, R224): those of xn. CPYS has no xn and
waits for the slots of one row at its place's row: DESIGN CHOICE (log 77). -/
def EngOp.rowsMoved (o : EngOp) : Nat :=
  match o.instr with
  | .cpy _ | .cpyt _ => (copyShape (o.cap 2)).rows
  | _ => 1

/-- A race that an operation names as a source or target and that lacks slots for it, so that it does not start (R213, R214, R224). A
count above the race's slots, or a race that a stream has locked, is no wait: the start fails. -/
def State.raceHolds (s : State) (o : EngOp) (n : Nat) (target : Bool) : Bool :=
  match s.sideOf tRAW 8 o.adv 0 (o.cap n) with
  | .ok sd => match sd, s.raceOf sd with
    | .tile _ _ _ row _, some t =>
      let k := slotsMoved (shapeRaw t.shape) row.toNat o.rowsMoved
      t.lock.isNone && k ≤ (shapeRaw t.shape).slots && (if target then t.free else t.filled) < k
    | _, _ => false
  | .error _ => false

/-! ### Commit copies (R371) -/

/-- The sides of a CPYG, checked at start: the source is local, the target an extent or a window. -/
def State.planCpyg (s : State) (o : EngOp) (chk : Bool) : M Plan := do
  let f := cpygFmt o.mod
  let w := fmtWidth f (efrOf o.efr)
  let (src, dst) ← s.copySides o f w 0 0
  let x := copyShape (o.cap 2)
  if chk then
    legal (!src.isRemote && !dst.isTile)
    s.sidesOk f w 0 0 src dst
    legal (s.raceOf src).isNone
    shapeOk f src dst x
    s.sideBounds f w x.spitch false src (List.range x.rows) 0 x.cols
    s.sideBounds f w x.tpitch true dst (List.range x.rows) 0 x.cols
  pure { src := src, dst := dst, items := x.rows,
         reads := fun i => [s.rowSpan f w x.spitch 0 src i 0 x.cols],
         writes := fun i => [s.rowSpan f w x.tpitch 0 dst i 0 x.cols],
         rowS := id, rowD := id, conv := fun _ v => v }

/-- The group of a CPYG's binding, or GROUP_FAULT 3 unbound and 2 in no state of the list (R371). -/
def State.cpygGroup (s : State) (o : EngOp) (sts : List Nat) : M (Nat × Nat) :=
  match mget none s.bank.gbinds (o.mod / 256) with
  | none => raise cGROUP_FAULT 3
  | some x => match s.boundGroup x with
    | some (d, i, g) => if sts.contains g.st then .ok (d, i) else raise cGROUP_FAULT 2
    | none => raise cGROUP_FAULT 2

/-- Weirs of some dies of a device would take a group past the 64 that it may touch (R355, R362). -/
def State.weirsPast (s : State) (d i dev : Nat) (ds : List Nat) : Bool :=
  (s.gent d i).grp.any fun g => 64 < g.weirs.length + ds.countP fun h => mget 0 g.weirs (dev * 4 + h) == 0

/-- Lines acknowledged by the weirs of a device, by die, counted in the group at its origin (R350, R355): a 65th weir dooms
it. Only an answer tells which weirs of another device an item has touched, so it is found out then (log 84). -/
def State.countLines (s : State) (d i dev : Nat) (ns : List (Nat × Nat)) : State :=
  let s := ns.foldl (fun (s : State) n => s.modGroup d i fun g =>
    { g with weirs := mset 0 g.weirs (dev * 4 + n.1) (max (mget 0 g.weirs (dev * 4 + n.1)) 1 + n.2) }) s
  match (s.gent d i).grp with
  | some g => if 64 < g.weirs.length then s.doomGroup d i cGROUP_FAULT 6 else s
  | none => s

/-- The lines of an answer to a staging request: for each die of the target touched, the further lines held there. -/
def stageCounts (bs : List Byte) : List (Nat × Nat) :=
  ((List.range 4).map fun d => (d, recNat bs (4 * d) 4)).filterMap fun x => if x.2 = 0 then none else some (x.1, x.2 - 1)

/-- Staging of a row to an extent: through the die links to the home weirs of its lines (R372, R380). -/
def State.stageRow (s : State) (d i n : Nat) (p : Span) (v : Nat) : M State := do
  let ws ← s.extWrites n [(p, v)]
  let hint := bitAt (s.ext n).flags 5
  let ls := (linesOf ws).map fun l => { l with hint := hint }
  if s.weirsPast d i s.fabric (s.homesOf (ls.map (·.addr))) then pure (s.doomGroup d i cGROUP_FAULT 6)
  else
  let u ← s.rounds (dieOf s.cur) (s.homesOf (ls.map (·.addr))) 0 1
  let (ns, t) ← u.stageLines (s.gname d i) s.bank.id.ctx ls
  pure (t.countLines d i t.fabric ((ns.zipIdx.map fun x => (x.2, x.1)).filter fun x => ls.any fun l => s.home l.addr == x.1))

/-- A group that a 65th weir has doomed: its CPYGs stage no more at other devices (R362). DESIGN CHOICE (log 84). -/
def State.doomedFull (s : State) (d i : Nat) : Bool := (s.gent d i).grp.any fun g => g.st == 6 && g.cause == cGROUP_FAULT && g.detail == 6

/-- An item of a CPYG (R371). -/
def State.cpygItem (s : State) (o : EngOp) (p : Plan) : M State := do
  let (d, i) ← s.cpygGroup o [1, 6]
  let q := (p.writes o.next).headD (0, 0)
  let done (s : State) : State := s.modOp s.cur o.ord fun o => { o with next := o.next + 1, got := none }
  match p.dst, o.got with
  | .remote node _ _, some bs => do
    let dev := if s.ownNode s.bank.id.ctx node then s.fabric else devOf node
    pure (done (s.countLines d i dev (stageCounts bs)))
  | .remote node win _, none => if s.doomedFull d i then pure (done s) else do
    let (vals, t) ← s.readSpans p.src (p.reads o.next)
    let bs := maskedBytes q.1 (vals.headD 0 % 2 ^ q.2) (2 ^ q.2 - 1)
    pure (t.opAsk o node 0 (.stage win (q.1 / 8) (bs.map (·.2.1)) (bs.map (·.2.2)) (s.gname d i)))
  | .ext n _, _ => do
    let (vals, t) ← s.readSpans p.src (p.reads o.next)
    let t ← t.stageRow d i n q (vals.headD 0)
    pure (done t)
  | _, _ => illegal

/-! ### RADV, CXADD, CWAITE at their start -/

/-- RADV (R236). -/
def State.startRadv (s : State) (o : EngOp) : M State := do
  let sd ← s.sideOf tRAW 8 Adv.zero 0 (o.cap 0)
  let n := (o.cap 2).toNat
  match sd with
  | .tile b h _ row col =>
    match s.tileOf b h with
    | none => tileFault 4
    | some t => do
      let sh := shapeRaw t.shape
      legal (sh.race && row == 0 && col == 0 && 1 ≤ n && n ≤ sh.slots)
      if t.lock.isSome then tileFault 7
      s.raceAdvance b h n (bitAt o.mod 0)
  | _ => illegal

/-- CXADD sends its add (R321). -/
def State.startCxadd (s : State) (o : EngOp) : M State := do
  let id ← s.bankCtr (o.cap 0) true
  let a : CtrAdd := { id := id, amount := o.cap 2, src := .cxadd s.cur o.ord, place := o.cap 0, bundle := o.bundle, wid := o.wid,
                      kid := s.bank.id.kid, hint := s.hintOf (o.cap 0), ctx := s.bank.id.ctx }
  pure ((s.modOp s.cur o.ord fun o => { o with st := .waitRemote 0 }).sendAdd (dieOf s.cur) s.bank.id.ctx a)

/-- CWAITE registers its waiter (R322). A link that cannot carry it fails the operation as it fails a CXADD's add. -/
def State.startCwaite (s : State) (o : EngOp) : M State := do
  let id ← s.bankCtr (o.cap 0) false
  let c := s.bank.id.ctx
  let s := s.modOp s.cur o.ord fun o => { o with st := .running }
  let reg (w : Waiter) : M State :=
    match s.dieFails (dieOf s.cur) (s.ctrDie id) 4 with
    | some d => .ok (s.modOp s.cur o.ord fun o => { o with fail := (cLINK_FAULT, d) })
    | none => .ok (s.modDie (s.ctrDie id) fun d => { d with regs_ := d.regs_ ++ [w] })
  match id with
  | .remote node place => .ok (s.ask (dieOf s.cur) c node 4 (.wait place (o.cap 2)) (.op s.cur o.ord))
  | .slot _ k gen => reg { bank := s.cur, op := some o.ord, ctx := c, slot := some k, gen := gen, addr := 0, target := o.cap 2, remote := none }
  | .word _ a => reg { bank := s.cur, op := some o.ord, ctx := c, slot := none, gen := 0, addr := a, target := o.cap 2, remote := none }

end Sys2Proof.Machine
end

