-- ==== Sys2Proof/Machine/Streams.lean ====
section
/-! DEFINITION. SBIND, SUNB, and the filling and draining of a stream's race (R229 to R235). -/

namespace Sys2Proof.Machine

/-! ### SBIND and SUNB -/

/-- The memory format a stream's stages lead from, and the one they lead to. -/
def streamFmts (p : Pat) (race : Nat) : Nat × Nat := if p.flags = 1 then (race, p.fmt) else (p.fmt, race)

/-- The race that an SBIND may bind (R231): of level 1, with one row per slot, empty, wide enough, of no BFP or PLANE
format; a stream that holds it is TILE_FAULT 7. -/
def streamRace (t : Tile) : M Unit := do
  let sh := shapeRaw t.shape
  legal (sh.race && sh.level == 1 && sh.rows == sh.slots && sh.fmt != tBFP && sh.fmt != tPLANE)
  if t.lock.isSome then tileFault 7
  legal (t.head == t.tail && decide (2048 / sh.bits ≤ sh.cols))

/-- The checks of an SBIND on its record, with its race (R231). A base that names an own tile is checked as a copy's place is, at issue:
DESIGN CHOICE (log 99). -/
def State.sbindOk (s : State) (e : Efr) (p : Pat) (t : Tile) : M Unit := do
  let sh := shapeRaw t.shape
  let n := 2048 / sh.bits
  let (f, g) := streamFmts p sh.fmt
  legal (p.valid && stagesFmt n p.used f == some g)
  streamRace t
  legal (!(p.used.any fun w => stOp w == 6) || p.len % (n * n) == 0)
  let w := p.width e
  match placeOf p.base with
  | some (.peer _ _ _ _) => illegal
  | _ => do
    let sd ← s.sideOf p.fmt w Adv.zero 0 p.base
    s.tileSide p.fmt w sd
    sideAligned p.fmt w 0 sd
    s.patBounds p.fmt w (p.flags == 1) sd p

/-- SBIND (R231). sN is unbound for the whole bundle of an earlier SBIND of it; of two in one bundle the later one's binding is what sN names
(R59), and the stream of the other keeps its race to the end of the task. DESIGN CHOICE (log 91). -/
def execSbind (o : COp) (s : State) : Out :=
  run s (do
    let slot := cslot o.sl
    let n := o.mod.toNat % 16
    let v ← s.cTake o
    let off := v.1.toNat
    legal (off < 2 ^ 16 && off % 8 == 0)
    legal (s.bank.streamOf n).isNone
    let r ← s.kennelBytes off 64
    let p := patOf r
    match s.tile p.race with
    | none => illegal
    | some t => do
      s.sbindOk (s.efr slot) p t
      let bias ← s.biases p
      let (ord, u) := s.newOrd
      let st : Stream :=
        { num := n, since := s.bank.bundles + 1, untl := none, recd := r, bias := bias, efr := s.efrWord slot,
          out := p.flags == 1, race := p.race, next := 0, used := 0, ord := ord, kd := o.kd.toNat, fail := none, unb := none,
          bundle := s.bank.bundleAt, wid := s.bank.id.wid, waitd := none, got := none, vals := [], inb := [], outb := [],
          failed := false, engine := o.sl.toNat, uengine := 0, begun := false, ubegun := false, tokDone := false, deps := [o.k1, o.k2, o.k3].map s.depOf, udeps := [], more := [],
          err := (0, 0) }
      pure ((((u.upd fun b => { b with streams := b.streams ++ [st] }).setTile p.race (some { t with lock := some n }))).markTok
        o.kd ord true))

/-- SUNB (R234): the stream is unbound for every later bundle. A further SUNB of the same bundle finds it bound too, and its token completes
with the first one's. DESIGN CHOICE (log 91). -/
def execSunb (o : COp) (s : State) : Out :=
  run s (do
    let n := o.mod.toNat % 16
    let _ ← s.cTake o
    match s.bank.streamOf n with
    | none => illegal
    | some t => do
      let (ord, u) := s.newOrd
      let deps := [o.k1, o.k2, o.k3].map s.depOf
      let t := if t.unb.isSome then { t with more := t.more ++ [(o.sl.toNat, o.kd.toNat, ord)], udeps := t.udeps ++ deps }
        else { t with untl := some s.bank.bundles, unb := some (o.kd.toNat, ord), uengine := o.sl.toNat, udeps := deps }
      pure ((u.upd fun b => b.setStream t).markTok o.kd ord true))

/-! ### Items (R232, R233) -/

/-- Every consumed token has its value. -/
def depsReady (ds : List Dep) : Bool := ds.all fun d => match d with
  | .val _ => true
  | .tok _ _ => false

/-- A consumed token held a nonzero value (R22). -/
def depsFail (ds : List Dep) : Bool := ds.any fun d => match d with
  | .val v => v != 0
  | .tok _ _ => false

/-- The completion value of an operation cancelled by a consumed token (R22, R216). -/
abbrev depFailed : Word := failVal cDEP_FAILED 0 0

/-- Vectors that the stages take together: n under TRANSPOSE, else one (R230). -/
def Pat.block (p : Pat) (n : Nat) : Nat := if p.used.any (fun w => stOp w == 6) then n else 1

/-- The stretches of the elements of vector v of a pattern that lie inside it. -/
def State.vecSpans (s : State) (p : Pat) (w n : Nat) (sd : Side) (v : Nat) : List (List Span) :=
  ((List.range n).map (v * n + ·)).filter (· < p.len) |>.map fun e => s.elemSpans p.fmt w 0 sd (patIndex p.counts p.strides e)

/-- A stream of the bank in focus by its issue. -/
def State.strm (s : State) (ord : Nat) : Option Stream := s.bank.streams.find? (·.ord == ord)

/-- A stream replaced. -/
def State.setStrm (s : State) (t : Stream) : State := s.upd fun b => b.setStream t

/-- The SBIND token completes. -/
def State.strmTok (s : State) (t : Stream) (v : Word) : State :=
  if t.tokDone then s else (s.setStrm { t with tokDone := true }).completeTok s.cur t.kd t.ord (v == 0) v

/-- A stream whose SUNB is done: the race is emptied and unlocked, the SUNB's token completes (R234). The SBIND token of a stream that ends
before its last item completes with 0. DESIGN CHOICE (log 92). -/
def State.strmEnd (s : State) (t : Stream) (v : Word) : State :=
  let s := s.strmTok t (match t.fail with
    | some (_, w) => w
    | none => 0)
  let s := s.upd fun b => { b with streams := b.streams.filter (·.ord != t.ord) }
  let s := match s.tile t.race with
    | some r => s.setTile t.race (some { r with head := 0, tail := 0, lock := none })
    | none => s
  let s := match t.unb with
    | some (k, ord) => s.completeTok s.cur k ord (v == 0) v
    | none => s
  t.more.foldl (fun s x => s.completeTok s.cur x.2.1 x.2.2 (v == 0) v) s

/-- The record of a failed item of a stream (R215, R462). A drain that fails once the task has halted marks the task FAULTED until the
record is disposed of (R234). -/
def State.strmFail (s : State) (t : Stream) (cause detail : Nat) (place : Word) : State :=
  let r := { FaultRec.blank with
    cause := cause, detail := detail, source := 1 + t.engine, slot := 4 + t.engine, core := coreOf s.cur, bank := s.cur % 2,
    token := t.kd, kernel := s.bank.id.kid, done := t.next, work := t.wid, bundle := t.bundle, place := place }
  let s := s.setStrm { t with err := (0, 0), failed := true, got := none }
  let s := if t.out ∧ s.bank.run = .ending then s.upd fun b => { b with issued := .faulted } else s
  s.ctxFault s.bank.id.ctx r (.stream s.cur t.ord)

/-- A stream's request to another device: VC 7 (R380). -/
def State.strmAsk (s : State) (t : Stream) (node : Nat) (r : RemoteReq) : State :=
  (s.setStrm { t with waitd := some s.gate.tag, got := none }).ask (dieOf s.cur) s.bank.id.ctx node 7 r
    (.stream s.cur t.ord t.next)

/-- The vectors of a block through the stages. -/
def Stream.staged (t : Stream) (p : Pat) (f n : Nat) (vs : List (List Nat)) : List (List Nat) :=
  stagesBlock n (efrOf t.efr) t.bias 0 f p.used vs

/-- The side of a stream's memory. -/
def State.strmSide (s : State) (p : Pat) (w : Nat) : M Side := s.sideOf p.fmt w Adv.zero 0 p.base

/-- A step of an input stream: a block's vectors are read, pass the stages, and fill free slots one by one (R232). -/
def State.fillStep (s : State) (t : Stream) (tile : Tile) : State :=
  let p := patOf t.recd
  let sh := shapeRaw tile.shape
  let n := 2048 / sh.bits
  let w := p.width (efrOf t.efr)
  match t.outb with
  | v :: vs =>
    if tile.free = 0 then s
    else
      let at_ := tile.head % sh.rows * (8 * sh.pitch)
      let ws := maskedBytes at_ (packed sh.bits v) (2 ^ (n * sh.bits) - 1)
      let tile := ws.foldl Tile.put tile
      let s := (s.setTile t.race (some { tile with head := (tile.head + 1) % 2 ^ 32 }))
      let t := { t with next := t.next + 1, outb := vs }
      let s := s.setStrm t
      if t.next = t.total tile then s.strmTok t 0 else s
  | [] =>
    if t.inb.length = p.block n then s.setStrm { t with inb := [], outb := t.staged p p.fmt n t.inb }
    else
      match s.strmSide p w with
      | .error _ => s
      | .ok sd =>
        let parts := s.vecSpans p w n sd (t.next + t.inb.length)
        let ps := parts.flatten
        let add (s : State) (vals : List Nat) : State :=
          let xs := joinParts p.fmt vals
          s.setStrm { t with vals := [], got := none, inb := t.inb ++ [xs ++ List.replicate (n - xs.length) 0] }
        match sd with
        | .remote node win _ =>
          let vals := match t.got with
            | some bs => t.vals ++ [spanOf bs (ps[t.vals.length]?.getD (0, 0))]
            | none => t.vals
          match ps[vals.length]? with
          | none => add s vals
          | some q => s.strmAsk { t with vals := vals } node (readReq win q)
        | sd => match s.readSpans sd ps 7 with
          | .ok (vals, s) => add s vals
          | .error (.fault f) => (s.metError f).strmFail t f.cause f.detail (sd.place (ps.headD (0, 0)) 0)
          | .error .stall => s

/-- A step of an output stream: slots are taken, pass the stages, and are written vector by vector (R233). A SUNB leaves a TRANSPOSE block
incomplete: its missing vectors are taken as zero. DESIGN CHOICE (log 93). -/
def State.drainStep (s : State) (t : Stream) (tile : Tile) : State :=
  let p := patOf t.recd
  let sh := shapeRaw tile.shape
  let n := 2048 / sh.bits
  let w := p.width (efrOf t.efr)
  match t.outb with
  | v :: vs =>
    match s.strmSide p w with
    | .error _ => s
    | .ok sd =>
      let parts := s.vecSpans p w n sd t.next
      let ps := parts.flatten.zip (splitParts p.fmt (v.take parts.length))
      let done (s : State) : State := s.setStrm { t with next := t.next + 1, outb := vs, vals := [], got := none }
      let place := sd.place ((ps.headD ((0, 0), 0)).1) 0
      match sd with
      | .remote node win _ =>
        let k := if t.got.isSome then t.vals ++ [0] else t.vals
        match ps[k.length]? with
        | none => done s
        | some q => s.strmAsk { t with vals := k } node (writeReq win q.1 q.2)
      | sd => match s.writeSpans (some t.ord) sd ps 7 with
        | .ok (false, s) => done s
        | .ok (true, s) => s.strmFail t cMEMORY_ERROR 1 place
        | .error (.fault f) => (s.metError f).strmFail t f.cause f.detail place
        | .error .stall => s
  | [] =>
    let full := t.inb.length = p.block n
    let last := tile.filled = 0 ∧ (t.unb.isSome ∨ t.next + t.inb.length = t.total tile) ∧ t.inb ≠ []
    if full ∨ last then
      let vs := t.inb ++ List.replicate (p.block n - t.inb.length) (List.replicate n 0)
      s.setStrm { t with inb := [], outb := (t.staged p sh.fmt n vs).take t.inb.length }
    else if tile.filled = 0 then s
    else
      let at_ := tile.tail % sh.rows * (8 * sh.pitch)
      if tile.bad at_ (n * sh.bits) then s.strmFail t cMEMORY_ERROR 0 (Place.own t.race (tile.tail % sh.rows) 0).word
      else
        let v := elems (tile.bitsAt at_ (n * sh.bits)) sh.bits n
        (s.setTile t.race (some { tile with tail := (tile.tail + 1) % 2 ^ 32 })).setStrm { t with inb := t.inb ++ [v] }

/-- The writes of a stream or operation that their homes have not acknowledged (R217). -/
def State.unacked (s : State) (ord : Nat) : Bool := s.wts.any fun w => w.bank == s.cur && w.op == some ord

/-- The place of the item at which a stream stands: its first stretch. -/
def State.strmPlace (s : State) (t : Stream) (tile : Tile) : Word :=
  let p := patOf t.recd
  let w := p.width (efrOf t.efr)
  match s.strmSide p w with
  | .error _ => p.base
  | .ok sd => sd.place ((s.vecSpans p w (t.width tile) sd (if t.out then t.next else t.next + t.inb.length)).flatten.headD (0, 0)) 0

/-- A stream moved on by one step: its failure recorded, its SBIND or SUNB started (R213), its SUNB carried out, its token completed, or
an item's step. A SUNB that a consumed token cancels ends its stream at once, its slots undrained: sN is unbound all the same. DESIGN CHOICE
(log 94). -/
def State.strmStep (s : State) (t : Stream) (out : Bool) : State :=
  match s.tile t.race with
  | none => s
  | some tile =>
    let unbound := match t.untl with
      | some u => decide (u < s.bank.bundles)
      | none => false
    if t.out ≠ out ∨ t.failed ∨ t.waitd.isSome ∨ !depsReady t.deps then s
    else if t.err ≠ (0, 0) then s.strmFail t t.err.1 t.err.2 (s.strmPlace t tile)
    else
      let idle := t.inb == [] && t.outb == [] && !s.unacked t.ord
      let ends := unbound && depsReady t.udeps
      if ends ∧ depsFail t.udeps then s.strmEnd t depFailed
      else if ends ∧ !t.ubegun then (if s.engFree t.uengine then s.setStrm { t with ubegun := true } else s)
      else if t.fail.isSome then
        let v := match t.fail with
          | some (_, v) => v
          | none => 0
        if s.unacked t.ord then s
        else if !t.tokDone then s.strmTok t v
        else if ends then s.strmEnd t (if out then v else 0) else s
      else if depsFail t.deps then (s.strmTok t depFailed).upd fun b => { b with streams := b.streams.map fun u =>
        if u.ord = t.ord then { u with fail := some (0, depFailed) } else u }
      else if !t.begun ∧ (out ∨ !ends) then (if s.engFree t.engine then s.setStrm { t with begun := true } else s)
      else if ends ∧ (!out ∨ (tile.filled = 0 ∧ idle)) then s.strmEnd t 0
      else if out then
        (if t.next = t.total tile ∧ idle then s.strmTok t 0 else s.drainStep t tile)
      else if t.next = t.total tile then s
      else s.fillStep t tile

/-- The first of some streams whose step changes the state: a stream register may have a predecessor that still waits for its SUNB. -/
def State.strmFirst (s : State) (out : Bool) : List Stream → State
  | [] => s
  | t :: ts => if s.strmStep t out = s then s.strmFirst out ts else s.strmStep t out

/-- STREAM_FILL_ITEM (R232): the stream st of bank b. -/
def execStreamFillItem (b st : Nat) (s : State) : Out :=
  .next (s.onBank b fun s => s.strmFirst false (s.bank.streams.filter fun t => t.num == st && !t.out))

/-- STREAM_DRAIN_ITEM (R233): the stream st of bank b. -/
def execStreamDrainItem (b st : Nat) (s : State) : Out :=
  .next (s.onBank b fun s => s.strmFirst true (s.bank.streams.filter fun t => t.num == st && t.out))

end Sys2Proof.Machine
end

