-- ==== Sys2Proof/Machine/MillOps.lean ====
section
/-! DEFINITION. The Mill's array: domains, the cog micro-instruction, beats, flows, runs of a feed (R177 to R194). -/

namespace Sys2Proof.Machine

/-! ### Domains (R179, R180) -/

/-- The number of cogs on a side. -/
abbrev nCog : Nat := Config.millSide

/-- The operand tile format of a domain (R179). -/
def domFmt (d : Nat) : Nat :=
  [tBF16, tFP16, tE4M3, tE5M2, tFP32, tI8, tI16, tI32, tPLANE, tBFP][d]?.getD tI32

/-- A domain whose cog values are FP32 (R179). -/
def domFp (d : Nat) : Bool := d ≤ 4 || d == 9

/-- PLANE and BFP. -/
def domNarrow (d : Nat) : Bool := d == 8 || d == 9

/-- The operand width of a Mill: that of PLANE, BFP or the format. -/
def Mill.width (m : Mill) : Nat :=
  let e := efrOf m.efr
  if m.domain = 9 then e.bfpw else fmtWidth (domFmt m.domain) e

/-- A PLANE or BFP width that a domain allows (R179). -/
def domWidthOk (d : Nat) (efr : Word) : Bool :=
  let e := efrOf efr
  if d = 8 then [1, 2, 4, 8, 16].contains e.width else if d = 9 then [2, 4, 8].contains e.bfpw else true

/-- Steps of a beat (R179). -/
def Mill.g (m : Mill) : Nat :=
  if domNarrow m.domain then 16 / m.width else if m.domain = 2 ∨ m.domain = 3 ∨ m.domain = 5 then 2 else 1

/-- A value beyond FP32 has no stated conversion (R99, R180). -/
def fp32Of (v : FV) : Nat :=
  let (x, fl) := fpPack (fpFmt tFP32) .rne v
  if bitAt fl 2 then Config.bfpBeyond tFP32 % 2 ^ 32 else x

/-- An operand element as a cog value (R180). -/
def Mill.cogVal (m : Mill) (bits : Nat) : Nat :=
  let f := domFmt m.domain
  if domFp m.domain then fp32Of (fpDecode (fpFmt f) bits)
  else wrapBits (readInt (ikindOf f (efrOf m.efr)) (efrOf m.efr) bits) 32

/-- 128 elements that stand one after another, as cog values; a BFP row is 4 blocks (R99, R180). -/
def Mill.rowVals (m : Mill) (bits : Nat) : List Nat :=
  let w := m.width
  if m.domain = 9 then
    (List.range nCog).map fun i =>
      let blk := bits >>> (i / 32 * (8 * bfpBytes w))
      fp32Of (bfpValue w (blk % 256) ((blk >>> (8 + i % 32 * w)) % 2 ^ w) (efrOf m.efr))
  else (elems bits w nCog).map m.cogVal

/-- Bits of 128 elements of the domain. -/
def Mill.rowBits (m : Mill) : Nat := elemBits (domFmt m.domain) m.width nCog

/-! ### The cog micro-instruction (R181 to R187) -/

/-- A field of a cog word. -/
def wf (w : BitVec 32) (hi lo : Nat) : Nat := bitsOf w.toNat hi lo

/-- comb, acc, asrc, bsrc, dst, fwdE, fwdS, cond, last, imm8 (R181). -/
def wComb (w : BitVec 32) : Nat := wf w 31 27
/-- The accumulate. -/
def wAcc (w : BitVec 32) : Nat := wf w 26 23
/-- The first source. -/
def wA (w : BitVec 32) : Nat := wf w 22 20
/-- The second source. -/
def wB (w : BitVec 32) : Nat := wf w 19 17
/-- The destination: 0 l0, 1 l1. -/
def wDst (w : BitVec 32) : Nat := wf w 16 16
/-- The east forward. -/
def wE (w : BitVec 32) : Nat := wf w 15 14
/-- The south forward. -/
def wS (w : BitVec 32) : Nat := wf w 13 12
/-- The condition. -/
def wCond (w : BitVec 32) : Nat := wf w 11 9
/-- The last-word bit. -/
def wLast (w : BitVec 32) : Bool := w.getLsbD 8

/-- What a step of a cog reads beside its registers: the inputs, the step's number and whether LASTK names it, the cog's
row and column, whether sums descend (WS), the number that MINIDX records under WAVE. -/
structure Step where
  west  : Nat
  north : Nat
  diag  : Nat
  k     : Nat
  last  : Bool
  i     : Nat
  j     : Nat
  flow  : Nat
  deriving DecidableEq, Repr

/-- A cog's registers, the latest word's result, and the status it raised. -/
structure CogSt where
  l0  : Nat
  l1  : Nat
  res : Nat
  sat : Bool
  nan : Bool
  deriving DecidableEq, Repr

/-- l1 as it is read: in I16 its value field, sign-extended (R182). -/
def readL1 (dom l1 : Nat) : Nat := if dom = 6 then wrapBits (toSigned l1 16) 32 else l1

/-- A source of a cog word (R182). -/
def cogSrc (dom : Nat) (st : Step) (c : CogSt) (imm n : Nat) : Nat :=
  match n with
  | 0 => st.west
  | 1 => st.north
  | 2 => st.diag
  | 3 => c.l0
  | 4 => readL1 dom c.l1
  | 5 => if domFp dom then (fpPack (fpFmt tFP32) .rne (fpDecode (fpFmt tE4M3) imm)).1 else wrapBits (toSigned imm 8) 32
  | _ => 0

/-- An FP32 value. -/
abbrev fv32 (x : Nat) : FV := fpDecode (fpFmt tFP32) x

/-- A value rounded once to FP32. -/
def pack32 (v : FV) : Nat := (fpPack (fpFmt tFP32) .rne v).1

/-- The +∞ code of an integer domain for ADDINF (R105). -/
def domInf (dom : Nat) : Int := if dom = 6 then 0x7FFF else 0x7FFFFFFF

/-- The combine of an FP32-valued domain as a value that is not rounded yet (R183). -/
def combFp (c : Nat) (a b : FV) : FV :=
  match c with
  | 0 => (fvMul a b).1
  | 1 => (fvAdd .rne a b).1
  | 2 => (fvAdd .rne a (fvNeg b)).1
  | 3 => fvMinMax false a b
  | 4 => fvMinMax true a b
  | 8 => match (fvAdd .rne a (fvNeg b)).1 with
    | .nan => .nan
    | .inf _ => .inf false
    | .fin _ m e => .fin false m e
  | 9 => if fvEq a b then .fin false 1 0 else .fin false 0 0
  | 10 => a
  | 11 => b
  | _ => if a = .inf false ∨ b = .inf false then .inf false else (fvAdd .rne a b).1

/-- The combine of an I32-valued domain with its saturation (R183, R105). DESIGN CHOICE (log 95): a sum of ADDINF that is clamped to the
domain's range does not count as a saturation, of which R105 and R183 say nothing. -/
def combInt (dom c a b : Nat) : Nat × Bool :=
  let x := toSigned a 32
  let y := toSigned b 32
  let sat (z : Int) : Nat × Bool := let (z, k) := satI z ⟨32, true, false⟩; (wrapBits z 32, k)
  match c with
  | 0 => (wrapBits (x * y) 32, false)
  | 1 => (wrapBits (x + y) 32, false)
  | 2 => (wrapBits (x - y) 32, false)
  | 3 => (wrapBits (min x y) 32, false)
  | 4 => (wrapBits (max x y) 32, false)
  | 5 => (a &&& b, false)
  | 6 => (a ||| b, false)
  | 7 => (a ^^^ b, false)
  | 8 => (wrapBits ((x - y).natAbs : Nat) 32, false)
  | 9 => (if a = b then 1 else 0, false)
  | 10 => (a, false)
  | 11 => (b, false)
  | 12 => sat (x + y)
  | 13 => sat (x - y)
  | _ =>
    if x = domInf dom ∨ y = domInf dom then (wrapBits (domInf dom) 32, false)
    else
      let (z, _) := satI (x + y) ⟨if dom = 6 then 16 else 32, true, false⟩
      (wrapBits z 32, false)

/-- The accumulate of an FP32-valued domain on an unrounded combine (R184); true when the index is to be replaced. -/
def accFp (acc comb base : Nat) (t : FV) : Nat × Bool :=
  let tr := pack32 t
  let b := fv32 base
  match acc with
  | 0 => (pack32 (fvAdd .rne (if comb = 0 then t else fv32 tr) b).1, false)
  | 1 => (pack32 (fvMinMax false b (fv32 tr)), false)
  | 2 => (pack32 (fvMinMax true b (fv32 tr)), false)
  | 6 => (pack32 (fvMinMax false b (fv32 tr)), !fvNan (fv32 tr) && (fvNan b || fvBelow (fv32 tr) b))
  | 7 => (pack32 (fvMinMax true b (fv32 tr)), !fvNan (fv32 tr) && (fvNan b || fvBelow b (fv32 tr)))
  | 8 => (tr, false)
  | _ => (base, false)

/-- The accumulate of an I32-valued domain: result, index to be replaced, saturation (R184). -/
def accInt (acc base : Nat) (t : Nat) : Nat × Bool × Bool :=
  let x := toSigned base 32
  let y := toSigned t 32
  match acc with
  | 0 => (wrapBits (x + y) 32, false, false)
  | 1 => (wrapBits (min x y) 32, false, false)
  | 2 => (wrapBits (max x y) 32, false, false)
  | 3 => (base ||| t, false, false)
  | 4 => (base &&& t, false, false)
  | 5 => let (z, k) := satI (x + y) ⟨32, true, false⟩; (wrapBits z 32, false, k)
  | 6 => (wrapBits (min x y) 32, decide (y < x), false)
  | 7 => (wrapBits (max x y) 32, decide (x < y), false)
  | 8 => (t, false, false)
  | _ => (base, false, false)

/-- The condition of a word (R185). -/
def condHolds (c : Nat) (st : Step) : Bool :=
  match c with
  | 0 => true
  | 1 => st.k == 0
  | 2 => st.last
  | 3 => st.i == st.j
  | 4 => decide (st.i < st.j)
  | 5 => decide (st.j < st.i)
  | 6 => st.k % 2 == 0
  | _ => false

/-- l1 written (R182). -/
def putL1 (dom l1 v : Nat) : Nat := if dom = 6 then l1 / 2 ^ 16 * 2 ^ 16 + v % 2 ^ 16 else v

/-- The index field of l1 written (R182, R184). -/
def putIdx (dom l1 k : Nat) : Nat := if dom = 6 then l1 % 2 ^ 16 + k % 2 ^ 16 * 2 ^ 16 else k % 2 ^ 32

/-- The base of a word: under WS the NORTH input, else the destination (R182). -/
def wordBase (dom : Nat) (st : Step) (c : CogSt) (w : BitVec 32) : Nat :=
  if st.flow = 1 then st.north else if wDst w = 0 then c.l0 else readL1 dom c.l1

/-- One word executed; n is its number (R182 to R185). Every NaN that the cog sees is recorded (R106, log 42). -/
def cogWord (dom : Nat) (st : Step) (n : Nat) (w : BitVec 32) (c : CogSt) : CogSt :=
  let imm := wf w 7 0
  let a := cogSrc dom st c imm (wA w)
  let b := cogSrc dom st c imm (wB w)
  let base := wordBase dom st c w
  let fp := domFp dom
  let t := combFp (wComb w) (fv32 a) (fv32 b)
  let (ti, s1) := combInt dom (wComb w) a b
  let acts := condHolds (wCond w) st
  let met := fp && (fvNan (fv32 a) || fvNan (fv32 b) || fvNan t ||
    (acts && wAcc w != 8 && wAcc w != 9 && fvNan (fv32 base)))
  let (res, better, s2) := if fp then ((accFp (wAcc w) (wComb w) base t).1, (accFp (wAcc w) (wComb w) base t).2, false)
    else accInt (wAcc w) base ti
  let c := { c with nan := c.nan || met, sat := c.sat || (!fp && s1) }
  if !acts then { c with res := base }
  else
    let c := { c with res := res, sat := c.sat || s2, nan := c.nan || (fp && wAcc w != 9 && fvNan (fv32 res)) }
    let c := if wAcc w = 9 then c
      else if wDst w = 0 then { c with l0 := res }
      else { c with l1 := putL1 dom c.l1 res }
    if better then { c with l1 := putIdx dom c.l1 (if st.flow = 2 then n else st.k) } else c

/-- The words of a program executed in order. -/
def cogProg (dom : Nat) (st : Step) : Nat → List (BitVec 32) → CogSt → CogSt
  | _, [], c => c
  | n, w :: ws, c => cogProg dom st (n + 1) ws (cogWord dom st n w c)

/-- The combines of a PLANE or BFP beat folded exactly and accumulated as one step (R101, R180). -/
def cogFold (dom : Nat) (st : Step) (ab : List (Nat × Nat)) (w : BitVec 32) (c : CogSt) : CogSt :=
  let base := wordBase dom st c w
  if domFp dom then
    let ts := ab.map fun x => (fvMul (fv32 x.1) (fv32 x.2)).1
    let sum := ts.tail.foldl (fun a t => (fvAdd .rne a t).1) (ts.headD (.fin false 0 0))
    let met := ab.any (fun x => fvNan (fv32 x.1) || fvNan (fv32 x.2)) || ts.any fvNan || fvNan (fv32 base)
    let v := pack32 (fvAdd .rne sum (fv32 base)).1
    { c with l0 := v, res := v, nan := c.nan || met || fvNan (fv32 v) }
  else
    let ts := ab.map fun x => (combInt dom (wComb w) x.1 x.2).1
    let one : Int := match wAcc w with
      | 3 => ((ts.foldl (· ||| ·) 0 : Nat) : Int)
      | 4 => ((ts.foldl (· &&& ·) (2 ^ 32 - 1) : Nat) : Int)
      | _ => (ab.map fun x => if wComb w = 0 then toSigned x.1 32 * toSigned x.2 32 else toSigned (x.1 &&& x.2) 32).foldl
          (· + ·) 0
    let (v, sat) : Nat × Bool := match wAcc w with
      | 3 => (base ||| one.toNat, false)
      | 4 => (base &&& one.toNat, false)
      | 5 => let (z, k) := satI (toSigned base 32 + one) ⟨32, true, false⟩; (wrapBits z 32, k)
      | _ => (wrapBits (toSigned base 32 + one) 32, false)
    { c with l0 := v, res := v, sat := c.sat || sat }

/-- The steps of one beat of a cog: the state after each; PLANE and BFP take the beat as one step. -/
def cogBeat (dom : Nat) (prog : List (BitVec 32)) (sts : List Step) (c : CogSt) : List CogSt :=
  if domNarrow dom then
    match sts, prog with
    | st :: _, w :: _ => [cogFold dom st (sts.map fun s => (s.west, s.north)) w c]
    | _, _ => []
  else (sts.foldl (fun (r : List CogSt × CogSt) st =>
    let c := cogProg dom st 0 prog r.2
    (r.1 ++ [c], c)) ([], c)).1

/-! ### Checks of a program (R183, R184, R187) -/

/-- A combine that a domain accepts (R183). -/
def combOk (dom : Nat) (plane1 : Bool) (c : Nat) : Bool :=
  if c = 0 then true
  else if domNarrow dom then c == 5 && dom == 8 && plane1
  else if 5 ≤ c ∧ c ≤ 7 then dom == 5 || dom == 6 || dom == 7
  else if c = 12 ∨ c = 13 then dom == 5 || dom == 6 || dom == 7
  else if c = 14 then dom == 4 || dom == 6 || dom == 7
  else true

/-- An accumulate that a domain accepts (R184). -/
def accOk (dom a : Nat) : Bool :=
  if a = 0 then true
  else if a = 3 ∨ a = 4 ∨ a = 5 then 5 ≤ dom && dom ≤ 8
  else !domNarrow dom

/-- The words of a program: up to and with the first whose last bit is set; none without one (R187). -/
def progWords (ws : List (BitVec 32)) : Option (List (BitVec 32)) :=
  match ws.findIdx? wLast with
  | some n => some (ws.take (n + 1))
  | none => none

/-- A word names l1 as a source, destination or forward. -/
def namesL1 (w : BitVec 32) : Bool := wA w == 4 || wB w == 4 || wDst w == 1 || wE w == 3 || wS w == 3

/-- The detail with which a program is refused (R187); the lowest that applies. -/
def progFault (dom : Nat) (plane1 pair : Bool) (p : List (BitVec 32)) : Option Nat :=
  let long := if pair then 4 < p.length else 8 < p.length
  let at_ (f : Nat → BitVec 32 → Bool) : Bool := ((List.range p.length).zip p).any fun x => f x.1 x.2
  if p.any fun w => 15 ≤ wComb w || 10 ≤ wAcc w || wA w == 7 || wB w == 7 then some 1
  else if long then some 2
  else if p.any fun w => !combOk dom plane1 (wComb w) || !accOk dom (wAcc w) then some 3
  else if at_ fun n w => ((wAcc w == 6 || wAcc w == 7) && wDst w == 1) ||
      (n + 1 != p.length && (wE w != 0 || wS w != 0)) then some 4
  else if domNarrow dom && (p.length != 1 || p.any fun w =>
      wA w != 0 || wB w != 1 || wDst w != 0 || wE w != 0 || wS w != 0 || wCond w != 0) then some 5
  else if pair && p.any namesL1 then some 6
  else none

/-- A word that a flow forbids (R182, R207). -/
def flowForbids (flow : Nat) (w : BitVec 32) : Bool :=
  let diag := wA w == 2 || wB w == 2
  if flow = 0 then diag else if flow = 1 then diag || wAcc w == 6 || wAcc w == 7 || wDst w == 1 else false

/-! ### The array (R177, R178, R190 to R193) -/

/-- A cog with every entry zero and no program. -/
abbrev Cog.zero : Cog := ⟨[], 0, 0, none, none, none⟩

/-- Cog (i, j). -/
def Mill.cog (m : Mill) (i j : Nat) : Cog := ((m.cogs[i]?.getD [])[j]?).getD Cog.zero

/-- Every cog changed. -/
def Mill.mapCogs (m : Mill) (f : Nat → Nat → Cog → Cog) : Mill :=
  { m with cogs := (List.range nCog).map fun i => (List.range nCog).map fun j => f i j (m.cog i j) }

/-- South-buffer entry (r, j). -/
def Mill.southAt (m : Mill) (r j : Nat) : Nat := ((m.south[r]?.getD [])[j]?).getD 0

/-- The south buffer changed. -/
def Mill.mapSouth (m : Mill) (f : Nat → Nat → Nat → Nat) : Mill :=
  { m with south := (List.range nCog).map fun i => (List.range nCog).map fun j => f i j (m.southAt i j) }

/-- Inputs of cog (i, j): the neighbours' outputs or the edges (R177). -/
def Mill.inputs (m : Mill) (we no : Nat → Option Hop) (i j : Nat) : Option Hop × Option Hop :=
  (if j = 0 then we i else (m.cog i (j - 1)).east, if i = 0 then no j else (m.cog (i - 1) j).south)

/-- One beat of the array: every cog from its inputs. -/
def Mill.beat (m : Mill) (we no : Nat → Option Hop) (f : Nat → Nat → Cog → Option Hop → Option Hop → Cog × CogSt) : Mill :=
  let g := (List.range nCog).map fun i => (List.range nCog).map fun j =>
    let x := m.inputs we no i j
    f i j (m.cog i j) x.1 x.2
  { m with cogs := g.map (·.map (·.1)), sat := m.sat || g.any (·.any (·.2.sat)), nan := m.nan || g.any (·.any (·.2.nan)) }

/-- A cog state for its registers. -/
def Cog.st (c : Cog) : CogSt := ⟨c.l0, c.l1, 0, false, false⟩

/-- What a forward field sends on of the states after the steps of a beat: the latest word's result step by step, or a register as the end
of the beat leaves it, l1 as it is read (R182, R186). -/
def forwardHop (dom f : Nat) (pass : Hop) (cs : List CogSt) (o : CogSt) : Hop :=
  match f with
  | 0 => pass
  | 1 => { pass with vals := cs.map (·.res) }
  | 2 => { pass with vals := cs.map fun _ => o.l0 }
  | _ => { pass with vals := cs.map fun _ => readL1 dom o.l1 }

/-- A cog's beat under OS or WS (R190, R192): it executes when both inputs carry steps; else it passes them on.
Status that an earlier command of the stream has reported is not raised again (R209). -/
def Mill.meet (m : Mill) (beats : List Beat) (i j : Nat) (c : Cog) (w n : Option Hop) : Cog × CogSt :=
  match w, n with
  | some a, some b =>
    match beats[a.beat]? with
    | none => ({ c with east := w, south := n }, c.st)
    | some bt =>
      let sts := ((List.range a.vals.length).zip (a.vals.zip b.vals)).map fun x =>
        ({ west := x.2.1, north := x.2.2, diag := 0, k := bt.k0 + x.1, last := bt.last == some (bt.k0 + x.1), i := i, j := j,
           flow := m.flow } : Step)
      let cs := cogBeat m.domain c.prog sts c.st
      let st := cs.getLastD c.st
      let lw := c.prog.getLastD 0
      ({ c with l0 := st.l0, l1 := st.l1, east := some (forwardHop m.domain (wE lw) a cs st),
                south := some (forwardHop m.domain (wS lw) b cs st) },
        if a.beat < m.told ∧ b.beat < m.told then { st with sat := false, nan := false } else st)
  | _, _ => ({ c with east := w, south := n }, c.st)

/-- The operands of a beat list that stand at an edge: element e of beat t − lag, if that is a beat of the list. -/
def edgeHop (beats : List Beat) (side : Beat → List (List Nat)) (t lag e : Nat) : Option Hop :=
  if t < lag then none
  else match beats[t - lag]? with
    | some b => some ⟨t - lag, (side b).map fun r => r[e]?.getD 0⟩
    | none => none

/-- Hops in flight dropped. -/
def Mill.still (m : Mill) : Mill := m.mapCogs fun _ _ c => { c with east := none, south := none, win := none }

/-- The stream of an OS run carried to its end (R190): operands that meet no other leave at the edges. -/
def Mill.flush (m : Mill) : Mill :=
  let n := m.beats.length + 127 + max (127 * m.sA) (127 * m.sB + m.skd)
  let run := (List.range n).foldl (fun (x : Mill) t =>
    x.beat (fun i => edgeHop m.beats (·.a) t (m.sA * i) i) (fun j => edgeHop m.beats (·.b) t (m.sB * j + m.skd) j)
      (fun i j c w n => x.meet m.beats i j c w n)) m.still
  { run.still with beats := [], told := 0 }

/-- The south buffer after the row 127 outputs of stream beat t of a WS feed (R192). -/
def Mill.collect (m : Mill) (t : Nat) (beats : List Beat) : Mill :=
  m.mapSouth fun r j old =>
    match (m.cog 127 j).south with
    | some h =>
      if h.beat + j + 127 = t then
        match beats[h.beat]? with
        | some b => if b.k0 ≤ r ∧ r < b.k0 + h.vals.length then h.vals[r - b.k0]?.getD old else old
        | none => old
      else old
    | none => old

/-- A feed under WS (R192). base is the run's step number of the feed's first row. -/
def Mill.wsFeed (m : Mill) (base : Nat) (beats : List Beat) : Mill :=
  let rows := beats.map fun b => { b with k0 := b.k0 - base }
  let north (x : Mill) (b : Beat) : List (List Nat) := (List.range b.a.length).map fun s => x.south[b.k0 + s]?.getD []
  let n := beats.length + 254
  ((List.range n).foldl (fun (x : Mill) t =>
    (x.beat (fun i => edgeHop rows (·.a) t i i) (fun j => edgeHop rows (north m) t j j)
      (fun i j c w n => x.meet beats i j c w n)).collect t rows) m.still).still

/-- The DIAG input of a cog under WAVE (R193). -/
def Mill.diag (m : Mill) (a b : List Nat) (i j : Nat) : Nat :=
  if i = 0 ∧ j = 0 then 0
  else if i = 0 then b[j - 1]?.getD 0
  else if j = 0 then a[i - 1]?.getD 0
  else match (m.cog (i - 1) j).win with
    | some h => h.vals.headD 0
    | none => 0

/-- One beat of a feed under WAVE (R193): step k, every cog executes. -/
def Mill.waveBeat (m : Mill) (k : Nat) (last : Bool) (a b : List Nat) : Mill :=
  m.beat (fun i => some ⟨0, [a[i]?.getD 0]⟩) (fun j => some ⟨0, [b[j]?.getD 0]⟩) fun i j c w n =>
    let wv := w.getD ⟨0, [0]⟩
    let nv := n.getD ⟨0, [0]⟩
    let st : Step := { west := wv.vals.headD 0, north := nv.vals.headD 0, diag := m.diag a b i j, k := k, last := last, i := i,
                       j := j, flow := 2 }
    let cs := cogBeat m.domain c.prog [st] c.st
    let o := cs.getLastD c.st
    let lw := c.prog.getLastD 0
    ({ c with l0 := o.l0, l1 := o.l1, east := some (forwardHop m.domain (wE lw) wv cs o),
              south := some (forwardHop m.domain (wS lw) nv cs o), win := w }, o)

/-- The rows of a feed cut into beats of g steps (R178, R180). -/
def beatsOf (g k0 total : Nat) (a b : List (List Nat)) : List Beat :=
  (List.range ((a.length + g - 1) / g)).map fun n =>
    { k0 := k0 + n * g, last := if total ≤ (n + 1) * g then some (k0 + total - 1) else none,
      a := (a.drop (n * g)).take g, b := (b.drop (n * g)).take g }

/-- The gathered rows of a feed of K steps from step k0 take effect, but for the first fed of them, which have (R190 to R193, R207): under
OS their beats join the stream, under WAVE the single row is all. -/
def Mill.feed (m : Mill) (k0 fed k : Nat) (a b : List (List Nat)) : Mill :=
  if m.flow = 0 then { m with beats := m.beats ++ beatsOf m.g (k0 + fed) (k - fed) (a.drop fed) (b.drop fed) }
  else if m.flow = 1 then m.wsFeed k0 (beatsOf m.g (k0 + fed) (k - fed) (a.drop fed) (a.drop fed))
  else if a.isEmpty then m
  else (List.range k).foldl (fun x n => x.waveBeat (k0 + n) (n + 1 == k) (a.headD []) (b.headD [])) m

/-- The status of the operands that have entered an OS stream is known (R209), while the stream stands. -/
def Mill.reported (m : Mill) : Mill :=
  if m.flow ≠ 0 then m
  else
    let f := m.flush
    { m with sat := f.sat, nan := f.nan, told := m.beats.length }

/-! ### Clearing, loading, draining (R203, R205, R206, R208) -/

/-- The identity of MCLR in a domain (R205). -/
def identity (dom id : Nat) (xa : Word) : Nat :=
  if id = 4 then xa.toNat % 2 ^ 32
  else if id = 3 then 2 ^ 32 - 1
  else if id = 0 then 0
  else if domFp dom then (if id = 1 then 0x7F800000 else 0xFF800000)
  else
    let w := if dom = 5 then 8 else if dom = 6 then 16 else 32
    wrapBits (if id = 1 then (2 : Int) ^ (w - 1) - 1 else -(2 : Int) ^ (w - 1)) 32

/-- MCLR on the array: the identity in every l0, under WS in the south buffer, under WAVE on every output (R193, R205). -/
def Mill.clear (m : Mill) (v : Nat) (idx : Bool) : Mill :=
  let h : Option Hop := if m.flow = 2 then some ⟨0, [v]⟩ else none
  let m := m.mapCogs fun _ _ c =>
    { c with l0 := v, l1 := if idx then putIdx m.domain c.l1 0 else c.l1, east := h, south := h, win := h }
  let m := if m.flow = 1 then m.mapSouth fun _ _ _ => v else m
  { m with open_ := true, k := 0, beats := [], told := 0 }

/-- Row i of MPRE into l1 or l0 (R206). -/
def Mill.preRow (m : Mill) (row : Nat) (l0 : Bool) (vals : List Nat) : Mill :=
  m.mapCogs fun i j c =>
    if i ≠ row then c
    else
      let v := vals[j]?.getD 0
      if l0 then { c with l0 := v } else { c with l1 := if m.domain = 6 then v % 2 ^ 16 else v }

/-- What MDRAIN copies into the drain buffer (R208). -/
def Mill.captured (m : Mill) (src : Nat) : List (List Nat) :=
  (List.range nCog).map fun i => (List.range nCog).map fun j =>
    if m.flow = 1 then m.southAt i j
    else
      let c := m.cog i j
      if src = 0 then c.l0
      else if src = 1 then readL1 m.domain c.l1
      else if m.domain = 6 then c.l1 / 2 ^ 16 else c.l1

/-- The state of a Mill at a grant (R195, R204): registers and south buffer zero, the program unloaded. -/
def Mill.fresh (m : Mill) : Mill :=
  { Mill.reset with usable := m.usable, holder := m.holder, fifo := m.fifo, pair := m.pair, window := m.window, half := m.half,
                    mark := m.mark }

end Sys2Proof.Machine
end

