-- ==== Sys2Proof/Machine/Mill.lean ====
section
/-! DEFINITION. The thirteen M-slot instructions: their issue, and the start of a command with its checks and its effect on
lease, run and array (R194 to R211). -/

namespace Sys2Proof.Machine

/-! ### Issue (R199) -/

/-- The fields of an M-slot operation. -/
def mopOf : Instr → Option MOp
  | .mlease o | .mrel o | .mmode o | .mloadp o | .mflow o | .mskew o | .mclr o | .mpre o | .mfeed o | .mfeedr o
  | .mdrain o | .mstat o | .mresume o => some o
  | _ => none

/-- The mod field of a command. -/
def MillCmd.mod (c : MillCmd) : Nat := match mopOf c.instr with
  | some o => o.mod.toNat
  | none => 0

/-- A captured operand: 0 xa, 1 xb, 2 xc. -/
def MillCmd.cap (c : MillCmd) (n : Nat) : Word := mget 0 c.caps n

/-- An MLOADP of the ALL set that has not started. -/
def MillCmd.setsDomain (c : MillCmd) : Bool := match c.instr with
  | .mloadp _ => !c.started && (c.cap 1).toNat % 4 == 0
  | _ => false

/-- The Mill with the domain that an operation issued now will meet, as far as it is known at its issue: that of the bank's last queued
MLOADP of the ALL set, else the Mill's. -/
def State.domainAhead (s : State) : Mill :=
  let m := (s.mg (mgOf s.cur)).mill
  match (s.bank.cmds.filter MillCmd.setsDomain).getLast? with
  | some c => { m with domain := c.mod % 16, efr := c.efr }
  | none => m

/-- A stepped place of an M-slot operation (R54, R55); one that must be a tile is judged when it is one. -/
def State.millStep (s : State) (x : Word) (tileOnly : Bool) : M Unit :=
  let m := s.domainAhead
  match placeOf x, tileOnly with
  | some (.own _ _ _), _ | _, false => s.stepOk (domFmt m.domain) m.width (s.adv 3) x
  | _, _ => .ok ()

/-- The issue of an M-slot operation: a kernel with a Mill, the limits of the entry, a free queue entry, the operands, the
stepped places, and the command in the queue (R22, R55, R72, R199, R272). places lists the operands that are places, true those of
tiles. -/
def State.mIssue (s : State) (o : MOp) (i : Instr) (ok : Bool) (places : List (XReg × Bool)) : M State := do
  legal s.bank.id.mill
  legal ok
  await (s.bank.cmds.length < 8)
  let xa ← s.scap 3 o.xa
  let xb ← s.scap 3 o.xb
  let xc ← s.scap 3 o.xc
  let fresh := (s.cursor 3).fresh
  s.tokensGood [o.k1, o.k2, o.k3]
  await (!(fresh && s.bank.regs.pending o.kd))
  for r in places do
    let x ← s.scap 3 r.1
    s.millStep x r.2
  let (n, t) := s.newOrd
  let c : MillCmd :=
    { ord := n, kd := o.kd.toNat, instr := i, caps := mputs 0 [] 0 [xa, xb, xc], adv := s.adv 3,
      deps := [o.k1, o.k2, o.k3].map s.depOf, efr := s.efrWord 3, bundle := s.bank.bundleAt, wid := s.bank.id.wid,
      started := false, waiting := false, captured := false, k0 := 0, base := (0, 0), aRows := [], bRows := [], full := false,
      tag := none, rows := [], dom := (0, 0), fed := 0, stat := 0, late := 0, value := none, fail := (0, 0), recorded := false }
  pure ((t.upd fun b => { b with cmds := b.cmds ++ [c] }).markTok o.kd n fresh)

/-- MLEASE (R201). -/
def execMlease (o : MOp) (s : State) : Out := run s (s.mIssue o (.mlease o) true [])
/-- MREL (R201). -/
def execMrel (o : MOp) (s : State) : Out := run s (s.mIssue o (.mrel o) true [])
/-- MMODE (R202): SYSTEM only (R48). -/
def execMmode (o : MOp) (s : State) : Out := run s (s.mIssue o (.mmode o) s.bank.id.sys [])
/-- MLOADP (R203): a domain of R179. -/
def execMloadp (o : MOp) (s : State) : Out := run s (s.mIssue o (.mloadp o) (o.mod.toNat % 16 < 10) [])
/-- MFLOW (R204). -/
def execMflow (o : MOp) (s : State) : Out := run s (s.mIssue o (.mflow o) (o.mod.toNat % 4 != 3) [])
/-- MSKEW (R204). -/
def execMskew (o : MOp) (s : State) : Out := run s (s.mIssue o (.mskew o) true [])
/-- MCLR (R205): an identity of its table. -/
def execMclr (o : MOp) (s : State) : Out := run s (s.mIssue o (.mclr o) (o.mod.toNat % 8 < 5) [])
/-- MPRE (R206). -/
def execMpre (o : MOp) (s : State) : Out := run s (s.mIssue o (.mpre o) true [(o.xa, true)])
/-- MFEED (R207). -/
def execMfeed (o : MOp) (s : State) : Out := run s (s.mIssue o (.mfeed o) true [(o.xa, true), (o.xb, true)])
/-- MFEEDR (R210). -/
def execMfeedr (o : MOp) (s : State) : Out := run s (s.mIssue o (.mfeedr o) true [(o.xa, bitAt o.mod.toNat 12), (o.xb, !bitAt o.mod.toNat 12)])
/-- MDRAIN (R208): a source of its table. -/
def execMdrain (o : MOp) (s : State) : Out := run s (s.mIssue o (.mdrain o) (o.mod.toNat / 2 ^ 12 % 4 != 3) [(o.xa, true)])
/-- MSTAT (R209). -/
def execMstat (o : MOp) (s : State) : Out := run s (s.mIssue o (.mstat o) true [])
/-- MRESUME (R211). -/
def execMresume (o : MOp) (s : State) : Out := run s (s.mIssue o (.mresume o) true [])

/-! ### Mills and commands -/

/-- The bank's core has the second half of a Mill in PAIR mode (R198). -/
def State.secondHalf (s : State) (b : Nat) : Bool := (s.mg (mgOf b)).mill.pair && coreOf b % 4 == 1

/-- The Mill as a bank sees it. -/
def State.millOf (s : State) (b : Nat) : Mill :=
  if s.secondHalf b then (s.mg (mgOf b)).mill2 else (s.mg (mgOf b)).mill

/-- The Mill as a bank sees it, changed. -/
def State.modMillOf (s : State) (b : Nat) (f : Mill → Mill) : State :=
  if s.secondHalf b then s.modMg (mgOf b) fun g => { g with mill2 := f g.mill2 } else s.modMill (mgOf b) f

/-- The bank's commands advance: outside PAIR mode always, in it only in its core's windows (R198). -/
def State.inWindow (s : State) (b : Nat) : Bool :=
  let m := (s.mg (mgOf b)).mill
  !m.pair || 2 ≤ coreOf b % 4 || m.half == (coreOf b % 4 == 1)

/-- A command changed. -/
def State.modCmd (s : State) (b ord : Nat) (f : MillCmd → MillCmd) : State :=
  s.modBank b fun x => { x with cmds := x.cmds.map fun c => if c.ord = ord then f c else c }

/-- A command that has started and is not done. -/
def MillCmd.inProgress (c : MillCmd) : Bool := c.started && !c.waiting

/-- Commands of a bank in progress. -/
def Bank.millBusy (b : Bank) : Bool := b.cmds.any MillCmd.inProgress

/-- A feed command. -/
def MillCmd.isFeed (c : MillCmd) : Bool := match c.instr with
  | .mfeed _ | .mfeedr _ => true
  | _ => false

/-- An MMODE. -/
def MillCmd.isMode (c : MillCmd) : Bool := match c.instr with
  | .mmode _ => true
  | _ => false

/-- The bank in focus stands on a core to which PAIR mode gives no half of the Mill (R198). -/
def State.millRefused (s : State) : Bool := (s.mg (mgOf s.cur)).mill.pair && 2 ≤ coreOf s.cur % 4

/-- An MREL that has not released its lease. -/
def MillCmd.releasing (c : MillCmd) : Bool := match c.instr with
  | .mrel _ => c.value.isNone
  | _ => false

/-- K of a feed (R207). -/
def MillCmd.steps (c : MillCmd) : Nat := c.mod % 2 ^ 12 + 1

/-- A command starts, its effect taken at once: the value that its token receives (R199). -/
def State.cmdValue (s : State) (c : MillCmd) (v : Word) : State :=
  s.modCmd s.cur c.ord fun c => { c with started := true, value := some v }

/-- A command starts, its effect still to come. -/
def State.cmdBegin (s : State) (c : MillCmd) (f : MillCmd → MillCmd) : State :=
  s.modCmd s.cur c.ord fun c => { f c with started := true }

/-! ### Leases (R195, R197) -/

/-- The lease granted to a bank: its saved Mill state restored, or everything cleared and the MLEASE's token 0. -/
def State.leaseGrant (s : State) (g b ord : Nat) : State :=
  match (s.getBank b).mheld with
  | some h =>
    (s.modMill g fun m => { h with usable := m.usable, holder := some b, fifo := m.fifo, idle := 0, mark := s.cycle, pair := m.pair,
                                   drain := h.drain.map fun d => ((b, d.1.2), d.2),
                                   window := m.window, half := m.half, bad := m.bad }).modBank b fun x => { x with mheld := none }
  | none =>
    (s.modMill g fun m => { m.fresh with holder := some b, mark := s.cycle }).modBank b fun x =>
      { x with lost := 0, susp := none, prog := 0, cmds := x.cmds.map fun c =>
          if c.ord = ord ∧ c.waiting then { c with value := some 0, waiting := false } else c }

/-- The head of the FIFO is granted a FREE lease; in PAIR mode there is none to grant (R198). -/
def State.grantHead (s : State) (g : Nat) : State :=
  let m := (s.mg g).mill
  match m.holder, m.fifo with
  | none, (b, _, ord) :: rest => if m.pair then s else (s.modMill g fun m => { m with fifo := rest }).leaseGrant g b ord
  | _, _ => s

/-- A request of a bank: a waiting MLEASE, or the re-request of a resumed holder. -/
def Bank.leaseWish (b : Bank) : Option (Nat × Nat) :=
  if b.mheld.isSome then some (0, 0)
  else match b.cmds.find? (·.waiting) with
    | some c => some (c.kd, c.ord)
    | none => none

/-- A waiting MLEASE of a bank met in PAIR mode: 0 for the cores of the two halves, else LEASE_FAULT detail 5 (R198). -/
def State.pairLease (s : State) (b ord : Nat) : State :=
  s.modBank b fun x => { x with cmds := x.cmds.map fun c =>
    if c.ord = ord ∧ c.waiting then { c with value := some (if coreOf b % 4 < 2 then 0 else failVal cLEASE_FAULT 5 0), waiting := false } else c }

/-- A bank that wishes the lease enters the FIFO, unless its sibling holds or awaits it or it stands there already. In PAIR mode a waiting
MLEASE completes at once (R198), and a resumed holder waits with its Mill state for the end of that mode. DESIGN CHOICE (log 97). -/
def State.leaseEnter (s : State) (g b : Nat) : State :=
  let m := (s.mg g).mill
  let near (k : Nat) : Bool := m.holder == some k || m.fifo.any (·.1 == k)
  match (s.getBank b).leaseWish with
  | some (kd, ord) =>
    if m.pair then s.pairLease b ord
    else if near b || near (otherBank b) then s else s.modMill g fun m => { m with fifo := m.fifo ++ [(b, kd, ord)] }
  | none => s

/-- The lease ends: the run is discarded, the holder's sibling enters the FIFO if it waits, and the head is granted. why is
the holder's lost record. -/
def State.leaseEnd (s : State) (g why : Nat) : State :=
  match (s.mg g).mill.holder with
  | none => s
  | some h =>
    let s := s.modMill g fun m => { m with holder := none, open_ := false, beats := [], told := 0, k := 0, drain := none, count := 0,
                                           idle := 0 }
    let s := s.modBank h fun x => { x with susp := none, prog := 0, lost := why }
    (s.leaseEnter g (otherBank h)).grantHead g

/-- A bank's request withdrawn (R195). -/
def State.leaseWithdraw (s : State) (g b : Nat) : State :=
  (s.modMill g fun m => { m with fifo := m.fifo.filter (·.1 != b) }).leaseEnter g (otherBank b)

/-! ### Checks at start (R199, R203 to R210) -/

/-- An own tile of an M-slot command after stepping: handle, tile, row and column. -/
def State.millTile (s : State) (lvl0 : Bool) (adv : Adv) (w : Word) : M (Nat × Tile × Nat × Nat) :=
  match placeOf w with
  | some (.own h r c) =>
    match s.tile h with
    | none => tileFault 4
    | some t => do
      legal (!lvl0 || (shapeRaw t.shape).level == 0)
      if t.lock.isSome then tileFault 7
      pure (h, t, (r + adv.row).toNat, (c + adv.off).toNat)
  | _ => illegal

/-- An operand tile has the format and width of the domain (R179). -/
def Mill.fmtOk (m : Mill) (t : Tile) : M Unit :=
  let sh := shapeRaw t.shape
  need (sh.fmt == domFmt m.domain && (!domNarrow m.domain || sh.width == m.width)) cFORMAT_MISMATCH 0

/-- Rows and columns inside a tile (R39). -/
def insideTile (t : Tile) (row col rows cols : Nat) : M Unit :=
  let sh := shapeRaw t.shape
  if row + rows ≤ sh.rows ∧ col + cols ≤ sh.cols then .ok () else tileFault 5

/-- An operand of a feed: its rows inside the tile. DESIGN CHOICE: a BFP column that is no multiple of 32 is ILLEGAL_OPERAND (log 78), and a
count beyond the slots of its race, a wait without an end, is TILE_FAULT 8 (log 79): R207 names neither. -/
def State.feedTile (s : State) (m : Mill) (adv : Adv) (w : Word) (rows cnt : Nat) (races : Bool) : M Unit := do
  let (_, t, row, col) ← s.millTile true adv w
  m.fmtOk t
  legal (m.domain != 9 || col % 32 == 0)
  let sh := shapeRaw t.shape
  legal (if sh.race then races else cnt == 0)
  if sh.race then
    insideTile t row col 1 nCog
    if sh.slots < cnt then tileFault 8
  else insideTile t row col rows nCog

/-- The words of a program (R203): from a row of an N32 tile or from an extent, as far as the last-bit word. -/
def State.progRead (s : State) (w : Word) : M (List (BitVec 32) × State) :=
  match placeOf w with
  | some (.own _ _ _) => do
    let (_, t, row, col) ← s.millTile false Adv.zero w
    need ((shapeRaw t.shape).fmt == tN32) cFORMAT_MISMATCH 0
    insideTile t row col 1 1
    let n := min 8 ((shapeRaw t.shape).cols - col)
    let at_ (i : Nat) : Nat := row * (8 * (shapeRaw t.shape).pitch) + 32 * (col + i)
    let ws := (List.range n).map fun i => BitVec.ofNat 32 (t.bitsAt (at_ i) 32)
    let used := match ws.findIdx? wLast with
      | some k => k + 1
      | none => n
    need (!(List.range used).any fun i => t.bad (at_ i) 32) cMEMORY_ERROR 0
    pure (ws, s)
  | some (.ext x off) => do
    legal (off % 4 == 0)
    (List.range 8).foldlM (fun (r : List (BitVec 32) × State) (i : Nat) =>
      if r.1.any wLast then .ok r
      else do
        r.2.extCheck x (off + 4 * i) 4 false
        let (bs, t) ← r.2.extBytes x ((List.range 4).map fun (k : Nat) => off + (4 * i + k))
        pure (r.1 ++ [BitVec.ofNat 32 (leNat (bs.map (·.2)))], t)) ([], s)
  | _ => illegal

/-- MLOADP at its start (R187, R203). DESIGN CHOICE (log 96): a row or column from 128 on is ILLEGAL_OPERAND. -/
def State.startLoadp (s : State) (c : MillCmd) : M State := do
  let m := s.millOf s.cur
  let dom := c.mod % 16
  let xb := (c.cap 1).toNat
  let kind := xb % 4
  let first := bitsOf xb 15 8
  let last := bitsOf xb 23 16
  legal (kind != 3 && bitsOf xb 7 2 == 0 && bitsOf xb 63 24 == 0 && first ≤ last && last < nCog)
  legal (domWidthOk dom c.efr)
  let same := m.domain == dom && (!domNarrow dom || { m with efr := c.efr }.width == m.width)
  if kind ≠ 0 ∧ !same then raise cILLEGAL_OPERAND 9
  let (ws, s) ← s.progRead (c.cap 0)
  match progWords ws with
  | none => raise cILLEGAL_OPERAND 2
  | some p =>
    match progFault dom ((efrOf c.efr).width == 1) (s.mg (mgOf s.cur)).mill.pair p with
    | some d => raise cILLEGAL_OPERAND d
    | none =>
      let hit (i j : Nat) : Bool := kind == 0 || (if kind == 1 then first ≤ i && i ≤ last else first ≤ j && j ≤ last)
      pure ((s.modMillOf s.cur fun m =>
        let m := m.mapCogs fun i j k => if hit i j then { k with prog := p } else k
        if kind = 0 then { m with domain := dom, efr := c.efr, loaded := true } else m).cmdValue c 0)

/-- The loaded programs hold a word that the flow in force forbids (R207). -/
def Mill.forbidden (m : Mill) : Bool := m.cogs.any (·.any fun c => c.prog.any (flowForbids m.flow))

/-- The rows that a feed reads of each operand. -/
def Mill.feedRows (m : Mill) (c : MillCmd) : Nat := if m.flow = 2 then 1 else c.steps

/-- MFEED at its start (R207). -/
def State.startFeed (s : State) (c : MillCmd) : M State := do
  let m := s.millOf s.cur
  let xc := (c.cap 2).toNat
  legal (bitsOf xc 63 32 == 0)
  legal (m.flow != 1 || (c.cap 1 == 0 && c.steps ≤ 128 && bitsOf xc 31 16 == 0))
  s.feedTile m c.adv (c.cap 0) (m.feedRows c) (xc % 2 ^ 16) true
  if m.flow ≠ 1 then s.feedTile m c.adv (c.cap 1) (m.feedRows c) (bitsOf xc 31 16) true
  if m.forbidden then raise cILLEGAL_OPERAND 10
  let s := s.modMillOf s.cur fun m => { m with k := m.k + c.steps }
  pure (s.cmdBegin c fun c => { c with k0 := m.k })

/-- The operand of an MFEEDR that the fetcher fetches, and the tile's. -/
def MillCmd.fetched (c : MillCmd) : Word × Word :=
  if bitAt c.mod 12 then (c.cap 1, c.cap 0) else (c.cap 0, c.cap 1)

/-- The bits of row r of a fetched operand (R54, R210): a step counts elements of an extent, bytes of a remote place. -/
def MillCmd.fetchBit (c : MillCmd) (m : Mill) (far : Bool) (off r : Nat) : Int :=
  8 * off + (if far then 8 * c.adv.off else stepBits (domFmt m.domain) m.width c.adv) + 8 * (r * (c.cap 2).toNat : Nat)

/-- A fetched operand is a remote place, or an extent place whose rows lie inside the extent, in BFP at a multiple of 32 elements
(R54, R210). -/
def State.fetchOk (s : State) (c : MillCmd) (m : Mill) (far : Word) : M Unit :=
  match placeOf far with
  | some (.ext x off) => do
    legal (m.domain != 9 || c.adv.off % 32 == 0)
    (List.range (m.feedRows c)).forM fun r =>
      let b := c.fetchBit m false off r
      s.extCheck x (b / 8) (((b % 8).toNat + m.rowBits + 7) / 8) false
  | some (.remote _ _ _) => .ok ()
  | _ => illegal

/-- MFEEDR at its start (R210). -/
def State.startFeedr (s : State) (c : MillCmd) : M State := do
  let m := s.millOf s.cur
  legal (bitsOf (c.cap 2).toNat 63 32 == 0)
  let (far, near) := c.fetched
  legal (m.flow != 1 || (!bitAt c.mod 12 && c.cap 1 == 0 && c.steps ≤ 128))
  s.fetchOk c m far
  if m.flow ≠ 1 then s.feedTile m c.adv near (m.feedRows c) 0 false
  if m.forbidden then raise cILLEGAL_OPERAND 10
  let s := s.modMillOf s.cur fun m => { m with k := m.k + c.steps }
  pure (s.cmdBegin c fun c => { c with k0 := m.k })

/-- MPRE at its start (R206). -/
def State.startPre (s : State) (c : MillCmd) : M State := do
  let m := s.millOf s.cur
  legal (!domNarrow m.domain)
  if (s.mg (mgOf s.cur)).mill.pair ∧ c.mod % 2 = 0 then raise cILLEGAL_OPERAND 6
  let (_, t, row, col) ← s.millTile true c.adv (c.cap 0)
  m.fmtOk t
  insideTile t row col nCog nCog
  pure (s.cmdBegin c id)

/-- Rows and columns of an MDRAIN (R208). -/
def MillCmd.size (c : MillCmd) : Nat × Nat :=
  let x := (c.cap 1).toNat
  (if x % 256 = 0 then 128 else x % 256, if bitsOf x 15 8 = 0 then 128 else bitsOf x 15 8)

/-- A target format that a drain converts to (R208). -/
def Mill.drainFmt (m : Mill) (src : Nat) (sh : Shape) : Bool :=
  if src = 2 then sh.fmt == tIDX
  else if domFp m.domain then isFp sh.fmt
  else (1 ≤ sh.fmt && sh.fmt ≤ 6) || (sh.fmt == tPACKED && sh.width == (efrOf m.efr).width)

/-- MDRAIN at its start (R194, R208): without OPEN the run closes. DESIGN CHOICE: a size of 129 to 255 is ILLEGAL_OPERAND (log 80). -/
def State.startDrain (s : State) (c : MillCmd) : M State := do
  let m := s.millOf s.cur
  let src := c.mod / 2 ^ 12
  if (s.mg (mgOf s.cur)).mill.pair ∧ src ≠ 0 then raise cILLEGAL_OPERAND 6
  legal ((c.cap 1).toNat / 2 ^ 16 == 0)
  let (rows, cols) := c.size
  legal (rows ≤ nCog && cols ≤ nCog)
  let (_, t, row, col) ← s.millTile false c.adv (c.cap 0)
  need (m.drainFmt src (shapeRaw t.shape)) cFORMAT_MISMATCH 0
  insideTile t row col rows cols
  let s := if bitAt c.mod 10 then s else s.modMillOf s.cur fun m => { m with open_ := false }
  pure (s.cmdBegin c id)

/-- MCLR at its start (R205): a run opens and a suspended command is discarded. -/
def State.startClr (s : State) (c : MillCmd) : State :=
  let m := s.millOf s.cur
  let s := s.modMillOf s.cur fun x => x.clear (identity m.domain (c.mod % 8) (c.cap 0)) (bitAt c.mod 3)
  (s.upd fun b => { b with susp := none, prog := 0 }).cmdValue c 0

/-- MRESUME at its start (R211): the suspended command stands in its place. -/
def State.startResume (s : State) (c : MillCmd) : M State :=
  match s.bank.susp with
  | none => raise cILLEGAL_OPERAND 11
  | some f =>
    let f := { f with ord := c.ord, kd := c.kd, bundle := c.bundle, wid := c.wid, deps := [], started := true, full := false,
                      fail := (0, 0), recorded := false, value := none, tag := none }
    .ok (s.upd fun b => { b with susp := none, prog := 0, cmds := b.cmds.map fun x => if x.ord = c.ord then f else x })

/-- MMODE at its start (R194, R202). DESIGN CHOICE: in NORMAL mode an open run is its holder's, so R194's detail 7 and the detail 8 of a lease
that is not FREE both apply; the model gives 8 (log 81). A drain buffer still to be written keeps its contents; requests for the lease are taken
after it. -/
def State.startMode (s : State) (c : MillCmd) : M State := do
  let g := mgOf s.cur
  let m := (s.mg g).mill
  need (!m.pair || (!m.open_ && !(s.mg g).mill2.open_)) cILLEGAL_OPERAND 7
  let others := (List.range 8).any fun i =>
    let b := 8 * g + i
    coreOf b % 4 < 2 && (s.getBank b).cmds.any fun x => !(b == s.cur && x.ord == c.ord)
  need (m.holder.isNone && m.fifo == [] && !(m.pair && c.mod % 2 == 0 && others)) cILLEGAL_OPERAND 8
  let x : Mill := { Mill.reset with usable := m.usable, pair := c.mod % 2 == 1, window := s.cycle, mark := s.cycle }
  let keep (y m : Mill) : Mill := { y with drain := m.drain, sat := m.sat, nan := m.nan }
  let s := (s.modMg g fun k => { k with mill := keep x k.mill, mill2 := keep { x with pair := false } k.mill2 }).cmdValue c 0
  pure (((List.range 8).foldl (fun s i => s.leaseEnter g (8 * g + i)) s).grantHead g)

/-- MLEASE at its start (R195): granted, refused, or waiting. -/
def State.startLease (s : State) (c : MillCmd) : M State := do
  let g := mgOf s.cur
  let m := (s.mg g).mill
  if m.pair then pure (s.cmdValue c 0)
  else do
    legal (m.holder != some s.cur && !m.fifo.any (·.1 == s.cur))
    let s := (s.upd fun b => { b with lost := 0 }).cmdBegin c fun c => { c with waiting := true }
    pure ((s.leaseEnter g s.cur).grantHead g)

/-! ### The start of a command -/

/-- A counted command (R195). -/
def counted : Instr → Bool
  | .mloadp _ | .mflow _ | .mskew _ | .mclr _ | .mpre _ | .mfeed _ | .mfeedr _ | .mdrain _ | .mresume _ => true
  | _ => false

/-- A command that runs with the program unloaded (R195). -/
def MillCmd.needsNoProgram (c : MillCmd) : Bool := match c.instr with
  | .mloadp _ => (c.cap 1).toNat % 4 == 0
  | .mflow _ | .mskew _ | .mstat _ | .mrel _ | .mlease _ | .mmode _ => true
  | _ => false

/-- The run state that a command wants (R194): open, closed, or either. -/
def runWanted : Instr → Option Bool
  | .mfeed _ | .mfeedr _ | .mresume _ | .mdrain _ => some true
  | .mloadp _ | .mflow _ | .mskew _ => some false
  | _ => none

/-- A command that starts while another of its bank is suspended (R211). -/
def runsSuspended : Instr → Bool
  | .mclr _ | .mstat _ | .mrel _ | .mresume _ => true
  | _ => false

/-- The effect of a command that has met the lease and the run state. -/
def State.startEffect (s : State) (c : MillCmd) : M State :=
  match c.instr with
  | .mloadp _ => s.startLoadp c
  | .mflow _ =>
    if (s.mg (mgOf s.cur)).mill.pair ∧ c.mod % 4 ≠ 0 then raise cILLEGAL_OPERAND 6
    else .ok ((s.modMillOf s.cur fun m => { m with flow := c.mod % 4 }).cmdValue c 0)
  | .mskew _ =>
    .ok ((s.modMillOf s.cur fun m =>
      { m with sA := c.mod % 4, sB := c.mod / 4 % 4, skd := c.mod / 16 % 256 }).cmdValue c 0)
  | .mclr _ => .ok (s.startClr c)
  | .mpre _ => s.startPre c
  | .mfeed _ => s.startFeed c
  | .mfeedr _ => s.startFeedr c
  | .mdrain _ => s.startDrain c
  | .mresume _ => s.startResume c
  | .mstat _ => .ok (s.cmdValue c 0)
  | .mrel _ =>
    if (s.mg (mgOf s.cur)).mill.pair then .ok (s.cmdValue c 0)
    else if (s.millOf s.cur).open_ then raise cLEASE_FAULT 4
    else .ok (s.cmdBegin c id)
  | _ => .ok s

/-- The lease row that a command meets (R195): a bank that does not hold, the 64-command bound, the count, an unloaded
program, and then the run state (R194) and the effect. -/
def State.startHeld (s : State) (c : MillCmd) : M State := do
  let m := s.millOf s.cur
  if !m.loaded ∧ !c.needsNoProgram then raise cLEASE_FAULT 2
  match runWanted c.instr with
  | some w => if w ≠ m.open_ then raise cILLEGAL_OPERAND 7
  | none => pure ()
  s.startEffect c

/-- A failure at start: the token receives it with done = 0 (R199), and the command has counted (R195). A stall is a page
not there yet. -/
def State.cmdTry (s : State) (c : MillCmd) (r : M State) : State :=
  match r with
  | .ok t => t
  | .error (.fault f) =>
    let s := if counted c.instr && !(s.mg (mgOf s.cur)).mill.pair then
        s.modMill (mgOf s.cur) fun m => { m with count := m.count + 1 } else s
    (s.metError f).cmdValue c (failVal f.cause f.detail 0)
  | .error .stall => s

/-- An M-slot command of a bank that may take the Mill (R195, R198). -/
def State.startLeased (s : State) (c : MillCmd) : State :=
  let g := mgOf s.cur
  let m := (s.mg g).mill
  if m.pair then s.cmdTry c (s.startHeld c)
  else if m.holder ≠ some s.cur then
    (s.upd fun b => { b with lost := 0 }).cmdValue c (failVal cLEASE_FAULT (if s.bank.lost = 0 then 1 else s.bank.lost) 0)
  else if counted c.instr then
    if m.count = 64 then
      (if s.bank.millBusy then s
       else if m.open_ then (s.cmdValue c (failVal cLEASE_FAULT 3 0)).leaseEnd g 0 else s)
    else
      s.cmdTry c ((s.modMill g fun m => { m with count := m.count + 1 }).startHeld c)
  else s.cmdTry c (s.startHeld c)

/-- The Mill is at work from here: the idle time so far is counted (R195). -/
def State.millWorks (s : State) : State :=
  if s.bank.millBusy then s
  else s.modMill (mgOf s.cur) fun m =>
    if m.holder = some s.cur then { m with idle := m.idle + (s.cycle - m.mark), mark := s.cycle } else m

/-- A command of a holder that is cancelled counts against the lease (R56). -/
def State.cmdCancel (s : State) (c : MillCmd) : State :=
  let m := (s.mg (mgOf s.cur)).mill
  let s := if counted c.instr ∧ m.pair = false ∧ m.holder = some s.cur ∧ m.count < 64 then
      s.modMill (mgOf s.cur) fun m => { m with count := m.count + 1 } else s
  s.cmdValue c depFailed

/-- A command starts (R195, R198, R199, R211). -/
def State.millStart (s : State) (c : MillCmd) : State :=
  let s := s.millWorks
  let m := (s.mg (mgOf s.cur)).mill
  if depsFail c.deps || (s.bank.susp.isSome && !runsSuspended c.instr) then s.cmdCancel c
  else if m.pair && 2 ≤ coreOf s.cur % 4 then s.cmdValue c (failVal cLEASE_FAULT 5 0)
  else match c.instr with
    | .mlease _ => s.cmdTry c (s.startLease c)
    | .mmode _ =>
      if s.bank.lost ≠ 0 ∧ m.holder ≠ some s.cur then
        (s.upd fun b => { b with lost := 0 }).cmdValue c (failVal cLEASE_FAULT s.bank.lost 0)
      else s.cmdTry c (s.startMode c)
    | _ => s.startLeased c

/-- An earlier command leaves the Mill as a later one finds it: its effect stands, its array is in the drain buffer, or it is
a feed that the later feed continues (R191, R199, R208). -/
def MillCmd.settled (c : MillCmd) (feed : Bool) : Bool :=
  c.value.isSome || c.captured || (feed && c.isFeed && c.full && c.fail == (0, 0))

/-- A command that needs no earlier effect: MREL and MSTAT complete after every earlier command (R201, R209). -/
def needsNoEarlier : Instr → Bool
  | .mrel _ | .mstat _ => true
  | _ => false

/-- The command that may start next: none before an MREL of the bank has released the lease (R195, R201). -/
def State.nextStart (s : State) : Option MillCmd :=
  match s.bank.cmds.find? (!·.started) with
  | none => none
  | some c =>
    let before := s.bank.cmds.takeWhile fun x => x.ord != c.ord
    if (s.bank.mheld.isNone || s.millRefused) && !before.any (fun x => x.waiting || x.releasing) && (s.inWindow s.cur || c.isMode) && depsReady c.deps &&
        (needsNoEarlier c.instr || before.all (·.settled c.isFeed)) then some c
    else none

end Sys2Proof.Machine
end

