-- ==== Sys2Proof/Machine/HostOps.lean ====
section
/-! DEFINITION. The host's posted writes and counter adds, held and performed in order (R259, R324, R341). -/

namespace Sys2Proof.Machine

/-- The windows of function n. -/
def State.fn (s : State) (n : Nat) : HostFn := mget HostFn.reset s.fns n

/-- The windows of function n changed. -/
def State.modFn (s : State) (n : Nat) (f : HostFn → HostFn) : State := { s with fns := mmod HostFn.reset s.fns n f }

/-- The context that a function's windows act in: none before boot stage 7 (R299, R430). -/
def State.fnBound (s : State) (n : Nat) : Option Nat := if s.boot.stage = 7 then (s.fn n).bound else none

/-- The expanded address of a byte of an export window (R378). -/
def Window.addr (w : Window) (off : Nat) : Option Nat :=
  frameAddr w.frames 0 ((w.base + BitVec.ofNat 64 off).toNat % 2 ^ 55)

/-- An item of an export window checked (R379, details 2 to 5); the addresses of its bytes. -/
def Window.check (w : Window) (off len : Nat) (write : Bool) : M (List Nat) := do
  need (w.len != 0) cREMOTE_FAULT 2
  need (off + len ≤ w.len) cREMOTE_FAULT 3
  need (if write then w.w else w.r) cREMOTE_FAULT 4
  match (List.range len).mapM fun i => w.addr (off + i) with
  | some as => .ok as
  | none => raise cREMOTE_FAULT 5

/-- The counter that an HCA.ID names in the bound context (R324); an unbound window is ILLEGAL_OPERAND 7, as for a launch. -/
def State.hostCtr (s : State) (n : Nat) (w : Word) (write : Bool) : M CtrId :=
  match s.fnBound n with
  | none => raise cILLEGAL_OPERAND 7
  | some c =>
    match placeOf w with
    | some (.ctr node gen i) =>
      if s.ownNode c node then .ok (.slot c (ctrKey (dieOfNode node) i) gen) else .ok (.remote node w)
    | some (.ext x off) => do
      if off % 8 ≠ 0 then raise cILLEGAL_OPERAND 1
      let as ← (mget Window.closed (s.ctx c).wins x).check off 8 write
      need (!s.stagingHalted c) cREMOTE_FAULT 6
      pure (.word c (as.headD 0))
    | _ => illegal

/-- The status of the host counter window (R324). -/
def State.hcaStat (s : State) (n cause detail : Nat) : State := s.modFn n fun f => { f with hcaSt := (cause, detail) }

/-- A host add leaves for its counter's home (R259, R324). -/
def State.hostAdd (s : State) (n : Nat) (w amt : Word) : State :=
  match s.hostCtr n w true with
  | .error (.fault f) => s.hcaStat n f.cause f.detail
  | .error .stall => s
  | .ok id =>
    let c := (s.fn n).bound.getD 0
    let a : CtrAdd := { id := id, amount := amt, src := .host n, place := w, bundle := 0, wid := 0, kid := 0, ctx := c }
    s.sendAdd sheepdog c a

/-- Posted writes and adds performed in order over the Sheepdog's die links, up to the first that cannot be (R259, R341, R372). -/
def State.hostGo (s : State) (n : Nat) : List (Nat × List Byte × Option Word) → List (Nat × List Byte × Option Word) × State
  | [] => ([], s)
  | (id, _, some amt) :: r => (s.hostAdd n (BitVec.ofNat 64 id) amt).hostGo n r
  | (a, bs, none) :: r =>
    match (s.rounds sheepdog (s.homesOf ((List.range bs.length).map (a + ·))) 0 1) >>= fun t => t.homeStore .bank (wholeBytes a bs) with
    | .ok t => t.hostGo n r
    | .error e => ((a, bs, none) :: r, s.modFn n fun f => { f with refused := match e with
        | .fault f => f.cause == cOUT_OF_SPACE
        | .stall => false })

/-- A read of HCA.VAL answered: the value for the host, or the cause in HCA.STAT; a value that a failed read returns is open. -/
def State.hcaAnswer (s : State) (fn cause detail : Nat) (v : Word) : State := s.hand (.host fn) ⟨cause, detail, v, [], false⟩

/-- A read of HCA.ID's counter (R324): none while the counter's home makes it wait. -/
def State.hcaRead (s : State) (fn : Nat) : Option State :=
  match s.hostCtr fn (s.fn fn).hcaId false with
  | .error (.fault f) => some (s.hcaAnswer fn f.cause f.detail 0)
  | .error .stall => none
  | .ok (.remote node place) => some (s.ask sheepdog ((s.fn fn).bound.getD 0) node 4 (.crd place) (.host fn))
  | .ok id => match s.round sheepdog (s.ctrDie id) 4 4 >>= fun t => t.ctrRead id with
    | .ok (v, t) => some (t.hcaAnswer fn 0 0 v)
    | .error (.fault f) => some ((s.metError f).hcaAnswer fn f.cause f.detail 0)
    | .error .stall => none

/-- A read of device memory by the host (R246, R259): none while a line under prepare-hold, a bank or a link makes it wait. -/
def State.memRead (s : State) (addr len : Nat) : Option State :=
  let as := (List.range len).map (addr + ·)
  match s.rounds sheepdog (s.homesOf as) 0 1 >>= fun t => t.homeRead as with
  | .ok (bs, t) => some (t.notify (.bytes bs))
  | .error (.fault f) => some ((s.metError f).notify (.refused f.cause f.detail))
  | .error .stall => none

/-- A read of function n is answered, or waits. -/
def State.hostRead (s : State) (n : Nat) (r : Option (Nat × Nat)) : State :=
  (match r with
    | some (addr, len) => s.memRead addr len
    | none => s.hcaRead n).getD (s.modFn n fun f => { f with reads := f.reads ++ [r] })

/-- The waiting reads of function n tried again, in the order in which they arrived. -/
def State.hostReads (s : State) (n : Nat) : State :=
  (s.fn n).reads.foldl (fun s r => s.hostRead n r) (s.modFn n fun f => { f with reads := [] })

/-- The posted writes of function n taken up. -/
def State.hostDrain (s : State) (n : Nat) : State :=
  let (r, t) := s.hostGo n (s.fn n).posted
  t.modFn n fun f => { f with posted := r }

/-- The head of a function's posted writes waits for a published line, a migrated page, a bank or a link, and not for sectors. -/
def State.hostBlocked (s : State) (n : Nat) : Bool := (s.fn n).posted != [] && !(s.fn n).refused

/-- CMP.EVT.SPACE has been set on some die, one already standing included, since held writes were last requested again. -/
def State.spaceSet (s : State) : Bool := [0, 1, 2, 3].any fun d => (s.die d).cmp.spaced

/-- The settings of CMP.EVT.SPACE taken note of. -/
def State.spaceSeen (s : State) : State :=
  if s.spaceSet then [0, 1, 2, 3].foldl (fun s d => s.modDie d fun x => { x with cmp := { x.cmp with spaced := false } }) s else s

/-- After a step to t: held host writes are requested again when SPACE has been set (R341), and go on when what holds them is
released (R259), and so do reads that wait. -/
def State.settleHost (t : State) : State :=
  (List.range 17).foldl (fun u n =>
    let u := if (u.fn n).posted = [] then u else if t.spaceSet || u.hostBlocked n then u.hostDrain n else u
    if (u.fn n).reads = [] then u else u.hostReads n) t.spaceSeen

/-- A posted write or add of function n arrives: behind one that is held it waits, else it performs or is held (R259, R341). -/
def State.hostPost (s : State) (n : Nat) (p : Nat × List Byte × Option Word) : State :=
  let t := s.modFn n fun f => { f with posted := f.posted ++ [p] }
  if (s.fn n).posted = [] then t.hostDrain n else t

end Sys2Proof.Machine
end

