-- ==== Sys2Proof/Machine/KernelOps.lean ====
section
/-! DEFINITION. Kernels and queues: launch headers and their checks, admission, dependences, conflicts, placement, final
states, QCTL (R262 to R302, R463, R464). -/

namespace Sys2Proof.Machine

/-! ### Launch headers (R262 to R265) -/

/-- The little-endian word of 8 bytes of a record. -/
def recWord (b : List Byte) (off : Nat) : Word := BitVec.ofNat 64 (recNat b off 8)

/-- A region record of 32 bytes (R264). -/
def regionOf (b : List Byte) : Region :=
  let w := recNat b 0x10 4
  { base := recWord b 0, len := recWord b 8, access := bitsOf w 1 0, edge := bitsOf w 3 2, shared := bitAt w 4, hint := bitAt w 5,
    fwdH := bitsOf w 15 8, fwdN := bitsOf w 23 16, ext := recNat b 0x14 1 }

/-- The region records of a header. -/
def regionBytes (b : List Byte) : List (List Byte) := (List.range (recNat b 7 1)).map fun i => (b.drop (0x100 + 32 * i)).take 32

/-- A launch header (R262). -/
def headerOf (b : List Byte) : Header :=
  let flags := recNat b 4 2
  { sys := bitAt flags 0, overlap := bitAt flags 1, shared := bitAt flags 2, prio := recNat b 6 1, entry := recWord b 8,
    sptab := recWord b 0x10, widths := (List.range 6).map fun i => recNat b (0x18 + i) 1,
    binds := (List.range 6).map fun i => recNat b (0x20 + i) 1, n := recNat b 0x28 8, vregs := recNat b 0x30 2,
    kennel := recNat b 0x32 2, tile := recNat b 0x34 4, mill := recNat b 0x38 4 == 1,
    deps := (List.range 4).map fun d => (recWord b (0x40 + 16 * d), recWord b (0x48 + 16 * d)),
    doneId := recWord b 0x80, doneAmt := recWord b 0x88, args := (List.range 8).map fun i => recWord b (0x90 + 8 * i),
    regions := (regionBytes b).map regionOf }

/-- A dependence in use (R263). -/
def depUsed (d : Word × Word) : Bool := d.1 != 0 || d.2 != 0

/-- Reserved fields of the header proper are zero (R262). -/
def headerReserved (b : List Byte) : Bool :=
  recNat b 4 2 < 8 && recNat b 0x1E 2 == 0 && recNat b 0x26 2 == 0 && recNat b 0x3C 4 == 0 && recNat b 0xD0 48 == 0

/-- The ranges of R262. -/
def headerRanges (b : List Byte) : Bool :=
  recNat b 6 1 ≤ 7 && 1 ≤ recNat b 7 1 && recNat b 7 1 ≤ 16 && 64 ≤ recNat b 0x30 2 && recNat b 0x30 2 ≤ 320 &&
    recNat b 0x32 2 ≤ 1024 && recNat b 0x34 4 ≤ 1536 && recNat b 0x38 4 ≤ 1

/-- No number of a list is below the one before it. -/
def rising : List Nat → Bool
  | a :: b :: t => a ≤ b && rising (b :: t)
  | _ => true

/-- Widths, bindings and N (R269). -/
def Header.fieldsOk (h : Header) : Bool :=
  let t := h.widths.foldl (· + ·) 0
  t ≤ 64 && (h.widths.zip h.binds).all (fun x => if x.1 = 0 then x.2 == 0 else 1 ≤ x.2 && x.2 ≤ 5) &&
    rising (h.binds.filter (· != 0)) && h.n ≤ 2 ^ t

/-- The region that a memory-form id names (R263). -/
def Header.regionFor (h : Header) (ext : Nat) : Option Region := h.regions.find? (·.ext == ext)

/-- The hint bit of the region that a memory-form counter id names (R264, R332). -/
def Header.ctrHint (h : Header) (id : Word) : Bool := match placeOf id with
  | some (.ext n _) => (h.regionFor n).any (·.hint)
  | _ => false

/-- A counter id of the header (R263); dep says that it is watched, so that its region must grant R (R464). -/
def Header.ctrOk (h : Header) (dep : Bool) (id : Word) : Bool :=
  match placeOf id with
  | some (.ctr _ _ _) => true
  | some (.ext n off) => match h.regionFor n with
    | some r => off % 8 == 0 && off + 8 ≤ r.len.toNat && (!dep || bitAt r.access 0)
    | none => false
  | _ => false

/-- The counter ids of a header (R263, R464). -/
def Header.ctrsOk (h : Header) : Bool :=
  h.deps.all (fun d => !depUsed d || h.ctrOk true d.1) && (if h.doneAmt = 0 then h.doneId == 0 else h.ctrOk false h.doneId)

/-- A region record other than by its range (R264). -/
def regionOk (b : List Byte) : Bool :=
  let r := regionOf b
  let w := recNat b 0x10 4
  r.access != 0 && r.len != 0 && (r.edge != 1 || bitAt r.access 1) && bitsOf w 7 6 == 0 && bitsOf w 31 24 == 0 &&
    (r.edge == 3 || (r.fwdH == 0 && r.fwdN == 0)) && r.ext < 16 && recNat b 0x15 11 == 0

/-- The range of a region (R265): canonical, within its half, not past 2^64. -/
def Region.rangeOk (r : Region) : Bool :=
  let e := r.base.toNat + r.len.toNat
  canonical r.base && e ≤ 2 ^ 64 && (2 ^ 54 ≤ r.base.toNat || e ≤ 2 ^ 54)

/-- The byte of a virtual address through a page table, as a place in memory: none when it cannot be read, some none for a
byte of a ZERO page. -/
def State.tableByte (s : State) (c : Nat) (va : Word) : Option (Option Nat) :=
  if !canonical va then none
  else
    let v := va.toNat % 2 ^ 55
    match s.walk c v with
    | .leaf _ w =>
      let p := pteOf w
      if !p.r || p.st = 1 then none
      else if p.st = 2 then some none
      else some (some (leafFrame p v * 65536 + v % 65536))
    | _ => none

/-- n bytes from a 64-byte aligned virtual address, read through the page table of a context (R265): FETCH_FAULT detail 4. -/
def State.headerBytes (s : State) (c : Nat) (va : Word) (n : Nat) : M (List Byte × State) :=
  (List.range (n / 32)).foldlM (fun (r : List Byte × State) i =>
    let a := va + BitVec.ofNat 64 (32 * i)
    let v := a.toNat % 2 ^ 55
    if r.2.walkWaits c v then stall
    else match r.2.tableByte c a with
      | none => raise cFETCH_FAULT 4
      | some none => .ok (r.1 ++ List.replicate 32 0, r.2.walked c v)
      | some (some p) => match (r.2.walked c v).homeRead ((List.range 32).map (p + ·)) with
        | .ok (bs, t) => .ok (r.1 ++ bs, t)
        | .error .stall => stall
        | .error (.fault f) => .error (.fault { f with cause := cFETCH_FAULT, detail := 4 })) ([], s)

/-! ### Kernels, queues and their banks -/

/-- A queue of a context. -/
def State.queue (s : State) (c q : Nat) : Queue := mget Queue.new (s.ctx c).queues q

/-- A queue changed. -/
def State.modQueue (s : State) (c q : Nat) (f : Queue → Queue) : State :=
  s.modCtx c fun x => { x with queues := mmod Queue.new x.queues q f }

/-- The kernels of a context with their slots. -/
def State.kernelList (s : State) (c : Nat) : List (Nat × Kernel) :=
  ((s.ctx c).kernels.filter (·.1 < 4096)).filterMap fun e => e.2.map fun k => (e.1, k)

/-- The id of the kernel in a slot (R266). -/
def Kernel.kid (k : Kernel) (slot : Nat) : Nat := slot + k.gen * 65536

/-- The banks of the device. -/
abbrev allBanks : List Nat := List.range 512

/-- The banks that are not free, with their numbers. -/
def State.busyBanks (s : State) : List (Nat × Bank) :=
  ((s.cur, s.bank) :: s.parked.filter (·.1 != s.cur)).filter fun x => x.2.run != .free

/-- A bank runs a task of a kernel. -/
def Bank.runs (b : Bank) (c kid : Nat) : Bool := b.id.ctx == c && b.id.kid == kid

/-- The partition of a context holds a core that can run the kernel, and a usable Mill if it needs one (R265, R463). -/
def State.partitionFits (s : State) (c : Nat) (h : Header) : Bool :=
  let cl := (s.ctx c).clusters
  cl == [] ||
    (cl.any (fun k => (List.range 16).any fun i => (s.core (16 * k + i)).capVr ≥ h.vregs) &&
     (!h.mill || cl.any fun k => (List.range 4).any fun i => (s.mg (4 * k + i)).mill.usable))

/-! ### Final states (R267, R282, R292) -/

/-- Final states of a kernel (R267). -/
def KState.final : KState → Bool
  | .done | .faulted | .aborted => true
  | _ => false

/-- Between selection and the last task's end (R267). -/
def KState.started : KState → Bool
  | .dispatching | .running | .edge => true
  | _ => false

/-- The tasks of a kernel stopped (R282): its banks stop at their next bundle boundary, or at once where they stand at one or
cannot reach one; those saved are discarded, their groups aborted. -/
def State.stopTasks (s : State) (c kid : Nat) : State :=
  let mark (b : Bank) : Bank := if b.run != .free && b.runs c kid then { b with stop := true, preempt := false } else b
  let s : State := { s with bank := mark s.bank, parked := s.parked.map fun x => (x.1, mark x.2) }
  let gone := (s.ctx c).saved.filter fun v => v.bank.runs c kid
  let s := gone.foldl (fun s v => (v.bank.gbinds.filterMap (·.2)).foldl (fun s x => match s.boundGroup x with
    | some (d, i, g) =>
      let s := s.modGroup d i fun g => { g with auto := true, cause := if g.st = 6 then 0 else g.cause }
      if g.st = 1 ∨ g.st = 6 then s.abortGroup d i cHALTED 0 else s.settleGroup d i
    | none => s) s) s
  s.modCtx c fun x => { x with saved := x.saved.filter fun v => !v.bank.runs c kid }

/-- Tiles freed on a core: their granules go back to the pools (R36). -/
def State.freeTiles (s : State) (core : Nat) (ts : List Tile) : State :=
  ts.foldl (fun s t =>
    if (shapeRaw t.shape).level = 0 then s.modMg (core / 4) fun m => { m with pool0 := m.pool0 + t.gran }
    else s.modCore core fun k => { k with pool1 := k.pool1 + t.gran }) s

/-- The holdings that wait for a kernel's tasks released (R279). -/
def State.releaseForwards (s : State) (c k : Nat) : State :=
  match s.kernel c k with
  | none => s
  | some x => (x.fwds.foldl (fun s f => s.freeTiles f.core (f.tiles.map (·.2))) s).modKernel c k fun x => { x with fwds := [] }

/-- A draining queue with no kernel in PENDING, DISPATCHING, RUNNING or EDGE becomes HALTED (R292). -/
def State.queueDrained (s : State) (c q : Nat) : State :=
  let x := s.queue c q
  if x.st = .draining ∧ x.ks.all (fun k => match s.kernel c k with
      | some y => y.st == .loaded
      | none => true) then s.modQueue c q fun x => { x with st := .halted } else s

/-- No kernel of a context waits for a predecessor any more that is DONE (R290). -/
def State.predDone (s : State) (c kid : Nat) : State :=
  s.modCtx c fun x => { x with kernels := x.kernels.map fun e =>
    (e.1, e.2.map fun (k : Kernel) => if k.pred = some kid then { k with pred := none } else k) }

/-- A kernel reaches a final state (R267, R282, R292): its queue drops it, an IN_ORDER queue with a FAULTED kernel goes to
ERROR, its tasks stop unless it is DONE, and what waits for its tasks is released. -/
def State.finish (s : State) (c k : Nat) (st : KState) (cause detail : Nat) : State :=
  match s.kernel c k with
  | none => s
  | some x =>
    if x.st.final then s
    else
      let kid := x.kid k
      let s := s.modKernel c k fun x => { x with st := st, cause := cause, detail := detail, adding := false, stop := none }
      let s := s.modQueue c x.queue fun q =>
        { q with ks := q.ks.filter (· != k), last := if st = .done ∧ q.last = some kid then none else q.last,
                 st := if st = .faulted ∧ q.overlap = false then .error else q.st }
      let s := if st = .done then s.predDone c kid else s.stopTasks c kid
      ((s.releaseForwards c k).queueDrained c x.queue)

/-- The record of a fault of dispatch or of a completion add (R462, source 4). -/
def kernRec (kid cause detail done : Nat) (place : Word) : FaultRec :=
  { FaultRec.blank with cause := cause, detail := detail, source := 4, kernel := kid, done := done, place := place }

/-- A record waits for a slot that makes the kernel of a slot FAULTED (R418). -/
def State.doomed (s : State) (c k : Nat) : Bool := (s.ctx c).waitq.any (·.who == .doomed c k)

/-- A kernel becomes FAULTED with a fault record. While the context's fault area is full, it stays in its state and its record waits (R418). -/
def State.kernelFault (s : State) (c k cause detail done : Nat) (place : Word) : State :=
  match s.kernel c k with
  | none => s
  | some x =>
    let r := kernRec (x.kid k) cause detail done place
    if x.st.final ∨ s.doomed c k then s
    else if s.faTakes c then (s.finish c k .faulted cause detail).ctxPut c r (.kernel c k)
    else s.modCtx c fun x => { x with waitq := x.waitq ++ [⟨r, .doomed c k⟩] }

/-- A record that has waited is written; a kernel that it concerned alone becomes FAULTED (R267, R418). -/
def State.putWaited (s : State) (c : Nat) (h : FaultHeld) : State :=
  match h.who with
  | .doomed x k =>
    let t := match s.kernel x k with
      | some y => if y.kid k = h.recd.kernel then s.finish x k .faulted h.recd.cause h.recd.detail else s
      | none => s
    t.ctxPut c h.recd (.kernel x k)
  | w => s.ctxPut c h.recd w

/-- What has become of a kernel's completion add (R267, R284): the kernel is DONE, or FAULTED with the failure. -/
def State.completed (s : State) (c k : Nat) : State :=
  match s.kernel c k with
  | none => s
  | some x =>
    if !x.adding then s
    else match x.addRes with
      | none => s
      | some (0, _) => s.finish c k .done 0 0
      | some (cause, d) => s.kernelFault c k cause d 0 x.hdr.doneId

/-! ### Dependences (R263, R464) -/

/-- A counter id of a kernel as its home has it. A memory-form id names the kernel's own region. -/
def State.kernCtr (s : State) (c : Nat) (k : Kernel) (id : Word) : Option CtrId :=
  match placeOf id with
  | some (.ctr node gen i) =>
    if s.ownNode c node then some (.slot c (ctrKey (dieOfNode node) i) gen) else some (.remote node id)
  | some (.ext n off) => match k.hdr.regionFor n with
    | some r => (frameAddr k.frames n ((r.base + BitVec.ofNat 64 off).toNat % 2 ^ 55)).map fun a => .word c a
    | none => none
  | _ => none

/-- A slot counter's entry is live under a generation (R305, R307). -/
def State.slotLive (s : State) (c k gen : Nat) : Bool :=
  let e := s.ctrEnt c k
  k % 2 ^ 24 < s.ctrSize c (keyDie k) && e.gen == gen && (e.st == 1 || e.st == 2)

/-- A dependence names a slot counter that is stale or not live (R267). -/
def State.depStale (s : State) (c : Nat) (k : Kernel) (d : Nat) : Bool :=
  let x := k.hdr.deps[d]?.getD (0, 0)
  depUsed x && (match placeOf x.1 with
    | some (.ctr node gen i) =>
      if s.ownNode c node then !s.slotLive c (ctrKey (dieOfNode node) i) gen else mget none k.depFrm (8 + d) == some 2
    | _ => false)

/-- A dependence is met (R263). -/
def State.depMet (s : State) (c : Nat) (k : Kernel) (d : Nat) : Bool :=
  let x := k.hdr.deps[d]?.getD (0, 0)
  !depUsed x || (match placeOf x.1 with
    | some (.ctr node gen i) =>
      if s.ownNode c node then
        s.slotLive c (ctrKey (dieOfNode node) i) gen && x.2.ule (s.ctrEnt c (ctrKey (dieOfNode node) i)).val
      else mget none k.depFrm (8 + d) == some 1
    | some (.ext _ _) => match mget none k.depFrm d with
      | some a => !s.linePoison a && x.2.ule (s.wordAt a 8)
      | none => false
    | _ => false)

/-- The kernel of a slot is FAULTED when one of its dependences has become stale while it is PENDING (R267). -/
def State.staleCheck (s : State) (c k : Nat) : State :=
  match s.kernel c k with
  | none => s
  | some x =>
    if x.st ≠ .pending then s
    else match (List.range 4).find? (s.depStale c x) with
      | some d => s.kernelFault c k cCOUNTER_FAULT 1 0 (x.hdr.deps[d]?.getD (0, 0)).1
      | none => s

/-- Every PENDING kernel of a context checked for stale dependences. -/
def State.staleAll (s : State) (c : Nat) : State := (s.kernelList c).foldl (fun s e => s.staleCheck c e.1) s

/-- What another device is asked about a dependence: a waiter at its counter (R263, R309). -/
def State.askDep (s : State) (c k d : Nat) : State :=
  match s.kernel c k with
  | none => s
  | some x =>
    let e := x.hdr.deps[d]?.getD (0, 0)
    match placeOf e.1 with
    | some (.ctr node _ _) =>
      if !depUsed e || s.ownNode c node || (mget none x.depFrm (8 + d)).isSome ||
          s.gate.asked.any (fun q => q.who == .dep c k d) then s
      else s.ask sheepdog c node 4 (.wait e.1 e.2) (.dep c k d)
    | _ => s

/-- A LOADED kernel entered into its queue (R267). -/
def State.kqEnter (s : State) (c k : Nat) : State :=
  let s := s.modKernel c k fun x => { x with st := .pending }
  ([0, 1, 2, 3].foldl (fun s d => s.askDep c k d) s).staleCheck c k

/-! ### Tasks and groups (R270, R271) -/

/-- Tasks of a kernel. -/
def Header.ntasks (h : Header) : Nat := (h.n + 2 ^ h.seqBits - 1) / 2 ^ h.seqBits

/-- Some field is bound to a level. -/
def Header.bound (h : Header) (l : Nat) : Bool := h.binds.contains l

/-- Bits of a task's number below the fields that name its group of a level. -/
def Header.deepBits (h : Header) (l : Nat) : Nat :=
  ((h.widths.zip h.binds).filter fun x => l < x.2 && x.2 < 5).foldl (fun n x => n + x.1) 0

/-- The group of a task at a level. -/
def Header.groupOf (h : Header) (l t : Nat) : Nat := t / 2 ^ h.deepBits l

/-- The tasks of a group: the first, and how many. -/
def Header.groupTasks (h : Header) (l g : Nat) : Nat × Nat :=
  let a := g * 2 ^ h.deepBits l
  (a, min h.ntasks (a + 2 ^ h.deepBits l) - a)

/-- The unit of a level that holds a bank: 1 die, 2 cluster, 3 mill group, 4 core. -/
def levelUnit (l b : Nat) : Nat :=
  if l = 1 then dieOf b else if l = 2 then clusterOf b else if l = 3 then mgOf b else coreOf b

/-- Cores of a unit. -/
def unitCores (l : Nat) : Nat := if l = 2 then 16 else if l = 3 then 4 else 1

/-- The level of the gang that a task belongs to (R271). -/
def Header.gangLevel (h : Header) (t : Nat) : Option Nat :=
  [2, 3, 4].find? fun l => h.bound l && (h.groupTasks l (h.groupOf l t)).2 ≤ unitCores l

/-! ### Placement (R271, R272, R279, R296) -/

/-- A task to be placed: whether it comes back after it was saved, its number, the CAP.VR it needs, the granules it brings at levels 0
and 1. -/
structure TaskNeed where
  back : Bool
  task : Nat
  vr   : Nat
  g0   : Nat
  g1   : Nat
  deriving DecidableEq, Repr

/-- Tasks that are placed together, and the level of their gang. -/
structure PlaceUnit where
  gang  : Option Nat
  tasks : List TaskNeed
  deriving DecidableEq, Repr

/-- The kernel whose tasks are placed, with its context, id and the banks counted as free besides the free ones. -/
structure Placing where
  c     : Nat
  kid   : Nat
  k     : Kernel
  extra : List Nat

/-- Level-0 and level-1 granules of a bank's tiles. -/
def Bank.granulesAt (b : Bank) (level : Nat) : Nat :=
  b.tiles.foldl (fun n t => match t.2 with
    | some t => if (shapeRaw t.shape).level = level then n + t.gran else n
    | none => n) 0

/-- No other kernel with mill = 1 holds a bank of the mill group, and its Mill is usable (R272). -/
def State.millFree (s : State) (p : Placing) (b : Nat) : Bool :=
  !p.k.hdr.mill || ((s.mg (mgOf b)).mill.usable && (List.range 8).all fun i =>
    let x := s.getBank (mgOf b * 8 + i)
    p.extra.contains (mgOf b * 8 + i) || x.run == .free || !x.id.mill || x.runs p.c p.kid)

/-- A bank lies in the unit of every group mate placed so far (R270). -/
def groupFits (h : Header) (placed : List (Nat × Nat)) (t b : Nat) : Bool :=
  [1, 2, 3, 4].all fun l => !h.bound l || placed.all fun m => h.groupOf l m.1 != h.groupOf l t || levelUnit l m.2 == levelUnit l b

/-- The banks on which tasks of a kernel started and from which they have not been saved, as far as they lie in the partition: they tie
the other tasks of their groups to their units (R270). Tasks that came back after a save tie none (R281, R463; log 83). -/
def State.places (s : State) (p : Placing) : List (Nat × Nat) :=
  p.k.placed.filterMap fun e => e.2.bind fun b =>
    if b < 512 ∧ (s.ctx p.c).clusters.contains (clusterOf b) then some (e.1, b) else none

/-- The banks that tasks of a kernel run on. -/
def State.runsOn (s : State) (p : Placing) : List (Nat × Nat) :=
  (s.busyBanks.filter fun b => b.2.runs p.c p.kid).map fun b => (b.2.id.task, b.1)

/-- A bank can take a task (R270, R272); one that comes back is placed by R272 alone (R281). -/
def State.bankFits (s : State) (p : Placing) (placed : List (Nat × Nat)) (t : TaskNeed) (b : Nat) : Bool :=
  (s.ctx p.c).clusters.contains (clusterOf b) && ((s.getBank b).run == .free || p.extra.contains b) &&
    t.vr ≤ (s.core (coreOf b)).capVr && s.millFree p b && (t.back || groupFits p.k.hdr placed t.task b) &&
    t.g0 ≤ (s.mg (mgOf b)).pool0 && t.g1 ≤ (s.core (coreOf b)).pool1

/-- The banks of a context's partition, ascending. -/
def State.partBanks (s : State) (c : Nat) : List Nat := allBanks.filter fun b => (s.ctx c).clusters.contains (clusterOf b)

/-- Running mates of a gang stand on other cores (R271). -/
def coreFree (h : Header) (l : Nat) (placed : List (Nat × Nat)) (t b : Nat) : Bool :=
  placed.all fun m => m.1 == t || h.groupOf l m.1 != h.groupOf l t || coreOf m.2 != coreOf b

/-- Banks in the order in which the fantail tries them for a task: those of its producer's core, those of its producer's cluster, all
(R279). -/
def Kernel.nearFirst (k : Kernel) (t : Nat) (banks : List Nat) : List Nat :=
  match k.fwds.find? (·.task == t) with
  | some f => banks.filter (fun b => coreOf b == f.core) ++ banks.filter (fun b => clusterOf b == f.core / 16) ++ banks
  | none => banks

/-- The pools hold the granules that the tasks of a unit bring together to the banks named for them (R272). -/
def State.poolsHold (s : State) (us : List TaskNeed) (on : List (Nat × Nat)) : Bool :=
  let need (g : TaskNeed → Nat) (here : Nat → Bool) : Nat :=
    on.foldl (fun n x => if here x.2 then n + ((us.find? fun t => t.task == x.1).map g).getD 0 else n) 0
  on.all fun x => need (·.g0) (fun b => mgOf b == mgOf x.2) ≤ (s.mg (mgOf x.2)).pool0 &&
    need (·.g1) (fun b => coreOf b == coreOf x.2) ≤ (s.core (coreOf x.2)).pool1

/-- Tasks of a gang on the first banks that fit, each on a core of its own. us are all tasks of its unit; where they bring granules, later banks
are tried too. -/
def State.assign (s : State) (p : Placing) (l : Nat) (banks : List Nat) (us : List TaskNeed) :
    List (Nat × Nat) → List TaskNeed → Option (List (Nat × Nat))
  | got, [] => some got
  | got, t :: ts =>
    let fits := (p.k.nearFirst t.task banks).filter fun b =>
      s.bankFits p (s.places p ++ got) t b && coreFree p.k.hdr l (s.runsOn p ++ got) t.task b && s.poolsHold us (got ++ [(t.task, b)])
    (if us.all fun t => t.g0 + t.g1 = 0 then fits.take 1 else fits).findSome? fun b => s.assign p l banks us (got ++ [(t.task, b)]) ts

/-- Tasks split into their groups of a level, in order. -/
def splitGroups (h : Header) (l : Nat) (ts : List TaskNeed) : List (List TaskNeed) :=
  ((ts.map fun t => h.groupOf l t.task).eraseDups).map fun g => ts.filter fun t => h.groupOf l t.task == g

/-- A unit placed on the first banks that will do, those near its producers first: a gang whole in one unit of its level, its mill-group
groups each in one mill group; any other task by itself (R271, R279). -/
def State.placeUnit (s : State) (p : Placing) (u : PlaceUnit) : Option (List (Nat × Nat)) :=
  let banks := s.partBanks p.c
  let lead (ts : List TaskNeed) (bs : List Nat) : List Nat :=
    match ts.find? fun t => p.k.fwds.any (·.task == t.task) with
    | some t => p.k.nearFirst t.task bs
    | none => bs
  match u.gang with
  | some l =>
    let ts := u.tasks.mergeSort fun a b => b.vr ≤ a.vr
    let units := ((lead ts banks).map (levelUnit l)).eraseDups
    let parts := if l = 2 ∧ p.k.hdr.bound 3 then splitGroups p.k.hdr 3 ts else [ts]
    (units.findSome? fun n =>
      let here := banks.filter fun b => levelUnit l b == n
      let mgs (part : List TaskNeed) : List (List Nat) :=
        if l = 2 ∧ p.k.hdr.bound 3 then (((lead part here).map mgOf).eraseDups).map fun g => here.filter fun b => mgOf b == g else [here]
      parts.foldl (fun (o : Option (List (Nat × Nat))) part =>
        o.bind fun got => (mgs part).findSome? fun bs => s.assign p l bs u.tasks got part) (some [])).map
        (·.mergeSort fun a b => a.1 ≤ b.1)
  | none => match u.tasks with
    | [t] => ((p.k.nearFirst t.task banks).find? (s.bankFits p (s.places p) t)).map fun b => [(t.task, b)]
    | _ => none

/-- A saved bank may be placed: a swapped one once its counter holds the awaited value (R298). -/
def State.savedReady (s : State) (v : Saved) : Bool :=
  match v.wait with
  | .none => true
  | .remote => false
  | .counter (.slot c k gen) t => !s.slotLive c k gen || t.ule (s.ctrEnt c k).val
  | .counter (.word _ a) t => s.linePoison a || t.ule (s.wordAt a 8)
  | .counter (.remote _ _) _ => true

/-- The units of a kernel's saved tasks: gangs whole once every member asked to stop has stopped, others one by one, in
ascending order of task (R271, R296). -/
def State.resumeUnits (s : State) (c kid : Nat) (k : Kernel) : List PlaceUnit :=
  let mine := ((s.ctx c).saved.filter fun v => v.bank.runs c kid).mergeSort fun a b => a.bank.id.task ≤ b.bank.id.task
  let need (v : Saved) : TaskNeed := ⟨true, v.bank.id.task, v.bank.id.capVr, v.bank.granulesAt 0, v.bank.granulesAt 1⟩
  let first (v : Saved) : Bool := match k.hdr.gangLevel v.bank.id.task with
    | none => true
    | some l => match mine.find? (fun w => k.hdr.groupOf l w.bank.id.task == k.hdr.groupOf l v.bank.id.task) with
      | some w => w.bank.id.task == v.bank.id.task
      | none => false
  (mine.filter first).filterMap fun v =>
    let l := k.hdr.gangLevel v.bank.id.task
    let all := match l with
      | none => [v]
      | some l => mine.filter fun w => k.hdr.groupOf l w.bank.id.task == k.hdr.groupOf l v.bank.id.task
    let going := match l with
      | none => false
      | some l => s.busyBanks.any fun b => b.2.runs c kid && b.2.preempt && k.hdr.groupOf l b.2.id.task == k.hdr.groupOf l v.bank.id.task
    if all.all s.savedReady && !going then some ⟨l, all.map need⟩ else none

/-- The unit of new tasks that begins at a task. -/
def Kernel.newUnit (k : Kernel) (t : Nat) : PlaceUnit :=
  match k.hdr.gangLevel t with
  | none => ⟨none, [⟨false, t, k.hdr.vregs, 0, 0⟩]⟩
  | some l =>
    let (a, n) := k.hdr.groupTasks l (k.hdr.groupOf l t)
    ⟨some l, (List.range n).map fun i => ⟨false, a + i, k.hdr.vregs, 0, 0⟩⟩

/-- Some group ties a task of the kernel to a unit. Where none does, tasks never placed are all alike, and the first stands for all. -/
def Header.tied (h : Header) : Bool := [1, 2, 3, 4].any h.bound

/-- The first placement of tasks never placed, from a task on, in ascending order. -/
def State.placeNew (s : State) (p : Placing) : Nat → Nat → Option (List (Nat × Nat))
  | 0, _ => none
  | n + 1, t =>
    if p.k.hdr.ntasks ≤ t then none
    else if (mget none p.k.placed t).isSome then s.placeNew p n (t + 1)
    else
      let u := p.k.newUnit t
      match s.placeUnit p u with
      | some on => some on
      | none => if p.k.hdr.tied then s.placeNew p n (t + u.tasks.length) else none

/-- The first placement, in the order of R296, that the partition allows a kernel now, with some banks counted as free. -/
def State.placement (s : State) (c slot : Nat) (k : Kernel) (extra : List Nat) : Option (List (Nat × Nat)) :=
  let p : Placing := ⟨c, k.kid slot, k, extra⟩
  match (s.resumeUnits c (k.kid slot) k).findSome? (s.placeUnit p) with
  | some on => some on
  | none => s.placeNew p (k.hdr.ntasks + 1) k.next

/-- The unit of a kernel that holds some tasks: saved ones, or tasks never placed. -/
def State.unitOf (s : State) (c slot : Nat) (k : Kernel) (tasks : List Nat) : Option PlaceUnit :=
  match (s.resumeUnits c (k.kid slot) k).find? fun u => u.tasks.map (·.task) == tasks with
  | some u => some u
  | none => tasks.head?.map k.newUnit

/-- A kernel has a task to place. -/
def State.unplaced (s : State) (c slot : Nat) (k : Kernel) : Bool :=
  s.resumeUnits c (k.kid slot) k != [] || k.next < k.hdr.ntasks

/-! ### Readiness (R276, R290, R291, R301) -/

/-- Two regions have a byte in common. -/
def Region.meets (a b : Region) : Bool :=
  a.base.toNat < b.base.toNat + b.len.toNat && b.base.toNat < a.base.toNat + a.len.toNat

/-- A pair of regions that makes two kernels conflict, if neither depends on the other (R276). -/
def regionsClash (hp hq : Header) : Bool :=
  hp.regions.any fun a => hq.regions.any fun b =>
    (bitAt a.access 1 || bitAt b.access 1) && a.meets b && !((a.shared || hp.shared) && (b.shared || hq.shared))

/-- One of q's dependences is p's completion counter (R276). -/
def Header.dependsOn (q p : Header) : Bool := p.doneAmt != 0 && q.deps.any fun d => depUsed d && d.1 == p.doneId

/-- Kernel q, launched later, conflicts with p (R276). -/
def State.conflicts (s : State) (c : Nat) (p q : Kernel) : Bool :=
  let follows := p.queue == q.queue && !(s.queue c q.queue).overlap && !q.hdr.overlap
  !(q.hdr.dependsOn p.hdr || p.hdr.dependsOn q.hdr || follows) && regionsClash p.hdr q.hdr

/-- Why a PENDING kernel is not ready (R291, R301): 0 ready, 1 dependences, 2 predecessor, 3 conflict, 4 resources. -/
def State.headWait (s : State) (c slot : Nat) (k : Kernel) : Nat :=
  if !(List.range 4).all (s.depMet c k) then 1
  else if !(s.queue c k.queue).overlap && !k.hdr.overlap && k.pred.isSome then 2
  else if (s.kernelList c).any (fun e => !e.2.st.final && e.2.order < k.order && s.conflicts c e.2 k) then 3
  else if k.hdr.ntasks = 0 ∨ (s.placement c slot k []).isSome then 0 else 4

/-- The head of a queue: its earliest PENDING kernel (R289). -/
def State.head (s : State) (c q : Nat) : Option (Nat × Kernel) :=
  (s.queue c q).ks.findSome? fun k => match s.kernel c k with
    | some x => if x.st = .pending then some (k, x) else none
    | none => none

/-- What Kernel.aged counts beyond the cycle: more than any aging interval. -/
abbrev agedBias : Nat := 2 ^ 25

/-- Aging of a queue's head up to now (R295): the interval begins when it becomes ready, and each full one gains a level, up to 7. -/
def State.ageHead (s : State) (c q : Nat) : State :=
  match s.head c q with
  | none => s
  | some (k, x) =>
    if s.headWait c k x ≠ 0 then (if x.aged = 0 then s else s.modKernel c k fun x => { x with aged := 0 })
    else if x.aged = 0 then s.modKernel c k fun x => { x with aged := s.cycle + agedBias }
    else
      let n := (s.cycle + agedBias - x.aged) / s.aging
      if n = 0 then s else s.modKernel c k fun x => { x with prio := min 7 (x.prio + n), aged := x.aged + n * s.aging }

/-- Aging of every queue of a context that has kernels. -/
def State.ageCtx (s : State) (c : Nat) : State :=
  (s.ctx c).queues.foldl (fun s q => if q.2.ks = [] then s else s.ageHead c q.1) s

/-- A context leaves RUNNING: its heads have aged up to now (R295). -/
def State.pauseAging (s : State) (c : Nat) : State := (s.ageCtx c).modCtx c fun x => { x with agedAt := s.cycle }

/-- A context is RUNNING again: the time in between was no waiting of its heads (R295). -/
def State.resumeAging (s : State) (c : Nat) : State :=
  s.modCtx c fun x => { x with kernels := x.kernels.map fun e =>
    (e.1, e.2.map fun (k : Kernel) => if k.aged = 0 then k else { k with aged := k.aged + (s.cycle - x.agedAt) }) }

/-- Cycles that a head of a context has waited towards its next gain (R295). -/
def State.agedBy (s : State) (c : Nat) (k : Kernel) : Nat :=
  if k.aged = 0 then 0 else (if (s.ctx c).st = .running then s.cycle else (s.ctx c).agedAt) + agedBias - k.aged

/-- Aging of every running context. -/
def State.ageAll (s : State) : State :=
  s.ctxs.foldl (fun s x => if x.2.st = .running then s.ageCtx x.1 else s) s

/-- The queue status word (R301). -/
def State.queueWord (s : State) (c q cause : Nat) : Word :=
  let x := s.queue c q
  let wait := match s.head c q with
    | some (k, y) => s.headWait c k y
    | none => 0
  let st := match x.st with
    | .error => 5
    | .halted => 4
    | .draining => 3
    | .normal => if x.ks = [] then 0 else if wait = 0 then 1 else 2
  BitVec.ofNat 64 (st + (if x.overlap then 8 else 0) + x.ks.length * 2 ^ 8 + wait * 2 ^ 32 + cause * 2 ^ 56)

/-! ### Launches (R265 to R267) -/

/-- Slots of the kernel table that a launch may take (R266): never used, or final with no task saved. -/
def State.freeSlots (s : State) (c : Nat) : List Nat :=
  (List.range 4096).filter fun i => match s.kernel c i with
    | none => true
    | some k => k.st.final && !((s.ctx c).saved.any fun v => v.bank.runs c (k.kid i))

/-- A kernel whose slot is taken again is kept while a stopped task of it still runs (R266, R282). -/
def State.keepGone (s : State) (c slot : Nat) : State :=
  match s.kernel c slot with
  | none => s
  | some k =>
    if s.busyBanks.any fun b => b.2.runs c (k.kid slot) then
      s.modCtx c fun x => { x with kernels := mset none x.kernels (goneKey (k.kid slot)) (some k) }
    else s

/-- A checked header becomes a kernel of its queue (R267): FAULTED at once when a region's range fails, else LOADED, and
PENDING unless its queue is DRAINING. The first kernel of a slot has generation 0: DESIGN CHOICE (log 103). -/
def State.create (s : State) (c q slot : Nat) (h : Header) : Nat × State :=
  let gen := match s.kernel c slot with
    | some k => (k.gen + 1) % 2 ^ 16
    | none => 0
  let kid := slot + gen * 65536
  let x := s.queue c q
  let k : Kernel := { gen := gen, st := .loaded, hdr := h, queue := q, order := (s.ctx c).order, cause := 0, detail := 0, prio := h.prio,
                      aged := 0, frames := [], depFrm := [], stop := none, next := 0, placed := [], halted := 0,
                      ended := 0, adding := false, addRes := none, fwds := [], consumer := none, pred := x.last }
  let s := ((s.keepGone c slot).modCtx c fun y => { y with kernels := mset none y.kernels slot (some k), order := y.order + 1 }).ticked
  let s := s.modQueue c q fun x => { x with ks := x.ks ++ [slot], last := some kid }
  let bad := (List.range h.regions.length).find? fun i => match h.regions[i]? with
    | some r => !r.rangeOk
    | none => false
  (kid, match bad with
    | some i => s.kernelFault c slot cNONCANONICAL i i (match h.regions[i]? with
        | some r => r.base
        | none => 0)
    | none => if x.st = .draining then s else s.kqEnter c slot)

/-- A launch of the header at va into queue q of context c, accepted or refused by R265. mgmt says that it comes from the
host management path or Lorso (R48, R263). -/
def State.launch (s : State) (c : Nat) (va : Word) (q : Nat) (mgmt : Bool) : M (Nat × State) := do
  need (canonical va) cNONCANONICAL 0
  need (va.toNat % 64 == 0) cILLEGAL_OPERAND 9
  let (b, s) ← s.headerBytes c va 0x100
  let n := recNat b 7 1
  let (rs, s) ← if 1 ≤ n ∧ n ≤ 16 then s.headerBytes c (va + 0x100) (32 * n) else .ok ([], s)
  let b := b ++ rs
  let h := headerOf b
  need (recNat b 0 4 == 1) cILLEGAL_OPERAND 1
  need (headerReserved b && (!h.sys || mgmt)) cILLEGAL_OPERAND 2
  need (headerRanges b) cILLEGAL_OPERAND 3
  need h.fieldsOk cILLEGAL_OPERAND 4
  need h.ctrsOk cILLEGAL_OPERAND 5
  need ((regionBytes b).all regionOk && (h.regions.map (·.ext)).eraseDups.length == n) cILLEGAL_OPERAND 6
  need (q < 64 && (s.queue c q).st != .halted && (s.queue c q).st != .error) cILLEGAL_OPERAND 7
  need (s.partitionFits c h) cILLEGAL_OPERAND 8
  need (canonical h.entry) cNONCANONICAL 0
  need (h.entry.toNat % 4 == 0 && h.sptab.toNat % 64 == 0) cILLEGAL_OPERAND 9
  match s.pickFree (s.freeSlots c) with
  | none => raise cNOSLOT 0
  | some slot => do
    need ((s.queue c q).ks.length < 256) cNOSLOT 0
    pure (s.create c q slot h)

/-- The value of a launch for its register or HLW.RESULT (R285). -/
def launchValue (kid : Nat) : Word := BitVec.ofNat 64 (2 ^ 63 + kid)

/-! ### QCTL (R292, R301, R302) -/

/-- The kernels of a queue aborted with a detail (R267, R292). -/
def State.abortQueue (s : State) (c q detail : Nat) : State :=
  let s := (s.queue c q).ks.foldl (fun s k => s.finish c k .aborted cHALTED detail) s
  s.modQueue c q fun x => { x with last := none }

/-- The LOADED kernels of a queue entered in launch order (R292). -/
def State.kqEnterAll (s : State) (c q : Nat) : State :=
  (s.queue c q).ks.foldl (fun s k => match s.kernel c k with
    | some x => if x.st = .loaded ∧ (s.queue c q).st = .normal then s.kqEnter c k else s
    | none => s) s

/-- A QCTL operation applied (R292); none when R292 has no row for it. -/
def State.qctlApply (s : State) (c q op mode : Nat) : Option State :=
  let x := s.queue c q
  let set (s : State) (st : QState) : State := s.modQueue c q fun x => { x with st := st }
  match op, x.st with
  | 0, _ => some s
  | 1, .normal => if x.ks = [] then some (s.modQueue c q fun x => { x with overlap := mode == 1 }) else none
  | 2, .normal => some ((set s .draining).queueDrained c q)
  | 3, .normal | 3, .draining => some (set s .halted)
  | 4, .draining | 4, .halted => some ((set s .normal).kqEnterAll c q)
  | 5, .normal => some (s.abortQueue c q 0)
  | 5, .draining => some (set (s.abortQueue c q 0) .normal)
  | 5, .halted => some (set (s.abortQueue c q 0) .halted)
  | 6, .error => some (set (s.abortQueue c q 1) .normal)
  | _, _ => none

/-- Some bank still runs a stopped task of a queue's kernels (R302). -/
def State.queueStopping (s : State) (c q self : Nat) : Bool :=
  s.busyBanks.any fun b => b.1 != self && b.2.stop && b.2.id.ctx == c && (s.kernelOf c b.2.id.kid).any (·.queue == q)

end Sys2Proof.Machine
end

