-- ==== Sys2Proof/Machine/Pages.lean ====
section
/-! DEFINITION. The pages of a context: writes of entries, invalidation, eviction, migration, splitting, dirty rounds (R326 to
R330, R342 to R348, R365). -/

namespace Sys2Proof.Machine

/-! ### Pages and their frames -/


/-- A leaf and the page it maps: its entry's address and word, the first virtual page, the first frame, the frames. -/
structure Leaf where
  at_   : Nat
  w     : Word
  pte   : Pte
  vpn   : Nat
  frame : Nat
  n     : Nat
  deriving DecidableEq, Repr

/-- The leaf that maps a virtual address. -/
def State.leafOf (s : State) (c va : Nat) : Option Leaf :=
  match s.walk c va with
  | .leaf a w =>
    let p := pteOf w
    if p.size = 1 then some ⟨a, w, p, va / 2 ^ 29 * 2 ^ 13, p.frame, 2 ^ 13⟩ else some ⟨a, w, p, va / 2 ^ 16, p.frame, 1⟩
  | _ => none

/-- A frame-array entry covers a page of some virtual pages. -/
def FrameEnt.touches (e : FrameEnt) (vpn n : Nat) : Bool := e.vpn < vpn + n && vpn < e.vpn + e.pages

/-- Pinned (R273, R328, R378, R464): a kernel that is not final, an open window, a loaded collective or a watched dependence
word covers the page. -/
def State.pinned (s : State) (c : Nat) (l : Leaf) : Bool :=
  let x := s.ctx c
  let hit (fs : List FrameEnt) : Bool := fs.any fun e => e.touches l.vpn l.n
  let dep (k : Kernel) : Bool := k.depFrm.any fun d => d.1 < 8 && (match d.2 with
    | some a => l.frame ≤ a / 65536 && a / 65536 < l.frame + l.n
    | none => false)
  x.kernels.any (fun k => match k.2 with
    | some k => !k.st.final && (hit k.frames || dep k)
    | none => false) ||
  x.wins.any (fun w => hit w.2.frames) || x.colls.any (fun e => hit e.2.frames)

/-- Some weir holds a staged line of the frames (R365). -/
def State.stagedIn (s : State) (frame n : Nat) : Bool :=
  [0, 1, 2, 3].any fun d => (s.die d).weir.any fun g => g.lines.any fun l =>
    frame ≤ l.addr / 65536 && l.addr / 65536 < frame + n

/-- Far-cache lines of some frames dropped on every die (R248). -/
def State.dropFrames (s : State) (frame n : Nat) : State :=
  [0, 1, 2, 3].foldl (fun s d => s.dropFar d fun k _ => frame * 1024 ≤ k && k < (frame + n) * 1024) s

/-- Instruction translation cache entries of some pages dropped (R348). -/
def State.dropItc (s : State) (c vpn n : Nat) : State :=
  { s with cores := s.cores.map fun k => (k.1, { k.2 with itc := k.2.itc.filter fun e =>
      !(itcKey c vpn ≤ e.1 && e.1 < itcKey c vpn + n) }) }

/-- Extent frame cache entries of some pages dropped (R330, R342). -/
def State.dropEfc (s : State) (c vpn n : Nat) : State :=
  { s with cores := s.cores.map fun k => (k.1, { k.2 with efc := k.2.efc.filter fun e => !(e.ctx == c && e.ent.touches vpn n) }) }

/-- Every cached translation of some pages dropped (R327, R329, R342). -/
def State.dropCached (s : State) (c vpn n : Nat) : State := (s.dropItc c vpn n).dropEfc c vpn n

/-- Every block of some frames a zero block, its sectors freed (R329, R331). -/
def State.freeFrames (s : State) (frame n : Nat) : State :=
  let blks := (s.blocks.map (·.1)).filter fun b => frame * 128 ≤ b && b < (frame + n) * 128
  let s := blks.foldl (fun s b => s.resize b 0 false 0 0) s
  { s with mem := s.mem.filter fun m => !(frame * 65536 ≤ m.1 && m.1 < (frame + n) * 65536) }

/-- The home controllers' entries of some frames replaced. -/
def State.setFrames (s : State) (frame n : Nat) (f : Nat → Frame) : State :=
  (List.range n).foldl (fun s i => { s with frames := mset Frame.none s.frames (frame + i) (f i) }) s

/-- WP of some frames at their homes (R342, R344). -/
def State.frameWp (s : State) (frame n : Nat) (b : Bool) : State :=
  s.setFrames frame n fun i => { mget Frame.none s.frames (frame + i) with wp := b }

/-- Frames that lie in the exposed physical space (R14). -/
def State.exposed (s : State) (frame n : Nat) : Bool := decide ((frame + n) * 65536 ≤ s.space)

/-- A page's entry in the table replaced by the device. -/
def State.putPte (s : State) (c : Nat) (l : Leaf) (w : Word) : State := s.pokePte c l.at_ w

/-- Frame-array entries of the context that touch some pages changed, cached ones too. -/
def State.modEntries (s : State) (c vpn n : Nat) (f : FrameEnt → FrameEnt) : State :=
  s.mapFrames c fun e => if e.touches vpn n then f e else e

/-- The migration or split under way for a page. -/
def State.pageOp (s : State) (c va : Nat) : Option PageOp := (s.ctx c).pageOps.find? fun p => p.va == va

/-- The bytes of the page that a command under way concerns. -/
def PageOp.bytes (p : PageOp) : Nat := if p.split then 2 ^ 29 else 2 ^ 16

/-- The page is MIGRATING or SPLITTING, as its entry or a command under way on any part of it says (R328, R329, R345). -/
def State.pageBusy (s : State) (c : Nat) (l : Leaf) : Bool :=
  l.pte.st == 3 || (l.pte.st == 0 && l.pte.wp) ||
  (s.ctx c).pageOps.any fun p => l.vpn * 65536 < p.va + p.bytes && p.va < (l.vpn + l.n) * 65536

/-! ### Entries written and invalidated (R327, R329) -/

/-- The address of the table entry that maps a virtual address at level 2 or 3 (R47). -/
def State.pteSlot (s : State) (c va : Nat) (large : Bool) : Option Nat :=
  match ptrFrame (s.pteWord c (bitsOf (s.ctx c).root.toNat 47 16 * 65536 + 8 * bitsOf va 54 42)) with
  | none => none
  | some f2 =>
    let a2 := f2 * 65536 + 8 * bitsOf va 41 29
    if large then some a2 else (ptrFrame (s.pteWord c a2)).map fun f3 => f3 * 65536 + 8 * bitsOf va 28 16

/-- The entry of a page that the retriever has taken (R328). -/
def State.balloonedAt (s : State) (c va : Nat) : Option Nat :=
  let bare (a : Nat) : Bool := !(pteOf (s.pteWord c a)).v && (pteOf (s.pteWord c a)).st == 2
  match s.pteSlot c va false with
  | some a => if bare a then some a else none
  | none => match s.pteSlot c va true with
    | some a => if bare a then some a else none
    | none => none

/-- A change of an entry by system software: memory holds it at once, walks see it from the invalidation command on (R327). -/
def State.softPte (s : State) (c a : Nat) (w : Word) : State := (s.staled c a w).poke a (leBytes 8 w.toNat)

/-- The tables of a context as memory holds them, with the changes that walks do not see yet. -/
def State.asWritten (s : State) (c : Nat) : State := s.modCtx c fun x => { x with stale := [] }

/-- A leaf that system software writes over a FREE or BALLOONED page gives its frames to the context (R329, R331); one written as ZERO
frees their sectors. -/
def State.newLeaf (s : State) (c va a : Nat) (w : Word) : State :=
  let p := pteOf w
  let n := if p.size = 1 then 2 ^ 13 else 1
  let base := if p.size = 1 then va / 2 ^ 29 * 2 ^ 29 else va / 2 ^ 16 * 2 ^ 16
  let t := (s.softPte c a w).setFrames p.frame n fun i =>
    { comp := p.c, wp := p.wp, reported := false, ctx := c, va := base + i * 65536 }
  if p.st = 2 then t.freeFrames p.frame n else t

/-- PTE_WRITE (R11, R16, R327, R329): system software writes a leaf over a FREE or BALLOONED page, or clears one that is not FREE. A
pinned page is not cleared, and a page being migrated or split takes no command. An entry that is no leaf changes the table only. The page's
state is that of the table as written, invalidated or not; a leaf beyond the exposed space is refused: DESIGN CHOICE (log 60). -/
def execPteWrite (ctx va : Nat) (entry : Word) (s : State) : Out :=
  let p := pteOf entry
  let m := s.asWritten ctx
  .next (match m.leafOf ctx va with
    | some l =>
      if m.pageBusy ctx l then s.refuse
      else if p.v then s.noRow
      else if m.pinned ctx l then s.refuse
      else s.softPte ctx l.at_ entry
    | none =>
      if !p.v then
        match m.balloonedAt ctx va with
        | some a => s.softPte ctx a entry
        | none => s.noRow
      else match m.pteSlot ctx va (p.size == 1) with
        | none => s.refuse
        | some a =>
          if !(p.large || p.small) then s.softPte ctx a entry
          else if p.size = 1 ∧ (ptrFrame (m.pteWord ctx a)).isSome ∨ p.st = 1 ∨ p.st = 3 then s.noRow
          else if !s.exposed p.frame (if p.size = 1 then 2 ^ 13 else 1) then s.refuse
          else s.newLeaf ctx va a entry)

/-- A frame-array entry as the page table now has it; none when the page is gone. -/
def State.refreshEntry (s : State) (c : Nat) (e : FrameEnt) : Option FrameEnt :=
  match s.leafOf c (e.vpn * 65536) with
  | some l => some { e with frame := l.frame + (e.vpn - l.vpn), wp := l.pte.wp, zero := l.pte.st == 2 }
  | none => none

/-- Every frame array of a context with a function over its entries. -/
def Ctx.fixFrames (x : Ctx) (f : List FrameEnt → List FrameEnt) : Ctx :=
  { x with kernels := x.kernels.map fun k => (k.1, k.2.map fun k => { k with frames := f k.frames }),
           wins := x.wins.map fun w => (w.1, { w.2 with frames := f w.2.frames }),
           colls := x.colls.map fun c => (c.1, { c.2 with frames := f c.2.frames }) }

/-- The level 1 entry of a virtual address (R47). -/
def State.rootSlot (s : State) (c va : Nat) : Nat := bitsOf (s.ctx c).root.toNat 47 16 * 65536 + 8 * bitsOf va 54 42

/-- Walks see the entries of a page as memory holds them (R327). -/
def State.unstale (s : State) (c va : Nat) : State :=
  let drop (s : State) : Option Nat → State
    | some a => s.modCtx c fun x => { x with stale := mset none x.stale a none }
    | none => s
  let t := drop s (some (s.rootSlot c va))
  let t := drop t (t.pteSlot c va true)
  drop t (t.pteSlot c va false)

/-- The pages that an invalidation command concerns: those under the highest entry that has changed, else the page's own (R47, R327). -/
def State.pagesUnder (s : State) (c va : Nat) : Nat :=
  let changed (a : Option Nat) : Bool := a.any fun a => (mget none (s.ctx c).stale a).isSome
  if changed (some (s.rootSlot c va)) then 2 ^ 26
  else if changed (s.pteSlot c va true) then 2 ^ 13
  else ((s.leafOf c va).map (·.n)).getD 1

/-- A context's table maps a virtual address to a frame. -/
def State.mapsTo (s : State) (c va frame : Nat) : Bool := (s.leafOf c va).any fun l => l.frame + (va / 65536 - l.vpn) == frame

/-- INVALIDATION_COMMAND (R327): walks see what system software has made of a page's entries, every cache drops them and every frame array
holds what the table now says; a cleared page becomes FREE and its sectors return (R329). -/
def execInvalidationCommand (ctx va : Nat) (s : State) : Out :=
  let n := s.pagesUnder ctx va
  let lo := va / 65536 / n * n
  let s := (s.unstale ctx va).dropCached ctx lo n
  let fix (fs : List FrameEnt) : List FrameEnt := fs.filterMap fun e => if e.touches lo n then s.refreshEntry ctx e else some e
  let t := s.modCtx ctx fun x => x.fixFrames fix
  let m := t.asWritten ctx
  let gone := t.frames.filter fun f => f.2.ctx == ctx && lo ≤ f.2.va / 65536 && f.2.va / 65536 < lo + n &&
    !t.mapsTo ctx f.2.va f.1 && !m.mapsTo ctx f.2.va f.1
  .next (State.settleHost (gone.foldl (fun t f => (t.freeFrames f.1 1).setFrames f.1 1 fun _ => Frame.none) t))

/-! ### Eviction and return (R329, R365) -/

/-- The blocks of a frame that hold sectors. -/
def State.heldBlocks (s : State) (frame : Nat) : List Nat :=
  (List.range 128).filter fun i => (mget BlockEnt.zero s.blocks (frame * 128 + i)).count != 0

/-- The contents of a frame: the bytes of each block that holds sectors, and its poisoned lines, numbered from 65536. -/
def State.frameCells (s : State) (frame : Nat) : List (Nat × Byte) :=
  (s.heldBlocks frame).flatMap (fun i => (List.range 512).zip (s.blockBytes (frame * 128 + i)) |>.map fun x => (512 * i + x.1, x.2)) ++
    ((List.range 1024).filter fun i => s.linePoison (frame * 65536 + 64 * i)).map fun i => (65536 + i, (1 : Byte))

/-- Blocks carried between dies in the bulk A VC (R380): none while a VC has failed or stopped. -/
def State.haul (s : State) (ps : List (Nat × Nat)) : Option State := ps.eraseDups.foldlM (fun s p => s.cross p.1 p.2 6) s

/-- The home of a block of a frame. -/
def State.blockHome (s : State) (frame i : Nat) : Nat := s.home ((frame * 128 + i) * 512)

/-- The write-throughs to a frame land (R247): none while one cannot. -/
def State.landed (s : State) (frame : Nat) : Option State :=
  (s.wts.filter fun w => !w.arrived && w.ws.any fun x => x.1 / 65536 == frame).foldlM (fun s w => s.arrive w) s

/-- The bytes of a page written to host memory (R375): those of the blocks that hold sectors, and zeros. -/
def State.toHost (s : State) (frame addr : Nat) : State :=
  let rest := s.host.filter fun x => !(addr ≤ x.1 && x.1 < addr + 65536)
  { s with host := (s.heldBlocks frame).foldl (fun m i => mputs 0 m (addr + 512 * i) (s.blockBytes (frame * 128 + i))) rest }

/-- The contents of an eviction slot as host memory holds them, as `frameCells` gives them. -/
def State.hostCells (s : State) (e : Evicted) : List (Nat × Byte) :=
  let held := (List.range 128).filter fun i => e.held.contains i || s.host.any fun x => e.addr + 512 * i ≤ x.1 && x.1 < e.addr + 512 * (i + 1)
  held.flatMap (fun i => (List.range 512).map fun j => (512 * i + j, mget 0 s.host (e.addr + 512 * i + j))) ++ e.bad.map fun i => (65536 + i, 1)

/-- A page out of its frame, toward an eviction slot at a host address. -/
def State.evictTo (s : State) (ctx slot host : Nat) (l : Leaf) : State :=
  let bad := (List.range 1024).filter fun i => s.linePoison (l.frame * 65536 + 64 * i)
  let u := s.toHost l.frame host
  let t : State := { u with evicted := mset none s.evicted slot (some ⟨host, s.heldBlocks l.frame, bad⟩) }
  let t := (t.freeFrames l.frame 1).setFrames l.frame 1 fun _ => Frame.none
  ((t.dropFrames l.frame 1).dropCached ctx l.vpn 1).putPte ctx l (pteState (BitVec.ofNat 64 (l.w.toNat % 2 ^ 16 + slot * 2 ^ 16)) 1)

/-- PAGE_EVICT (R329, R365, R375): the contents of an unpinned 64 KiB page go to an eviction slot, at a host address that Lorso supplies; its
sectors are freed. Write-throughs to the page land first; where one cannot, or the bulk VC carries nothing, the command is refused: DESIGN CHOICE
(log 104). -/
def execPageEvict (ctx va : Nat) (dest : EvictSlot) (s : State) : Out :=
  .next (match s.leafOf ctx va with
    | none => s.noRow
    | some l =>
      if s.pageBusy ctx l then s.refuse
      else if l.pte.st ≠ 0 ∧ l.pte.st ≠ 2 then s.noRow
      else if l.n ≠ 1 ∨ s.pinned ctx l ∨ s.stagedIn l.frame 1 ∨ 2 ^ 32 ≤ dest.slot ∨ 2 ^ 64 < dest.host + 65536 then s.refuse
      else match (s.landed l.frame).bind fun t => t.haul ((t.heldBlocks l.frame).map fun i => (t.blockHome l.frame i, sheepdog)) with
        | none => s.refuse
        | some t => State.settleHost (match t.leafOf ctx va with
          | some l => t.evictTo ctx dest.slot dest.host l
          | none => t))

/-- Poison bits of some lines of a frame set, their blocks stored raw (R349). -/
def State.poisonLines (s : State) (frame : Nat) (ls : List Nat) : State :=
  ls.foldl (fun s i => s.poisonLine (frame * 1024 + i)) s

/-- Contents written to a frame of zero blocks at a level: blocks with a poisoned line raw (R332, R349); none when sectors cannot be had. -/
def State.fillFrame (s : State) (lv : Level) (frame : Nat) (cells : List (Nat × Byte)) : Option State :=
  let data := cells.filter (·.1 < 65536)
  let bad := (cells.filter fun c => 65536 ≤ c.1).map (·.1 - 65536)
  let raw := bad.map (· / 8)
  let put (l : List (Nat × Byte)) : List AWrite := l.map fun c => (frame * 65536 + c.1, c.2, 0xFF#8)
  ((s.homeWrite lv [] (put (data.filter fun c => !raw.contains (c.1 / 512)))).bind fun t =>
    t.homeWrite lv [] (put (data.filter fun c => raw.contains (c.1 / 512))) true).map fun t => t.poisonLines frame bad

/-- An EVICTED page that is back enters the frame arrays of the windows that wait for it, as they need it (R273, R378). -/
def State.winsReturn (s : State) (c vpn frame : Nat) (p : Pte) : State :=
  let e : FrameEnt := { ext := 0, vpn := vpn, pages := 1, frame := frame, wp := p.wp, zero := false, reported := p.d }
  let back (y : Window) : Window :=
    let ok : Bool := (!y.r || p.r) && (!y.w || p.w)
    { y with waits := y.waits.filter (· != vpn), frames := if ok then y.frames ++ [e] else y.frames }
  s.modCtx c fun x => { x with wins := x.wins.map fun w => if w.2.waits.contains vpn then (w.1, back w.2) else w }

/-- PAGE_RETURN (R329, R339): an evicted page is read back into a frame when its sectors are granted at the bank level, and the kernels and
windows that wait for it go on; else it is refused with OUT_OF_SPACE. A frame beyond the exposed space is refused: DESIGN CHOICE (log 60). -/
def execPageReturn (ctx va frame : Nat) (s : State) : Out :=
  .next (match s.leafOf ctx va with
    | none => s.noRow
    | some l =>
      if s.pageBusy ctx l then s.refuse
      else if l.pte.st ≠ 1 then s.noRow
      else if l.n ≠ 1 ∨ !s.exposed frame 1 then s.refuse
      else
        let own := (s.freeFrames frame 1).setFrames frame 1 fun _ =>
          { comp := l.pte.c, wp := l.pte.wp, reported := false, ctx := ctx, va := l.vpn * 65536 }
        let e := (mget none s.evicted l.pte.frame).getD ⟨0, [], []⟩
        match own.haul (e.held.map fun i => (sheepdog, s.blockHome frame i)) with
        | none => s.refuse
        | some own => match own.fillFrame .bank frame (s.hostCells e) with
        | none => s.notify (.refused cOUT_OF_SPACE 0)
        | some t =>
          let t := { t with evicted := mset none t.evicted l.pte.frame none }
          State.settleHost ((t.putPte ctx l (pteState (BitVec.ofNat 64 (l.w.toNat % 2 ^ 16 + frame % 2 ^ 32 * 2 ^ 16)) 0)).winsReturn ctx l.vpn
            frame l.pte))

/-! ### Migration (R342, R343) -/

/-- WP of an entry. -/
def pteWp (w : Word) (b : Bool) : Word := if b then w ||| 0x80 else w &&& ~~~0x80#64

/-- MIGRATE (R342, R365): a RESIDENT 64 KiB page becomes MIGRATING toward a frame; one beyond the exposed space is refused: DESIGN CHOICE
(log 60). -/
def execMigrate (ctx va frame : Nat) (s : State) : Out :=
  .next (match s.leafOf ctx va with
    | none => s.noRow
    | some l =>
      if s.pageBusy ctx l then s.refuse
      else if l.pte.st ≠ 0 then s.noRow
      else if l.n ≠ 1 ∨ s.stagedIn l.frame 1 ∨ !s.exposed frame 1 then s.refuse
      else
        let t := (s.putPte ctx l (pteWp l.w true)).modEntries ctx l.vpn 1 fun e => { e with wp := true }
        (t.frameWp l.frame 1 true).modCtx ctx fun x => { x with pageOps := x.pageOps ++ [⟨l.vpn * 65536, false, frame, 0, none, none, none⟩] })

/-- An expanded address after its page has moved. -/
def movedAddr (old new a : Nat) : Nat := if a / 65536 = old then new * 65536 + a % 65536 else a

/-- A counter after its page has moved (R311). -/
def movedCtr (old new : Nat) : CtrId → CtrId
  | .word c a => .word c (movedAddr old new a)
  | i => i

/-- A bank's queued stores after a page has moved: their addresses, and no grant of the old home. -/
def Bank.moved (old new : Nat) (b : Bank) : Bank :=
  { b with sq := b.sq.map fun e => match e.kind with
      | .store ws g h =>
        { e with kind := .store (ws.map fun w => match w.loc with
            | .mem a => { w with loc := .mem (movedAddr old new a) }
            | .tile _ _ => w) (g.filter fun r => r.1 / 128 != old) h }
      | _ => e }

/-- Sectors granted to queued stores of a frame, or reserved by weirs for it, given back. -/
def State.ungrant (s : State) (frame : Nat) : State :=
  let all := (s.bank.sq ++ s.parked.flatMap (·.2.sq)).flatMap fun e => match e.kind with
    | .store _ g _ => g.filter fun r => r.1 / 128 == frame
    | _ => []
  let held := [0, 1, 2, 3].flatMap fun d => (s.die d).weir.flatMap fun g => g.rsv.filter fun r => r.1 / 128 == frame
  let t := all.foldl (fun s r => s.modDie (s.home (r.1 * 512)) fun x => { x with cmp := x.cmp.setFree (x.cmp.free + r.2) }) s
  held.foldl (fun s r => s.modDie (s.home (r.1 * 512)) fun x =>
    { x with cmp := { x.cmp.setFree (x.cmp.free + r.2) with held := x.cmp.held - r.2 } }) t

/-- A posted host write after a page has moved, cut at page boundaries where it touches the page (R342, R343). -/
def movedPost (old new : Nat) (p : Nat × List Byte × Option Word) : List (Nat × List Byte × Option Word) :=
  let (a, bs, amt) := p
  let n := (a + bs.length - 1) / 65536 + 1 - a / 65536
  if amt.isSome ∨ bs = [] ∨ !(decide (a / 65536 ≤ old ∧ old < a / 65536 + n)) then [p]
  else (List.range n).map fun j =>
    let lo := max a ((a / 65536 + j) * 65536)
    (movedAddr old new lo, (bs.drop (lo - a)).take ((a / 65536 + j + 1) * 65536 - lo), none)

/-- Everything that holds an expanded address follows a page to its new frame (R311, R342, R343); a published line then takes its sectors from
the pool of its new home. -/
def State.follow (s : State) (old new : Nat) : State :=
  let s := s.ungrant old
  let die (d : Die) : Die :=
    { d with adds := d.adds.map fun a => { a with id := movedCtr old new a.id },
             regs_ := d.regs_.map fun w => if w.slot.isNone then { w with addr := movedAddr old new w.addr } else w,
             waiters := d.waiters.map fun w => if w.slot.isNone then { w with addr := movedAddr old new w.addr } else w,
             weir := d.weir.map fun g => { g with lines := g.lines.map (fun l => { l with addr := movedAddr old new l.addr }),
                                                  rsv := g.rsv.filter fun r => r.1 / 128 != old } }
  let ctx (x : Ctx) : Ctx :=
    { x with kernels := x.kernels.map fun k => (k.1, k.2.map fun k => { k with depFrm := k.depFrm.map fun d =>
               if d.1 < 8 then (d.1, d.2.map (movedAddr old new)) else d }),
             saved := x.saved.map fun v => { v with bank := v.bank.moved old new, wait := match v.wait with
               | .counter i t => .counter (movedCtr old new i) t
               | w => w } }
  { s with bank := s.bank.moved old new, parked := s.parked.map fun k => (k.1, k.2.moved old new),
           fns := s.fns.map fun f => (f.1, { f.2 with posted := f.2.posted.flatMap (movedPost old new) }),
           dies := s.dies.map fun d => (d.1, die d.2), ctxs := s.ctxs.map fun x => (x.1, ctx x.2) }

/-- The waiters and adds of memory-form counters handed to the engine of the die that is now their home. -/
def State.rehome (s : State) : State :=
  let ws := [0, 1, 2, 3].flatMap fun d => (s.die d).waiters.filter fun w => w.slot.isNone && s.home w.addr != d
  let rs := [0, 1, 2, 3].flatMap fun d => (s.die d).regs_.filter fun w => w.slot.isNone && s.home w.addr != d
  let stray (d : Nat) (a : CtrAdd) : Bool := match a.id with
    | .word _ x => s.home x != d
    | _ => false
  let as := [0, 1, 2, 3].flatMap fun d => (s.die d).adds.filter (stray d)
  let t := [0, 1, 2, 3].foldl (fun t d => t.modDie d fun x =>
    { x with waiters := x.waiters.filter fun w => !(w.slot.isNone && s.home w.addr != d),
             regs_ := x.regs_.filter (fun w => !(w.slot.isNone && s.home w.addr != d)),
             adds := x.adds.filter fun a => !stray d a }) s
  let t := ws.foldl (fun t w => t.modDie (s.home w.addr) fun x => { x with waiters := x.waiters ++ [w] }) t
  let t := rs.foldl (fun t w => t.modDie (s.home w.addr) fun x => { x with regs_ := x.regs_ ++ [w] }) t
  as.foldl (fun t a => t.modDie (t.ctrDie a.id) fun x => { x with adds := x.adds ++ [a] }) t

/-- MIGRATION_COPY_COMPLETE (R342): the blocks are in the target frame and one update repoints the page, whose writes still wait. A copy
that lacks sectors waits, and so does one with write-throughs to the page on their way. -/
def execMigrationCopyComplete (ctx va : Nat) (s : State) : Out :=
  let va := va / 65536 * 65536
  .next (match s.pageOp ctx va, s.leafOf ctx va with
    | some p, some l =>
      if p.split ∨ p.stage ≠ 0 then s.noRow
      else if s.wts.any (fun w => !w.arrived && w.ws.any fun x => x.1 / 65536 == l.frame) then s
      else
        let fr := s.frameOf (l.frame * 65536)
        match ((s.freeFrames p.target 1).setFrames p.target 1 fun _ => fr).haul
            ((s.heldBlocks l.frame).map fun i => (s.blockHome l.frame i, s.blockHome p.target i)) with
        | none => s
        | some t => match t.fillFrame .reserve p.target (s.frameCells l.frame) with
        | none => s
        | some t =>
          let w := BitVec.ofNat 64 (l.w.toNat % 2 ^ 16 + p.target % 2 ^ 32 * 2 ^ 16)
          let t := t.putPte ctx l (pteWp w false)
          let t := t.modCtx ctx fun x => x.mapFrames fun e =>
            if e.touches l.vpn 1 && e.pages == 1 then { e with frame := p.target, wp := false } else e
          let t := (t.follow l.frame p.target).rehome
          State.settleHost ((t.dropFrames l.frame 1).modCtx ctx fun x => { x with pageOps := x.pageOps.map fun q =>
            if q.va = va then { q with stage := 1, target := l.frame } else q })
    | _, _ => s.noRow)

/-- MIGRATION_INVALIDATE_COMPLETE (R342): every cache has dropped the old entry, stalled writes go on at the new frame and the old frame's
sectors are freed. -/
def execMigrationInvalidateComplete (ctx va : Nat) (s : State) : Out :=
  let va := va / 65536 * 65536
  .next (match s.pageOp ctx va, s.leafOf ctx va with
    | some p, some l =>
      if p.split ∨ p.stage ≠ 1 then s.noRow
      else
        let t := (s.dropCached ctx (va / 65536) 1).dropFrames p.target 1
        let t := (t.follow p.target l.frame).rehome
        let t := ((t.freeFrames p.target 1).setFrames p.target 1 fun _ => Frame.none).frameWp l.frame 1 false
        State.settleHost (t.modCtx ctx fun x => { x with pageOps := x.pageOps.filter (·.va != va) })
    | _, _ => s.noRow)

/-- MIGRATION_CANCEL (R342): the page stays in its old frame, and WP is clear. A page that SPLIT has left with WP set is released by the
same command. -/
def execMigrationCancel (ctx va : Nat) (s : State) : Out :=
  let va := va / 65536 * 65536
  .next (match s.leafOf ctx va with
    | none => s.noRow
    | some l =>
      if l.pte.st ≠ 0 ∨ !l.pte.wp ∨ (s.ctx ctx).pageOps.any (fun p => p.split && p.va == va / 2 ^ 29 * 2 ^ 29) then s.noRow
      else
        let t := (s.putPte ctx l (pteWp l.w false)).modEntries ctx l.vpn l.n fun e => { e with wp := false }
        State.settleHost ((t.frameWp l.frame l.n false).modCtx ctx fun x => { x with pageOps := x.pageOps.filter (·.va != va) }))

/-! ### Splitting (R344, R345) -/

/-- A region of a kernel that is not final needs a permission on the page (R344). -/
def State.regionNeeds (s : State) (c : Nat) (l : Leaf) (write : Bool) : Bool :=
  (s.ctx c).kernels.any fun k => match k.2 with
    | some k => !k.st.final && k.hdr.regions.any fun r =>
        bitAt r.access (if write then 1 else 0) && r.base.toNat % 2 ^ 55 < (l.vpn + l.n) * 65536 &&
          l.vpn * 65536 < r.base.toNat % 2 ^ 55 + r.len.toNat
    | none => false

/-- A small leaf of a split page (R344). -/
def smallLeaf (w : Word) (i : Nat) (r wr wp : Bool) : Nat :=
  let p := pteOf w
  1 + (if r then 2 else 0) + (if wr then 4 else 0) + (if p.x then 8 else 0) + (if p.a then 16 else 0) + (if p.d then 32 else 0) +
    (if p.c then 64 else 0) + (if wp then 128 else 0) + (p.frame + i) * 2 ^ 16

/-- The entries of a large page's small pages. -/
def splitEntry (wp : Bool) (e : FrameEnt) : List FrameEnt :=
  (List.range e.pages).map fun i => { e with vpn := e.vpn + i, pages := 1, frame := e.frame + i, wp := e.wp || wp }

/-- SPLIT (R344), step 1: a RESIDENT 512 MiB page becomes SPLITTING toward a table page that Lorso names; one beyond the exposed space is refused:
DESIGN CHOICE (log 60). -/
def execSplit (ctx va table : Nat) (r w wp : Option Bool) (s : State) : Out :=
  .next (match s.leafOf ctx va with
    | none => s.noRow
    | some l =>
      let rr := r.getD l.pte.r
      let ww := w.getD l.pte.w
      if s.pageBusy ctx l then s.refuse
      else if l.pte.st ≠ 0 ∨ l.n = 1 then s.noRow
      else if s.stagedIn l.frame l.n ∨ !s.exposed table 1 ∨ (l.pte.r && !rr && s.regionNeeds ctx l false) ∨ (l.pte.w && !ww && s.regionNeeds ctx l true) then s.refuse
      else
        (s.putPte ctx l (pteState l.w 3)).modCtx ctx fun x =>
          { x with pageOps := x.pageOps ++ [⟨l.vpn * 65536, true, table, 0, r, w, wp⟩] })

/-- Steps 2 and 3 of a split (R344): the level 3 table is written, and one update replaces the leaf by a pointer to it and each
frame-array entry by the small ones. -/
def State.splitGo (s : State) (ctx : Nat) (l : Leaf) (p : PageOp) : State :=
  let pp := p.wp.getD l.pte.wp
  let t := s.poke (p.target * 65536)
    ((List.range l.n).flatMap fun i => leBytes 8 (smallLeaf l.w i (p.r.getD l.pte.r) (p.w.getD l.pte.w) pp))
  let t := (t.putPte ctx l (BitVec.ofNat 64 (p.target * 2 ^ 16 + 1))).frameWp l.frame l.n pp
  let split (fs : List FrameEnt) : List FrameEnt :=
    fs.flatMap fun e => if e.touches l.vpn l.n && e.pages == l.n then splitEntry pp e else [e]
  t.modCtx ctx fun x => { x.fixFrames split with pageOps := x.pageOps.map fun q =>
    if q.va = p.va ∧ q.split then { q with stage := 1 } else q }

/-- SPLIT_COMPLETE (R248, R344): the first makes the atomic update of steps 2 and 3, after which caches may hold entries of both sizes; the
next says that every invalidation is acknowledged, and the page is RESIDENT as small ones (log 75). -/
def execSplitComplete (ctx va : Nat) (s : State) : Out :=
  let va := va / 2 ^ 29 * 2 ^ 29
  .next (match (s.ctx ctx).pageOps.find? fun p => p.va == va && p.split with
    | none => s.noRow
    | some p =>
      if p.stage = 0 then
        match s.leafOf ctx va with
        | some l => s.splitGo ctx l p
        | none => s.noRow
      else
        let frames := (s.frames.filter fun f => f.2.ctx == ctx && f.2.va / 2 ^ 29 * 2 ^ 29 == va).map (·.1)
        let t := s.dropCached ctx (va / 65536) (2 ^ 13)
        let t := [0, 1, 2, 3].foldl (fun t d => t.dropFar d fun k _ => frames.contains (k / 1024)) t
        t.modCtx ctx fun x => { x with pageOps := x.pageOps.filter fun p => !(p.va == va && p.split) })

/-! ### Dirty tracking (R346, R347) -/

/-- DIRTY_D_SET (R346): a D-set of a page reaches the fantail. -/
def execDirtyDSet (ctx va : Nat) (s : State) : Out :=
  .next (match s.leafOf ctx va with
    | some l => if l.pte.v && l.pte.st != 1 then s.dset ((l.frame + (va / 65536 - l.vpn)) * 65536) else s
    | none => s)

/-- Every leaf of a context's table, EVICTED ones too: the address of its entry and its word (R327). -/
def State.leafWords (s : State) (c : Nat) : List (Nat × Word) :=
  let l2 := ((s.tableWords c (bitsOf (s.ctx c).root.toNat 47 16)).filterMap fun x => ptrFrame x.2).flatMap (s.tableWords c)
  let l3 := (l2.filterMap fun x => ptrFrame x.2).flatMap (s.tableWords c)
  l2.filter (fun x => (pteOf x.2).large) ++ l3.filter fun x => (pteOf x.2).small

/-- DIRTY_ROUND_START (R346): the D bits of a context's pages, the reported bits of its frame-array entries and of the home
controllers' copies are clear. -/
def execDirtyRoundStart (ctx : Nat) (s : State) : Out :=
  let t := (s.leafWords ctx).foldl (fun t x => if (pteOf x.2).d then t.pokePte ctx x.1 (x.2 &&& ~~~0x20#64) else t) s
  let mine := t.frames.filter fun f => f.2.ctx == ctx && f.2.va % 65536 == 0
  let t := mine.foldl (fun t f => { t with frames := mmod Frame.none t.frames f.1 fun e => { e with reported := false } }) t
  .next (t.mapFrames ctx fun e => { e with reported := false })

end Sys2Proof.Machine
end

