-- ==== Sys2Proof/Machine/Saves.lean ====
section
/-! DEFINITION. Saving a bank off its core and bringing it back: safe points, the live masks, the Mill, the tiles, what waits
elsewhere (R41, R63 to R65, R197, R218, R261, R281, R410). -/

namespace Sys2Proof.Machine

/-! ### Safe points (R63 to R65) -/

/-- The entry of a safe-point table: live masks, CW, and whether it is valid with nothing reserved set (R64). -/
structure SpEntry where
  smask : Nat
  vmask : Nat
  pmask : Nat
  cw    : Bool
  ok    : Bool

/-- The entry of 64 bytes. -/
def spEntryOf (b : List Byte) : SpEntry :=
  let f := recNat b 0x38 8
  ⟨recNat b 0 8, recNat b 8 40, recNat b 0x30 8, bitAt f 1, bitAt f 0 && f < 4⟩

/-- Entry i of the safe-point table read for the bank in focus through the instruction translation cache (R65). -/
def State.spEntry (s : State) (i : Nat) : M (SpEntry × State) :=
  let base := match s.myKernel with
    | some k => k.hdr.sptab
    | none => 0
  let va := (base + BitVec.ofNat 64 (64 * i)).toNat % 2 ^ 55
  match s.itcFill (va / 65536) with
  | (.error _, _) => .error (.fault { cause := cFETCH_FAULT, detail := 2, place := BitVec.signExtend 64 (BitVec.ofNat 55 va), whole := true })
  | (.ok w, s) =>
    let p := pteOf w
    if p.st = 2 then .ok (spEntryOf (List.replicate 64 0), s)
    else do
      let (bs, s) ← s.viewBytes (dieOf s.cur) s.bank.id.ctx ((List.range 64).map (leafFrame p va * 65536 + va % 65536 + ·))
      pure (spEntryOf bs, s)

/-- A bundle that holds a CWAIT. -/
def hasCwait (u : Bundle) : Bool := match u.ops.head? with
  | some (some (.op (.cwait _))) => true
  | _ => false

/-- The entry that a safe-point bundle uses, checked (R65): V, CW as the bundle has it, nothing reserved. -/
def State.safePoint (s : State) (u : Bundle) : M (SpEntry × State) := do
  let (e, t) ← s.spEntry u.spIndex
  if !e.ok || e.cw != hasCwait u then
    .error (.fault { cause := cILLEGAL_OPERAND, detail := 1, whole := true })
  else pure (e, t)

/-- The registers that a safe point keeps (R63): the live ones and every pending token. -/
def Bank.liveRegs (b : Bank) (e : SpEntry) : Regs :=
  let m := b.id.capVr - 64
  let vkey (j : Nat) : Nat := if j < 64 then j else 64 + (j - 64 + b.ctl.rotV) % m
  let pkey (j : Nat) : Nat := if j < 16 then j else 16 + (j - 16 + b.ctl.rotP) % 48
  let vs := ((List.range b.id.capVr).filter fun j => bitAt e.vmask j).map vkey
  let ps := ((List.range 64).filter fun j => bitAt e.pmask j).map pkey
  { x := b.regs.x.filter fun x => bitAt e.smask x.1 || (mget Tok.idle b.regs.tok x.1).out != [],
    v := b.regs.v.filter fun x => vs.contains x.1, p := b.regs.p.filter fun x => ps.contains x.1,
    tok := b.regs.tok.filter fun x => bitAt e.smask x.1 || x.2.out != [] }

/-! ### What must be finished first (R218, R261) -/

/-- The bank that an answer is for, but for the waiter of a CWAIT. -/
def Asker.bankOf : Asker → Option Nat
  | .bank b => some b
  | .op b _ | .cmd b _ _ | .stream b _ _ => some b
  | .add a => match a.src with
    | .cadd b _ | .cxadd b _ => some b
    | _ => none
  | .dep _ _ _ | .swapped _ _ | .host _ => none

/-- A CWAITE that waits for its counter. -/
def EngOp.waiting (o : EngOp) : Bool := match o.instr with
  | .cwaite _ => o.st == .running && o.fail == (0, 0) && o.got.isNone
  | _ => false

/-- Nothing of bank b is on its way: its stores and adds, and the stores of its context that it may have observed on its die, have performed
at DEVICE scope, no answer is awaited but that of a counter wait, its launches and QCTLs are answered (R261). -/
def State.settled (s : State) (b : Nat) : Bool :=
  let k := s.getBank b
  k.sq == [] && !s.wts.any (fun w => !w.arrived && (w.bank == b || (w.src == dieOf b && (s.getBank w.bank).id.ctx == k.id.ctx))) &&
    !s.gate.asked.any (fun q => q.who.bankOf == some b && (match q.who with
      | .bank _ => k.swait == .none
      | .op _ ord => !k.ops.any fun o => o.ord == ord && o.waiting
      | _ => true)) &&
    (match k.swait with
      | .remote _ => false
      | _ => true) &&
    [0, 1, 2, 3].all (fun d => (s.die d).adds.all fun a => match a.src with
      | .cadd x _ | .cxadd x _ => x != b
      | _ => true) &&
    !(s.ctx k.id.ctx).launchq.any fun l => l.1 < 64 && l.2.2.2.1 == b

/-- Engine operations, streams, probe fills and Mill commands of a bank stand at boundaries. -/
def Bank.atItems (b : Bank) : Bool :=
  b.ops.all (fun o => match o.st with
    | .running => o.waiting || (o.vals == [] && !o.wr && o.got.isNone)
    | .waitRemote _ => o.waiting
    | _ => true) &&
  b.cmds.all (·.tag.isNone) && b.streams.all (·.waitd.isNone) && b.probes.all fun p => !p.2.fill

/-! ### Saving and resuming -/

/-- Fault records of a context that concern bank a now concern bank b. -/
def FaultWho.rename (a b : Nat) : FaultWho → FaultWho
  | .bank x => .bank (if x = a then b else x)
  | .op x o => .op (if x = a then b else x) o
  | .stream x o => .stream (if x = a then b else x) o
  | .cmd x o => .cmd (if x = a then b else x) o
  | .edge x => .edge (if x = a then b else x)
  | w => w

/-- The records of a context renamed. -/
def State.renameFaults (s : State) (c a b : Nat) : State :=
  let f (l : List FaultHeld) : List FaultHeld := l.map fun h => { h with who := h.who.rename a b }
  s.modCtx c fun x => { x with faults := f x.faults, waitq := f x.waitq }

/-- Waiters of a bank withdrawn (R309, R317, R322). -/
def State.withdraw (s : State) (b : Nat) : State :=
  let s := [0, 1, 2, 3].foldl (fun s d => s.modDie d fun x =>
    { x with waiters := x.waiters.filter fun w => w.remote.isSome || w.bank != b,
             regs_ := x.regs_.filter fun w => w.remote.isSome || w.bank != b }) s
  { s with gate := { s.gate with asked := s.gate.asked.filter fun q => match q.who with
      | .bank x => x != b
      | .op x ord => x != b || !(s.getBank b).ops.any fun o => o.ord == ord && o.waiting
      | _ => true } }

/-- The tiles of a bank given back to the pools, their contents kept with the bank. -/
def State.dropTiles (s : State) (b : Nat) : State :=
  s.freeTiles (coreOf b) ((s.getBank b).tiles.filterMap (·.2))

/-- The key of a bank to be saved: its number, plus a multiple of 512 that makes it new. -/
def State.saveKey (s : State) (c b : Nat) : Nat :=
  let used := (s.ctx c).saved.map (·.key)
  (((List.range (used.length + 1)).map fun i => 512 * (i + 1) + b).find? fun k => !used.contains k).getD (512 + b)

/-- The kennel that is kept (R41): its first 64 bytes times the header's kennel field. -/
def State.keptKennel (s : State) (b : Bank) : Nat := match s.kernel b.id.ctx (kslot b.id.kid) with
  | some k => 64 * k.hdr.kennel
  | none => 0

/-- The kennel of a saved bank: the bytes above what is kept read as zero after a resume (R41). -/
def Bank.cutKennel (k : Bank) (n : Nat) : Bank :=
  { k with kennel := k.kennel.filter (·.1 < n), kview := k.kview.filter (·.1 < n), kpoison := k.kpoison.filter (·.1 < n),
           lag := k.lag.map fun e => { e with kview := e.kview.filter (·.1 < n) } }

/-- A bank as it is saved (R41, R63, R197, R218): at a safe point its live registers, else every register. -/
def State.savedBank (s : State) (b : Nat) (e : Option SpEntry) : Bank :=
  let k := s.getBank b
  let n := s.keptKennel k
  let held := (s.mg (mgOf b)).mill.holder == some b
  let k : Bank := { k with
    preempt := false, stop := false, mheld := if held then some (s.mg (mgOf b)).mill else k.mheld.map fun m => { m with holder := some b }, waitAge := 0,
    ops := k.ops.map fun o => if o.waiting then { o with st := .queued } else o }
  match e with
  | none => k.cutKennel n
  | some e =>
    let r := k.liveRegs e
    { ({ k with kview := k.kennel } : Bank).cutKennel n with
      run := .ready, regs := r, view := r, rpoison := [], cur := none, fetched := [], swait := .none, part := 0,
      issued := .done, late := none, lag := [] }

/-- Bytes of a die's shadow bank (R14). -/
abbrev shadowBytes : Nat := 40 * 2 ^ 20

/-- Bytes of a Mill's state: the micro stores, the local registers and the south buffer. -/
abbrev millBytes : Nat := nCog * nCog * (8 * 4 + 2 * 4 + 4)

/-- The size of a saved bank: its registers, its kennel, the granules of its tiles, the Mill it held. DESIGN CHOICE of what counts (log 82). -/
def Bank.shareBytes (b : Bank) : Nat :=
  8 * b.regs.x.length + 257 * b.regs.v.length + 32 * b.regs.p.length + b.kennel.length +
    (b.tiles.filterMap (·.2)).foldl (fun n t => n + 4096 * t.gran) 0 + if b.mheld.isSome then millBytes else 0

/-- The bytes of saved banks that satisfy p. -/
def shareSum (vs : List Saved) (p : Saved → Bool) : Nat := (vs.filter p).foldl (fun n v => n + v.share) 0

/-- The share of context c on a die stands in the die's shadow bank when it fits beside the others' there, else in HBM (R410). -/
def State.placeShare (s : State) (c d : Nat) : State :=
  let others := (s.ctxs.filter (·.1 != c)).foldl (fun n x => n + shareSum x.2.saved fun v => v.die == d && v.shadow) 0
  let fits := decide (others + shareSum (s.ctx c).saved (·.die == d) ≤ shadowBytes)
  s.modCtx c fun x => { x with saved := x.saved.map fun v => if v.die = d then { v with shadow := fits } else v }

/-- A bank freed for another task. Its issue numbers go on, so that no late answer finds another's. -/
def State.freeBank (s : State) (b : Nat) : State :=
  s.modBank b fun k => { Bank.reset with ord := k.ord, iss := k.iss }

/-- Bank b saved off its core (R197, R261, R410): its lease ends with the Mill's state kept, a request for one and its waiters
are withdrawn, its granules return, its die holds its share. -/
def State.saveBank (s : State) (b : Nat) (sp : Option Nat) (e : Option SpEntry) (w : SavedWait) : State :=
  let c := (s.getBank b).id.ctx
  let key := s.saveKey c b
  let kept := s.savedBank b e
  let v : Saved := { key := key, sp := sp, bank := kept, wait := w, die := dieOf b, share := kept.shareBytes, shadow := false, atHalt := (s.ctx c).st == .halting, masks := match e with
    | some e => [e.smask, e.vmask, e.pmask]
    | none => [2 ^ 64 - 1, 2 ^ 320 - 1, 2 ^ 64 - 1] }
  let turn (q : Asked) : Asked := if w = SavedWait.remote ∧ q.who = Asker.bank b then { q with who := .swapped c key } else q
  let s : State := { s with gate := { s.gate with asked := s.gate.asked.map turn } }
  let s := (s.withdraw b).dropTiles b
  let s := if (s.mg (mgOf b)).mill.holder == some b then s.leaseEnd (mgOf b) 0 else s.leaseWithdraw (mgOf b) b
  let s := (s.renameFaults c b key).modCtx c fun x => { x with saved := x.saved ++ [v] }
  let s := s.modKernel c (kslot v.bank.id.kid) fun k => { k with placed := mset none k.placed v.bank.id.task (some (512 + b)) }
  (s.placeShare c (dieOf b)).freeBank b

/-- The tiles of a resumed bank take granules again. -/
def State.takeTiles (s : State) (b : Nat) (ts : List Tile) : State :=
  ts.foldl (fun s t =>
    if (shapeRaw t.shape).level = 0 then s.modMg (mgOf b) fun m => { m with pool0 := m.pool0 - t.gran }
    else s.modCore (coreOf b) fun k => { k with pool1 := k.pool1 - t.gran }) s

/-- The bank that takes the sequencer of a core whose other bank is free. -/
def State.wake (s : State) (b : Nat) : State :=
  if (s.getBank (otherBank b)).run = .free then s.modCore (coreOf b) fun c => { c with active := b % 2, give := false } else s

/-- A saved bank placed on bank b (R195, R197, R261, R281): its far-cache lines are dropped, its lease is requested again, and
what its groups have come to meanwhile reaches its tokens. -/
def State.resumeBank (s : State) (c : Nat) (v : Saved) (b : Nat) : State :=
  let ord := (s.getBank b).ord
  let s := s.modCtx c fun x => { x with saved := x.saved.filter (·.key != v.key) }
  let s := s.setBank b { v.bank with ord := max ord v.bank.ord }
  let s := (s.takeTiles b (v.bank.tiles.filterMap (·.2))).dropCtx (dieOf b) c
  let s := (s.modKernel c (kslot v.bank.id.kid) fun k => { k with placed := mset none k.placed v.bank.id.task (some (512 + b)) })
  let s := ((s.renameFaults c v.key b).wake b).leaseEnter (mgOf b) b
  let s := s.grantHead (mgOf b)
  let s := (v.bank.gbinds.filterMap (·.2)).foldl (fun s x => match s.boundGroup x with
    | some (d, i, _) => s.settleGroup d i
    | none => s) s
  s.takePends b

end Sys2Proof.Machine
end

