-- ==== Sys2Proof/Machine/Fantail.lean ====
section
/-! DEFINITION. The device's steps for launches, selection, translation and the placement of tasks (R262 to R276, R285, R289 to
R300, R463, R464). -/

namespace Sys2Proof.Machine

/-! ### Launches (R265, R285, R299, R300) -/

/-- The answer of a launch: to the register of the bank that issued it, or to the host window (sources from 64). -/
def State.launchAnswer (s : State) (src b ord : Nat) (ok : Bool) (v : Word) : State :=
  if src < 64 then s.completeTok b src ord ok v
  else s.modFn (src - 64) fun f => { f with result := v, busy := false, go := none }

/-- LAUNCH_ACCEPTANCE (R265): the first launch that has reached the fantail. A host launch follows every posted write sent
before it (R300). -/
def execLaunchAcceptance (ctx : Nat) (s : State) : Out :=
  .next (match (s.ctx ctx).launchq with
    | [] => s
    | (src, va, q, b, ord) :: rest =>
      if 64 ≤ src ∧ (s.fn (src - 64)).posted ≠ [] then s
      else
        let t := s.modCtx ctx fun x => { x with launchq := rest }
        match t.launch ctx va q (src == 64) with
        | .ok (kid, t) => t.launchAnswer src b ord true (launchValue kid)
        | .error (.fault f) => (t.metError f).launchAnswer src b ord false (failVal f.cause f.detail 0)
        | .error .stall => s)

/-- HLW_GO (R299, R300, R430): a write to HLW.GO of a function; the register keeps the queue, but of a write that is discarded or sets
reserved bits (R16). -/
def execHlwGo (fn : Nat) (v : Word) (s : State) : Out :=
  let f := s.fn fn
  .next (if 17 ≤ fn then s
    else if f.busy then s.modFn fn fun f => { f with ovr := true }
    else if s.boot.stage ≠ 7 then s.modFn fn fun f => { f with queue := v, result := failVal cILLEGAL_OPERAND 7 0 }
    else if v.toNat / 64 ≠ 0 then s.modFn fn fun f => { f with result := failVal cILLEGAL_OPERAND 2 0 }
    else match s.fnBound fn with
      | none => s.modFn fn fun f => { f with queue := v, result := failVal cILLEGAL_OPERAND 7 0 }
      | some c =>
        if (s.ctx c).st = .free ∨ (s.ctx c).st = .destroyed then
          s.modFn fn fun f => { f with queue := v, result := failVal cILLEGAL_OPERAND 7 0 }
        else (s.modFn fn fun f => { f with busy := true, queue := v, go := some v }).modCtx c fun x =>
          { x with launchq := x.launchq ++ [(64 + fn, f.addr, v.toNat % 64, 0, 0)] })

/-! ### Dependences, aging, selection (R263, R294, R295, R464) -/

/-- A in the entry of a page, set when the fantail translates it (R326). -/
def State.setA (s : State) (c : Nat) (l : Leaf) : State := if l.pte.a then s else s.putPte c l (l.w ||| 16)

/-- DEPENDENCE_TRANSLATION (R464): a memory-form dependence of a PENDING kernel is translated, or a fault stops it; the
question to another device about its counter is asked again when it has failed. -/
def execDependenceTranslation (ctx k d : Nat) (s : State) : Out :=
  .next (match s.kernel ctx k with
    | none => s
    | some x =>
      let e := x.hdr.deps[d]?.getD (0, 0)
      if x.st ≠ .pending ∨ 4 ≤ d ∨ !depUsed e then s
      else match placeOf e.1 with
        | some (.ext n off) => match x.hdr.regionFor n with
          | none => s
          | some r =>
            if (mget none x.depFrm d).isSome || (mget none x.depFrm (16 + d)).isSome then s
            else
              let va := r.base + BitVec.ofNat 64 off
              let stop (detail : Nat) : State :=
                (s.modKernel ctx k fun y => { y with depFrm := mset none y.depFrm (16 + d) (some 1) }).ctxFault ctx
                  (kernRec (x.kid k) cFETCH_FAULT detail 0 va) (.kernel ctx k)
              let v := va.toNat % 2 ^ 55
              if s.walkWaits ctx v then s
              else match s.leafOf ctx v with
              | some l =>
                if l.pte.st = 1 then s
                else if !l.pte.r then stop 5
                else
                  let a := (l.frame + (v / 65536 - l.vpn)) * 65536 + v % 65536
                  ((s.walked ctx v).setA ctx l).modKernel ctx k fun y => { y with depFrm := mset none y.depFrm d (some a) }
              | none => stop (match s.walk ctx v with
                  | .malformed => 6
                  | _ => 3)
        | _ => s.askDep ctx k d)

/-- AGING_INTERVAL (R295): the ready head of a queue has waited for full aging intervals. -/
def execAgingInterval (ctx q : Nat) (s : State) : Out := .next (s.ageHead ctx q)

/-- The queue of which the fantail selects the head (R294). -/
def State.selection (s : State) (c : Nat) : Option (Nat × Nat × Kernel) :=
  let heads := (List.range 64).filterMap fun q =>
    if (s.queue c q).st = .normal ∨ (s.queue c q).st = .draining then
      (s.head c q).bind fun h => if s.headWait c h.1 h.2 = 0 ∧ !s.doomed c h.1 then some (q, h) else none
    else none
  match heads.foldl (fun m h => max m (h.2.2.prio + 1)) 0 with
  | 0 => none
  | p + 1 =>
    let last := mget 63 (s.ctx c).rr p
    let top := heads.filter (·.2.2.prio == p)
    match top.find? (fun h => last < h.1) with
    | some h => some h
    | none => top.head?

/-- The consumer of a producer's FORWARD handles (R279): the first later kernel of its queue that depends on it, with the same
widths, bindings and N, while it is LOADED or PENDING. -/
def State.pairOf (s : State) (c : Nat) (x : Kernel) : Option Nat :=
  let later := ((s.kernelList c).filter fun e => e.2.queue == x.queue && x.order < e.2.order && e.2.hdr.dependsOn x.hdr &&
    e.2.hdr.widths == x.hdr.widths && e.2.hdr.binds == x.hdr.binds && e.2.hdr.n == x.hdr.n).mergeSort fun a b => a.2.order ≤ b.2.order
  match later.head? with
  | some (k, y) => if y.st = .loaded ∨ y.st = .pending then some (y.kid k) else none
  | none => none

/-- KERNEL_SELECT (R294): a ready head enters DISPATCHING, at most four at once. A stale dependence is taken first (R268), and gains of
priority that are due (R295). -/
def execKernelSelect (ctx : Nat) (s : State) : Out :=
  let s := (s.staleAll ctx).ageCtx ctx
  .next (if (s.ctx ctx).st ≠ .running ∨ 4 ≤ ((s.kernelList ctx).countP fun e => e.2.st == .dispatching) then s
    else match s.selection ctx with
      | none => s
      | some (q, k, x) =>
        (s.modCtx ctx fun y => { y with rr := mset 63 y.rr x.prio q }).modKernel ctx k fun y =>
          { y with st := .dispatching, aged := 0, consumer := s.pairOf ctx x })

/-! ### Translation at dispatch (R273, R274) -/

/-- How the translation of pages ends: all are translated, an EVICTED page is waited for, or a fault with its detail. -/
inductive Trans where
  | done
  | evicted
  | fault (detail : Nat) (va : Nat)

/-- The pages of a region translated one by one, from a page number to the last one. -/
def State.transPages (s : State) (c : Nat) (r : Region) (last : Nat) : Nat → Nat → List FrameEnt → Trans × List FrameEnt × State
  | 0, _, fs => (.done, fs, s)
  | n + 1, vpn, fs =>
    if last < vpn then (.done, fs, s)
    else match findFrame fs r.ext vpn with
      | some f => s.transPages c r last n (f.vpn + f.pages) fs
      | none => match s.leafOf c (vpn * 65536) with
        | none => (.fault (match s.walk c (vpn * 65536) with
            | .malformed => 6
            | _ => 3) (vpn * 65536), fs, s)
        | some l =>
          if (bitAt r.access 0 && !l.pte.r) || (bitAt r.access 1 && !l.pte.w) then (.fault 5 (l.vpn * 65536), fs, s)
          else if l.pte.st = 1 then (.evicted, fs, s)
          else
            let e : FrameEnt := { ext := r.ext, vpn := l.vpn, pages := l.n, frame := l.frame, wp := l.pte.wp, zero := l.pte.st == 2,
                                  reported := l.pte.d }
            let s := (s.walked c (vpn * 65536)).setA c l
            s.transPages c r last n (l.vpn + l.n) (fs ++ [e])

/-- A walk of a page of a region waits for a bank (R423, R428, R429). -/
def State.regionWaits (s : State) (c : Nat) (r : Region) : Bool :=
  let a := r.base.toNat % 2 ^ 55
  let last := (a + r.len.toNat - 1) / 65536
  (List.range (last + 1 - a / 65536)).any fun i => s.walkWaits c ((a / 65536 + i) * 65536)

/-- The regions of a kernel translated in order; the index of the region at which translation stands. -/
def State.transRegions (s : State) (c : Nat) : List (Region × Nat) → List FrameEnt → Trans × Nat × List FrameEnt × State
  | [], fs => (.done, 0, fs, s)
  | (r, i) :: rs, fs =>
    let a := r.base.toNat % 2 ^ 55
    let last := (a + r.len.toNat - 1) / 65536
    match s.transPages c r last (last + 1 - a / 65536) (a / 65536) fs with
    | (.done, fs, s) => s.transRegions c rs fs
    | (t, fs, s) => (t, i, fs, s)

/-- The completion add of a kernel leaves the device, or the kernel is DONE when it makes none (R263, R284). -/
def State.completion (s : State) (c k : Nat) : State :=
  match s.kernel c k with
  | none => s
  | some x =>
    if x.hdr.doneAmt = 0 then s.finish c k .done 0 0
    else
      let s := s.modKernel c k fun x => { x with adding := true, addRes := none }
      match s.kernCtr c x x.hdr.doneId with
      | some id =>
        let a : CtrAdd := { id := id, amount := x.hdr.doneAmt, src := .done c k, place := x.hdr.doneId, bundle := 0, wid := 0, kid := x.kid k,
                            hint := x.hdr.ctrHint x.hdr.doneId, ctx := c }
        s.sendAdd (match id with
          | .remote _ _ => 0
          | i => s.ctrDie i) c a
      | none => s.modKernel c k fun x => { x with addRes := some (cILLEGAL_OPERAND, 0) }

/-- REGION_TRANSLATION_END (R267, R273, R274): the regions of a DISPATCHING kernel are translated and its tasks become placeable;
a page that cannot be mapped stops it with a fault record, an EVICTED page is waited for. -/
def execRegionTranslationEnd (ctx k : Nat) (s : State) : Out :=
  .next (match s.kernel ctx k with
    | none => s
    | some x =>
      if x.st ≠ .dispatching ∨ x.stop.isSome ∨ x.adding ∨ x.hdr.regions.any (s.regionWaits ctx) then s
      else match s.transRegions ctx x.hdr.regions.zipIdx x.frames with
        | (.done, _, fs, s) =>
          let s := s.modKernel ctx k fun x => { x with frames := fs }
          if x.hdr.n = 0 then s.completion ctx k else s.modKernel ctx k fun x => { x with st := .running }
        | (.evicted, _, fs, s) => s.modKernel ctx k fun x => { x with frames := fs }
        | (.fault d va, i, fs, s) =>
          (s.modKernel ctx k fun x => { x with frames := fs, stop := some i }).ctxFault ctx
            (kernRec (x.kid k) cFETCH_FAULT d i (BitVec.signExtend 64 (BitVec.ofNat 55 va))) (.kernel ctx k))

/-! ### The start of a task (R49, R272, R273, R278, R279) -/

/-- The extents of a kernel's tasks (R264). -/
def Header.exts (h : Header) : Map Ext :=
  h.regions.foldl (fun m r => mset Ext.none m r.ext ⟨r.base, r.len,
    r.access + r.edge * 4 + (if r.shared || h.shared then 16 else 0) + (if r.hint then 32 else 0)⟩) []

/-- A line of a frame lies in a region of a kernel. -/
def Kernel.lineIn (k : Kernel) (r : Region) (line : Nat) : Bool :=
  k.frames.any fun e => e.ext == r.ext && e.covers (line / 1024) &&
    (let va := (e.vpn + (line / 1024 - e.frame)) * 65536 + line % 1024 * 64
     let a := r.base.toNat % 2 ^ 55
     va < a + r.len.toNat && a < va + 64)

/-- The handles that a task receives from its producer (R279): on the producer's core as they are, elsewhere in its cluster as
copies, in ascending order as far as the pools and the task's bound go; any others are freed. -/
def State.receive (s : State) (b bound : Nat) (f : Forward) : Map (Option Tile) × State :=
  let near := clusterOf b = f.core / 16
  let r := f.tiles.foldl (fun (x : Map (Option Tile) × Nat × State) t =>
    let (got, used, s) := x
    let lvl := (shapeRaw t.2.shape).level
    let s := s.freeTiles f.core [t.2]
    let room := if lvl = 0 then (s.mg (mgOf b)).pool0 else (s.core (coreOf b)).pool1
    if near ∧ used + t.2.gran ≤ bound ∧ t.2.gran ≤ room then
      (mset none got t.1 (some { t.2 with lock := none }), used + t.2.gran, s.takeTiles b [t.2])
    else (got, used, s)) ([], 0, s)
  (r.1, r.2.2)

/-- The first task from n on that has no place, looking at most at fuel tasks. -/
def firstUnplaced (m : Map (Option Nat)) : Nat → Nat → Nat
  | 0, n => n
  | fuel + 1, n => if (mget none m n).isSome then firstUnplaced m fuel (n + 1) else n

/-- Task t of a kernel started on a free bank: the state of R49. -/
def State.startTask (s : State) (c slot t b : Nat) : State :=
  match s.kernel c slot with
  | none => s
  | some k =>
    let h := k.hdr
    let wid := BitVec.ofNat 64 (t * 2 ^ h.seqBits)
    let (tiles, s) := match k.fwds.find? (·.task == t) with
      | some f => s.receive b h.tile f
      | none => ([], s)
    let regs := Regs.reset.args h.args wid
    let old := s.getBank b
    let s := s.setBank b { Bank.reset with
      run := .ready, regs := regs, view := regs, exts := h.exts, tiles := tiles, pc := h.entry, ord := old.ord, iss := old.iss,
      id := { ctx := c, kid := k.kid slot, task := t, wid := wid, sys := h.sys, capVr := (s.core (coreOf b)).capVr,
              mill := h.mill, tileBound := h.tile } }
    let s := s.modKernel c slot fun k =>
      let placed := mset none k.placed t (some b)
      { k with placed := placed, next := firstUnplaced placed placed.length k.next, fwds := k.fwds.filter (·.task != t) }
    let s := (h.regions.filter (·.edge == 2)).foldl (fun s r => s.dropFar (dieOf b) fun line _ => k.lineIn r line) s
    s.wake b

/-! ### Placement (R296, R297) -/

/-- Kernels that may have tasks to place, in the order of R296. -/
def State.ranked (s : State) (c : Nat) : List (Nat × Kernel) :=
  ((s.kernelList c).filter fun e => e.2.st == .running || e.2.st == .edge).mergeSort fun a b =>
    b.2.prio < a.2.prio || (a.2.prio == b.2.prio && a.2.order ≤ b.2.order)

/-- The banks named for a unit's tasks are an admissible placement (R270 to R272, R279). -/
def State.admissible (s : State) (p : Placing) (u : PlaceUnit) (on : List (Nat × Nat)) : Bool :=
  u.tasks.map (·.task) == on.map (·.1) && (on.map (·.2)).eraseDups.length == on.length &&
  (on.zip u.tasks).all (fun x =>
    let others := on.filter (·.1 != x.1.1)
    s.bankFits p (s.places p ++ others) x.2 x.1.2 && (match u.gang with
      | some l => coreFree p.k.hdr l (s.runsOn p ++ others) x.1.1 x.1.2
      | none => true) &&
    (match p.k.fwds.find? (·.task == x.1.1), ((s.placeUnit p u).getD []).find? (·.1 == x.1.1) with
      | some f, some (_, b) => if coreOf b = f.core then coreOf x.1.2 == f.core
        else clusterOf b != f.core / 16 || clusterOf x.1.2 == f.core / 16
      | _, _ => true)) &&
  (on.zip u.tasks).all fun x =>
    let here0 := (on.zip u.tasks).filter fun y => mgOf y.1.2 == mgOf x.1.2
    let here1 := (on.zip u.tasks).filter fun y => coreOf y.1.2 == coreOf x.1.2
    here0.foldl (fun n y => n + y.2.g0) 0 ≤ (s.mg (mgOf x.1.2)).pool0 && here1.foldl (fun n y => n + y.2.g1) 0 ≤ (s.core (coreOf x.1.2)).pool1

/-- Tasks placed: the saved ones resume, the others start. -/
def State.placeAll (s : State) (c slot kid : Nat) (on : List (Nat × Nat)) : State :=
  on.foldl (fun s x => match (s.ctx c).saved.find? fun v => v.bank.runs c kid && v.bank.id.task == x.1 with
    | some v => s.resumeBank c v x.2
    | none => s.startTask c slot x.1 x.2) s

/-- The running banks of a bank's gang (R271, R297). -/
def State.gangBanks (s : State) (b : Nat) : List Nat :=
  let x := s.getBank b
  match s.kernel x.id.ctx (kslot x.id.kid) with
  | none => [b]
  | some k => match k.hdr.gangLevel x.id.task with
    | none => [b]
    | some l => (s.busyBanks.filter fun y => y.2.runs x.id.ctx x.id.kid && k.hdr.groupOf l y.2.id.task == k.hdr.groupOf l x.id.task).map (·.1)

/-- The banks that a margin lets the fantail pre-empt for a kernel: lowest priority first, then latest launch (R297). -/
def State.victims (s : State) (c : Nat) (prio : Nat) : List Nat :=
  let mine := s.busyBanks.filterMap fun x =>
    if x.2.id.ctx = c ∧ (x.2.run = .ready ∨ x.2.run = .waiting) ∧ !x.2.preempt ∧ !x.2.stop then
      match s.kernel c (kslot x.2.id.kid) with
      | some k => if s.margin ≠ 0 ∧ k.prio + s.margin ≤ prio then some (x.1, k.prio, k.order) else none
      | none => none
    else none
  (mine.mergeSort fun a b => a.2.1 < b.2.1 || (a.2.1 == b.2.1 && b.2.2 ≤ a.2.2)).map (·.1)

/-- The banks that must be pre-empted, gangs whole, until a kernel's next unit fits. -/
def State.enough (s : State) (c slot : Nat) (k : Kernel) : List Nat → List Nat → Option (List Nat)
  | _, [] => none
  | extra, v :: vs =>
    let extra := (extra ++ s.gangBanks v).eraseDups
    if (s.placement c slot k extra).isSome then some extra else s.enough c slot k extra vs

/-- Tasks of lower priority marked for pre-emption for a kernel that lacks banks (R297), unless those marked already will do. -/
def State.preemptFor (s : State) (c slot : Nat) (k : Kernel) : State :=
  let going := (s.busyBanks.filter fun x => x.2.id.ctx == c && x.2.preempt).map (·.1)
  if s.unplaced c slot k = false ∨ (s.placement c slot k going).isSome then s
  else match s.enough c slot k going (s.victims c k.prio) with
    | some bs => bs.foldl (fun s b => s.modBank b fun x => { x with preempt := true }) s
    | none => s

/-- TASK_PLACE (R270 to R272, R279, R296, R297): the unit of kernel k that comes next in the order of R296 is placed on the banks
named. With no bank named, a kernel that lacks banks has tasks of lower priority marked for pre-emption. -/
def execTaskPlace (ctx k : Nat) (on : List (Nat × Nat)) (s : State) : Out :=
  .next (if (s.ctx ctx).st ≠ .running then s
    else
      let before := (s.ranked ctx).takeWhile (·.1 != k)
      match (s.ranked ctx).find? (·.1 == k) with
      | none => s
      | some (_, x) =>
        if before.any fun e => (s.placement ctx e.1 e.2 []).isSome then s
        else if on = [] then (if (s.placement ctx k x []).isSome then s else s.preemptFor ctx k x)
        else
          let p : Placing := ⟨ctx, x.kid k, x, []⟩
          match s.placement ctx k x [], s.unitOf ctx k x (on.map (·.1)) with
          | some first, some u =>
            if first.map (·.1) = on.map (·.1) ∧ s.admissible p u on then s.placeAll ctx k (x.kid k) on else s
          | _, _ => s)

/-! ### Pre-emption and swap-out (R63, R298, R410) -/

/-- The safe-point bundle before which the bank in focus stands (R63, R66). -/
def State.boundary (s : State) : Option (Bundle × State) :=
  match s.bank.run, s.bank.cur with
  | .waiting, some r => some (r.b, s)
  | .ready, none => if s.bank.lag ≠ [] then none else match s.fetchBundle with
    | .line t => match t.dispatch with
      | some u => match u.bank.cur with
        | some r => if r.b.kind = .safePoint then some (r.b, t) else none
        | none => none
      | none => none
    | _ => none
  | _, _ => none

/-- What a bank swapped out of its CWAIT waits for. -/
def State.cwaitOf (s : State) (b : Nat) : SavedWait :=
  if s.gate.asked.any fun q => q.who == Asker.bank b then .remote
  else match [0, 1, 2, 3].findSome? fun d => ((s.die d).waiters ++ (s.die d).regs_).find? fun w => w.bank == b && w.op.isNone && w.remote.isNone with
    | some w => match w.slot with
      | some k => .counter (.slot w.ctx k w.gen) w.target
      | none => .counter (.word w.ctx w.addr) w.target
    | none => .none

/-- Clusters freed once the last bank of a context being swapped out is saved (R410). -/
def State.afterSave (s : State) (c : Nat) : State :=
  if (s.ctx c).st = .preempted ∧ !s.busyBanks.any (fun x => x.2.id.ctx == c) then s.modCtx c fun x => { x with clusters := [] } else s

/-- A bank at its boundary saved, or the fault of its safe-point table entry taken (R63, R65): it is not pre-empted there; one whose context is
swapped out or halted is saved whole, as every faulted bank (R410, R412). -/
def State.saveAt (s : State) (b : Nat) (u : Bundle) (swap : Bool) : State :=
  match s.safePoint u with
  | .error (.fault f) => (s.upd fun k => { k with preempt := (s.ctx k.id.ctx).st != .running }).takeFault f
  | .error .stall => s
  | .ok (e, t) =>
    let c := t.bank.id.ctx
    (t.saveBank b (some u.spIndex) (some e) (if swap then t.cwaitOf b else .none)).afterSave c

/-- The grants of sectors that a bank's stores hold given back. -/
def State.ungrantBank (s : State) (b : Nat) : State :=
  let gs := (s.getBank b).sq.flatMap fun e => match e.kind with
    | .store _ g _ => g
    | _ => []
  let s := gs.foldl (fun s r => s.modDie (s.home (r.1 * 512)) fun x => { x with cmp := x.cmp.setFree (x.cmp.free + r.2) }) s
  s.modBank b fun k => { k with sq := k.sq.map fun e => match e.kind with
    | .store ws _ h => { e with kind := .store ws [] h }
    | _ => e }

/-- A faulted bank's accesses have performed but for the stores that its fault holds (R340, R410). -/
def State.settledHeld (s : State) (b : Nat) : Bool :=
  let k := s.getBank b
  (match k.sq.head? with
    | some e => match e.kind with
      | .store _ _ h => h
      | _ => false
    | none => true) && (s.setBank b { k with sq := [] }).settled b

/-- PREEMPT_AT_SAFE_POINT (R63, R410, R412): a bank asked to stop is saved at its boundary once what it has issued has performed.
A faulted bank of a context that is swapped out or halted is saved whole. -/
def execPreemptAtSafePoint (b : Nat) (s : State) : Out :=
  .next (s.onBank b fun s =>
    if !s.bank.preempt || s.bank.stop || !s.bank.atItems then s
    else if s.bank.run = .faulted then
      if (s.ctx s.bank.id.ctx).st = .running ∨ !s.settledHeld s.cur then s
      else
        let c := s.bank.id.ctx
        ((s.ungrantBank s.cur).saveBank s.cur none none .none).afterSave c
    else if !s.settled s.cur then s
    else match s.boundary with
      | some (u, t) => t.saveAt t.cur u false
      | none => s)

/-- WAIT_LIMIT_SWAPOUT (R298): a bank in CWAIT beyond the wait limit is swapped out when a task lacks banks. -/
def execWaitLimitSwapout (b : Nat) (s : State) : Out :=
  .next (s.onBank b fun s =>
    match s.bank.swait with
    | .counter since _ =>
      let c := s.bank.id.ctx
      let lacks := (s.ranked c).any fun e => (s.placement c e.1 e.2 []).isNone && (s.placement c e.1 e.2 (s.partBanks c)).isSome
      if s.bank.run ≠ .waiting ∨ s.cycle ≤ since + s.waitLim ∨ !lacks ∨ s.bank.stop ∨ !s.bank.atItems ∨ !s.settled s.cur then s
      else match s.bank.cur with
        | some r => s.saveAt s.cur r.b true
        | none => s
    | _ => s)

end Sys2Proof.Machine
end

