-- ==== Sys2Proof/Machine/VecInt.lean ====
section
/-! DEFINITION. Integer, comparing, selecting and bitwise V operations (R141 to R147). -/

namespace Sys2Proof.Machine

/-! ### Shared reads and writes of the V slots -/

/-- A source of one register with the tag f (R84, R135). -/
def State.vtagged (s : State) (slot : Nat) (fld : VFld) (f : Nat) : M (VReg × State) := do
  let (v, s) ← s.vsrc slot fld
  tagged v f
  pure (v, s)

/-- A group of n source registers with the tag f. -/
def State.vtaggeds (s : State) (slot : Nat) (fld : VFld) (n f : Nat) : M (List VReg × State) := do
  let (vs, s) ← s.vsrcs slot fld n
  vs.forM fun v => tagged v f
  pure (vs, s)

/-- The predicate that vc names when a mask is given (R153, R160, R174, R176): element i of b bits takes part. -/
def State.vmask (s : State) (on : Bool) (vc : VFld) : M (Nat → Nat → Bool) :=
  if on then do
    let p ← s.pget (predOf vc)
    pure fun i b => governs p 0 i b
  else .ok fun _ _ => true

/-- The values and flags of elements put into a destination: the flags merged into FFLAGS (R96). -/
def State.vput (s : State) (slot : Nat) (vd : VFld) (f : Nat) (rs : List (Nat × Nat)) : M State :=
  (s.addFlags (rs.foldl (fun a r => a ||| r.2) 0)).vdst slot vd (vpack f (s.efr slot) (rs.map (·.1)))

/-- The formats I8 to N64 and, where p says so, PACKED (R141). -/
def intFmt (p : Bool) (f : Nat) : Bool := isInt f || (p && f == tPACKED)

/-- The formats with 8-, 16-, 32- or 64-bit elements (R146, R161, R162, R170). -/
def sizedFmt (f : Nat) : Bool := (fmtBits f).isSome

/-- An integer operation of two or three sources (R141): each element's exact sources to its bits and flags. -/
def vint (o : VrOp) (s : State) (ok three : Bool) (g : IKind → Int → Int → Int → Nat × Nat) : Out :=
  run s (do
    let slot := vslot o.sl
    let f := o.fmt.toNat
    legal ok
    let (a, s) ← s.vtagged slot o.va f
    let (b, s) ← s.vtagged slot o.vb f
    let (c, s) ← if three then s.vtagged slot o.vc f else pure (VReg.zero, s)
    let e := s.efr slot
    let k := ikindOf f e
    let rs := ((a.elems f e).zip ((b.elems f e).zip (c.elems f e))).map fun x =>
      g k (readInt k e x.1) (readInt k e x.2.1) (readInt k e x.2.2)
    s.vput slot o.vd f rs)

/-- An operation placed by its sat/mode field (R85, R141). -/
def vplaced (o : VrOp) (s : State) (p three : Bool) (g : Int → Int → Int → Int) : Out :=
  vint o s (intFmt p o.fmt.toNat && o.sm.toNat < 2) three fun k a b c => placeInt (g a b c) k (o.sm == 1)

/-- VADD (R141). -/
def execVadd (o : VrOp) (s : State) : Out := vplaced o s true false fun a b _ => a + b

/-- VSUB (R141). -/
def execVsub (o : VrOp) (s : State) : Out := vplaced o s true false fun a b _ => a - b

/-- VADDS (R141, R142): always saturates. -/
def execVadds (o : VrOp) (s : State) : Out :=
  vint o s (intFmt true o.fmt.toNat && o.sm.toNat < 2) false fun k a b _ => placeInt (a + b) k true

/-- VSUBS (R141, R142): always saturates. -/
def execVsubs (o : VrOp) (s : State) : Out :=
  vint o s (intFmt true o.fmt.toNat && o.sm.toNat < 2) false fun k a b _ => placeInt (a - b) k true

/-- VMUL (R141). -/
def execVmul (o : VrOp) (s : State) : Out := vplaced o s false false fun a b _ => a * b

/-- VMAD (R141): placed once. -/
def execVmad (o : VrOp) (s : State) : Out := vplaced o s false true fun a b c => a * b + c

/-- VABSD (R141). -/
def execVabsd (o : VrOp) (s : State) : Out := vplaced o s false false fun a b _ => ((a - b).natAbs : Int)

/-- An exact minimum or maximum stored (R141). A substitute wider than the element has no stated bits: a free value. -/
def placeExact (k : IKind) (x : Int) : Nat × Nat :=
  let y := wrapBits x k.width
  if (if k.signed then toSigned y k.width else (y : Int)) = x then (y, 0)
  else (Config.narrowBits x k.width % 2 ^ k.width, 0)

/-- VMIN (R141). -/
def execVmin (o : VrOp) (s : State) : Out :=
  vint o s (intFmt true o.fmt.toNat) false fun k a b _ => placeExact k (min a b)

/-- VMAX (R141). -/
def execVmax (o : VrOp) (s : State) : Out :=
  vint o s (intFmt true o.fmt.toNat) false fun k a b _ => placeExact k (max a b)

/-- An exact quotient x / 2^d rounded to an integer, with NX (R95). -/
def roundShift (r : Rm) (x : Int) (d : Nat) : Int × Nat :=
  let (m, inex) := roundAt r (decide (x < 0)) x.natAbs (-(d : Int)) 0 false
  (if x < 0 then -(m : Int) else m, if inex then fNX else 0)

/-- Elements of a register in format f rounded one by one, with RS.SEED (R97, R137). -/
def State.vrounded (s : State) (slot : Nat) (vd : VFld) (f : Nat) (code : Nat) (fs : List (Rm → Nat × Nat)) : M State :=
  let (xs, r) := roundElems code s.rounding fs
  (s.rounded r).vdst slot vd (vpack f (s.efr slot) xs)

/-- VMULH (R143): HI is the upper half, Q the rounded and saturated fractional product. -/
def execVmulh (o : VrOp) (s : State) : Out :=
  let f := o.fmt.toNat
  if o.sm = 0 then
    vint o s (intFmt false f) false fun k a b _ => (wrapBits (a * b / (2 : Int) ^ k.width) k.width, 0)
  else run s (do
    let slot := vslot o.sl
    legal (o.sm == 2 && isSigned f)
    let code ← s.rmCode o.rnd
    let (a, s) ← s.vtagged slot o.va f
    let (b, s) ← s.vtagged slot o.vb f
    let e := s.efr slot
    let k := ikindOf f e
    s.vrounded slot o.vd f code (((a.elems f e).zip (b.elems f e)).map fun x r =>
      let (y, nx) := roundShift r (readInt k e x.1 * readInt k e x.2) (k.width - 1)
      let (z, fl) := placeInt y k true
      (z, nx ||| fl)))

/-! ### Shifts (R144) -/

/-- The operand of a shift and the amount of each element. -/
def State.vshift (s : State) (o : VrOp) : M (List (Nat × Nat) × State) := do
  let slot := vslot o.sl
  let f := o.fmt.toNat
  legal (isInt f)
  let w := fmtWidth f (s.efr slot)
  let (a, s) ← s.vtagged slot o.va f
  if o.fn.toNat < 128 then do
    let (b, s) ← s.vtagged slot o.vb f
    pure (((a.elems f (s.efr slot)).zip (b.elems f (s.efr slot))).map fun x => (x.1, x.2 % w), s)
  else do
    let n := o.fn.toNat % 64
    legal (n < w)
    pure ((a.elems f (s.efr slot)).map fun x => (x, n), s)

/-- VSHL (R144). -/
def execVshl (o : VrOp) (s : State) : Out :=
  run s (do
    legal (o.sm.toNat < 2)
    let (xs, s) ← s.vshift o
    let f := o.fmt.toNat
    let e := s.efr (vslot o.sl)
    let k := ikindOf f e
    s.vput (vslot o.sl) o.vd f (xs.map fun x => placeInt (readInt k e x.1 * (2 : Int) ^ x.2) k (o.sm == 1)))

/-- VSHR (R144): rounded by rnd. -/
def execVshr (o : VrOp) (s : State) : Out :=
  run s (do
    let code ← s.rmCode o.rnd
    let (xs, s) ← s.vshift o
    let f := o.fmt.toNat
    let e := s.efr (vslot o.sl)
    let k := ikindOf f e
    s.vrounded (vslot o.sl) o.vd f code (xs.map fun x r =>
      let (y, nx) := roundShift r (readInt k e x.1) x.2
      (wrapBits y k.width, nx)))

/-! ### Comparisons and VSEL (R145, R146) -/

/-- The outcome of an ordered condition code on a comparison (R145). -/
def condOf (fn : Nat) (lt eq : Bool) : Bool :=
  match fn with
  | 0 => eq
  | 1 => !eq
  | 2 => lt
  | 3 => lt || eq
  | 4 => !(lt || eq)
  | _ => !lt

/-- VCMP (R145). -/
def execVcmp (o : VrOp) (s : State) : Out :=
  run s (do
    let slot := vslot o.sl
    let f := o.fmt.toNat
    legal (isInt f && o.fn.toNat < 6)
    let (a, s) ← s.vtagged slot o.va f
    let (b, s) ← s.vtagged slot o.vb f
    let e := s.efr slot
    let k := ikindOf f e
    let rs := ((a.elems f e).zip (b.elems f e)).map fun x =>
      condOf o.fn.toNat (decide (readInt k e x.1 < readInt k e x.2)) (x.1 == x.2)
    pure (s.pset (predOf o.vd) (predOfElems k.width (nElems f e) fun i => rs[i]?.getD false)))

/-- VSEL (R146): guard 00 takes va everywhere. -/
def execVsel (o : VgOp) (s : State) : Out :=
  run s (do
    let slot := vslot o.sl
    let f := o.fmt.toNat
    legal (sizedFmt f && f != tRAW)
    let (a, s) ← s.vtagged slot o.va f
    let (b, s) ← if o.guard = 2 then pure (VReg.zero, s) else s.vtagged slot o.vb f
    let p ← if o.guard = 0 then pure 0 else s.pget o.pg
    let e := s.efr slot
    let w := fmtWidth f e
    let xs := ((a.elems f e).zip (b.elems f e)).zipIdx.map fun x =>
      if o.guard = 0 ∨ governs p o.pol x.2 w then x.1.1 else x.1.2
    s.vdst slot o.vd (vpack f e xs))

/-! ### Bitwise operations (R147) -/

/-- A tag whose registers stand in pairs or groups. -/
def grouped (f : Nat) : Bool := f == tBFP || f == tPLANE

/-- The tag of a bitwise result: the common tag of va and vb; RAW when they differ or some operand is BFP or PLANE (R147). -/
def bitsTag (a b c : VReg) : Nat :=
  if a.tag = b.tag ∧ !grouped a.tag ∧ !grouped c.tag then a.tag else tRAW

/-- A bitwise operation of va, vb and, when three says so, vc. -/
def vbits (o : VrOp) (s : State) (three : Bool) (g : VBits → VBits → VBits → VBits) : Out :=
  run s (do
    let slot := vslot o.sl
    let (a, s) ← s.vsrc slot o.va
    let (b, s) ← s.vsrc slot o.vb
    let (c, s) ← if three then s.vsrc slot o.vc else pure (VReg.zero, s)
    s.vdst slot o.vd ⟨g a.bits b.bits c.bits, bitsTag a b c⟩)

/-- VAND (R147). -/
def execVand (o : VrOp) (s : State) : Out := vbits o s false fun a b _ => a &&& b

/-- VOR (R147). -/
def execVor (o : VrOp) (s : State) : Out := vbits o s false fun a b _ => a ||| b

/-- VXOR (R147). -/
def execVxor (o : VrOp) (s : State) : Out := vbits o s false fun a b _ => a ^^^ b

/-- VBIT (R147): each bit of vc selects va where it is 1 and vb where it is 0. -/
def execVbit (o : VrOp) (s : State) : Out := vbits o s true fun a b c => (a &&& c) ||| (b &&& ~~~c)

end Sys2Proof.Machine
end

