-- ==== Sys2Proof/Machine/VecFp.lean ====
section
/-! DEFINITION. Floating-point V operations (R145, R148 to R150). -/

namespace Sys2Proof.Machine

/-- An operation of R148 over n sources, each element rounded once. The value of an element may depend on the mode
through the sign of an exact zero sum. -/
def vfp (o : VrOp) (s : State) (n : Nat) (rnd : Bool) (g : FpFmt → Rm → FV → FV → FV → Nat × Nat) : Out :=
  run s (do
    let slot := vslot o.sl
    let f := o.fmt.toNat
    legal (isFp3 f)
    let code ← if rnd then s.rmCode o.rnd else pure 0
    let (a, s) ← s.vtagged slot o.va f
    let (b, s) ← if 2 ≤ n then s.vtagged slot o.vb f else pure (VReg.zero, s)
    let (c, s) ← if 3 ≤ n then s.vtagged slot o.vc f else pure (VReg.zero, s)
    let e := s.efr slot
    let t := fpFmt f
    s.vrounded slot o.vd f code (((a.elems f e).zip ((b.elems f e).zip (c.elems f e))).map fun x r =>
      g t r (fpDecode t x.1) (fpDecode t x.2.1) (fpDecode t x.2.2)))

/-- An exact value with its NV flag, rounded once. -/
def fpDone (t : FpFmt) (r : Rm) (x : FV × Nat) : Nat × Nat :=
  let (c, fl) := fpPack t r x.1
  (c, fl ||| x.2)

/-- VFADD (R148). -/
def execVfadd (o : VrOp) (s : State) : Out := vfp o s 2 true fun t r a b _ => fpDone t r (fvAdd r a b)

/-- VFSUB (R148). -/
def execVfsub (o : VrOp) (s : State) : Out := vfp o s 2 true fun t r a b _ => fpDone t r (fvAdd r a (fvNeg b))

/-- VFMUL (R148). -/
def execVfmul (o : VrOp) (s : State) : Out := vfp o s 2 true fun t r a b _ => fpDone t r (fvMul a b)

/-- VFMA (R148): rounded once. -/
def execVfma (o : VrOp) (s : State) : Out := vfp o s 3 true fun t r a b c => fpDone t r (fvFma r a b c)

/-- VFMIN (R94, R148). -/
def execVfmin (o : VrOp) (s : State) : Out := vfp o s 2 false fun t r a b _ => fpPack t r (fvMinMax false a b)

/-- VFMAX (R94, R148). -/
def execVfmax (o : VrOp) (s : State) : Out := vfp o s 2 false fun t r a b _ => fpPack t r (fvMinMax true a b)

/-- VFCMP (R145): −0 equals +0. -/
def execVfcmp (o : VrOp) (s : State) : Out :=
  run s (do
    let slot := vslot o.sl
    let f := o.fmt.toNat
    let fn := o.fn.toNat
    legal (isFp3 f && fn < 8)
    let (a, s) ← s.vtagged slot o.va f
    let (b, s) ← s.vtagged slot o.vb f
    let e := s.efr slot
    let t := fpFmt f
    let rs := ((a.elems f e).zip (b.elems f e)).map fun x =>
      let p := fpDecode t x.1
      let q := fpDecode t x.2
      let un := fvNan p || fvNan q
      if fn = 6 then (un, false)
      else if fn = 7 then (!un, false)
      else if un then (fn == 1, decide (2 ≤ fn))
      else (condOf fn (fvLt p q) (fvEq p q), false)
    let s := if rs.any (·.2) then s.addFlags fNV else s
    pure (s.pset (predOf o.vd) (predOfElems (fmtWidth f e) (nElems f e) fun i => (rs[i]?.getD (false, false)).1)))

/-- The reciprocal of an element (R148, R149). -/
def fpRcp (t : FpFmt) (r : Rm) (a : FV) : Nat × Nat :=
  match a with
  | .nan => (t.nan, 0)
  | .inf s => (fpZero t s, 0)
  | .fin s m e => if m = 0 then (withSign t s t.inf, fDZ) else fpPackA t r (recip s m e)

/-- The reciprocal square root of an element (R148, R149). -/
def fpRsq (t : FpFmt) (r : Rm) (a : FV) : Nat × Nat :=
  match a with
  | .nan => (t.nan, 0)
  | .inf s => if s then (t.nan, fNV) else (fpZero t false, 0)
  | .fin s m e =>
    if m = 0 then (withSign t s t.inf, 0)
    else if s then (t.nan, fNV) else fpPackA t r (recipSqrt m e)

/-- Two to the power of an element (R148, R149). -/
def fpExp2 (t : FpFmt) (r : Rm) (a : FV) : Nat × Nat :=
  match a with
  | .nan => (t.nan, 0)
  | .inf s => (if s then fpZero t false else t.inf, 0)
  | .fin s m e => if m = 0 then fpRound t r false false 1 0 false else fpPackA t r (exp2 s m e)

/-- The binary logarithm of an element (R148, R149). -/
def fpLog2 (t : FpFmt) (r : Rm) (a : FV) : Nat × Nat :=
  match a with
  | .nan => (t.nan, 0)
  | .inf s => if s then (t.nan, fNV) else (t.inf, 0)
  | .fin s m e =>
    if m = 0 then (withSign t true t.inf, fDZ)
    else if s then (t.nan, fNV) else fpPackA t r (log2 m e)

/-- VFRCP (R148, R149). -/
def execVfrcp (o : VrOp) (s : State) : Out := vfp o s 1 true fun t r a _ _ => fpRcp t r a

/-- VFRSQ (R148, R149). -/
def execVfrsq (o : VrOp) (s : State) : Out := vfp o s 1 true fun t r a _ _ => fpRsq t r a

/-- VFEXP2 (R148, R149). -/
def execVfexp2 (o : VrOp) (s : State) : Out := vfp o s 1 true fun t r a _ _ => fpExp2 t r a

/-- VFLOG2 (R148, R149). -/
def execVflog2 (o : VrOp) (s : State) : Out := vfp o s 1 true fun t r a _ _ => fpLog2 t r a

/-- The sign of a result of VFSGN (R150). -/
def sgnOf (fn : Nat) (a b : Bool) : Bool :=
  match fn with
  | 0 => b
  | 1 => !b
  | 2 => a != b
  | 3 => false
  | _ => !a

/-- VFSGN (R150): signs only, no rounding and no flag. -/
def execVfsgn (o : VrOp) (s : State) : Out :=
  run s (do
    let slot := vslot o.sl
    let f := o.fmt.toNat
    let fn := o.fn.toNat
    legal (isFp3 f && fn < 5)
    let (a, s) ← s.vtagged slot o.va f
    let (b, s) ← if fn < 3 then s.vtagged slot o.vb f else pure (a, s)
    let e := s.efr slot
    let t := fpFmt f
    let w := fmtWidth f e
    s.vdst slot o.vd (vpack f e (((a.elems f e).zip (b.elems f e)).map fun x =>
      if fvNan (fpDecode t x.1) then t.nan
      else withSign t (sgnOf fn (bitAt x.1 (w - 1)) (bitAt x.2 (w - 1))) (x.1 % 2 ^ (w - 1)))))

end Sys2Proof.Machine
end

