-- ==== Sys2Proof/Machine/VecConv.lean ====
section
/-! DEFINITION. Conversions, block floating point, keys (R151 to R154, R156). -/

namespace Sys2Proof.Machine

/-- The formats VCVT converts between (R151). -/
def cvtFmt (f : Nat) : Bool := isInt f || isFp f || f == tIDX || f == tPACKED

/-- VCVT (R98, R151). RS advances once for each element converted. -/
def execVcvt (o : VrOp) (s : State) : Out :=
  run s (do
    let slot := vslot o.sl
    let f := o.fmt.toNat
    let e := s.efr slot
    legal (cvtFmt f && o.sm.toNat < 2)
    let code ← s.rmCode o.rnd
    let (a, s) ← s.vsrc slot o.va
    need (cvtFmt a.tag) cFORMAT_MISMATCH 0
    let ns := nElems a.tag e
    let nd := nElems f e
    let n := min ns nd
    let p := o.fn.toNat % 16
    legal ((p + 1) * n ≤ max ns nd)
    let src := a.elems a.tag e
    let src := if nd ≤ ns then (src.drop (p * n)).take n else src
    let (xs, r) := roundElems code s.rounding (src.map fun x r => convNum a.tag f e r (o.sm == 1) (readNum a.tag e x))
    let s := s.rounded r
    if nd ≤ ns then s.vdst slot o.vd (vpack f e xs)
    else do
      let (old, s) ← s.vold slot o.vd
      let w := fmtWidth f e
      s.vdst slot o.vd ⟨BitVec.ofNat 2048 (setFields (old.bits.toNat % 2 ^ (w * nd)) (p * n * w) w xs), f⟩)

/-- The number of registers a format's value occupies in VTAG (R152). -/
def groupSize (f : Nat) (e : Efr) : Nat := if f = tBFP then 2 else if f = tPLANE then e.width else 1

/-- VTAG (R152). -/
def execVtag (o : VrOp) (s : State) : Out :=
  run s (do
    let slot := vslot o.sl
    let f := o.fmt.toNat
    legal (f < 0x12)
    legal (f != tBFP || (s.vnumber slot o.va % 2 == 0 && s.vnumber slot o.vd % 2 == 0))
    let (vs, s) ← s.vsrcs slot o.va (groupSize f (s.efr slot))
    s.vdsts slot o.vd (vs.map fun v => { v with tag := f }))

/-- The mantissa width of a register pair: 2, 4 or 8 (R99). -/
def State.pairWidth (s : State) (slot : Nat) : M Nat :=
  let w := (s.efr slot).bfpw
  if w = 2 ∨ w = 4 ∨ w = 8 then .ok w else illegal

/-- VBFPQ (R100, R153). -/
def execVbfpq (o : VrOp) (s : State) : Out :=
  run s (do
    let slot := vslot o.sl
    let f := o.fmt.toNat
    legal (isFp3 f)
    let w ← s.pairWidth slot
    legal (s.vnumber slot o.vd % 2 == 0)
    let e := s.efr slot
    let nb := nElems f e / 32
    let p := o.fn.toNat % 16
    legal ((p + 1) * nb ≤ 64 / w)
    let takes ← s.vmask (bitAt o.fn.toNat 4) o.vc
    let (a, s) ← s.vtagged slot o.va f
    let (old, s) ← s.volds slot o.vd 2
    let t := fpFmt f
    let xs := (a.elems f e).zipIdx.map fun x => (fpDecode t x.1, !takes x.2 (fmtWidth f e))
    let bs := (List.range nb).map fun k => bfpQuant w ((xs.drop (32 * k)).take 32)
    let mant := setFields ((old[0]?.getD VReg.zero).bits.toNat) (p * nb * 32 * w) w (bs.flatMap (·.2.1))
    let exps := setFields ((old[1]?.getD VReg.zero).bits.toNat % 2 ^ (8 * (64 / w))) (p * nb * 8) 8 (bs.map (·.1))
    let s := s.addFlags (bs.foldl (fun a b => a ||| b.2.2) 0)
    s.vdsts slot o.vd [⟨BitVec.ofNat 2048 mant, tBFP⟩, ⟨BitVec.ofNat 2048 exps, tBFP⟩])

/-- An element of a block as FP32 or BF16 (R99, R100, R154): a BF16 result is rounded by RNE and may set NX, the one flag. An FP32
result beyond the format is a free value (log 12). -/
def bfpOut (f w ex mant : Nat) (e : Efr) : Nat × Nat :=
  let (x, fl) := fpPack (fpFmt f) .rne (bfpValue w ex mant e)
  if f ≠ tBF16 ∧ bitAt fl 2 then (Config.bfpBeyond f % 2 ^ fmtWidth f e, 0) else (x, fl % 2)

/-- VBFPD (R100, R154). -/
def execVbfpd (o : VrOp) (s : State) : Out :=
  run s (do
    let slot := vslot o.sl
    let f := o.fmt.toNat
    legal (f == tFP32 || f == tBF16)
    let w ← s.pairWidth slot
    legal (s.vnumber slot o.va % 2 == 0)
    let e := s.efr slot
    let nb := nElems f e / 32
    let p := o.fn.toNat % 16
    legal ((p + 1) * nb ≤ 64 / w)
    let (vs, s) ← s.vtaggeds slot o.va 2 tBFP
    let mant := (vs[0]?.getD VReg.zero).bits.toNat
    let exps := (vs[1]?.getD VReg.zero).bits.toNat
    s.vput slot o.vd f ((List.range (nElems f e)).map fun i =>
      bfpOut f w (fieldAt exps (p * nb + i / 32) 8) (fieldAt mant (p * nb * 32 + i) w) e))

/-- The unsigned format of a width (R156). -/
def keyFmt (w : Nat) : Nat := if w = 8 then tN8 else if w = 16 then tN16 else if w = 32 then tN32 else tN64

/-- The key of an element (R156). -/
def orderKey (f w x : Nat) (desc : Bool) : Nat :=
  let top := 2 ^ (w - 1)
  let all := 2 ^ w - 1
  let nan := isFp f && fvNan (fpDecode (fpFmt f) x)
  let up :=
    if isFp f then (if x < top then x + top else all - x)
    else if isSigned f then (x + top) % 2 ^ w
    else x
  if nan then (if desc then all else 0) else if desc then all - up else up

/-- VOKEY (R156). -/
def execVokey (o : VrOp) (s : State) : Out :=
  run s (do
    let slot := vslot o.sl
    let f := o.fmt.toNat
    legal ((isInt f || f == tIDX || isFp3 f) && o.fn.toNat < 2)
    let (a, s) ← s.vtagged slot o.va f
    let e := s.efr slot
    let w := fmtWidth f e
    s.vdst slot o.vd (vpack (keyFmt w) e ((a.elems f e).map fun x => orderKey f w x (o.fn == 1))))

end Sys2Proof.Machine
end

