-- ==== Sys2Proof/Machine/VecPlane.lean ====
section
/-! DEFINITION. Bit-plane operations (R91, R155, R157 to R159). -/

namespace Sys2Proof.Machine

/-- The 2048 elements of a group of planes, plane 0 lowest (R91). -/
def planeElems (vs : List VReg) : List Nat :=
  (List.range 2048).map fun i => vs.foldr (fun v n => 2 * n + (if v.bits.getLsbD i then 1 else 0)) 0

/-- A group of w planes that holds 2048 elements. -/
def planeRegs (w : Nat) (xs : List Nat) : List VReg :=
  (List.range w).map fun j => ⟨BitVec.ofNat 2048 (packed 1 (xs.map (· >>> j))), tPLANE⟩

/-- The part bound of VPLANE and VUNPL: the elements n of a PACKED register and part p below ceil(2048 / n) (R155). -/
def State.planePart (s : State) (o : VrOp) : M (Nat × Nat × Nat) :=
  let w := (s.efr (vslot o.sl)).width
  let n := 2048 / w
  let p := o.fn.toNat
  if p < (2048 + n - 1) / n then .ok (w, n, p) else illegal

/-- VPLANE (R155). -/
def execVplane (o : VrOp) (s : State) : Out :=
  run s (do
    let slot := vslot o.sl
    let (w, n, p) ← s.planePart o
    let (a, s) ← s.vtagged slot o.va tPACKED
    let (old, s) ← s.volds slot o.vd w
    let xs := (a.elems tPACKED (s.efr slot)).take (2048 - p * n)
    let was := planeElems old
    s.vdsts slot o.vd (planeRegs w (was.take (p * n) ++ xs ++ was.drop (p * n + xs.length))))

/-- VUNPL (R155). -/
def execVunpl (o : VrOp) (s : State) : Out :=
  run s (do
    let slot := vslot o.sl
    let (w, n, p) ← s.planePart o
    let (vs, s) ← s.vtaggeds slot o.va w tPLANE
    s.vdst slot o.vd (vpack tPACKED (s.efr slot) (((planeElems vs).drop (p * n)).take n)))

/-- The integers of a plane group (R89, R91). -/
def planeInts (e : Efr) (vs : List VReg) : List Int := (planeElems vs).map (readInt ⟨e.width, e.signed, true⟩ e)

/-- Integers placed in a plane group with SAT flagged (R85, R157). -/
def State.vplanes (s : State) (slot : Nat) (vd : VFld) (sat : Bool) (xs : List Int) : M State :=
  let e := s.efr slot
  let rs := xs.map fun x => placeInt x ⟨e.width, e.signed, true⟩ sat
  (s.addFlags (rs.foldl (fun a r => a ||| r.2) 0)).vdsts slot vd (planeRegs e.width (rs.map (·.1)))

/-- VPADD (R157): fn 1 subtracts. -/
def execVpadd (o : VrOp) (s : State) : Out :=
  run s (do
    let slot := vslot o.sl
    legal (o.sm.toNat < 2 && o.fn.toNat < 2)
    let e := s.efr slot
    let (a, s) ← s.vtaggeds slot o.va e.width tPLANE
    let (b, s) ← s.vtaggeds slot o.vb e.width tPLANE
    s.vplanes slot o.vd (o.sm == 1)
      (((planeInts e a).zip (planeInts e b)).map fun x => if o.fn = 1 then x.1 - x.2 else x.1 + x.2))

/-- Sums of 32 consecutive integers. -/
def sums32 (xs : List Int) : List Int :=
  (List.range 64).map fun j => ((xs.drop (32 * j)).take 32).foldl (· + ·) 0

/-- VPDOT (R158). -/
def execVpdot (o : VrOp) (s : State) : Out :=
  run s (do
    let slot := vslot o.sl
    legal (o.sm.toNat < 2)
    let e := s.efr slot
    let (a, s) ← s.vtaggeds slot o.va e.width tPLANE
    let (b, s) ← s.vtaggeds slot o.vb e.width tPLANE
    s.vput slot o.vd tI32 ((sums32 (((planeInts e a).zip (planeInts e b)).map fun x => x.1 * x.2)).map fun x =>
      placeInt x ⟨32, true, false⟩ (o.sm == 1)))

/-- VPSHL (R159): fn bit 4 shifts right. -/
def execVpshl (o : VrOp) (s : State) : Out :=
  run s (do
    let slot := vslot o.sl
    legal (o.sm.toNat < 2)
    let e := s.efr slot
    let n := o.fn.toNat % 16
    let (a, s) ← s.vtaggeds slot o.va e.width tPLANE
    s.vplanes slot o.vd (o.sm == 1)
      ((planeInts e a).map fun x => if bitAt o.fn.toNat 4 then x / (2 : Int) ^ n else x * (2 : Int) ^ n))

end Sys2Proof.Machine
end

