-- ==== Sys2Proof/Machine/VecLane.lean ====
section
/-! DEFINITION. Reductions, scans, lane moves and register moves (R102, R160 to R163). -/

namespace Sys2Proof.Machine

/-! ### Trees (R102, R160) -/

/-- An operation of VRED and VSCAN with its identity. -/
structure TreeOp where
  op    : Nat → Nat → Rm → Nat × Nat
  ident : Nat

/-- An integer combination. -/
def treeInt (k : IKind) (sat : Bool) (ident : Int) (g : Int → Int → Int) : TreeOp :=
  let rd (x : Nat) : Int := if k.signed then toSigned x k.width else (x : Int)
  { op := fun a b _ => placeInt (g (rd a) (rd b)) k sat, ident := wrapBits ident k.width }

/-- A bitwise combination. -/
def treeBits (ident : Nat) (g : Nat → Nat → Nat) : TreeOp := { op := fun a b _ => (g a b, 0), ident := ident }

/-- A floating-point combination. -/
def treeFp (t : FpFmt) (ident : Nat) (g : Rm → FV → FV → FV × Nat) : TreeOp :=
  { op := fun a b r => fpDone t r (g r (fpDecode t a) (fpDecode t b)), ident := ident }

/-- The operation that fn bits 6..0 name for a format (R160). -/
def treeOf (fn f : Nat) (sat : Bool) : Option TreeOp :=
  let k := ikindOf f ⟨false, 1, false, 0, 2⟩
  let t := fpFmt f
  if isInt f then
    match fn with
    | 0 => some (treeInt k sat 0 (· + ·))
    | 1 => some (treeInt k false (iMax k) min)
    | 2 => some (treeInt k false (iMin k) max)
    | 3 => some (treeBits (2 ^ k.width - 1) (· &&& ·))
    | 4 => some (treeBits 0 (· ||| ·))
    | 5 => some (treeBits 0 (· ^^^ ·))
    | _ => none
  else if isFp3 f then
    match fn with
    | 8 => some (treeFp t (fpZero t true) fvAdd)
    | 9 => some (treeFp t t.inf fun _ a b => (fvMinMax false a b, 0))
    | 10 => some (treeFp t (withSign t true t.inf) fun _ a b => (fvMinMax true a b, 0))
    | _ => none
  else none

/-- A tree operation: the elements, masked ones replaced by the identity, given to a tree. -/
def vtree (o : VrOp) (s : State)
    (tree : Nat → (Nat → Nat → Rm → Nat × Nat) → Nat → Rounding → List Nat → List Nat × Rounding) : Out :=
  run s (do
    let slot := vslot o.sl
    let f := o.fmt.toNat
    legal (o.sm.toNat < 2)
    match treeOf (o.fn.toNat % 128) f (o.sm == 1) with
    | none => illegal
    | some op => do
      let code ← s.rmCode o.rnd
      let takes ← s.vmask (bitAt o.fn.toNat 7) o.vc
      let (a, s) ← s.vtagged slot o.va f
      let e := s.efr slot
      let w := fmtWidth f e
      let xs := (a.elems f e).zipIdx.map fun x => if takes x.2 w then x.1 else op.ident
      let (ys, r) := tree code op.op (Nat.log2 xs.length) s.rounding xs
      (s.rounded r).vdst slot o.vd (vpack f e ys))

/-- VRED (R102, R160): the result stands in element 0 above zeros. -/
def execVred (o : VrOp) (s : State) : Out := vtree o s redTree

/-- VSCAN (R102, R160). -/
def execVscan (o : VrOp) (s : State) : Out := vtree o s fun code op n r xs => scanTree code op n 1 r xs

/-! ### VPERM (R161) -/

/-- VPERM (R161): no tag is checked. -/
def execVperm (o : VrOp) (s : State) : Out :=
  run s (do
    let slot := vslot o.sl
    let f := o.fmt.toNat
    legal (sizedFmt f && o.fn.toNat < 2)
    let (a, s) ← s.vsrc slot o.va
    let (b, s) ← s.vsrc slot o.vb
    let (c, s) ← if o.fn = 1 then s.vsrc slot o.vc else pure (VReg.zero, s)
    let e := s.efr slot
    let w := fmtWidth f e
    let tab := a.bits.toNat + (if o.fn = 1 then c.bits.toNat <<< 2048 else 0)
    let n := nElems f e * (if o.fn = 1 then 2 else 1)
    s.vdst slot o.vd (vpack f e ((b.elems f e).map fun k => fieldAt tab (k % n) w)))

/-! ### The VX moves (R162) -/

/-- fmt of a VX word. -/
abbrev vxFmt (o : VxOp) : Nat := bitsOf o.imm.toNat 29 25

/-- The flag of a VX word. -/
abbrev vxFlag (o : VxOp) : Bool := bitAt o.imm.toNat 24

/-- imm16 of a VX word. -/
abbrev vxImm (o : VxOp) : Nat := bitsOf o.imm.toNat 15 0

/-- imm16 read as signed. -/
abbrev vxSimm (o : VxOp) : Int := toSigned (vxImm o) 16

/-- VSLIDE (R162). -/
def execVslide (o : VxOp) (s : State) : Out :=
  run s (do
    let slot := vslot o.sl
    legal (sizedFmt (vxFmt o))
    let x ← s.scap slot o.xa
    let (a, s) ← s.vsrc slot o.va
    let e := s.efr slot
    let n : Int := (nElems (vxFmt o) e : Nat)
    let k : Int := x.toInt + vxSimm o
    let xs := (List.range (nElems (vxFmt o) e)).map fun (i : Nat) =>
      let j : Int := (i : Int) + k
      if vxFlag o || decide (0 ≤ j ∧ j < n) then fieldAt a.bits.toNat (j % n).toNat (fmtWidth (vxFmt o) e) else 0
    s.vdst slot o.vd (vpack (vxFmt o) e xs))

/-- VBCAST of a scalar (R162). -/
def execVbcast (o : VxOp) (s : State) : Out :=
  run s (do
    let slot := vslot o.sl
    legal (sizedFmt (vxFmt o))
    let x ← s.scap slot o.xa
    let e := s.efr slot
    s.vdst slot o.vd (vpack (vxFmt o) e (List.replicate (nElems (vxFmt o) e) x.toNat)))

/-- VBCAST of an element (R162). -/
def execVbcastElement (o : VxOp) (s : State) : Out :=
  run s (do
    let slot := vslot o.sl
    legal (sizedFmt (vxFmt o))
    let x ← s.scap slot o.xa
    let (a, s) ← s.vsrc slot o.va
    let e := s.efr slot
    let k : Int := x.toInt + vxSimm o
    legal (decide (0 ≤ k ∧ k < (nElems (vxFmt o) e : Nat)))
    s.vdst slot o.vd (vpack (vxFmt o) e
      (List.replicate (nElems (vxFmt o) e) (fieldAt a.bits.toNat k.toNat (fmtWidth (vxFmt o) e)))))

/-- VIOTA (R162). -/
def execViota (o : VxOp) (s : State) : Out :=
  run s (do
    let slot := vslot o.sl
    legal (isInt (vxFmt o) || (vxFmt o) == tIDX)
    let x ← s.scap slot o.xa
    let e := s.efr slot
    let w := fmtWidth (vxFmt o) e
    s.vdst slot o.vd (vpack (vxFmt o) e ((List.range (nElems (vxFmt o) e)).map fun (i : Nat) =>
      wrapBits (x.toInt + (i : Int) * vxSimm o) w)))

/-- VEXTR (R162): the one V operation that writes a scalar register. -/
def execVextr (o : VxOp) (s : State) : Out :=
  run s (do
    let slot := vslot o.sl
    let e := s.efr slot
    legal (sizedFmt (vxFmt o))
    legal (vxImm o < nElems (vxFmt o) e)
    s.operands [] o.xa
    let (a, s) ← s.vsrc slot o.va
    let w := fmtWidth (vxFmt o) e
    let x := fieldAt a.bits.toNat (vxImm o) w
    pure (s.setX o.xa (if isSigned (vxFmt o) then BitVec.ofInt 64 (toSigned x w) else BitVec.ofNat 64 x)))

/-- VINS (R162). -/
def execVins (o : VxOp) (s : State) : Out :=
  run s (do
    let slot := vslot o.sl
    let e := s.efr slot
    legal (sizedFmt (vxFmt o))
    legal (vxImm o < nElems (vxFmt o) e)
    let x ← s.scap slot o.xa
    let (old, s) ← s.vold slot o.vd
    let w := fmtWidth (vxFmt o) e
    s.vdst slot o.vd ⟨BitVec.ofNat 2048 (setField old.bits.toNat (vxImm o * w) w x.toNat), (vxFmt o)⟩)

/-- VMOV (R163): all registers are read before any is written. -/
def execVmov (o : VrOp) (s : State) : Out :=
  run s (do
    let slot := vslot o.sl
    let (vs, s) ← s.vsrcs slot o.va (o.fn.toNat % 32 + 1)
    s.vdsts slot o.vd vs)

end Sys2Proof.Machine
end

