-- ==== Sys2Proof/Machine/Collectives.lean ====
section
/-! DEFINITION. The collective sequencer: records, firings, lines, folds, reports, and the device's steps for them (R393 to R404). -/

namespace Sys2Proof.Machine

/-! ### Records (R394, R395) -/

/-- Members, own rank, channel depth and length of an entry. -/
def Coll.nmem (x : Coll) : Nat := recNat x.recd 3 1
/-- This member's rank. -/
def Coll.rank (x : Coll) : Nat := recNat x.recd 4 1
/-- Slots of a channel. -/
def Coll.depth (x : Coll) : Nat := recNat x.recd 5 1
/-- Bytes of a firing. -/
def Coll.length (x : Coll) : Nat := recNat x.recd 8 8
/-- Steps of a firing (R397). -/
def Coll.steps (x : Coll) : Nat := (x.length + 55) / 56
/-- Bytes of a step that are not beyond the length (R397). -/
def Coll.stepBytes (x : Coll) (n : Nat) : Nat := min 56 (x.length - 56 * n)
/-- The other ranks. -/
def Coll.others (x : Coll) : List Nat := (List.range x.nmem).filter (· != x.rank)

/-- The operation of an entry on elements (R396). -/
def collOp (r : List Byte) : Option TreeOp :=
  let op := recNat r 0 1
  let f := recNat r 1 1
  if 4 < op then none
  else if isInt f then treeOf op f (bitAt (recNat r 2 1) 0)
  else if op < 3 then treeOf (8 + op) f false else none

/-- Bytes of an element. -/
def collElem (r : List Byte) : Nat := fmtWidth (recNat r 1 1) (efrOf 0) / 8

/-- A region of a collective record. -/
def collRegion (r : List Byte) (off len access ext : Nat) : Region :=
  { base := recWord r off, len := BitVec.ofNat 64 len, access := access, edge := 0, shared := false, hint := false, fwdH := 0, fwdN := 0,
    ext := ext }

/-- The regions of a record: source, result, member words. -/
def collRegions (r : List Byte) : List Region :=
  [collRegion r 0x10 (recNat r 8 8) 1 0, collRegion r 0x18 (recNat r 8 8) 2 1, collRegion r 0x20 (4 * recNat r 3 1) 1 2]

/-- The checks of R394 and R395 on the record itself. -/
def collOk (r : List Byte) : Bool :=
  let n := recNat r 8 8
  let e := collElem r
  let src := recNat r 0x10 8
  let res := recNat r 0x18 8
  (collOp r).isSome && r.length == 64 && recNat r 2 1 < 2 && recNat r 6 2 == 0 && 2 ≤ recNat r 3 1 && recNat r 3 1 ≤ 64 &&
    recNat r 4 1 < recNat r 3 1 && 2 ≤ recNat r 5 1 && recNat r 5 1 ≤ 64 && 1 ≤ n && n ≤ 56 * 2 ^ 22 && n % e == 0 &&
    (src == res || src + n ≤ res || res + n ≤ src) && (collRegions r).all Region.rangeOk

/-- A counter id of a record: none, or a slot counter of the context (R395). -/
def State.collCtrOk (s : State) (c : Nat) (w : Word) : Bool :=
  w == 0 || (match placeOf w with
    | some (.ctr node _ _) => s.ownNode c node
    | _ => false)

/-- Chunk-buffer bytes of an entry (R395). -/
def collBuffer (r : List Byte) : Nat := 64 * recNat r 5 1 * (recNat r 3 1 - 1)

/-- Chunk-buffer bytes of the loaded entries of every context. -/
def State.collUsed (s : State) : Nat :=
  s.ctxs.foldl (fun n x => x.2.colls.foldl (fun n e => if e.2.st = 0 then n else n + collBuffer e.2.recd) n) 0

/-! ### Entries -/

/-- Entry e of a context. -/
def State.coll (s : State) (c e : Nat) : Coll := mget Coll.unloaded (s.ctx c).colls e

/-- An entry changed. -/
def State.modColl (s : State) (c e : Nat) (f : Coll → Coll) : State :=
  s.modCtx c fun x => { x with colls := mmod Coll.unloaded x.colls e f }

/-- A line or report for the member of a rank, toward its Sheepdog over the collective VC (R380, R397), or to the other entry on this one; or
the detail of LINK_FAULT. -/
def State.collSend (s : State) (c : Nat) (x : Coll) (q : Nat) (body : Nat → Payload) : Except Nat State :=
  let w := x.members[q]?.getD 0
  let node := w % 2048 * 4
  let p := body (w / 4096 % 4096)
  let dom := (s.ctx c).dom
  if s.ownNode c node then .ok { s with gate := { s.gate with colq := s.gate.colq ++ [(c, p)] } }
  else match s.routeFails dom (devOf node) 3 with
    | some d => .error d
    | none => .ok (s.emit sheepdog node dom 3 p)

/-- The same to some ranks, as far as it goes. -/
def State.collSendAll (s : State) (c : Nat) (x : Coll) (body : Nat → Payload) : List Nat → Except Nat State
  | [] => .ok s
  | q :: qs => match s.collSend c x q body with
    | .ok t => t.collSendAll c x body qs
    | .error d => .error d

/-- The number of the firing that runs, or whose reports are awaited (R399). -/
def Coll.firing (x : Coll) : Nat := if x.st = 3 then (x.r + 2 ^ 32 - 1) % 2 ^ 32 else x.r

/-- The failure of a firing (R401): notices to the members, a record, and FAILED. -/
def State.collFail (s : State) (c e cause detail : Nat) : State :=
  let x := s.coll c e
  if x.st ≠ 2 ∧ x.st ≠ 3 then s
  else
    let s := x.others.foldl (fun s q => match s.collSend c x q (fun i => .notice i x.rank) with
      | .ok t => t
      | .error _ => s) s
    let r := { FaultRec.blank with
      cause := cause, detail := detail, source := 8, done := x.fold, work := BitVec.ofNat 64 x.firing, place := BitVec.ofNat 64 e }
    (s.modColl c e fun x => { x with st := 4, cause := cause, detail := detail, chans := [], mine := [] }).eventFault (.ctx c) sheepdog r

/-- An add of 1 to a counter of an entry (R400). -/
def State.collAdd (s : State) (c e off : Nat) : State :=
  let w := recWord (s.coll c e).recd off
  match placeOf w with
  | some (.ctr node gen i) =>
    if w = 0 then s
    else s.sendAdd sheepdog c { id := .slot c (ctrKey (dieOfNode node) i) gen, amount := 1, src := .coll c e, place := w, bundle := 0,
                                wid := BitVec.ofNat 64 (s.coll c e).firing, kid := 0, ctx := c }
  | _ => s

/-- The expanded addresses of bytes of the source (0) or result (1). -/
def Coll.addrs (x : Coll) (ext off n : Nat) : Option (List Nat) :=
  let base := recNat x.recd (if ext = 0 then 0x10 else 0x18) 8
  (List.range n).mapM fun i => frameAddr x.frames ext ((base + off + i) % 2 ^ 55)

/-- The member's own step read at its home over the Sheepdog's die links (R372), zeros beyond the length (R397). -/
def State.collRead (s : State) (x : Coll) (n : Nat) : M (List Byte × State) :=
  match x.addrs 0 (56 * n) (x.stepBytes n) with
  | none => raise cMEMORY_ERROR 0
  | some as => do
    let t ← s.rounds sheepdog (s.homesOf as) 0 1
    let (bs, t) ← t.homeRead as
    pure (bs ++ List.replicate (56 - bs.length) 0, t)

/-- The result bytes of a step written at their homes (R397, R401): a write into a block with an uncorrectable error fails, and the bytes keep
their old values. -/
def State.collWrite (s : State) (ws : List AWrite) : M State := do
  let t ← s.rounds sheepdog (s.homesOf (ws.map (·.1))) 0 1
  if t.writePoison ws then raise cMEMORY_ERROR 1 else t.homeStore .bank ws

/-- The fold of the contributions of a step in ascending rank (R396). -/
def collFold (r : List Byte) (cs : List (List Byte)) : List Byte :=
  match collOp r, cs with
  | some op, c :: cs =>
    let e := collElem r
    let elemsOf (bs : List Byte) : List Nat := (List.range (56 / e)).map fun i => recNat bs (e * i) e
    let xs := cs.foldl (fun acc b => (acc.zip (elemsOf b)).map fun p => (op.op p.1 p.2 .rne).1) (elemsOf c)
    xs.flatMap (leBytes e)
  | _, _ => []

/-! ### A firing (R397 to R399) -/

/-- Firing begun: its steps are read and sent from the first on. -/
def Coll.begin_ (x : Coll) (now : Nat) : Coll :=
  { x with st := 2, ready := false, read := 0, fold := 0, mine := [], released := [], srcAdded := false, since := now }

/-- The step read next may be sent to every member: each has released the step a channel's depth before it (R398). -/
def Coll.maySend (x : Coll) : Bool :=
  x.st == 2 && x.read < x.steps && x.others.all fun q => x.read < mget 0 x.released q + x.depth

/-- The contributions to a step, in ascending rank, once all are there. -/
def Coll.contributions (x : Coll) (n : Nat) : Option (List (List Byte)) :=
  (List.range x.nmem).mapM fun q =>
    if q = x.rank then x.mine.head?
    else match mget none x.chans (64 * q + n % x.depth) with
      | some (st, bs) => if st = n then some bs else none
      | none => none

/-- Every step is folded: the member awaits the others (R399). -/
def State.collAwait (s : State) (c e : Nat) : State :=
  let s := if (s.coll c e).srcAdded then s else (s.collAdd c e 0x28).modColl c e fun x => { x with srcAdded := true }
  let s := s.collAdd c e 0x30
  let x := s.coll c e
  match s.collSendAll c x (fun i => .finish i x.rank x.r) x.others with
  | .error d => s.collFail c e cLINK_FAULT d
  | .ok s => s.modColl c e fun x => { x with st := 3, r := (x.r + 1) % 2 ^ 32 }

/-- One step of a firing: a step folded, or one read and sent; none when nothing can be done now. -/
def State.collStep (s : State) (c e : Nat) : Option State :=
  let x := s.coll c e
  match (if x.st = 2 then x.contributions x.fold else none) with
  | some cs =>
    match x.addrs 1 (56 * x.fold) (x.stepBytes x.fold) with
    | none => some (s.collFail c e cMEMORY_ERROR 0)
    | some as =>
      match s.collWrite ((as.zip (collFold x.recd cs)).map fun w => (w.1, w.2, 0xFF#8)) with
      | .error .stall => none
      | .error (.fault f) => some (s.collFail c e f.cause f.detail)
      | .ok t =>
        match t.collSendAll c x (fun i => .release i x.rank x.fold x.r) x.others with
        | .error d => some (t.collFail c e cLINK_FAULT d)
        | .ok t =>
          let t := t.modColl c e fun x =>
            { x with fold := x.fold + 1, mine := x.mine.tail,
                     chans := x.others.foldl (fun m q => mset none m (64 * q + x.fold % x.depth) none) x.chans }
          some (if x.fold + 1 = x.steps then t.collAwait c e else t)
  | none =>
    if x.maySend then
      match s.collRead x x.read with
      | .error .stall => none
      | .error (.fault f) => some ((s.metError f).collFail c e f.cause f.detail)
      | .ok (bs, s) =>
        match s.collSendAll c x (fun i => .chunk i x.rank x.read (x.r % 2 ^ 24) bs) x.others with
        | .error d => some (s.collFail c e cLINK_FAULT d)
        | .ok t => some (t.modColl c e fun x => { x with read := x.read + 1, mine := x.mine ++ [bs] })
    else none

/-- The firing of an entry carried on as far as it goes. -/
def State.collRun (s : State) (c e : Nat) : Nat → State
  | 0 => s
  | n + 1 => match s.collStep c e with
    | some t => t.collRun c e n
    | none => s

/-- A bound on the steps of a firing. -/
def Coll.fuel (x : Coll) : Nat := 2 * x.steps + 2

/-- Finish reports of the last firing from every member: ctr_all, and the next firing or IDLE (R399). -/
def State.collFinish (s : State) (c e : Nat) : State :=
  let x := s.coll c e
  let last := (x.r + 2 ^ 32 - 1) % 2 ^ 32
  if x.st = 3 ∧ x.others.all (fun q => x.finish.contains (q, last)) then
    let s := s.collAdd c e 0x38
    let s := s.modColl c e fun x =>
      let x := { x with finish := x.finish.filter fun f => f.2 != last }
      if x.ready then x.begin_ s.cycle else { x with st := 1 }
    s.collRun c e x.fuel
  else s

/-- An entry carried on after an event, and what its end brings. -/
def State.collGo (s : State) (c e : Nat) : State := (s.collRun c e (s.coll c e).fuel).collFinish c e

/-! ### COLRDY (R399, R404) -/

/-- COLRDY at the Sheepdog: what its register receives, and the entry's change. -/
def State.colrdy (s : State) (c e : Nat) : Word × State :=
  let x := s.coll c e
  let firing (n : Nat) : Word := BitVec.ofNat 64 (2 ^ 63 + n % 2 ^ 32)
  if x.st = 0 then (failVal cILLEGAL_OPERAND 3 0, s)
  else if x.st = 4 then (failVal x.cause x.detail 0, s)
  else if x.st = 1 then (firing x.r, (s.modColl c e fun x => x.begin_ s.cycle).collGo c e)
  else if x.ready then (failVal cILLEGAL_OPERAND 4 0, s)
  else (firing (if x.st = 2 then x.r + 1 else x.r), (s.modColl c e fun x => { x with ready := true }).collGo c e)

/-! ### The device's steps -/

/-- Chunk-buffer bytes of the COLSETs that wait for a page. -/
def State.collPending (s : State) : Nat :=
  s.ctxs.foldl (fun n x => x.2.colsets.foldl (fun n e => n + collBuffer e.2) n) 0

/-- The member words of a record (R394): none when one has a reserved bit or the own one names another entry. -/
def State.memberWords (s : State) (c e : Nat) (r : List Byte) (fs : List FrameEnt) : Option (List Nat) := do
  let ws ← (List.range (recNat r 3 1)).mapM fun q => do
    let as ← (List.range 4).mapM fun i => frameAddr fs 2 ((recNat r 0x20 8 + 4 * q + i) % 2 ^ 55)
    let w := leNat (as.map s.byteAt)
    if bitAt w 11 || bitsOf w 31 24 != 0 then none else some w
  let own := ws[recNat r 4 1]?.getD 0
  if s.ownNode c (own % 2048 * 4) ∧ own / 4096 = e then some ws else none

/-- A COLSET whose record has passed its checks is taken up (R273, R378, R395): its pages are translated and pinned and the entry is IDLE; one
that meets an EVICTED page waits for its return; a page that is not mapped as needed refuses it. -/
def State.colsetGo (s : State) (c e : Nat) (rec_ : List Byte) : State :=
  let drop (s : State) : State := s.modCtx c fun x => { x with colsets := x.colsets.filter (·.1 != e) }
  if (collRegions rec_).any (s.regionWaits c) then s
  else match s.transRegions c (collRegions rec_).zipIdx [] with
  | (.evicted, _, _, t) => t
  | (.fault _ _, _, _, t) => (drop t).refuse
  | (.done, _, fs, t) => match t.memberWords c e rec_ fs with
    | none => (drop t).refuse
    | some ws => (drop t).modColl c e fun _ => { Coll.unloaded with st := 1, recd := rec_, frames := fs, members := ws }

/-- The COLSETs of a context that wait are tried again. -/
def State.colsetsGo (s : State) (c : Nat) : State := (s.ctx c).colsets.foldl (fun s x => s.colsetGo c x.1 x.2) s

/-- COLSET (R393, R395, R399). -/
def execColset (ctx entry : Nat) (rec_ : List Byte) (s : State) : Out :=
  .next (if 32 ≤ ctx ∨ 4096 ≤ entry ∨ (s.ctx ctx).st = .free ∨ (s.coll ctx entry).st ≠ 0 ∨ (s.ctx ctx).colsets.any (·.1 == entry) ∨ !collOk rec_ ∨
      !(s.collCtrOk ctx (recWord rec_ 0x28) && s.collCtrOk ctx (recWord rec_ 0x30) && s.collCtrOk ctx (recWord rec_ 0x38)) then s.refuse
    else if 2 ^ 25 < s.collUsed + s.collPending + collBuffer rec_ then s.notify (.refused cNOSLOT 0)
    else (s.modCtx ctx fun x => { x with colsets := x.colsets ++ [(entry, rec_)] }).colsetGo ctx entry rec_)

/-- COLCLR (R393, R399). -/
def execColclr (ctx entry : Nat) (s : State) : Out :=
  .next (if (s.coll ctx entry).st = 1 ∨ (s.coll ctx entry).st = 4 then s.modColl ctx entry fun _ => Coll.unloaded else s.refuse)

/-- CHUNK_LINE_RECEIVE (R398): a line accepted into an empty slot of its channel, or discarded and counted. -/
def execChunkLineReceive (ctx entry rank step seq : Nat) (data : List Byte) (s : State) : Out :=
  let x := s.coll ctx entry
  let slot := 64 * rank + step % x.depth
  .next (if 1 ≤ x.st ∧ x.st ≤ 3 ∧ rank < x.nmem ∧ rank ≠ x.rank ∧ seq = x.r % 2 ^ 24 ∧ (mget none x.chans slot).isNone then
      State.settleHost ((s.modColl ctx entry fun x => { x with chans := mset none x.chans slot (some (step, data)), since := s.cycle }).collGo
        ctx entry)
    else { s with colDrop := s.colDrop + 1 })

/-- RELEASE_REPORT (R398, R401): a member has folded a step of a firing, and further steps of it may be sent to it. One that comes late, from
a firing whose finish reports are awaited, only shows that the member lives. -/
def execReleaseReport (ctx entry rank : Nat) (f : FiringStep) (s : State) : Out :=
  let x := s.coll ctx entry
  .next (if (x.st = 2 ∨ x.st = 3) ∧ rank < x.nmem ∧ rank ≠ x.rank ∧ f.r = x.firing then
      State.settleHost ((s.modColl ctx entry fun x => { x with
        released := if x.st = 2 then mset 0 x.released rank (max (mget 0 x.released rank) (f.step + 1)) else x.released, since := s.cycle }).collGo
          ctx entry)
    else s)

/-- SOURCE_READ_COMPLETE (R399, R400): the firing goes on, and once its source is read ctr_src is added. -/
def execSourceReadComplete (ctx entry : Nat) (s : State) : Out :=
  .next (State.settleHost (
    let x := s.coll ctx entry
    if (x.st = 2 ∨ x.st = 3) ∧ x.read = x.steps ∧ !x.srcAdded then
      (s.collAdd ctx entry 0x28).modColl ctx entry fun x => { x with srcAdded := true }
    else s.collGo ctx entry))

/-- FINISH_REPORT (R399): a member has finished a firing. -/
def execFinishReport (ctx entry rank r : Nat) (s : State) : Out :=
  let x := s.coll ctx entry
  .next (if (x.st = 2 ∨ x.st = 3) ∧ rank < x.nmem ∧ rank ≠ x.rank ∧ !x.finish.contains (rank, r) then
      State.settleHost ((s.modColl ctx entry fun x => { x with finish := x.finish ++ [(rank, r)], since := s.cycle }).collGo ctx entry)
    else s)

/-- FAILURE_NOTICE (R401): a member's firing has failed. -/
def execFailureNotice (ctx entry rank : Nat) (s : State) : Out :=
  let x := s.coll ctx entry
  .next (if rank < x.nmem ∧ rank ≠ x.rank then s.collFail ctx entry cREMOTE_FAULT 7 else s)

/-- COLLECTIVE_TIMEOUT (R401, R402): nothing has arrived for an entry within COL.TMO. A halt of its context waits for it no longer than
COL.TMO either, after which the firing fails with HALTED. -/
def execCollectiveTimeout (ctx entry : Nat) (s : State) : Out :=
  let x := s.coll ctx entry
  let c := s.ctx ctx
  let over_ (t : Nat) : Bool := decide (t + usCycles s.colTmo ≤ s.cycle)
  .next (if x.st ≠ 2 ∧ x.st ≠ 3 then s
    else if c.st = .halting ∧ c.haltAt ≤ x.since then (if over_ c.haltAt then s.collFail ctx entry cHALTED 0 else s)
    else if over_ x.since then s.collFail ctx entry cLINK_FAULT 4
    else s)

/-- What a step of the device leaves. -/
def stateOf (s : State) : Out → State
  | .next t => t
  | _ => s

/-- A line or report of a collective reaches its entry in a context (R397 to R401). -/
def State.collLine (s : State) (c : Nat) (p : Payload) : State :=
  match p with
  | .chunk e rank step seq data => stateOf s (execChunkLineReceive c e rank step seq data s)
  | .release e rank step r => stateOf s (execReleaseReport c e rank ⟨step, r⟩ s)
  | .finish e rank r => stateOf s (execFinishReport c e rank r s)
  | .notice e rank => stateOf s (execFailureNotice c e rank s)
  | .request _ _ | .answer _ _ | .commit _ | .ack _ _ => s

/-- The first line or report for a member on this device (R403). -/
def State.collLocal (s : State) : State :=
  match s.gate.colq with
  | [] => s
  | (c, p) :: r => ({ s with gate := { s.gate with colq := r } } : State).collLine c p

end Sys2Proof.Machine
end

