-- ==== Sys2Proof/Machine/Compression.lean ====
section
/-! DEFINITION. The compression controllers: tables, learning, the retriever, watermarks (R331 to R339). -/

namespace Sys2Proof.Machine

/-! ### Tables (R334) -/

/-- Sorted insertion by a key. -/
def insertBy {α : Type} (le : α → α → Bool) (x : α) : List α → List α
  | [] => [x]
  | y :: ys => if le x y then x :: y :: ys else y :: insertBy le x ys

/-- A list sorted by a key. -/
def sortBy {α : Type} (le : α → α → Bool) : List α → List α
  | [] => []
  | x :: xs => insertBy le x (sortBy le xs)

/-- The 256 most frequent values, ties to the lower, filled up with the lowest unseen; ascending (R334). -/
def tableVals (counts : Map Nat) : List Nat :=
  let top := ((sortBy (fun (a b : Nat × Nat) => b.2 < a.2 || (a.2 == b.2 && a.1 ≤ b.1)) counts).take 256).map (·.1)
  let rest := ((List.range 512).filter fun v => !top.contains v).take (256 - top.length)
  sortBy (fun a b => decide (a ≤ b)) (top ++ rest)

/-- Counts of the 257 symbols (R334). -/
def symbolCounts (counts : Map Nat) (vals : List Nat) : List Nat :=
  vals.map (mget 0 counts) ++ [(counts.filter fun c => !vals.contains c.1).foldl (fun n c => n + c.2) 1]

/-- A coin of the package-merge method: a weight and the symbols in it. -/
abbrev Coin := Nat × List Nat

/-- Coins joined in pairs. -/
def packages : List Coin → List Coin
  | a :: b :: r => (a.1 + b.1, a.2 ++ b.2) :: packages r
  | _ => []

/-- Two sorted lists merged. -/
def mergeCoins (xs ys : List Coin) : List Coin := ys.foldl (fun l y => insertBy (fun a b => decide (a.1 ≤ b.1)) y l) xs

/-- The lists of coins of the denominations 2^-15 to 2^-1, one after another. -/
def coinLevels (leaves : List Coin) : Nat → List Coin
  | 0 => leaves
  | n + 1 => mergeCoins leaves (packages (coinLevels leaves n))

/-- Code lengths limited to 15 that minimise the sum of count × length (R334). Of several such assignments one is taken:
equal weights stand in an order that a free value gives. -/
def codeLengths (gen : Nat) (counts : List Nat) : List Nat :=
  let n := counts.length
  let leaves := (sortBy (fun (a b : Nat × Nat) => a.2 < b.2 || (a.2 == b.2 && Config.tieBreak gen a.1 ≤ Config.tieBreak gen b.1))
    ((List.range n).zip counts)).map fun x => (x.2, [x.1])
  let used := ((coinLevels leaves 14).take (2 * n - 2)).flatMap (·.2)
  (List.range n).map fun s => used.count s

/-- The table of a learning phase (R334). -/
def learnedTable (gen : Nat) (counts : Map Nat) : Table :=
  let vals := tableVals counts
  { gen := gen, vals := vals, lens := codeLengths gen (symbolCounts counts vals) }

/-- The record of the current table of a die (R334). -/
def State.tableRecord (s : State) (d : Nat) : List Byte :=
  match (s.die d).cmp.cur with
  | some t => t.record (s.nodeOf d)
  | none => []

/-! ### Blocks re-encoded (R335, R338) -/

/-- Blocks of a die that hold sectors. -/
def State.blocksOn (s : State) (d : Nat) : List Nat := ((s.blocks.map (·.1)).filter fun b => s.home (b * 512) == d)

/-- A block re-encoded with the current table, at the retriever's level; none when it lacks sectors. -/
def State.reencode (s : State) (b : Nat) : Option State :=
  let d := s.home (b * 512)
  let old := s.blockAt b
  let (n, raw) := encodeBlock (s.die d).cmp.cur (s.rawFrame (b * 512) || old.poison != 0) (s.blockBytes b)
  if (s.die d).cmp.grants .reserve (n - old.count) then s.regrant b n raw old.poison 0 else none

/-- Every block of the previous generation re-encoded (R335); none when sectors are lacking, with the work done so far. -/
def State.retireGo (d gen : Nat) : List Nat → State → State × Bool
  | [], s => (s, true)
  | b :: bs, s =>
    let e := s.blockAt b
    if e.raw ∨ e.gen % 16 ≠ gen % 16 then s.retireGo d gen bs
    else match s.reencode b with
      | some t => t.retireGo d gen bs
      | none => (s, false)

/-- A waiting table installed when it can be (R335). -/
def State.installTable (s : State) (d : Nat) : State :=
  let c := (s.die d).cmp
  match c.next with
  | none => s
  | some t =>
    let put (s : State) : State := s.modDie d fun x =>
      { x with cmp := { x.cmp with prev := x.cmp.cur, cur := some t, next := none } }
    match c.prev with
    | none => put s
    | some p =>
      let (s, ok) := s.retireGo d p.gen (s.blocksOn d)
      if ok then put s else s

/-- The unit of CMP.RESAMP and the length of a learning phase, in cycles (R334, R337). -/
abbrev learnCycles : Nat := 2 ^ 20

/-- RESAMPLE_INTERVAL (R335, R337): a learning phase starts for each interval set in CMP.RESAMP that has passed. One whose interval ends while a
phase runs or its table waits starts after that. DESIGN CHOICE (log 107). -/
def execResampleInterval (die : Nat) (s : State) : Out :=
  let c := (s.die die).cmp
  .next (if c.resamp = 0 ∨ s.cycle < c.sampAt + c.resamp * learnCycles then s
    else if c.learn ∨ c.next.isSome then s
    else s.modDie die fun x =>
      { x with cmp := { x.cmp with learn := true, counts := [], nblk := 0, learnAt := s.cycle,
                                   sampAt := x.cmp.sampAt + x.cmp.resamp * learnCycles } })

/-- LEARNING_PHASE_END (R334, R335): 2^20 cycles after its start a phase ends; the new table is built, and installed or left waiting. -/
def execLearningPhaseEnd (die : Nat) (s : State) : Out :=
  let c := (s.die die).cmp
  .next (if !c.learn ∨ s.cycle < c.learnAt + learnCycles then s
    else
      let gen := (match c.cur with
        | some t => t.gen + 1
        | none => 0) % 2 ^ 16
      let t := learnedTable gen c.counts
      (s.modDie die fun x => { x with cmp := { x.cmp with learn := false, counts := [], nblk := 0, next := some t, nextAt := s.cycle } }).installTable die)

/-- TABLE_WAIT_EXPIRY (R337): a table that has waited 2^24 cycles sets CMP.EVT.RSMP. -/
def execTableWaitExpiry (die : Nat) (s : State) : Out :=
  .next (if (s.die die).cmp.next.isSome ∧ (s.die die).cmp.nextAt + 2 ^ 24 ≤ s.cycle then s.modDie die fun x => { x with cmp := { x.cmp with evt := x.cmp.evt ||| 4 } } else s)

/-! ### The retriever (R338) -/

/-- The retriever is done on a die. -/
def State.plenty (s : State) (d : Nat) : Bool := (s.die d).cmp.high ≤ (s.die d).cmp.free

/-- An operation of the retriever on a block waits: a line of it is under prepare-hold (R359), or the bank that holds it is busy (R423). -/
def State.blockBusy (s : State) (b : Nat) : Bool := (List.range 8).any (fun i => s.prepHeld (b * 8 + i)) || s.blockWaits b

/-- Step 1: a block of the previous generation, or a raw block of a page with C = 1 that no poisoned line prevents, is re-encoded where its
new form needs fewer sectors. -/
def State.shrink (s : State) (d b : Nat) : State :=
  let e := s.blockAt b
  let f := mget Frame.none s.frames (b / 128)
  let cur := (s.die d).cmp.cur
  let old := match cur with
    | some t => !e.raw && e.gen % 16 != t.gen % 16
    | none => false
  let (n, _) := encodeBlock cur (s.rawFrame (b * 512) || e.poison != 0) (s.blockBytes b)
  if (old || (e.raw && f.comp && f.va % 65536 == 0)) && n < e.count && !s.blockBusy b then (s.reencode b).getD s else s

/-- A page all of whose blocks are zero blocks becomes ZERO, whoever made them so; the next write to it is reported again (R329, R338). -/
def State.zeroPage (s : State) (frame : Nat) : State :=
  let f := mget Frame.none s.frames frame
  match s.leafOf f.ctx f.va with
  | some l =>
    if f.va % 65536 == 0 && l.pte.v && l.pte.st == 0 && l.pte.c && !s.pageBusy f.ctx l && l.frame ≤ frame && frame < l.frame + l.n &&
        !(s.blocks.any fun b => l.frame * 128 ≤ b.1 && b.1 < (l.frame + l.n) * 128) then
      let t := s.putPte f.ctx l (pteState l.w 2)
      let t := (List.range l.n).foldl (fun t i =>
        { t with frames := mmod Frame.none t.frames (l.frame + i) fun e => { e with reported := false } }) t
      t.modEntries f.ctx l.vpn l.n fun e => { e with zero := true, reported := false }
    else s
  | none => s

/-- Step 2: a block of zeros in a page with C = 1 becomes a zero block. -/
def State.fold (s : State) (b : Nat) : State :=
  let f := mget Frame.none s.frames (b / 128)
  if f.comp && f.va % 65536 == 0 && (s.blockAt b).poison == 0 && (s.blockBytes b).all (· == 0) && !s.blockBusy b then
    (s.resize b 0 false 0 0).zeroPage (b / 128)
  else s

/-- Step 2, its end: every page of zero blocks becomes ZERO, those whose blocks were zero before too (R329, R338). -/
def State.zeroPages (s : State) : State := (s.frames.map (·.1)).foldl State.zeroPage s

/-- Step 3: an entry of the balloon list taken; entries of pinned pages, taken entries and malformed ones are skipped. -/
def State.balloon (s : State) (d i : Nat) : State :=
  let a := bitsOf (s.die d).cmp.bln.toNat 47 0 + 8 * i
  let w := (s.wordAt a 8).toNat
  let c := bitsOf w 4 0
  if !bitAt w 15 ∨ bitsOf w 14 5 ≠ 0 then s
  else match s.leafOf c (w / 2 ^ 16 * 2 ^ 16 % 2 ^ 55) with
    | none => s
    | some l =>
      if l.n ≠ 1 ∨ !(l.pte.st == 0 || l.pte.st == 2) ∨ s.pageBusy c l ∨ s.pinned c l ∨ s.stagedIn l.frame 1 then s
      else
        let t := (s.freeFrames l.frame 1).setFrames l.frame 1 fun _ => Frame.none
        ((t.dropCached c l.vpn 1).putPte c l 0x800).poke a (leBytes 8 0)

/-- A step over a list of items, each until free reaches high. -/
def State.recover (d : Nat) (f : State → Nat → State) : List Nat → State → State
  | [], s => s
  | x :: xs, s => if s.plenty d then s else State.recover d f xs (f s x)

/-- RETRIEVER_RUN (R338): re-encoding, folding, ballooning, and then a request for evictions, made once until Lorso
clears CMP.EVT.EVICT; a waiting table is installed when the sectors it lacked are there (R335). -/
def execRetrieverRun (die : Nat) (s : State) : Out :=
  let t := s.installTable die
  .next (State.settleHost (
    if !(t.die die).cmp.retr then t
    else
      let t := State.recover die (fun s b => s.shrink die b) (t.blocksOn die) t
      let t := State.recover die State.fold (t.blocksOn die) t
      let t := if t.plenty die then t else t.zeroPages
      let t := State.recover die (fun s i => s.balloon die i) (List.range (bitsOf (t.die die).cmp.bln.toNat 63 48)) t
      if t.plenty die then t.modDie die fun x => { x with cmp := { x.cmp with retr := false } }
      else if (t.die die).cmp.evt.getLsbD 1 then t
      else (t.modDie die fun x => { x with cmp := { x.cmp with evt := x.cmp.evt ||| 2 } }).notify (.evict die)))

/-- CMP_WATERMARK_WRITE (R16, R337): refused unless the value fits its field and RSV < LOW < HIGH stand afterwards. -/
def execCmpWatermarkWrite (die : Nat) (w : Watermark) (v : Nat) (s : State) : Out :=
  let c := (s.die die).cmp
  let c := match w with
    | .rsv => { c with rsv := v }
    | .low => { c with low := v }
    | .high => { c with high := v }
  .next (if s.boot.stage ≠ 8 ∧ v < 2 ^ 32 ∧ c.rsv < c.low ∧ c.low < c.high then s.modDie die fun x => { x with cmp := c.setFree c.free } else s.refuse)

end Sys2Proof.Machine
end

