-- ==== Sys2Proof/Machine/Counters.lean ====
section
/-! DEFINITION. The S slot's counter instructions and ATOM (R303 to R320). -/

namespace Sys2Proof.Machine

/-- Every store and add of the bank in focus has been performed (R251, R310). -/
def State.drained (s : State) : Bool :=
  s.bank.sq == [] && !s.wts.any (fun w => w.bank == s.cur && w.op.isNone && !w.arrived) && !s.addsOut s.cur

/-- No write-through of die d to the line of an address is on its way: a read at the home is then no older than what the die's view has
returned (R245). -/
def State.lineSettled (s : State) (d a : Nat) : Bool :=
  !s.wts.any fun w => w.src == d && !w.arrived && w.ws.any fun x => x.1 / 64 == a / 64

/-- The same for the word of a memory-form counter. -/
def State.ctrSettled (s : State) (d : Nat) : CtrId → Bool
  | .word _ a => s.lineSettled d a
  | _ => true

/-- An earlier access of the bank in focus to a counter has not been performed: its own stores and adds (R251, R310). -/
def State.ctrBehind (s : State) (id : CtrId) : Bool :=
  (s.bank.sq.any fun e => match e.kind with
    | .cadd w _ _ => match s.bankCtr w true with
      | .ok i => i == id
      | .error _ => false
    | .store ws _ _ => match id with
      | .word _ a => ws.any fun w => match w.loc with
        | .mem x => x / 8 == a / 8
        | _ => false
      | _ => false
    | _ => false) ||
  [0, 1, 2, 3].any fun d => (s.die d).adds.any fun a => a.id == id && match a.src with
    | .cadd b _ => b == s.cur
    | _ => false

/-- A request of the issuing die in VC v crosses to die t and is answered, or LINK_FAULT (R313, R320, R380, R385, R390). -/
def State.reachVc (s : State) (t v : Nat) : M State := s.round (dieOf s.cur) t v (backVc v)

/-- A request in the counter VC. -/
def State.reachDie (s : State) (t : Nat) : M State := s.reachVc t 4

/-- A request of the S slot at a home on another device: sent once, then answered; n is the VC (R313, R380). -/
def State.sRemote (s : State) (node vc : Nat) (r : RemoteReq) : M (Bool × State) :=
  match s.bank.swait with
  | .answered _ _ _ | .counter _ _ | .remote _ => stall
  | .none =>
    match s.farFails (dieOf s.cur) (s.ctx s.bank.id.ctx).dom (devOf node) vc with
    | some d => if s.ownNode s.bank.id.ctx node then
        .ok (false, (s.upd fun b => { b with swait := .remote s.gate.tag }).ask (dieOf s.cur) s.bank.id.ctx node vc r
          (.bank s.cur))
      else raise cLINK_FAULT d
    | none => .ok (false, (s.upd fun b => { b with swait := .remote s.gate.tag }).ask (dieOf s.cur)
        s.bank.id.ctx node vc r (.bank s.cur))

/-- The requester die's line that holds an address dropped (R248). -/
def State.dropLine (s : State) (die a : Nat) : State := s.dropFar die fun k _ => k == a / 64

/-- An operation on a counter is complete: the requester die's line that holds a memory-form counter is dropped (R248). -/
def State.ctrDrop (s : State) (die : Nat) : CtrId → State
  | .word _ a => s.dropLine die a
  | _ => s

/-- A relaxed read of a memory-form counter drops no line (R318); the requester die's line that holds it is brought up to its home, so that no
later load reads an older value (R245). DEDUCED (log 26). -/
def State.refreshFar (s : State) (die : Nat) : CtrId → State
  | .word _ a => s.modDie die fun x => { x with far := match mget none x.far (a / 64) with
      | some l => mset none x.far (a / 64) (some { l with bits := s.lineBits (a / 64) })
      | none => x.far }
  | _ => s

/-- The same for the bank in focus and the counter that a word names. -/
def State.ctrDropOf (s : State) (w : Word) : State :=
  match s.bankCtr w false with
  | .ok id => s.ctrDrop (dieOf s.cur) id
  | .error _ => s

/-- The S slot with no request waiting. -/
def State.sFree (s : State) : State := s.upd fun b => { b with swait := .none }

/-! ### CALLOC and CFREE (R314, R315) -/

/-- The lowest free index from lo in a table's entries, which rise (R314). -/
def freeIndex (lo : Nat) : List (Nat × CtrEnt) → Nat
  | [] => lo
  | (k, e) :: m => if k < lo then freeIndex lo m else if k = lo ∧ e.st ≠ 0 then freeIndex (lo + 1) m else lo

/-- An allocation on a die of this device (R307, R314): NOSLOT when the table has no free entry. -/
def State.calloc (s : State) (die : Nat) (v : Word) : Word × State :=
  let c := s.bank.id.ctx
  let k := freeIndex (ctrKey die 0) (s.ctx c).ctrs
  if ctrKey die (s.ctrSize c die) ≤ k then (0x8000000000000014, s)
  else
    let (got, s) := s.takeSram die
    let gen := (s.ctrEnt c k).gen
    let s := (s.modCtr c k fun e => { e with st := if got then 1 else 2, val := v, used := s.tick }).ticked
    ((Place.ctr ((s.ctx c).aliasNo * 4 + die) gen (k % 2 ^ 24)).word, s)

/-- CALLOC on the issuing die (R314). -/
def execCalloc (o : SrOp) (s : State) : Out :=
  run s (do
    s.operands [o.xa] o.xd
    let (w, t) := s.calloc (dieOf s.cur) (s.rx o.xa)
    pure (t.setX o.xd w))

/-- CALLOC.DIE (R314). -/
def execCallocDie (o : SrOp) (s : State) : Out :=
  run s (do
    s.operands [o.xa, o.xb] o.xd
    let d := (s.rx o.xb).toNat
    legal (d < 4)
    let u ← s.reachDie d
    let (w, t) := u.calloc d (s.rx o.xa)
    pure (t.setX o.xd w))

/-- A slot counter retired (R307, R315): its generation rises, its waiters fail with COUNTER_FAULT 3, and the entry is
free again unless its generations are used up. Kernels that depend on it become FAULTED (R267). -/
def State.cfree (s : State) (c k gen : Nat) : M State := do
  let s ← s.ctrLive c k gen
  let held := (s.ctrEnt c k).st == 1
  let s := s.modCtr c k fun e => { e with st := if e.gen + 1 < 0xFFFF then 0 else 3, gen := e.gen + 1, val := 0, used := 0 }
  let s := if held then s.modDie (keyDie k) fun d => { d with slots := d.slots - 1 } else s
  pure ((s.answerWaiters (keyDie k) (fun w => w.isOn (.slot c k gen)) cCOUNTER_FAULT 3 0).staleAll c)

/-- CFREE (R315). -/
def execCfree (o : SrOp) (s : State) : Out :=
  runW s (do
    match s.bank.swait with
    | .answered 0 _ _ => pure (true, s.sFree)
    | .answered c d _ => raiseAt c d (s.rx o.xa)
    | .counter _ _ | .remote _ => stall
    | .none =>
      s.operands [o.xa] 0
      let w := s.rx o.xa
      match placeOf w with
      | some (.ctr node gen i) =>
        let id ← s.bankCtr w true
        await (!s.ctrBehind id)
        if s.ownNode s.bank.id.ctx node then do
          let u ← s.reachDie (dieOfNode node)
          let t ← atPlace w (u.cfree s.bank.id.ctx (ctrKey (dieOfNode node) i) gen)
          pure (true, t)
        else s.sRemote node 4 (.cfree w)
      | _ => illegal)

/-! ### CADD, CWAIT, CRD (R316 to R318) -/

/-- The scalar guard of SG: pg = 0 is none, else bit 0 of the predicate through the polarity (R71). -/
def State.sgGuard (s : State) (o : SgOp) : M Bool :=
  if o.pg = 0 then .ok true
  else do
    let p ← s.pget o.pg
    pure (governs p o.pol 0 8)

/-- CADD (R316): a store-queue entry that releases the bank's earlier accesses at its scope. -/
def execCadd (o : SgOp) (s : State) : Out :=
  run s (do
    s.operands [o.xd, o.xb] 0
    legal (o.fn.toNat < 5)
    let go ← s.sgGuard o
    if go then do
      let _ ← atPlace (s.rx o.xd) (s.bankCtr (s.rx o.xd) true)
      pure (s.enqueue (.cadd (s.rx o.xd) (s.rx o.xb) o.fn.toNat) 0 (s.rx o.xd))
    else pure s)

/-- The bound of a CWAIT in cycles, 0 for none (R317). -/
def cwaitBound (fn : Nat) : Nat := let b := fn / 8; if b = 0 then 0 else 2 ^ (6 + 2 * b)

/-- A CWAIT that ends with value v: an acquire at its scope (R256, R317). The bank no longer wishes to hand over (R19). -/
def State.cwaitEnd (s : State) (xd : XReg) (scope : Nat) (v : Word) : State :=
  (s.sFree.acquire scope).setX xd v

/-- A CWAIT that stays: the bank waits, its waiter on its way to the home (R309, R317). -/
def State.cwaitStay (s : State) (id : CtrId) (target : Word) (bound : Nat) : State :=
  let s := s.upd fun b => { b with swait := .counter s.cycle bound, run := .waiting }
  let c := s.bank.id.ctx
  let w : Waiter := match id with
    | .slot c k gen => { bank := s.cur, op := none, ctx := c, slot := some k, gen := gen, addr := 0, target := target, remote := none }
    | .word c a => { bank := s.cur, op := none, ctx := c, slot := none, gen := 0, addr := a, target := target, remote := none }
    | .remote _ _ => { bank := s.cur, op := none, ctx := c, slot := none, gen := 0, addr := 0, target := target, remote := none }
  match id with
  | .remote node place => s.ask (dieOf s.cur) c node 4 (.wait place target) (.bank s.cur)
  | id => s.modDie (s.ctrDie id) fun d => { d with regs_ := d.regs_ ++ [w] }

/-- CWAIT (R317). A counter of this device that already holds the target is released at its registration. -/
def execCwait (o : SrOp) (s : State) : Out :=
  let scope := o.fn.toNat % 8
  runW s (do
    match s.bank.swait with
    | .answered 0 _ v => pure (true, (s.ctrDropOf (s.rx o.xa)).cwaitEnd o.xd scope v)
    | .answered c d _ => raiseAt c d (s.rx o.xa)
    | .counter _ _ | .remote _ => stall
    | .none =>
      s.operands [o.xa, o.xb] o.xd
      legal (scope < 5)
      let w := s.rx o.xa
      let id ← atPlace w (s.bankCtr w false)
      await (s.drained && s.ctrSettled (dieOf s.cur) id)
      match id with
      | .remote _ _ => pure (false, s.cwaitStay id (s.rx o.xb) (cwaitBound o.fn.toNat))
      | id => do
        let u ← s.reachDie (s.ctrDie id)
        let (v, t) ← atPlace w (u.ctrRead id)
        if (s.rx o.xb).ule v then pure (true, (t.ctrDrop (dieOf s.cur) id).cwaitEnd o.xd scope v)
        else pure (false, s.cwaitStay id (s.rx o.xb) (cwaitBound o.fn.toNat)))

/-- CRD (R318): a relaxed read, which follows only the bank's own accesses to the counter and drops no line (R256, R318). -/
def execCrd (o : SrOp) (s : State) : Out :=
  runW s (do
    match s.bank.swait with
    | .answered 0 _ v => pure (true, s.sFree.setX o.xd v)
    | .answered c d _ => raiseAt c d (s.rx o.xa)
    | .counter _ _ | .remote _ => stall
    | .none =>
      s.operands [o.xa] o.xd
      let w := s.rx o.xa
      let id ← atPlace w (s.bankCtr w false)
      await (!s.bank.heldBack && !s.ctrBehind id && s.ctrSettled (dieOf s.cur) id)
      match id with
      | .remote node _ => s.sRemote node 4 (.crd w)
      | id => do
        let u ← s.reachDie (s.ctrDie id)
        let (v, t) ← atPlace w (u.ctrRead id)
        pure (true, (t.refreshFar (dieOf s.cur) id).setX o.xd v))

/-! ### ATOM (R319, R320) -/

/-- The register that holds the new value of a CAS: x(d XOR 1) (R319). -/
def casReg (xd : XReg) : XReg := xd ^^^ 1

/-- The answer of an ATOM: as runW, but one whose write has failed after a good read writes xd and then faults, with the recorded point
behind it (R320). -/
def runAtom (s : State) (place : Word) (r : M (Bool × Bool × State)) : Out :=
  match r with
  | .ok (_, true, t) => .next (t.takeFault { cause := cMEMORY_ERROR, detail := 1, place := place, after := true })
  | .ok (told, false, t) => runW s (.ok (told, t))
  | .error e => run s (.error e)

/-- ATOM (R319, R320). -/
def execAtom (o : SgOp) (s : State) : Out :=
  let op := o.fn.toNat % 8
  let size := if bitAt o.fn.toNat 3 then 8 else 4
  let sg := bitAt o.fn.toNat 4
  runAtom s (s.rx o.xb) (do
    match s.bank.swait with
    | .answered 0 _ v => pure (true, false, s.sFree.setX o.xd (atomResult size sg v))
    | .answered c d v =>
      if c = cMEMORY_ERROR ∧ d = 1 then pure (true, true, s.sFree.setX o.xd (atomResult size sg v)) else raiseAt c d (s.rx o.xb)
    | .counter _ _ | .remote _ => stall
    | .none =>
      s.operands ([o.xb, o.xd] ++ (if op = 7 then [casReg o.xd] else [])) o.xd
      legal (!sg || op == 1 || op == 2)
      let go ← s.sgGuard o
      if !go then pure (true, false, s)
      else
        let w := s.rx o.xb
        let opnd := if op = 7 then s.rx (casReg o.xd) else s.rx o.xd
        match placeOf w with
        | some (.ext n off) => do
          if off % size ≠ 0 then raiseAt cILLEGAL_OPERAND 1 w
          s.extCheck n off size false
          s.extCheck n off size true
          await s.drained
          let a ← s.extAddr n off
          await (s.lineSettled (dieOf s.cur) a)
          let u ← atPlace w (s.reachVc (s.home a) 0)
          let (old, bad, t) ← atPlace w (u.atomAt a size op sg opnd (s.rx o.xd) (bitAt (s.ext n).flags 5))
          pure (true, bad, ((t.dropLine (dieOf s.cur) a).efcTouch n [off]).setX o.xd (atomResult size sg old))
        | some (.remote node win off) => do
          if off % size ≠ 0 then raiseAt cILLEGAL_OPERAND 1 w
          await s.drained
          let (told, t) ← s.sRemote node 0 (.atom win off op size sg opnd (s.rx o.xd))
          pure (told, false, t)
        | _ => illegal)

end Sys2Proof.Machine
end

