-- ==== Sys2Proof/Machine/CounterEvents.lean ====
section
/-! DEFINITION. The synchronisation engine's steps: adds, the registration of waiters, waiters asked again, the bound of a CWAIT
(R304 to R313, R317). -/

namespace Sys2Proof.Machine

/-- The die from which an add was sent, whose far cache drops the line of a memory-form counter (R248). -/
def AddSrc.die : AddSrc → Option Nat
  | .cadd b _ | .cxadd b _ => some (dieOf b)
  | .done _ _ | .coll _ _ | .host _ | .remote _ _ => none

/-- A completion add whose kernel an ABORT or RESET has ended meanwhile: the kernel makes none (R292). -/
def State.addLate (s : State) (a : CtrAdd) : Bool := match a.src with
  | .done c k => match s.kernel c k with
    | some x => !x.adding || x.kid k != a.kid
    | none => true
  | _ => false

/-- An add at its home: performed, reported, or left to wait for a published line (R304, R311, R316, R341, R359). A kernel whose completion
add it is becomes DONE or FAULTED with it (R284). -/
def State.oneAdd (s : State) (a : CtrAdd) : Option State :=
  let drop (t : State) : State := match a.src.die with
    | some d => t.ctrDrop d a.id
    | none => t
  let done (t : State) : State := match a.src with
    | .done c k => t.completed c k
    | _ => t
  if s.addLate a then some s
  else match s.ctrAdd a.id a.amount a.hint with
  | .ok t => some (done ((drop t).addDone a))
  | .error (.fault f) => some (done ((drop (s.metError f)).addAnswer a f.cause f.detail))
  | .error .stall => none

/-- The die from which an add comes over a die link: the Sheepdog for collectives, the host and other devices (R324, R372), and the
fantail's slice on the home for a kernel. -/
def AddSrc.origin (home : Nat) : AddSrc → Nat
  | .cadd b _ | .cxadd b _ => dieOf b
  | .coll _ _ | .remote _ _ | .host _ => sheepdog
  | .done _ _ => home

/-- The first of some adds that can be performed; one that waits holds back the later ones to its counter (R310). -/
def State.takeAdd (s : State) (die : Nat) : List CtrAdd → List CtrAdd → Option State
  | _, [] => none
  | wait, a :: as =>
    if wait.any fun w => w.id == a.id then s.takeAdd die (wait ++ [a]) as
    else match (((s.modDie die fun d => { d with adds := wait ++ as }).cross (a.src.origin die) die 4).bind fun t => t.oneAdd a) with
      | some t => some t
      | none => s.takeAdd die (wait ++ [a]) as

/-- COUNTER_ADD (R304, R309, R310): the first add that has reached a die's engine. -/
def execCounterAdd (die : Nat) (s : State) : Out :=
  .next (match s.takeAdd die [] (s.die die).adds with
    | some t => State.settleHost t
    | none => s)

/-- Waiter entries that other devices may hold on a die (R306). -/
abbrev remoteWaiters : Nat := 15872

/-- A waiter registered at its counter and evaluated (R306, R309): released at once, entered, answered "full", or failed. One of this
device waits for its die's write-throughs to the word (R245). -/
def State.oneWaiter (s : State) (die : Nat) (w : Waiter) : Option State :=
  if w.remote.isNone && !s.ctrSettled (dieOf w.bank) w.ctr then none
  else match s.ctrRead w.ctr with
  | .error .stall => none
  | .error (.fault f) => some ((s.metError f).answerWaiter f.cause f.detail 0 w)
  | .ok (v, t) =>
    if w.target.ule v then some (t.answerWaiter 0 0 v w)
    else match w.remote with
      | some (node, tag) =>
        if remoteWaiters ≤ ((t.die die).waiters.countP fun x => x.remote.isSome) then
          some (t.reply die node (t.ctx w.ctx).dom 4 tag ⟨0, 0, 0, [], true⟩)
        else some (t.modDie die fun d => { d with waiters := d.waiters ++ [w] })
      | none => some (t.modDie die fun d => { d with waiters := d.waiters ++ [w] })

/-- The first of some waiters that can be registered. -/
def State.takeWaiter (s : State) (die : Nat) : List Waiter → List Waiter → Option State
  | _, [] => none
  | wait, w :: ws =>
    let src := if w.remote.isSome then 4 else dieOf w.bank
    match (((s.modDie die fun d => { d with regs_ := wait ++ ws }).cross src die 4).bind fun t => t.oneWaiter die w) with
    | some t => some t
    | none => s.takeWaiter die (wait ++ [w]) ws

/-- WAITER_REGISTER (R306, R309). -/
def execWaiterRegister (die : Nat) (s : State) : Out :=
  .next ((s.takeWaiter die [] (s.die die).regs_).getD s)

/-- The context for which a question waits. -/
def State.askerCtx (s : State) : Asker → Nat
  | .bank b | .op b _ | .cmd b _ _ | .stream b _ _ => (s.getBank b).id.ctx
  | .add a => a.ctx
  | .dep c _ _ | .swapped c _ => c
  | .host fn => (mget HostFn.reset s.fns fn).bound.getD 0

/-- Cycles after which a waiter that found the table full is sent again (R306). -/
abbrev resendCycles : Nat := 4096

/-- WAITER_RESEND_TIMER (R306): the first of a die's refused waiters whose time has passed is sent again. -/
def execWaiterResendTimer (die : Nat) (s : State) : Out :=
  .next (match (s.die die).resend.find? fun r => r.2.2.2 + resendCycles ≤ s.cycle with
    | none => s
    | some r =>
      let t := s.modDie die fun d => { d with resend := d.resend.erase r }
      match s.gate.asked.find? fun q => q.tag == r.2.1 with
      | none => t
      | some q => t.emit die r.1 (t.ctx (t.askerCtx q.who)).dom 4 (.request r.2.1 r.2.2.1))

/-- The waiter of a bank's CWAIT withdrawn, and what it asked of another device forgotten (R317). -/
def State.dropCwait (s : State) (b : Nat) : State :=
  let s := [0, 1, 2, 3].foldl (fun s d => s.modDie d fun x =>
    { x with waiters := x.waiters.filter (fun w => w.remote.isSome || w.op.isSome || w.bank != b),
             regs_ := x.regs_.filter fun w => w.remote.isSome || w.op.isSome || w.bank != b }) s
  { s with gate := { s.gate with asked := s.gate.asked.filter fun q => q.who != .bank b } }

/-- The counter that the CWAIT of the bank in focus waits on, as its slot word names it. -/
def State.cwaitCtr (s : State) : Option CtrId :=
  match s.bank.cur with
  | some r => match s.bank.opOf r 0 with
    | some (.op (.cwait o)) => match s.bankCtr (s.rx o.xa) false with
      | .ok id => some id
      | .error _ => none
    | _ => none
  | none => none

/-- CWAIT_BOUND_EXPIRY (R317): the bound of a CWAIT has passed, and it ends with the value then read at the counter's home. -/
def execCwaitBoundExpiry (b : Nat) (s : State) : Out :=
  .next (s.onBank b fun s =>
    match s.bank.swait, s.cwaitCtr with
    | .counter since bound, some id =>
      if bound = 0 ∨ s.cycle < since + bound ∨ s.bank.run ≠ .waiting then s
      else match id with
        | .remote node place =>
          let t := s.dropCwait s.cur
          (t.upd fun k => { k with swait := .remote t.gate.tag }).ask (dieOf t.cur) t.bank.id.ctx node 4 (.crd place) (.bank t.cur)
        | id => match s.ctrRead id with
          | .ok (v, t) => (t.dropCwait t.cur).hand (.bank t.cur) ⟨0, 0, v, [], false⟩
          | .error (.fault f) => ((s.metError f).dropCwait s.cur).hand (.bank s.cur) ⟨f.cause, f.detail, 0, [], false⟩
          | .error .stall => s
    | _, _ => s)

end Sys2Proof.Machine
end

