-- ==== Sys2Proof/Machine/MemSys.lean ====
section
/-! DEFINITION. The device's steps for far caches, write-throughs and block writes (R246 to R248, R332). -/

namespace Sys2Proof.Machine

/-- LOAD_DATA_RETURN (R246, R247): a line homed on another die is filled into a die's far cache for the context that holds
its frame. -/
def execLoadDataReturn (die line : Nat) (s : State) : Out :=
  .next (if 4 ≤ die ∨ s.home (line * 64) = die ∨ (s.farLine die line).isSome then s
    else match s.fillLine die line (s.frameOf (line * 64)).ctx with
      | .ok t => t.ticked
      | .error _ => s)

/-- WRITE_THROUGH_ARRIVAL (R247): the first write-through on its way from a die to a home is encoded there; unused sectors of
its reservation return. It waits for prepare-hold (R359). -/
def execWriteThroughArrival (src home : Nat) (s : State) : Out :=
  .next (match s.wts.find? (fun w => w.src == src && w.home == home && !w.arrived) with
    | none => s
    | some w => (s.arrive w).getD s)

/-- WRITE_THROUGH_ACK (R247): the first write-through that its home has performed is settled at its die once the acknowledgement has
crossed (R380). -/
def execWriteThroughAck (src home : Nat) (s : State) : Out :=
  .next (match s.wts.find? (fun w => w.src == src && w.home == home) with
    | some w => if w.arrived then match s.cross home src 1 with
        | some t => { t with wts := t.wts.filter (·.num != w.num) }
        | none => s
      else s
    | none => s)

/-- FAR_CACHE_AGE_EXPIRY (R248): a line is dropped 2^20 cycles after its fill. -/
def execFarCacheAgeExpiry (die line : Nat) (s : State) : Out :=
  .next (match mget none (s.die die).far line with
    | some l => if l.born + farAge ≤ s.cycle then s.dropFar die fun k _ => k == line else s
    | none => s)

/-- BLOCK_WRITE (R332, R339): whole bytes of one block written at its home at a level. A refused one writes nothing. -/
def execBlockWrite (lv : Level) (addr : Nat) (data : List Byte) (s : State) : Out :=
  .next (if 2 ^ 48 ≤ addr + data.length ∨ 512 < addr % 512 + data.length then s
    else match s.homeStore lv (wholeBytes addr data) with
      | .ok t => t
      | .error _ => s)

end Sys2Proof.Machine
end

