-- ==== Sys2Proof/Machine/WeirEvents.lean ====
section
/-! DEFINITION. The commit protocol's steps at weirs and at the origin (R352 to R365). -/

namespace Sys2Proof.Machine

/-! ### Messages -/

/-- The die from which what a node has sent comes: a die of this device, or the Sheepdog's gateway. -/
def State.fromDie (s : State) (src : Nat) : Nat := if devOf src = s.fabric then dieOfNode src else 4

/-- A commit message of the inbox of a die reaches it once the commit VC of its die link carries it (R387, R390). -/
def State.reaches (s : State) (die src : Nat) : Bool := (s.cross (s.fromDie src) die 2).isSome

/-- The oldest commit message from each die, since the commit VC is in order (R373, R381). -/
def State.heads (s : State) (die : Nat) : List (Nat × Nat × CommitMsg) :=
  [0, 1, 2, 3, 4].filterMap fun t => (s.die die).inbox.find? fun m => s.fromDie m.1 == t

/-- The first commit message that has reached a die, if it is of a kind, taken from its inbox. None passes an earlier one of its die. -/
def State.takeMsg {α : Type} (s : State) (die : Nat) (f : CommitMsg → Option α) : Option (Nat × α × State) :=
  match (s.heads die).findSome? fun m => if s.reaches die m.1 then (f m.2.2).map fun x => (m, x) else none with
  | some (m, x) => some (m.2.1, x, ((s.cross (s.fromDie m.1) die 2).getD s).modDie die fun d => { d with inbox := d.inbox.erase m })
  | none => none

/-! ### Weirs -/

/-- WEIR_STAGE_LINE (R352 to R354, R358, R363): a line homed on the die is held or merged for a group; a refusal is the item's failure,
which its sender hears. -/
def execWeirStageLine (die : Nat) (g : GroupName) (l : StagedLine) (s : State) : Out :=
  .next (if 4 ≤ die ∨ s.home l.addr ≠ die ∨ l.addr % 64 ≠ 0 ∨ 2 ^ 48 ≤ l.addr then s
    else match s.stageLine die g (s.frameOf l.addr).ctx l with
      | .ok (_, t) => t
      | .error (.fault f) => s.notify (.refused f.cause f.detail)
      | .error .stall => s)

/-- The page of a staged line: pinned, or RESIDENT, ZERO or EVICTED (R357). -/
def State.stagedPage (s : State) (addr : Nat) : Bool :=
  let fr := s.frameOf addr
  match s.leafOf fr.ctx fr.va with
  | some l => l.frame ≤ addr / 65536 && addr / 65536 < l.frame + l.n && (!s.pageBusy fr.ctx l || s.pinned fr.ctx l)
  | none => false

/-- Sectors that a group's lines need at most: 8 minus those that each block holds (R357). -/
def State.weirNeed (s : State) (ls : List StagedLine) : List (Nat × Nat) :=
  ((ls.map (·.addr / 512)).eraseDups).map fun b => (b, 8 - (mget BlockEnt.zero s.blocks b).count)

/-- CMP.FREE.held of the home dies raised by a weir's reservation (R337). -/
def State.heldAdd (s : State) (rs : List (Nat × Nat)) : State :=
  rs.foldl (fun s r => s.modDie (s.home (r.1 * 512)) fun x => { x with cmp := { x.cmp with held := x.cmp.held + r.2 } }) s

/-- CMP.FREE.held lowered by a reservation that ends (R337). -/
def State.heldSub (s : State) (rs : List (Nat × Nat)) : State :=
  rs.foldl (fun s r => s.modDie (s.home (r.1 * 512)) fun x => { x with cmp := { x.cmp with held := x.cmp.held - r.2 } }) s

/-- The checks of a PREPARE at a weir (R357): the state with the sectors reserved, or the refusal. -/
def State.prepare (s : State) (die : Nat) (g : GroupName) (called count : Nat) : Except (Nat × Nat) State :=
  let w := s.weirOf die g
  let ls := match w with
    | some w => w.lines
    | none => []
  if ls.length ≠ count then .error (cGROUP_FAULT, 7)
  else if (s.die die).weir.any (fun x => x.name != g && x.prepared && x.lines.any fun a => ls.any fun b => a.addr == b.addr) then
    .error (cCONFLICT, 0)
  else if !ls.all (fun l => s.stagedPage l.addr) then .error (cGROUP_FAULT, 8)
  else match w, s.reserve .reserve (s.weirNeed ls) with
    | some w, some t =>
      .ok (((t.heldAdd (s.weirNeed ls)).setWeir die g (some { w with called := called, prepared := true, rsv := s.weirNeed ls, since := s.cycle })).dropLines (ls.map (·.addr / 64)))
    | _, _ => .error (cNOSPACE, 0)

/-- A commit message of kind PREPARE. -/
def asPrepare : CommitMsg → Option (GroupName × Nat × Nat)
  | .prepare g w n => some (g, w, n)
  | _ => none

/-- WEIR_PREPARE (R357 to R359): the weir enters PREPARED and answers READY, or discards and refuses. -/
def execWeirPrepare (die : Nat) (s : State) : Out :=
  .next (match s.takeMsg die asPrepare with
    | none => s
    | some (dom, (g, w, n), t) =>
      if (t.weirOf die g).any (·.prepared) then t
      else match t.prepare die g w n with
        | .ok u => State.settleHost (u.sendCommit die dom g.node (.ready g w))
        | .error (c, d) => (t.setWeir die g none).sendCommit die dom g.node (.refusal g w c d))

/-- The masked bytes of a staged line. -/
def lineWrites (l : StagedLine) : List AWrite :=
  (List.range 64).filterMap fun i => if l.mask.getLsbD i then some (l.addr + i, l.data.extractLsb' (8 * i) 8, 0xFF#8) else none

/-- A reservation given back (R357). -/
def State.unreserve (s : State) (rs : List (Nat × Nat)) : State :=
  rs.foldl (fun s r => s.modDie (s.home (r.1 * 512)) fun x => { x with cmp := x.cmp.setFree (x.cmp.free + r.2) }) s

/-- Staged lines written at their homes (R359): the blocks that a line of an extent with its hint bit touches are stored raw (R332). -/
def State.publish (s : State) (rsv : List (Nat × Nat)) (ls : List StagedLine) : State :=
  let raw := (ls.filter (·.hint)).map (·.addr / 512)
  let (hs, ns) := ls.partition fun l => raw.contains (l.addr / 512)
  let put (s : State) (ls : List StagedLine) (hint : Bool) : State := if ls = [] then s else s.homeForce rsv (ls.flatMap lineWrites) hint
  put (put s ns false) hs true

/-- A commit message of kind commit packet. -/
def asCommit : CommitMsg → Option (GroupName × Nat)
  | .commit g w => some (g, w)
  | _ => none

/-- WEIR_COMMIT_PACKET (R346, R349, R359): every line is written at its home as one write of its masked bytes, the holds end, and the
publication is reported. A line of a page that is MIGRATING, or of a bank that makes accesses wait, is waited for (R342, R423). -/
def execWeirCommitPacket (die : Nat) (s : State) : Out :=
  .next (match s.takeMsg die asCommit with
    | none => s
    | some (dom, (g, w), t) => match t.weirOf die g with
      | none => t.sendCommit die dom g.node (.published g w false)
      | some x =>
        if !x.prepared then t
        else if x.lines.any fun l => s.wpAt l.addr || s.blockWaits (l.addr / 512) then s
        else
          let ws := x.lines.flatMap lineWrites
          let bad := x.lines.any fun l => t.linePoison l.addr
          let u := (blocksOf ws).foldl (fun (u : State) b => u.dset (b * 512)) (t.setWeir die g none)
          let u := u.publish x.rsv x.lines
          let idle := x.rsv.filter fun r => !(blocksOf ws).contains r.1
          State.settleHost (((u.unreserve idle).heldSub x.rsv).sendCommit die dom g.node (.published g w bad)))

/-- A commit message of kind discard. -/
def asDiscard : CommitMsg → Option (GroupName × Nat)
  | .discard g w => some (g, w)
  | _ => none

/-- WEIR_DISCARD (R358): the lines, holds and reservation of a group are dropped, and the discard is reported. -/
def execWeirDiscard (die : Nat) (s : State) : Out :=
  .next (match s.takeMsg die asDiscard with
    | none => s
    | some (dom, (g, w), t) =>
      let rs := match t.weirOf die g with
        | some x => x.rsv
        | none => []
      State.settleHost ((((t.setWeir die g none).unreserve rs).heldSub rs).sendCommit die dom g.node (.discarded g w)))

/-! ### The origin -/

/-- The entry of a group that a message names at its origin die. -/
def State.groupAt (s : State) (die : Nat) (g : GroupName) : Option (Nat × Group) :=
  let i := g.id % 4096
  match (s.gent die i).grp with
  | some x => if s.gname die i = g then some (i, x) else none
  | none => none

/-- A commit message of kind READY. -/
def asReady : CommitMsg → Option (GroupName × Nat)
  | .ready g w => some (g, w)
  | _ => none

/-- READY_REPORT (R355): the last READY makes the group PREPARED, and commit packets go to every weir. -/
def execReadyReport (die : Nat) (s : State) : Out :=
  .next (match s.takeMsg die asReady with
    | none => s
    | some (_, (g, w), t) => match t.groupAt die g with
      | none => t
      | some (i, x) =>
        if x.st ≠ 2 then t
        else
          let left := x.ready.erase w
          if left ≠ [] then t.modGroup die i fun x => { x with ready := left }
          else
            let nodes := x.weirs.map (·.1)
            let u := t.modGroup die i fun x => { x with st := 3, ready := [], report := nodes }
            nodes.foldl (fun u n => u.sendCommit die (u.ctx x.ctx).dom n (.commit g n)) u)

/-- A commit message of kind refusal. -/
def asRefusal : CommitMsg → Option (GroupName × Nat × Nat)
  | .refusal g _ c d => some (g, c, d)
  | _ => none

/-- WEIR_REFUSAL (R355, R361): a PREPARING group aborts with the refusal's cause. -/
def execWeirRefusal (die : Nat) (s : State) : Out :=
  .next (match s.takeMsg die asRefusal with
    | none => s
    | some (_, (g, c, d), t) => match t.groupAt die g with
      | some (i, x) => if x.st = 2 then t.abortGroup die i c d else t
      | none => t)

/-- A weir has reported: its commit packet or discard is sent no more (R360). -/
def State.reported (s : State) (m : CommitMsg) : State :=
  { s with gate := { s.gate with unack := s.gate.unack.filter fun u => u.pkt.body != .commit m } }

/-- A commit message of kind publication report. -/
def asPublished : CommitMsg → Option (GroupName × Nat × Bool)
  | .published g w p => some (g, w, p)
  | _ => none

/-- PUBLICATION_REPORT (R355, R359): the last makes the group COMMITTED. -/
def execPublicationReport (die : Nat) (s : State) : Out :=
  .next (match s.takeMsg die asPublished with
    | none => s
    | some (_, (g, w, p), t) => match t.groupAt die g with
      | none => t
      | some (i, x) =>
        if x.st ≠ 3 then t
        else
          let left := x.report.erase w
          ((t.reported (.commit g w)).modGroup die i fun x =>
            { x with report := left, poison := x.poison || p, st := if left = [] then 4 else 3 }).settleGroup die i)

/-- A commit message of kind discard report. -/
def asDiscarded : CommitMsg → Option (GroupName × Nat)
  | .discarded g w => some (g, w)
  | _ => none

/-- DISCARD_REPORT (R355, R361): the last makes the abort deliverable. -/
def execDiscardReport (die : Nat) (s : State) : Out :=
  .next (match s.takeMsg die asDiscarded with
    | none => s
    | some (_, (g, w), t) => match t.groupAt die g with
      | none => t
      | some (i, x) =>
        if x.st ≠ 5 then t
        else ((t.reported (.discard g w)).modGroup die i fun x => { x with report := x.report.erase w }).settleGroup die i)

/-- PREPARE_TIMEOUT (R355, R362): a PREPARING group whose timer has passed aborts. -/
def execPrepareTimeout (die idx : Nat) (s : State) : Out :=
  .next (match (s.gent die idx).grp with
    | none => s
    | some x => if x.st = 2 ∧ x.since + usCycles x.timeout ≤ s.cycle then s.abortGroup die idx cGROUP_FAULT 5 else s)

/-- The prepare timeout by which a weir counts: the group's on its own device, else the default, since PREPARE carries none (R357, R360). -/
def State.weirTimeout (s : State) (g : GroupName) : Nat :=
  if devOf g.node = s.fabric then match s.groupAt (dieOfNode g.node) g with
    | some (_, x) => x.timeout
    | none => s.cgDef
  else s.cgDef

/-- The record of a weir without an outcome (R360, R462, source 7). -/
def weirRec (w : WeirGroup) : FaultRec :=
  { FaultRec.blank with cause := cGROUP_FAULT, detail := 9, source := 7, done := w.lines.length,
                        place := BitVec.ofNat 64 (w.name.id + w.name.node * 2 ^ 16) }

/-- WEIR_QUERY_TIMEOUT (R360): a weir that has held a group PREPARED for four timeouts queries its origin, again each timeout, and after
eight queries writes a fault record once. -/
def execWeirQueryTimeout (die : Nat) (g : GroupName) (s : State) : Out :=
  .next (match s.weirOf die g with
    | none => s
    | some w =>
      let t := usCycles (s.weirTimeout g)
      if !w.prepared ∨ s.cycle < w.since + (if w.queries = 0 then 4 * t else t) then s
      else
        let now := decide (8 ≤ w.queries) && !w.recd
        let u := s.setWeir die g (some { w with since := s.cycle, queries := w.queries + 1, recd := w.recd || now })
        let u := if now then u.ctxFault w.ctx (weirRec w) .event else u
        u.sendCommit die (u.ctx w.ctx).dom g.node (.query g w.called))

/-- A commit message of kind query. -/
def asQuery : CommitMsg → Option (GroupName × Nat)
  | .query g w => some (g, w)
  | _ => none

/-- GROUP_QUERY (R360): the origin answers with the outcome, when there is one: the commit packet or the discard. -/
def execGroupQuery (die : Nat) (s : State) : Out :=
  .next (match s.takeMsg die asQuery with
    | none => s
    | some (dom, (g, w), t) => match t.groupAt die g with
      | some (_, x) =>
        if x.st = 3 ∨ x.st = 4 then t.sendCommit die dom w (.commit g w)
        else if x.st = 5 then t.sendCommit die dom w (.discard g w)
        else t
      | none => t)

end Sys2Proof.Machine
end

