-- ==== Sys2Proof/Machine/RemoteEvents.lean ====
section
/-! DEFINITION. What other devices ask of this one, and the gateway: remote requests, packets, acknowledgements, retries (R305, R374,
R376 to R383, R391). -/

namespace Sys2Proof.Machine

/-! ### The target of a remote item (R305, R377, R379) -/

/-- The context that holds a fabric domain. -/
def State.domCtx (s : State) (dom : Nat) : Option Nat :=
  (s.ctxs.find? fun x => x.2.dom == dom && x.2.st != .free && x.2.st != .destroyed).map (·.1)

/-- The context of a request, or REMOTE_FAULT detail 1; halted says that it takes no request (detail 6). -/
def State.targetCtx (s : State) (dom : Nat) : M Nat := match s.domCtx dom with
  | some c => .ok c
  | none => raise cREMOTE_FAULT 1

/-- The exporting context is not HALTING, HALTED or IMAGED (R379, check 6). -/
def State.notHalted (s : State) (c : Nat) : M Unit := need (!s.stagingHalted c) cREMOTE_FAULT 6

/-- The bytes of an item of an export window, after every check of R379. -/
def State.remoteBytes (s : State) (dom win off len : Nat) (read write : Bool) : M (Nat × List Nat) := do
  let c ← s.targetCtx dom
  let w := mget Window.closed (s.ctx c).wins win
  let as ← if read && write then do
      need (w.len != 0) cREMOTE_FAULT 2
      need (off + len ≤ w.len) cREMOTE_FAULT 3
      need (w.r && w.w) cREMOTE_FAULT 4
      w.check off len true
    else w.check off len write
  s.notHalted c
  pure (c, as)

/-- The slot counter that a request names in the context of its domain (R305). -/
def State.targetCtr (s : State) (dom : Nat) (place : Word) : M (Nat × Nat × Nat) := do
  let c ← s.targetCtx dom
  s.notHalted c
  match placeOf place with
  | some (.ctr node gen i) => pure (c, ctrKey (dieOfNode node) i, gen)
  | _ => illegal

/-- An answer that says an item has been performed. -/
abbrev performed : RemoteAns := ⟨0, 0, 0, [], false⟩

/-- The lines newly held by die, as the answer to a staging request carries them: 0 for a die not touched, else one more than the count. -/
def stageAnswer (touched : Nat → Bool) (ns : List Nat) : List Byte :=
  (ns.zipIdx.map fun x => if touched x.2 then x.1 + 1 else 0).flatMap (leBytes 4)

/-- What a bank or an engine of this device asks of a place by its node: its die, which has shown values of its own. -/
def State.nearDie (s : State) (p : Packet) : Option Nat := if devOf p.src = s.fabric then some (dieOfNode p.src) else none

/-- No write-through of the asking die to the lines of an item is on its way (R245). -/
def State.nearSettled (s : State) (p : Packet) (as : List Nat) : Bool := (s.nearDie p).all fun d => as.all (s.lineSettled d)

/-- The asking die's lines of an item brought up to their homes, so that no later load of the die reads an older value (R245). -/
def State.nearFresh (s : State) (p : Packet) (as : List Nat) : State := match s.nearDie p with
  | some d => as.foldl (fun s a => s.refreshFar d (.word 0 a)) s
  | none => s

/-- An earlier counter request of a node waits at a die (R381). -/
def Die.queued (d : Die) (src : Nat) : Bool :=
  d.adds.any (fun a => match a.src with
    | .remote n _ => n == src
    | _ => false) || d.regs_.any fun w => w.remote.any fun r => r.1 == src

/-- A remote request performed at its target (R379): the answer, or none while it waits in another of the die's tables. Its lines are reached
over the die links of the VC (R372). -/
def State.serve (s : State) (die : Nat) (p : Packet) (tag : Nat) : RemoteReq → M (Option RemoteAns × State)
  | .read win off len => do
    let (_, as) ← s.remoteBytes p.dom win off len true false
    await (s.nearSettled p as)
    let t ← s.rounds die (s.homesOf as) p.vc 1
    let (bs, t) ← t.homeRead as
    pure (some { performed with data := bs }, t.nearFresh p as)
  | .write win off data mask => do
    let (_, as) ← s.remoteBytes p.dom win off data.length false true
    let ws : List AWrite := (as.zip (data.zip mask)).map fun x => (x.1, x.2.1, x.2.2)
    let t ← s.rounds die (s.homesOf as) p.vc 1
    let t ← t.homeStore .bank ws
    pure (some (if s.writePoison ws then { performed with cause := cMEMORY_ERROR, detail := 1 } else performed), t.nearFresh p as)
  | .stage win off data mask g => do
    let (c, as) ← s.remoteBytes p.dom win off data.length false true
    let ls := linesOf ((as.zip (data.zip mask)).map fun x => (x.1, x.2.1, x.2.2))
    let t ← s.rounds die (s.homesOf as) p.vc 1
    let (ns, t) ← t.stageLines g c ls
    pure (some { performed with data := stageAnswer (fun d => ls.any fun l => s.home l.addr == d) ns }, t)
  | .atom win off op size sg opnd expected => do
    let (_, as) ← s.remoteBytes p.dom win off size true true
    let a := as.headD 0
    await (s.nearSettled p as)
    let t ← s.rounds die (s.homesOf as) p.vc 1
    let (old, bad, t) ← t.atomAt a size op sg opnd expected
    let t := match s.nearDie p with
      | some d => t.dropLine d a
      | none => t
    pure (some (if bad then { performed with cause := cMEMORY_ERROR, detail := 1, value := old } else { performed with value := old }), t)
  | .cadd place amount => do
    let (c, k, gen) ← s.targetCtr p.dom place
    await (!(s.die die).regs_.any fun w => w.remote.any fun r => r.1 == p.src)
    let a : CtrAdd := { id := .slot c k gen, amount := amount, src := .remote p.src tag, place := place, bundle := 0, wid := 0, kid := 0, ctx := c }
    pure (none, s.modDie die fun d => { d with adds := d.adds ++ [a] })
  | .crd place => do
    let (c, k, gen) ← s.targetCtr p.dom place
    await (!(s.die die).queued p.src)
    let (v, t) ← s.ctrRead (.slot c k gen)
    pure (some { performed with value := v }, t)
  | .cfree place => do
    let (c, k, gen) ← s.targetCtr p.dom place
    await (!(s.die die).queued p.src)
    let t ← s.cfree c k gen
    pure (some performed, t)
  | .wait place target => do
    let (c, k, gen) ← s.targetCtr p.dom place
    await (!(s.die die).queued p.src)
    let w : Waiter := { bank := 0, op := none, ctx := c, slot := some k, gen := gen, addr := 0, target := target, remote := some (p.src, tag) }
    pure (none, s.modDie die fun d => { d with regs_ := d.regs_ ++ [w] })

/-- One request of a die's queue answered, or left to wait for a published line. -/
def State.oneRequest (s : State) (die : Nat) (p : Packet) : Option State :=
  match p.body with
  | .request tag r => match s.serve die p tag r with
    | .ok (some a, t) => some (t.reply die p.src p.dom p.vc tag a)
    | .ok (none, t) => some t
    | .error (.fault f) => some ((s.metError f).reply die p.src p.dom p.vc tag ⟨f.cause, f.detail, 0, [], false⟩)
    | .error .stall => none
  | _ => some s

/-- A request that reaches its die: performed, or answered with LINK_FAULT where the die link to it has failed (R390); none while it waits. -/
def State.tryRequest (s : State) (die : Nat) (p : Packet) : Option State :=
  match s.dieFails (s.fromDie p.src) die p.vc, p.body with
  | some d, .request tag _ => some (s.reply (s.fromDie p.src) p.src p.dom p.vc tag ⟨cLINK_FAULT, d, 0, [], false⟩)
  | _, _ => (s.cross (s.fromDie p.src) die p.vc).bind fun t => t.oneRequest die p

/-- The first of some requests that can be performed; of an ordered VC, none passes another of its source (R381). -/
def State.takeRequest (s : State) (die : Nat) : List Packet → List Packet → Option State
  | _, [] => none
  | wait, p :: ps =>
    if p.vc = 4 ∧ wait.any (fun q => q.vc == 4 && q.src == p.src) then s.takeRequest die (wait ++ [p]) ps
    else match (s.modDie die fun d => { d with reqs := wait ++ ps }).tryRequest die p with
      | some t => some t
      | none => s.takeRequest die (wait ++ [p]) ps

/-- REMOTE_REQUEST (R305, R377, R379): the first request that a die can perform is checked, performed and answered. -/
def execRemoteRequest (die : Nat) (s : State) : Out :=
  .next (match s.takeRequest die [] (s.die die).reqs with
    | some t => State.settleHost t
    | none => s)

/-! ### Packets (R374, R376, R381 to R383) -/

/-- An answer from another device goes on to the die that asked (R372). -/
def State.answered (s : State) (v tag : Nat) (a : RemoteAns) : State :=
  match s.gate.asked.find? (·.tag == tag) with
  | none => s
  | some q => s.giveBack ⟨sheepdog, q.die, v, tag, none, a⟩

/-- A packet passed on to the die, entry or requester that it is for (R376, R379). -/
def State.deliver (s : State) (p : Packet) : State :=
  let die := dieOfNode p.dst
  match p.body with
  | .request _ _ => s.modDie die fun d => { d with reqs := d.reqs ++ [p] }
  | .answer tag a => s.answered p.vc tag a
  | .commit m => s.modDie die fun d => { d with inbox := d.inbox ++ [(p.src, p.dom, m)] }
  | .ack _ _ => s
  | .chunk _ _ _ _ _ | .release _ _ _ _ | .finish _ _ _ | .notice _ _ => match s.domCtx p.dom with
    | some c => s.collLine c p.body
    | none => s

/-- VCs that keep the order of a pair of nodes across the fabric (R380). -/
def orderedVc (v : Nat) : Bool := v == 2 || v == 4 || v == 5

/-- A packet's sequence number comes before the one expected (R382, R383). -/
def seqOld (n expect : Nat) : Bool := decide (2 ^ 31 ≤ (n + 2 ^ 32 - expect % 2 ^ 32) % 2 ^ 32)

/-- Early packets of an ordered VC passed on as long as the next one is there (R382). -/
def State.passEarly (s : State) (key : Nat) : Nat → State
  | 0 => s
  | fuel + 1 =>
    let n := mget 0 s.gate.seqIn key
    match s.gate.early.find? fun p => seqKey p.src p.dst p.vc == key && p.seq == n with
    | none => s
    | some p =>
      let t : State := { s with gate := { s.gate with early := s.gate.early.erase p, seqIn := mset 0 s.gate.seqIn key ((n + 1) % 2 ^ 32) } }
      (t.deliver p).passEarly key fuel

/-- The window within which the gateway knows a duplicate (R383). -/
abbrev seqWindow : Nat := 2 ^ 20

/-- A packet of another device ordered or passed on, a duplicate discarded (R382, R383). -/
def State.order (s : State) (p : Packet) : State :=
  let key := seqKey p.src p.dst p.vc
  let n := mget 0 s.gate.seqIn key
  if orderedVc p.vc then
    if seqOld p.seq n ∨ s.gate.early.contains p then s
    else
      let t : State := { s with gate := { s.gate with early := s.gate.early ++ [p] } }
      t.passEarly key t.gate.early.length
  else if s.gate.seen.contains (key, p.vc, p.seq) then s
  else
    let near (x : Nat × Nat × Nat) : Bool := x.1 != key || decide ((p.seq + 2 ^ 32 - x.2.2) % 2 ^ 32 ≤ seqWindow) || seqOld p.seq x.2.2
    let t : State := { s with gate := { s.gate with seen := s.gate.seen.filter near ++ [(key, p.vc, p.seq)] } }
    t.deliver p

/-- A commit packet or a discard. -/
def isOutcome : Payload → Bool
  | .commit (.commit _ _) | .commit (.discard _ _) => true
  | _ => false

/-- A packet at the gateway (R381 to R383): an acknowledgement frees what it names, but for commit packets and discards (R360); anything else is acknowledged, then ordered or
passed on. -/
def State.receivePacket (s : State) (p : Packet) : State :=
  if devOf p.dst ≠ s.fabric then s
  else if devOf p.src = s.fabric then s.deliver p
  else match p.body with
    | .ack v n =>
      let of_ (u : Unacked) : Bool := u.pkt.dst == p.src && u.pkt.src == p.dst && u.pkt.vc == v && u.pkt.seq == n
      let acked (u : Unacked) : Option Unacked := if !of_ u then some u else if isOutcome u.pkt.body then some { u with acked := true } else none
      { s with gate := { s.gate with unack := s.gate.unack.filterMap acked } }
    | _ =>
      let back : Packet := { dst := p.src, src := p.dst, dom := p.dom, vc := 1, seq := 0, body := .ack p.vc p.seq }
      (s.post (s.route p.dom (devOf p.src)).2 back).order p

/-- FABRIC_PACKET_RECEIVE (R376, R381 to R383). -/
def execFabricPacketReceive (p : Packet) (s : State) : Out := .next (State.settleHost (s.receivePacket p))

/-- ETHERNET_FRAME_RECEIVE (R374): the packet of a frame under the EtherType of ETH.TYPE; any other frame is dropped and counted. -/
def execEthernetFrameReceive (port etherType : Nat) (p : Packet) (s : State) : Out :=
  .next (if !ethPort port then s
    else if etherType ≠ s.ethType then s.modLink port fun l => { l with drops := l.drops + 1 }
    else State.settleHost (s.receivePacket p))

/-! ### Items that fail with a link (R355, R383, R390, R401) -/

/-- A PREPARING group that lacks a weir aborts (R355, R361). -/
def State.abortToward (s : State) (die : Nat) (g : GroupName) : State :=
  match s.groupAt die g with
  | some (i, x) => if x.st = 2 then s.abortGroup die i cLINK_FAULT 0 else s
  | none => s

/-- The answer LINK_FAULT to the request of a tag. -/
def State.failAsked (s : State) (tag detail : Nat) : State := s.taken ⟨sheepdog, sheepdog, 1, tag, none, ⟨cLINK_FAULT, detail, 0, [], false⟩⟩

/-- Items failed so far, and the state. -/
abbrev Failed := Nat × State

/-- PREPARING groups of die a with a weir of another device that no port leads to any more abort (R355, R383, R390), those whose PREPARE has
been acknowledged included. -/
def State.failFarGroups (s : State) (a : Nat) : Failed :=
  let hit := (s.die a).groups.filter fun e => match e.2.grp with
    | some g => g.st == 2 && g.weirs.any fun w => devOf w.1 != s.fabric && (s.routeFails (s.ctx g.ctx).dom (devOf w.1) 2).isSome
    | none => false
  (hit.length, hit.foldl (fun s e => s.abortGroup a e.1 cLINK_FAULT 0) s)

/-- The same for every die. -/
def State.failAllGroups (s : State) : Failed :=
  [0, 1, 2, 3].foldl (fun x a =>
    let (n, t) := x.2.failFarGroups a
    (x.1 + n, t)) ((0, s) : Failed)

/-- Firings that send to an entry of another device fail (R401). -/
def State.failColl (s : State) (p : Packet) (entry detail : Nat) : State :=
  match s.domCtx p.dom with
  | none => s
  | some c => ((s.ctx c).colls.filter fun e => e.2.others.any fun q =>
      let w := e.2.members[q]?.getD 0
      w / 4096 % 4096 == entry && (s.route p.dom (w % 2048)).1 == devOf p.dst).foldl (fun s e => s.collFail c e.1 cLINK_FAULT detail) s

/-- An unacknowledged packet fails (R390): its item reports by its own rule. Commit packets, discards and the weirs' reports go on being sent (R360). -/
def State.failPacket (s : State) (u : Unacked) (detail : Nat) : State :=
  let p := u.pkt
  let drop (s : State) : State :=
    { s with gate := { s.gate with unack := s.gate.unack.erase u, held := s.gate.held.filter fun h => h.2.2 != p } }
  match p.body with
  | .request tag _ => (drop s).failAsked tag detail
  | .commit (.prepare g _ _) => (drop s).abortToward (dieOfNode p.src) g
  | .commit (.commit _ _) | .commit (.discard _ _) | .commit (.published _ _ _) | .commit (.discarded _ _) => s
  | .chunk e _ _ _ _ | .release e _ _ _ | .finish e _ _ | .notice e _ => (drop s).failColl p e detail
  | _ => drop s

/-- Every item outstanding over a route entry fails with LINK_FAULT detail 3 (R383, R390). -/
def State.failEntry (s : State) (entry : Nat) : State :=
  let t := (s.gate.unack.filter fun x => !x.acked && s.routeEntry x.pkt.dom x.named == entry).foldl (fun t x => t.failPacket x 3) s
  let toward (q : Asked) : Bool :=
    let c := t.askerCtx q.who
    !t.ownNode c q.node && t.routeEntry (t.ctx c).dom (devOf q.node) == entry
  ((t.gate.asked.filter toward).foldl (fun t q => t.failAsked q.tag 3) t).failAllGroups.2

/-- GATEWAY_RETRY_TIMEOUT (R383): a packet unacknowledged for 20 µs is sent again on the ports of its route, at most 8 times; then the entry of
its route is marked failed, and every item outstanding over it fails. A commit packet or discard that the far gateway has acknowledged and whose
weir has not reported is sent anew (R360). -/
def execGatewayRetryTimeout (ends : NodePair) (vc seq : Nat) (s : State) : Out :=
  .next (match s.gate.unack.find? fun u => u.pkt.src == ends.src && u.pkt.dst == ends.dst && u.pkt.vc == vc && u.pkt.seq == seq with
    | none => s
    | some u => if s.cycle < u.at_ + usCycles 20 then s else
      let again (s : State) : State :=
        let more (x : Unacked) : Unacked := if x = u then { x with tries := x.tries + 1, at_ := s.cycle } else x
        ({ s with gate := { s.gate with unack := s.gate.unack.map more } } : State).post (s.route u.pkt.dom u.named).2 u.pkt
      if u.acked then
        ({ s with gate := { s.gate with unack := s.gate.unack.erase u } } : State).emit (dieOfNode ends.src) (u.named * 4 + dieOfNode ends.dst) u.pkt.dom vc
          u.pkt.body
      else if u.tries < 8 then again s
      else
        let entry := s.routeEntry u.pkt.dom u.named
        let t : State := { s with gate := { s.gate with dead := (s.gate.dead.erase entry) ++ [entry] } }
        let t := t.failEntry entry
        if t.gate.unack.contains u then again t else t)

end Sys2Proof.Machine
end

