-- ==== Sys2Proof/Machine/Groups.lean ====
section
/-! DEFINITION. GOPEN, GCOMMIT, GABORT and GSTAT (R363, R366 to R370). -/

namespace Sys2Proof.Machine

/-- A register marked pending and completed by an answer in the same step. -/
def State.answerTok (s : State) (k : XReg) (ok : Bool) (v : Word) : State :=
  let (n, t) := s.newOrd
  (t.markTok k n true).completeTok s.cur k.toNat n ok v

/-- A failure answered to a register. -/
def State.failTok (s : State) (k : XReg) (cause detail : Nat) : State := s.answerTok k false (failVal cause detail 0)

/-- The free entries of a group unit. -/
def State.freeGents (s : State) (d : Nat) : List Nat := (List.range 4096).filter fun i => (s.gent d i).grp.isNone

/-- The group unit's answer to a GOPEN (R351, R367). -/
def State.gopen (s : State) (k : XReg) (n timeout : Nat) : State :=
  if (mget none s.bank.gbinds n).isSome then s.failTok k cILLEGAL_OPERAND 1
  else
    let d := dieOf s.cur
    match s.pickFree (s.freeGents d) with
    | none => s.failTok k cNOSLOT 0
    | some i =>
      let c := s.bank.id.ctx
      let id := groupId (s.gent d i) i
      let node := (s.ctx c).aliasNo * 4 + d
      let g : Group := { st := 1, bank := s.cur, ctx := c, bind := n, cause := 0, detail := 0, weirs := [], ready := [],
                         report := [], poison := false, timeout := if timeout = 0 then s.cgDef else timeout,
                         since := 0, halted := false, auto := false }
      let s := (s.setGent d i { s.gent d i with grp := some g }).ticked.setBind s.cur n (some ⟨id, node, false⟩)
      s.answerTok k true (BitVec.ofNat 64 (id + node * 2 ^ 16 + n * 2 ^ 29 + 2 ^ 63))

/-- GOPEN (R367). -/
def execGopen (o : SrOp) (s : State) : Out :=
  run s (do
    s.operands [o.xa] o.xd
    let t := (s.rx o.xa).toNat
    need (t = 0 || (10 ≤ t && t ≤ s.cgTmax)) cILLEGAL_OPERAND 2
    pure (s.gopen o.xd o.fn.toNat t))

/-- The fields of a handle: id, node and binding; none for a reserved field or a clear bit 63 (R351, R366). -/
def handleFields (w : Word) : Option (Nat × Nat × Nat) :=
  let n := w.toNat
  if bitAt n 63 && bitsOf n 62 35 == 0 then some (bitsOf n 15 0, bitsOf n 28 16, bitsOf n 34 29) else none

/-- GCOMMIT or GABORT of a handle of the bank (R363, R366, R368, R369). -/
def State.groupEnd (s : State) (o : SrOp) (commit : Bool) : State :=
  match handleFields (s.rx o.xa) with
  | none => s.failTok o.xd cGROUP_FAULT 3
  | some (id, node, n) =>
    match mget none s.bank.gbinds n with
    | none => s.failTok o.xd cGROUP_FAULT 3
    | some x =>
      if x.id ≠ id ∨ x.node ≠ node then s.failTok o.xd cGROUP_FAULT 3
      else
        let (ord, t) := s.newOrd
        let t := t.markTok o.xd ord true
        (t.upd fun b => { b with gpend := b.gpend ++ [⟨n, o.xd.toNat, ord, commit, false⟩] }).takePends s.cur

/-- GCOMMIT (R368). -/
def execGcommit (o : SrOp) (s : State) : Out :=
  run s (do
    s.operands [o.xa] o.xd
    pure (s.groupEnd o true))

/-- GABORT (R369). -/
def execGabort (o : SrOp) (s : State) : Out :=
  run s (do
    s.operands [o.xa] o.xd
    pure (s.groupEnd o false))

/-- The word GSTAT gives of a group (R370). -/
def Group.word (g : Group) : Word :=
  let lines := g.weirs.foldl (fun n w => n + (w.2 - 1)) 0
  BitVec.ofNat 64 (g.st + g.cause * 2 ^ 8 + g.detail * 2 ^ 16 + min g.weirs.length 64 * 2 ^ 24 + min lines (2 ^ 32 - 1) * 2 ^ 32)

/-- GSTAT (R363, R370). -/
def execGstat (o : SrOp) (s : State) : Out :=
  run s (do
    s.operands [o.xa] o.xd
    pure (match handleFields (s.rx o.xa) with
      | none => s.failTok o.xd cGROUP_FAULT 3
      | some (id, node, n) =>
        match mget none s.bank.gbinds n with
        | none => s.answerTok o.xd true 0
        | some x =>
          if x.id ≠ id ∨ x.node ≠ node then s.answerTok o.xd true 0
          else if x.marked then s.answerTok o.xd true (BitVec.ofNat 64 (5 + cHALTED * 2 ^ 8))
          else match s.boundGroup x with
            | some (_, _, g) => s.answerTok o.xd true g.word
            | none => s.answerTok o.xd true 0))

end Sys2Proof.Machine
end

