-- ==== Sys2Proof/Machine/Kernels.lean ====
section
/-! DEFINITION. LAUNCH, KSTAT, QCTL and COLRDY (R285, R286, R301, R302, R404). LAUNCH, QCTL and COLRDY are releases: each
stands in the store queue until the bank's earlier accesses have performed at DEVICE scope, and is then taken in program
order. -/

namespace Sys2Proof.Machine

/-- A release entry: what it asks, its operands, and the register it answers. -/
def State.releaseTo (s : State) (what : Nat) (a b : Word) (k : XReg) : State :=
  (s.enqueue (.release what a b k.toNat) 0 0).markTok k s.bank.ord true

/-- LAUNCH (R285). -/
def execLaunch (o : SrOp) (s : State) : Out :=
  run s (do
    s.operands [o.xa, o.xb] o.xd
    pure (s.releaseTo 0 (s.rx o.xa) (s.rx o.xb) o.xd))

/-- The code of a kernel state (R286). -/
def KState.code : KState → Nat
  | .loaded => 0
  | .pending => 1
  | .dispatching => 2
  | .running => 3
  | .edge => 4
  | .done => 5
  | .faulted => 6
  | .aborted => 7

/-- The word KSTAT gives of a kernel id (R286). -/
def kstatWord (k : Option Kernel) (kid : Nat) : Word :=
  match k with
  | none => 15
  | some k =>
    if k.gen ≠ bitsOf kid 31 16 then 15
    else
      let bad := k.st = .faulted ∨ k.st = .aborted
      BitVec.ofNat 64 (k.st.code + (if bad then k.cause * 2 ^ 8 + k.detail * 2 ^ 16 else 0) + k.queue * 2 ^ 24 +
        min k.ended (2 ^ 32 - 1) * 2 ^ 32)

/-- KSTAT (R286). -/
def execKstat (o : SrOp) (s : State) : Out :=
  scalar s [o.xa] o.xd (do
    let n := (s.rx o.xa).toNat % 2 ^ 63
    legal (bitsOf n 62 32 == 0 && bitsOf n 15 12 == 0)
    pure (kstatWord (s.kernel s.bank.id.ctx (kslot n)) n))

/-- A QCTL operation (R301): privileged, its operands checked, then a release entry with op in the first operand above
the queue number. -/
def qctl (o : SrOp) (s : State) (op : Nat) : Out :=
  run s (do
    legal s.bank.id.sys
    s.operands [o.xa, o.xb] o.xd
    legal ((s.rx o.xa).toNat < 64)
    legal (if op = 1 then (s.rx o.xb).toNat < 2 else s.rx o.xb == 0)
    pure (s.releaseTo 1 (BitVec.ofNat 64 ((s.rx o.xa).toNat + op * 64)) (s.rx o.xb) o.xd))

/-- QCTL QUERY (R301). -/
def execQctlQuery (o : SrOp) (s : State) : Out := qctl o s 0

/-- QCTL SETMODE (R301). -/
def execQctlSetmode (o : SrOp) (s : State) : Out := qctl o s 1

/-- QCTL DRAIN (R301). -/
def execQctlDrain (o : SrOp) (s : State) : Out := qctl o s 2

/-- QCTL HALT (R301). -/
def execQctlHalt (o : SrOp) (s : State) : Out := qctl o s 3

/-- QCTL RESUME (R301). -/
def execQctlResume (o : SrOp) (s : State) : Out := qctl o s 4

/-- QCTL ABORT (R301). -/
def execQctlAbort (o : SrOp) (s : State) : Out := qctl o s 5

/-- QCTL RESET (R301). -/
def execQctlReset (o : SrOp) (s : State) : Out := qctl o s 6

/-- COLRDY (R404). -/
def execColrdy (o : SrOp) (s : State) : Out :=
  run s (do
    s.operands [o.xa] o.xd
    legal ((s.rx o.xa).toNat < 2 ^ 12)
    pure (s.releaseTo 2 (s.rx o.xa) 0 o.xd))

end Sys2Proof.Machine
end

