-- ==== Sys2Proof/Machine/Sha3.lean ====
section
/-! DEFINITION. SHA3-256 of FIPS 202, which images and measurements carry (R414, R431, R436). -/

namespace Sys2Proof.Machine

/-- One step of the shift register of FIPS 202's rc: its output is bit 0. -/
def rcStep (r : Nat) : Nat := if r < 128 then 2 * r else (2 * r ^^^ 0x171)

/-- The register after t steps, from the register r. -/
def rcAfter : Nat → Nat → Nat
  | 0, r => r
  | t + 1, r => rcAfter t (rcStep r)

/-- The word that iota adds, when the register stands at r: seven bits, at the places one less than a power of two. -/
def iotaWord (r : Nat) : BitVec 64 :=
  BitVec.ofNat 64 (((List.range 7).map fun j => rcAfter j r % 2 * 2 ^ (2 ^ j - 1)).sum)

/-- The place and the rotation that rho gives each lane but the first, along its walk from (x, y) at step t. -/
def rhoWalk : Nat → Nat → Nat → Nat → Map Nat
  | 0, _, _, _ => []
  | n + 1, t, x, y => mset 0 (rhoWalk n (t + 1) y ((2 * x + 3 * y) % 5)) (x + 5 * y) ((t + 1) * (t + 2) / 2 % 64)

/-- The rotations of rho. -/
def rhoTurns : Map Nat := rhoWalk 24 0 1 0

/-- The lane (x, y) of a state, coordinates modulo 5. -/
def laneAt (a : List (BitVec 64)) (x y : Nat) : BitVec 64 := (a[x % 5 + 5 * (y % 5)]?).getD 0

/-- A state from its lanes. -/
def laneMap (f : Nat → Nat → BitVec 64) : List (BitVec 64) := (List.range 25).map fun i => f (i % 5) (i / 5)

/-- The parity of a column, over its sheet. -/
def sheetParity (a : List (BitVec 64)) (x : Nat) : BitVec 64 := (List.range 5).foldl (fun w y => w ^^^ laneAt a x y) 0

/-- Theta. -/
def thetaMap (a : List (BitVec 64)) : List (BitVec 64) :=
  laneMap fun x y => laneAt a x y ^^^ (sheetParity a (x + 4) ^^^ (sheetParity a (x + 1)).rotateLeft 1)

/-- Rho, then pi. -/
def rhoPi (a : List (BitVec 64)) : List (BitVec 64) :=
  laneMap fun x y => (laneAt a (x + 3 * y) x).rotateLeft (mget 0 rhoTurns ((x + 3 * y) % 5 + 5 * x))

/-- Chi. -/
def chiMap (a : List (BitVec 64)) : List (BitVec 64) :=
  laneMap fun x y => laneAt a x y ^^^ (laneAt a (x + 2) y &&& ~~~laneAt a (x + 1) y)

/-- Rounds of Keccak-f[1600], the register of iota at r. -/
def keccakRounds : Nat → Nat → List (BitVec 64) → List (BitVec 64)
  | 0, _, a => a
  | n + 1, r, a => keccakRounds n (rcAfter 7 r) ((chiMap (rhoPi (thetaMap a))).modifyHead (· ^^^ iotaWord r))

/-- The permutation: 24 rounds. -/
def keccakF (a : List (BitVec 64)) : List (BitVec 64) := keccakRounds 24 1 a

/-- Bytes of a block at SHA3-256's rate. -/
abbrev sha3Rate : Nat := 136

/-- A message padded to whole blocks. -/
def sha3Pad (m : List (BitVec 8)) : List (BitVec 8) :=
  let n := sha3Rate - m.length % sha3Rate
  m ++ (if n = 1 then [0x86#8] else 0x06#8 :: List.replicate (n - 2) 0#8 ++ [0x80#8])

/-- The blocks of a padded message absorbed. -/
def sha3Absorb : Nat → List (BitVec 8) → List (BitVec 64) → List (BitVec 64)
  | 0, _, a => a
  | n + 1, m, a =>
    let lanes := (List.range 17).map fun i => BitVec.ofNat 64 (leNat ((m.drop (8 * i)).take 8))
    sha3Absorb n (m.drop sha3Rate) (keccakF (a.zipIdx.map fun x => x.1 ^^^ lanes[x.2]?.getD 0))

/-- SHA3-256. -/
def sha3 (m : List (BitVec 8)) : List (BitVec 8) :=
  let p := sha3Pad m
  ((sha3Absorb (p.length / sha3Rate) p (List.replicate 25 0)).take 4).flatMap fun w => leBytes 8 w.toNat

end Sys2Proof.Machine
end

