-- ==== Sys2Proof/Machine/Images.lean ====
section
/-! DEFINITION. Context images: the bytes that IMAGE writes (R306, R414, R415, R465). -/

namespace Sys2Proof.Machine

/-! ### What the implementation encodes (R465) -/

/-- FREE VALUE: the encoding of a bank's cursors, dispatch window, distance count, pending EFR writes, streams and sorted list. -/
opaque bankPiece : Bank → List Byte

/-- FREE VALUE: the encoding of a bank's engine operations with their items. -/
opaque opsPiece : Bank → List Byte

/-- FREE VALUE: the encoding of a Mill's saved state. -/
opaque millPiece : Mill → List Byte

/-- FREE VALUE: the encoding of a kernel's task counts, FORWARD holdings and aging state. -/
opaque kernelPiece : Kernel → List Byte

/-! ### Sections (R415, R465) -/

/-- A section: type, unit, contents. -/
structure Section where
  type : Nat
  unit : Nat
  data : List Byte

/-- The bank on which a saved bank stood. -/
abbrev Saved.home (v : Saved) : Nat := v.key % 512

/-- The numbers of the assigned control registers, ascending (R33). -/
def crNumbers : List Nat :=
  [0x000, 0x001, 0x002, 0x010, 0x011, 0x012, 0x013, 0x014, 0x020, 0x021, 0x022, 0x030, 0x040, 0x041, 0x050, 0x051, 0x060, 0x061,
   0x062, 0x063, 0x070, 0x071] ++
  (List.range 16).flatMap (fun n => (List.range 6).map fun i => 0x100 + 8 * n + i) ++ (List.range 48).map (0x200 + ·)

/-- The control registers of a saved bank, 8 bytes each. -/
def State.crBytes (s : State) (v : Saved) : List Byte :=
  crNumbers.flatMap fun n => match ({ s with bank := v.bank, cur := v.home } : State).crGet n with
    | .ok w => leBytes 8 w.toNat
    | .error _ => leBytes 8 0

/-- The tile handles of a bank: shape word and race counts of each of the 256, zero for a free one. -/
def Bank.handleBytes (b : Bank) : List Byte :=
  (List.range 256).flatMap fun h => match mget none b.tiles h with
    | some t => leBytes 8 t.shape.toNat ++ leBytes 4 t.head ++ leBytes 4 t.tail
    | none => leBytes 16 0

/-- The group bindings of a bank: id, node, and bit 0 for a bound one, bit 1 for the mark of a halt. -/
def Bank.bindBytes (b : Bank) : List Byte :=
  (List.range 64).flatMap fun n => match mget none b.gbinds n with
    | some g => leBytes 2 g.id ++ leBytes 2 g.node ++ leBytes 4 (1 + if g.marked then 2 else 0)
    | none => leBytes 8 0

/-- The section of a saved bank. -/
def State.bankSection (s : State) (v : Saved) : Section :=
  let b := v.bank
  let m (i : Nat) : Nat := v.masks[i]?.getD 0
  let vkey (j : Nat) : Nat := if j < 64 then j else 64 + (j - 64 + b.ctl.rotV) % (b.id.capVr - 64)
  let pkey (j : Nat) : Nat := if j < 16 then j else 16 + (j - 16 + b.ctl.rotP) % 48
  let pend := maskOf (fun i => (mget Tok.idle b.regs.tok i).out != []) 64
  ⟨1, v.home, leBytes 4 b.id.kid ++ leBytes 8 b.id.wid.toNat ++ leBytes 2 b.id.capVr ++ leBytes 2 (v.sp.getD 0xFFFF) ++
    leBytes 8 (m 0) ++ leBytes 40 (m 1) ++ leBytes 8 (m 2) ++
    ((List.range 64).filter (bitAt (m 0))).flatMap (fun i => leBytes 8 (mget 0 b.regs.x i).toNat) ++
    ((List.range b.id.capVr).filter (bitAt (m 1))).flatMap (fun j =>
      let x := mget VReg.zero b.regs.v (vkey j)
      leBytes 256 x.bits.toNat ++ leBytes 1 x.tag) ++
    ((List.range 64).filter (bitAt (m 2))).flatMap (fun j => leBytes 32 (mget 0 b.regs.p (pkey j)).toNat) ++
    leBytes 8 pend ++ s.crBytes v ++ bankPiece b ++ b.handleBytes ++ b.bindBytes ++ opsPiece b ++
    (List.range (s.keptKennel b)).map (mget 0 b.kennel)⟩

/-- The allocated granules of a level on a core or mill group, ascending by handle and bank. -/
def tileData (vs : List Saved) (level : Nat) : List Byte :=
  (List.range 256).flatMap fun h => vs.flatMap fun v => match mget none v.bank.tiles h with
    | some t => if (shapeRaw t.shape).level = level then (List.range (4096 * t.gran)).map (mget 0 t.bytes) else []
    | none => []

/-- An overflow entry (R306). -/
def CtrEnt.bytes (e : CtrEnt) : List Byte := leBytes 8 e.val.toNat ++ leBytes 2 e.gen ++ leBytes 1 e.st ++ leBytes 5 0

/-- The queue records and the last-selected queues (R465). -/
def State.queueData (s : State) (c : Nat) : List Byte :=
  ((List.range 64).flatMap fun q =>
    let waited := match s.head c q with
      | some (_, k) => s.agedBy c k
      | none => 0
    leBytes 8 (s.queueWord c q 0).toNat ++ leBytes 4 waited ++ leBytes 4 0) ++
  ((List.range 8).flatMap fun p => leBytes 1 (mget 63 (s.ctx c).rr p))

/-- A region record (R264). -/
def Region.bytes (r : Region) : List Byte :=
  leBytes 8 r.base.toNat ++ leBytes 8 r.len.toNat ++
    leBytes 4 (r.access + r.edge * 4 + (if r.shared then 16 else 0) + (if r.hint then 32 else 0) + r.fwdH * 2 ^ 8 + r.fwdN * 2 ^ 16) ++
    leBytes 1 r.ext ++ leBytes 11 0

/-- A launch header (R262). -/
def Header.bytes (h : Header) : List Byte :=
  leBytes 4 1 ++ leBytes 2 ((if h.sys then 1 else 0) + (if h.overlap then 2 else 0) + (if h.shared then 4 else 0)) ++ leBytes 1 h.prio ++
    leBytes 1 h.regions.length ++ leBytes 8 h.entry.toNat ++ leBytes 8 h.sptab.toNat ++ h.widths.flatMap (leBytes 1) ++ leBytes 2 0 ++
    h.binds.flatMap (leBytes 1) ++ leBytes 2 0 ++ leBytes 8 h.n ++ leBytes 2 h.vregs ++ leBytes 2 h.kennel ++ leBytes 4 h.tile ++
    leBytes 4 (if h.mill then 1 else 0) ++ leBytes 4 0 ++ h.deps.flatMap (fun d => leBytes 8 d.1.toNat ++ leBytes 8 d.2.toNat) ++
    leBytes 8 h.doneId.toNat ++ leBytes 8 h.doneAmt.toNat ++ h.args.flatMap (fun a => leBytes 8 a.toNat) ++ leBytes 48 0 ++
    h.regions.flatMap Region.bytes

/-- A kernel of the Kernels section. -/
def Kernel.bytes (k : Kernel) : List Byte :=
  k.hdr.bytes ++ leBytes 1 k.st.code ++ leBytes 1 k.cause ++ leBytes 1 k.detail ++ leBytes 1 k.prio ++ kernelPiece k

/-- A loaded collective entry (R465). -/
def Coll.bytes (e : Nat) (x : Coll) : List Byte :=
  leBytes 2 e ++ leBytes 1 (if x.st = 4 then 2 else 1) ++ leBytes 1 (if x.ready then 1 else 0) ++ leBytes 1 x.cause ++ leBytes 1 x.detail ++
    leBytes 2 0 ++ leBytes 4 x.r ++ leBytes 4 0 ++ x.recd

/-- A context has a counter table on the dies that its partition used when it was halted, and on the dies where its saved banks
or its live entries stand (R306). -/
def State.hasTable (s : State) (c die : Nat) : Bool :=
  let x := s.ctx c
  x.held.any (fun k => k / 4 == die) || x.saved.any (fun v => v.home / 128 == die) || x.ctrs.any fun e => keyDie e.1 == die

/-- The sections of an image, ascending by type and unit (R415). -/
def State.sections (s : State) (c : Nat) : List Section :=
  let x := s.ctx c
  let vs := x.saved.mergeSort fun a b => a.home ≤ b.home
  let mills := vs.filterMap fun v => v.bank.mheld.map fun m => (⟨2, mgOf v.home, millPiece m⟩ : Section)
  let on (k : Nat) (f : Nat → Nat) : List Saved := vs.filter fun v => f v.home == k
  let some_ (u : Nat) (d : List Byte) : List Section := if d = [] then [] else [⟨3, u, d⟩]
  vs.map s.bankSection ++ mills ++ (List.range 256).flatMap (fun k => some_ k (tileData (on k coreOf) 1)) ++
    (List.range 64).flatMap (fun g => some_ (256 + g) (tileData (on g mgOf) 0)) ++
    ((List.range 4).filter (s.hasTable c)).map (fun d => ⟨4, d, (List.range (s.ctrSize c d)).flatMap fun i => (s.ctrEnt c (ctrKey d i)).bytes⟩) ++
    [⟨5, 0, s.queueData c⟩, ⟨6, 0, (s.kernelList c).flatMap fun k => k.2.bytes⟩,
     ⟨7, 0, (x.colls.filter fun e => e.2.st != 0).flatMap fun e => e.2.bytes e.1⟩,
     ⟨8, 0, ((x.redeliver ++ x.faults).map (·.recd)).flatMap FaultRec.bytes⟩]

/-! ### The image (R414) -/

/-- The directory entries of some sections, the first at an offset. -/
def directory : Nat → List Section → List Byte
  | _, [] => []
  | off, x :: xs =>
    leBytes 2 x.type ++ leBytes 2 x.unit ++ leBytes 4 0 ++ leBytes 4 off ++ leBytes 4 x.data.length ++ directory (off + x.data.length) xs

/-- The CAP.VR values that the header counts. -/
abbrev vrValues : List Nat := [320, 288, 256, 224, 192, 160, 128]

/-- The implementation code of the Strelig B960 (R465). -/
abbrev implCode : Nat := 1

/-- The magic bytes. -/
abbrev imageMagic : List Byte := [0x42, 0x52, 0x4F, 0x45, 0x54, 0x43, 0x54, 0x58]

/-- A bank's kernel uses the Mill. -/
def State.usesMill (s : State) (c : Nat) (v : Saved) : Bool := match s.kernel c (kslot v.bank.id.kid) with
  | some k => k.hdr.mill
  | none => false

/-- The image of a context. -/
def State.imageBytes (s : State) (c : Nat) : List Byte :=
  let x := s.ctx c
  let secs := s.sections c
  let data := secs.flatMap (·.data)
  let len := 0x40 + 16 * secs.length + data.length + 32
  let mills := (((x.saved.filter (s.usesMill c)).map fun v => mgOf v.home).eraseDups).length
  let head := imageMagic ++ leBytes 2 1 ++ leBytes 2 0 ++ leBytes 2 2 ++ leBytes 2 (if x.saved.any (·.sp.isNone) then 1 else 0) ++
    leBytes 8 len ++ leBytes 4 secs.length ++ leBytes 4 0 ++ leBytes 2 x.aliasNo ++ leBytes 2 x.dom ++ leBytes 1 (2 ^ bitsOf x.size.toNat 2 0) ++
    leBytes 1 mills ++ leBytes 2 implCode ++ vrValues.flatMap (fun v => leBytes 2 (x.saved.countP fun b => b.bank.id.capVr == v)) ++
    leBytes 2 0 ++ (List.range 4).flatMap (fun d => leBytes 1 (if s.hasTable c d then mget 12 (s.die d).ctrLog c else 0)) ++ leBytes 4 0
  let body := head ++ directory (0x40 + 16 * secs.length) secs ++ data
  body ++ sha3 body

end Sys2Proof.Machine
end

