-- ==== Sys2Proof/Machine/Restores.lean ====
section
/-! DEFINITION. What RESTORE reads from an image: its header, its directory and its sections (R306, R407, R415, R417, R465). -/

namespace Sys2Proof.Machine

/-- What RESTORE reads in a header. -/
structure ImageHead where
  alias_ : Nat
  dom    : Nat
  need   : Nat
  mills  : Nat
  vr     : List Nat
  ctrlog : List Nat

/-- The header of an image. -/
def imageHead (b : List Byte) : ImageHead :=
  { alias_ := recNat b 0x20 2, dom := recNat b 0x22 2, need := recNat b 0x24 1, mills := recNat b 0x25 1,
    vr := (List.range 7).map fun i => recNat b (0x28 + 2 * i) 2, ctrlog := (List.range 4).map fun d => recNat b (0x38 + d) 1 }

/-- The directory lies in the image, its sections between it and the digest (R417, reason 8). -/
def directoryOk (b : List Byte) : Bool :=
  let n := recNat b 0x18 4
  let first := 0x40 + 16 * n
  first + 32 ≤ b.length && recNat b 0x1C 4 == 0 && recNat b 0x36 2 == 0 && recNat b 0x3C 4 == 0 &&
    (List.range n).all fun i =>
      let e := 0x40 + 16 * i
      let off := recNat b (e + 8) 4
      1 ≤ recNat b e 2 && recNat b (e + 4) 4 == 0 && first ≤ off && off + recNat b (e + 12) 4 + 32 ≤ b.length

/-- Bytes where an image lies: host memory or device memory. -/
def State.imageAt (s : State) (addr n : Nat) (host : Bool) : List Byte := if host then mgets 0 s.host addr n else s.bytesAt addr n

/-- The sections that an image's directory lists: type, unit, contents. -/
def imageSections (b : List Byte) : List Section :=
  (List.range (recNat b 0x18 4)).map fun i =>
    let e := 0x40 + 16 * i
    ⟨recNat b e 2, recNat b (e + 2) 2, (b.drop (recNat b (e + 8) 4)).take (recNat b (e + 12) 4)⟩

/-- The overflow entry that 16 bytes hold (R306). -/
def ctrEntOf (b : List Byte) : CtrEnt := ⟨recNat b 10 1, recNat b 8 2, BitVec.ofNat 64 (recNat b 0 8), 0⟩

/-- The counter tables that an image's sections of type 4 hold (R306, R325, R465). -/
def imageCtrs (b : List Byte) : Map CtrEnt :=
  ((imageSections b).filter (·.type == 4)).flatMap fun x =>
    ((List.range (x.data.length / 16)).map fun i => (ctrKey x.unit i, ctrEntOf (x.data.drop (16 * i)))).filter (·.2 != CtrEnt.free)

/-- The contents of an image's sections of a type. -/
def imageData (b : List Byte) (type : Nat) : List Byte := ((imageSections b).filter (·.type == type)).flatMap (·.data)

/-- The records of n bytes that a section holds. -/
def recordsOf (n : Nat) (d : List Byte) : List (List Byte) := (List.range (d.length / n)).map fun i => (d.drop (n * i)).take n

/-- The fault record that 64 bytes hold (R418). -/
def faultRecOf (b : List Byte) : FaultRec :=
  let word (o : Nat) : Word := BitVec.ofNat 64 (recNat b o 8)
  { cause := recNat b 0 1, detail := recNat b 1 1, source := recNat b 2 1, slot := recNat b 3 1, core := recNat b 4 2, bank := recNat b 6 1,
    token := recNat b 7 1, kernel := recNat b 8 4, done := recNat b 0xC 4, work := word 0x10, bundle := word 0x18, place := word 0x20,
    window := word 0x28, progress := (List.range 6).map fun i => recNat b (0x30 + 2 * i) 2, seq := recNat b 0x3C 4 }

/-- The collective entry that 80 bytes hold, with its index (R465). Its pages and member words are read when the sections are loaded. -/
def collOf (b : List Byte) : Nat × Coll :=
  (recNat b 0 2, { Coll.unloaded with st := if recNat b 2 1 = 2 then 4 else 1, ready := recNat b 3 1 != 0, cause := recNat b 4 1,
                                      detail := recNat b 5 1, r := recNat b 8 4, recd := b.drop 16 })

/-- The last-selected queues that the Queues section holds, by priority level (R294, R465). -/
def imageLast (b : List Byte) : Map Nat := (List.range 8).map fun p => (p, recNat (imageData b 5) (1024 + p) 1)

/-! ### What the implementation encodes (R465) -/

/-- FREE VALUE: the bytes that the implementation's items take at the start of some bytes: 0 the slot cursors up to the sorted list unit, 1 the
engine operations, 2 the rest of a kernel (R465). -/
opaque pieceLen : Nat → List Byte → Nat

/-- FREE VALUE: the bank that the two pieces of a bank section encode (R465): cursors, dispatch window, pending EFR writes, streams, sorted list,
engine operations. None for bytes that encode nothing; what R465 lays out is read beside it. -/
opaque bankOf : List Byte → List Byte → Option Bank

/-- FREE VALUE: the saved state of a Mill that a section encodes (R197, R465). -/
opaque millOf : List Byte → Option Mill

/-- FREE VALUE: the table slot of a kernel and the rest of it that a piece encodes (R465): task counts, FORWARD holdings, aging state, launch
order and queue. -/
opaque kernelRest : List Byte → Option (Nat × Kernel)

/-! ### The Bank section (R465) -/

/-- Where the items of a bank section stand: after the live registers, the control registers, the implementation's first piece, the handles, the
bindings, its second piece. -/
structure BankLay where
  xs   : List Nat
  vs   : List Nat
  ps   : List Nat
  crs  : Nat
  own  : Nat
  tiles : Nat
  binds : Nat
  ops  : Nat
  kennel : Nat

/-- The layout of a bank section. -/
def bankLay (d : List Byte) : BankLay :=
  let live (off n top : Nat) : List Nat := (List.range top).filter (bitAt (recNat d off n))
  let xs := live 16 8 64
  let vs := live 24 40 (recNat d 12 2)
  let ps := live 64 8 64
  let crs := 72 + 8 * xs.length + 257 * vs.length + 32 * ps.length + 8
  let own := crs + 8 * crNumbers.length
  let tiles := own + pieceLen 0 (d.drop own)
  let ops := tiles + 4096 + 512
  { xs := xs, vs := vs, ps := ps, crs := crs, own := own, tiles := tiles, binds := tiles + 4096, ops := ops,
    kennel := ops + pieceLen 1 (d.drop ops) }

/-- The value of a control register in a bank section. -/
def crIn (d : List Byte) (l : BankLay) (n : Nat) : Word := recWord d (l.crs + 8 * crNumbers.idxOf n)

/-- The control registers of a bank section. -/
def ctlIn (d : List Byte) (l : BankLay) : Ctl :=
  let w := crIn d l
  { frm := (w 0).extractLsb' 0 3, fflags := (w 1).extractLsb' 0 6, seed := (w 2).extractLsb' 0 32,
    efr := (List.range 5).foldl (fun m i => mset 0 m i (w (0x010 + i))) [], rotV := (w 0x020).toNat, rotP := (w 0x021).toNat,
    lcount := w 0x022, pcfg := w 0x030, cycle := w 0x050, nancnt := w 0x070, mstat := (w 0x071).extractLsb' 0 3,
    steps := (List.range 96).foldl (fun m i => mset 0 m i (w (0x100 + 8 * (i / 6) + i % 6))) [] }

/-- The registers of a bank section: the live ones, with the tokens that the implementation's state leaves pending. -/
def regsIn (d : List Byte) (l : BankLay) (c : Ctl) (m : Nat) (tok : Map Tok) : Regs :=
  let vkey (j : Nat) : Nat := if j < 64 then j else 64 + (j - 64 + c.rotV) % (m - 64)
  let pkey (j : Nat) : Nat := if j < 16 then j else 16 + (j - 16 + c.rotP) % 48
  let v0 := 72 + 8 * l.xs.length
  let p0 := v0 + 257 * l.vs.length
  let pend := recNat d (p0 + 32 * l.ps.length) 8
  { x := l.xs.zipIdx.foldl (fun r x => mset 0 r x.1 (recWord d (72 + 8 * x.2))) [],
    v := l.vs.zipIdx.foldl (fun r x => mset VReg.zero r (vkey x.1)
      ⟨BitVec.ofNat 2048 (recNat d (v0 + 257 * x.2) 256), recNat d (v0 + 257 * x.2 + 256) 1⟩) [],
    p := l.ps.zipIdx.foldl (fun r x => mset 0 r (pkey x.1) (BitVec.ofNat 256 (recNat d (p0 + 32 * x.2) 32))) [],
    tok := tok.filter fun t => bitAt pend t.1 }

/-- The tiles of a bank section, without their contents. -/
def tilesIn (d : List Byte) (l : BankLay) (own : Map (Option Tile)) : Map (Option Tile) :=
  (List.range 256).foldl (fun m h =>
    let w := recWord d (l.tiles + 16 * h)
    if w = 0 then m
    else
      let gran := match mget none own h with
        | some t => t.gran
        | none => (shapeRaw w).granules
      mset none m h (some { shape := w, gran := gran, bytes := [], head := recNat d (l.tiles + 16 * h + 8) 4,
                            tail := recNat d (l.tiles + 16 * h + 12) 4, lock := none, poison := [] })) []

/-- The group bindings of a bank section. -/
def bindsIn (d : List Byte) (l : BankLay) : Map (Option GBind) :=
  (List.range 64).foldl (fun m n =>
    let o := l.binds + 8 * n
    let f := recNat d (o + 4) 4
    if bitAt f 0 then mset none m n (some ⟨recNat d o 2, recNat d (o + 2) 2, bitAt f 1⟩) else m) []

/-- The saved bank of a section of type 1, in context c with some kernels. -/
def savedIn (c : Nat) (ks : Map (Option Kernel)) (x : Section) : Saved :=
  let d := x.data
  let l := bankLay d
  let own := (bankOf ((d.drop l.own).take (l.tiles - l.own)) ((d.drop l.ops).take (l.kennel - l.ops))).getD Bank.reset
  let ctl := ctlIn d l
  let kid := recNat d 0 4
  let hdr := (mget none ks (kslot kid)).map (·.hdr)
  let regs := regsIn d l ctl (recNat d 12 2) own.regs.tok
  let kennel := (d.drop l.kennel).zipIdx.foldl (fun m b => mset 0 m b.2 b.1) []
  let ext (n : Nat) : Ext := ⟨crIn d l (0x200 + n), crIn d l (0x210 + n), (crIn d l (0x220 + n)).toNat⟩
  let id : TaskId := { ctx := c, kid := kid, task := (crIn d l 0x061).toNat, wid := recWord d 4, sys := bitAt (crIn d l 0x060).toNat 8,
                       capVr := recNat d 12 2, mill := hdr.any (·.mill), tileBound := (hdr.map (·.tile)).getD 0 }
  let b : Bank := { own with
    id := id, regs := regs, view := regs, ctl := ctl, exts := (List.range 16).foldl (fun m n => mset Ext.none m n (ext n)) [],
    tiles := tilesIn d l own.tiles, kennel := kennel, kview := kennel, gbinds := bindsIn d l, prog := bitsOf (crIn d l 0x071).toNat 31 16 }
  let sp := recNat d 14 2
  { key := 512 + x.unit, sp := if sp = 0xFFFF then none else some sp, bank := b, wait := .none,
    masks := [recNat d 16 8, recNat d 24 40, recNat d 64 8], atHalt := false, die := x.unit / 128, share := b.shareBytes, shadow := false }

/-- A bank section is well formed (R415, R465): its unit, its CAP.VR, and every item within it. -/
def bankForm (x : Section) : Bool :=
  let l := bankLay x.data
  x.unit < 512 && 72 ≤ x.data.length && vrValues.contains (recNat x.data 12 2) && l.kennel ≤ x.data.length &&
    (x.data.length - l.kennel) % 64 == 0 && (List.range 64).all fun n => recNat x.data (l.binds + 8 * n + 4) 4 < 4

/-! ### Tiles and the Mill -/

/-- The contents of the handles of a level of some saved banks, ascending by handle and bank, taken from a section's granules. -/
def fillTiles (level : Nat) (d : List Byte) (vs : List Saved) : List Saved :=
  ((List.range 256).foldl (fun (r : List Byte × List Saved) h =>
    r.2.foldl (fun (q : List Byte × List Saved) v => match mget none v.bank.tiles h with
      | some t =>
        if (shapeRaw t.shape).level = level then
          let n := 4096 * t.gran
          let t := { t with bytes := (q.1.take n).zipIdx.foldl (fun m b => mset 0 m b.2 b.1) [] }
          (q.1.drop n, q.2 ++ [{ v with bank := { v.bank with tiles := mset none v.bank.tiles h (some t) } }])
        else (q.1, q.2 ++ [v])
      | none => (q.1, q.2 ++ [v])) (r.1, [])) (d, vs)).2

/-- Granules that saved banks hold at a level. -/
def heldGranules (level : Nat) (vs : List Saved) : Nat := vs.foldl (fun n v => n + v.bank.granulesAt level) 0

/-- The saved banks whose tiles a section of type 3 holds: those of its core, or of its mill group. -/
def tileOwner (unit : Nat) (v : Saved) : Bool := if unit < 256 then coreOf v.home == unit else mgOf v.home == unit - 256

/-- Saved banks with the contents of their tiles. -/
def withTiles (b : List Byte) (vs : List Saved) : List Saved :=
  ((imageSections b).filter (·.type == 3)).foldl (fun vs x =>
    vs.filter (!tileOwner x.unit ·) ++ fillTiles (if x.unit < 256 then 1 else 0) x.data (vs.filter (tileOwner x.unit ·))) vs

/-- Saved banks with the Mills that they held. -/
def withMills (b : List Byte) (vs : List Saved) : List Saved :=
  let ms := ((imageSections b).filter (·.type == 2)).filterMap (millOf ·.data)
  vs.map fun v => match ms.find? (·.holder == some v.home) with
    | some m => { v with bank := { v.bank with mheld := some m } }
    | none => v

/-! ### Kernels and queues -/

/-- Bytes of the header of a kernel. -/
def headerSize (d : List Byte) : Nat := 0x100 + 32 * recNat d 7 1

/-- The kernel that a record of the Kernels section holds, with its slot; i stands for a slot that the implementation's piece does not give. -/
def kernelIn (i : Nat) (d : List Byte) : Nat × Kernel :=
  let n := headerSize d
  let h := headerOf d
  let st : KState := ([.loaded, .pending, .dispatching, .running, .edge, .done, .faulted, .aborted] : List KState)[recNat d n 1]?.getD .aborted
  let blank : Kernel := { gen := 0, st := st, hdr := h, queue := 0, order := i, cause := 0, detail := 0, prio := 0, aged := 0, frames := [],
                          depFrm := [], stop := none, next := 0, placed := [], halted := 0, ended := 0, adding := false, addRes := none,
                          fwds := [], consumer := none, pred := none }
  let (slot, k) := (kernelRest ((d.drop (n + 4)).take (pieceLen 2 (d.drop (n + 4))))).getD (i, blank)
  (slot, { k with hdr := h, st := st, cause := recNat d (n + 1) 1, detail := recNat d (n + 2) 1, prio := recNat d (n + 3) 1, frames := [] })

/-- The records of the Kernels section one after another; none when one does not end in it. -/
def kernelsIn : Nat → List Byte → Option (List (List Byte))
  | 0, d => if d = [] then some [] else none
  | fuel + 1, d =>
    if d = [] then some []
    else
      let n := headerSize d + 4
      let m := n + pieceLen 2 (d.drop n)
      if d.length < m ∨ 7 < recNat d (headerSize d) 1 ∨ !headerReserved d then none
      else (kernelsIn fuel (d.drop m)).map (d.take m :: ·)

/-- The kernels of an image. -/
def imageKernels (b : List Byte) : Map (Option Kernel) :=
  let d := imageData b 6
  ((kernelsIn d.length d).getD []).zipIdx.foldl (fun m r => let (k, x) := kernelIn r.2 r.1; mset none m k (some x)) []

/-- The queues of an image: their states and modes as the Queues section has them, their kernels in launch order. -/
def imageQueues (b : List Byte) (ks : Map (Option Kernel)) : Map Queue :=
  let order := (ks.filterMap fun k => k.2.map fun x => (k.1, x)).mergeSort fun x y => x.2.order ≤ y.2.order
  (List.range 64).foldl (fun m q =>
    let w := recNat (imageData b 5) (16 * q) 8
    let st : QState := match bitsOf w 2 0 with
      | 3 => .draining
      | 4 => .halted
      | 5 => .error
      | _ => .normal
    let mine := order.filter (·.2.queue == q)
    let last := match mine.getLast? with
      | some (k, x) => if x.st = .done then none else some (x.kid k)
      | none => none
    mset Queue.new m q ⟨st, bitAt w 3, (mine.filter (!·.2.st.final)).map (·.1), last⟩) []

/-! ### The whole -/

/-- A section is well formed (R415, R465); a type above 8 is skipped (R417). -/
def sectionForm (b : List Byte) (x : Section) : Bool :=
  let d := x.data
  match x.type with
  | 1 => bankForm x
  | 2 => x.unit < 64
  | 3 =>
    let vs := ((imageSections b).filter (·.type == 1)).map (savedIn 0 [])
    x.unit < 320 && d.length == 4096 * heldGranules (if x.unit < 256 then 1 else 0) (vs.filter (tileOwner x.unit ·))
  | 4 => x.unit < 4 && d.length == 16 * 2 ^ recNat b (0x38 + x.unit) 1 &&
    (recordsOf 16 d).all fun r => recNat r 10 1 < 4 && recNat r 11 5 == 0
  | 5 => x.unit == 0 && d.length == 1032 && (List.range 64).all (fun q => recNat d (16 * q + 12) 4 == 0) &&
    (List.range 8).all fun p => recNat d (1024 + p) 1 < 64
  | 6 => x.unit == 0 && (kernelsIn d.length d).isSome
  | 7 => x.unit == 0 && d.length % 80 == 0 && (recordsOf 80 d).all (fun r =>
      recNat r 0 2 < 4096 && (recNat r 2 1 == 1 || recNat r 2 1 == 2) && recNat r 3 1 < 2 && recNat r 6 2 == 0 && recNat r 12 4 == 0)
  | 8 => x.unit == 0 && d.length % 64 == 0
  | _ => true

/-- The sections of an image are well formed, those of a type in ascending order of their units (R415, R417). -/
def sectionsOk (b : List Byte) : Bool :=
  let xs := imageSections b
  xs.all (sectionForm b) && (List.range 8).all fun t =>
    let us := (xs.filter (·.type == t + 1)).map (·.unit)
    rising us && us.eraseDups.length == us.length

/-- Whom the record of a saved bank's fault concerns when its image comes from another device: the bank that it names, whole, one of its engine
operations, streams or Mill commands by token register, or a kernel (R417, R462). -/
def whoOf (vs : List Saved) (f : FaultRec) : FaultWho :=
  match vs.find? fun v => v.home == 2 * f.core + f.bank with
  | none => if f.source = 4 then .kernel 0 (kslot f.kernel) else .event
  | some v =>
    if f.source = 0 then .bank v.key
    else if f.source = 5 then .edge v.key
    else if f.source = 3 then match v.bank.cmds.find? (·.kd == f.token) with
      | some m => .cmd v.key m.ord
      | none => .event
    else if f.source = 1 ∨ f.source = 2 then match v.bank.streams.find? (fun t => t.failed && t.kd == f.token) with
      | some t => .stream v.key t.ord
      | none => match v.bank.ops.find? fun o => o.st == .failed && o.kd == f.token with
        | some o => .op v.key o.ord
        | none => .event
    else .event

/-- The context that an image's sections hold, to be restored as context c (R465). -/
def contextIn (c : Nat) (b : List Byte) : Ctx :=
  let ks := imageKernels b
  let vs := ((imageSections b).filter (·.type == 1)).map (savedIn c ks)
  { Ctx.reset with
    saved := withMills b (withTiles b vs), kernels := ks, queues := imageQueues b ks, ctrs := imageCtrs b, rr := imageLast b,
    order := (ks.foldl (fun n k => max n ((k.2.map (·.order + 1)).getD 0)) 0), colls := (recordsOf 80 (imageData b 7)).map collOf,
    redeliver := (recordsOf 64 (imageData b 8)).map fun r => let f := faultRecOf r; ⟨f, whoOf vs f⟩ }

/-- The kernel at the head of a queue of a context. -/
def Ctx.headOf (x : Ctx) (q : Nat) : Option Nat := (mget Queue.new x.queues q).ks.find? fun k => match mget none x.kernels k with
  | some y => y.st == .pending
  | none => false

/-- A context whose queue heads have waited towards their next gain as long as the Queues section says (R295, R465). -/
def Ctx.aged (b : List Byte) (cycle : Nat) (x : Ctx) : Ctx :=
  (List.range 64).foldl (fun x q => match x.headOf q with
    | none => x
    | some k =>
      let n := recNat (imageData b 5) (16 * q + 8) 4
      { x with kernels := mmod none x.kernels k fun y => y.map fun y => { y with aged := if n = 0 then 0 else cycle + agedBias - n } }) x

/-- The reason for which RESTORE refuses an image, or the context that it encodes (R407, R417): one of this device's own writing is known, any other
is read from its sections. -/
def State.restoreCheck (s : State) (c : Nat) (b : List Byte) (clusters : List Nat) : Except Nat Ctx :=
  let h := imageHead b
  let cores := clusters.flatMap fun k => (List.range 16).map (16 * k + ·)
  let mills := clusters.flatMap fun k => (List.range 4).map (4 * k + ·)
  let short (v : Nat) : Bool :=
    decide (2 * (cores.countP fun k => v ≤ (s.core k).capVr) < ((vrValues.zip h.vr).filter fun x => v ≤ x.1).foldl (fun n x => n + x.2) 0)
  let known := (s.images.find? fun i => i.bytes == b).map (·.ctx)
  if b.length < 0x60 ∨ sha3 (b.take (b.length - 32)) ≠ b.drop (b.length - 32) then .error 1
  else if b.take 8 ≠ imageMagic ∨ recNat b 8 2 ≠ 1 then .error 2
  else if recNat b 0xC 2 ≠ 2 ∨ recNat b 0x26 2 ≠ implCode then .error 3
  else if vrValues.any short then .error 4
  else if clusters.length < h.need ∨ (mills.countP fun g => (s.mg g).mill.usable) < h.mills then .error 5
  else if (h.ctrlog.zipIdx.any fun x => mget 12 (s.die x.2).ctrLog c < x.1) then .error 6
  else if s.ctxs.any fun x => x.1 != c && x.2.st != .free && x.2.dom == h.dom && (x.2.aliasNo == h.alias_ || s.fabric == h.alias_) then
    .error 7
  else if !directoryOk b ∨ (known.isNone ∧ !sectionsOk b) then .error 8
  else
    let x := known.getD (contextIn c b)
    .ok { x.aged b s.cycle with aliasNo := h.alias_, dom := h.dom, size := BitVec.ofNat 64 (Nat.log2 h.need), agedAt := s.cycle }

end Sys2Proof.Machine
end

