-- ==== Sys2Proof/Machine/ContextEvents.lean ====
section
/-! DEFINITION. The life of a context: creation, placement, swap, halt, image, restore, destruction (R406 to R417, R463, R465). -/

namespace Sys2Proof.Machine

/-- Only the bits of a value from hi to lo are set (R7). -/
def only (v : Word) (hi lo : Nat) : Bool := bitsOf v.toNat hi lo * 2 ^ lo == v.toNat

/-- A value that CTX.ROOT takes (R406). -/
def rootOk (v : Word) : Bool := only v 47 16

/-- A value that a fault area register takes (R406, R420). -/
def faOk (v : Word) : Bool := only v 63 6 && 16 ≤ faCap v

/-- Contexts of a device (R406). -/
abbrev maxContexts : Nat := 32

/-- Clusters that another context holds. -/
def State.clusterTaken (s : State) (c k : Nat) : Bool := s.ctxs.any fun x => x.1 != c && x.2.clusters.contains k

/-- A cluster set that a context can be placed on: free, and of CTX.SIZE clusters (R406, R409). -/
def State.setFree (s : State) (c : Nat) (cl : List Nat) : Bool :=
  cl.length == 2 ^ bitsOf (s.ctx c).size.toNat 2 0 && cl.eraseDups.length == cl.length && cl.all (· < 16) && !cl.any (s.clusterTaken c)

/-- The check of detail 8 made again for the kernels that are LOADED or PENDING (R463). -/
def State.recheck (s : State) (c : Nat) : State :=
  (s.kernelList c).foldl (fun s e =>
    if (e.2.st = .loaded ∨ e.2.st = .pending) ∧ !s.partitionFits c e.2.hdr then s.finish c e.1 .faulted cILLEGAL_OPERAND 8 else s) s

/-- CTXCREATE taken (R407, R409). -/
def State.ctxCreate (s : State) (c : Nat) : State :=
  if maxContexts ≤ c ∨ (s.ctx c).st ≠ .free then s.noRow
  else s.modCtx c fun x => { Ctx.reset with st := .created, aliasNo := s.fabric, cmds := x.cmds }

/-- CTXREADY taken (R409): CTX.ROOT, CTX.SIZE and CTX.FA have been set. -/
def State.ctxReady (s : State) (c : Nat) : State :=
  if (s.ctx c).st ≠ .created ∨ (s.ctx c).wrote ≠ 7 then s.noRow else s.modCtx c fun x => { x with st := .runnable }

/-- PLACE taken (R409, R463). -/
def State.ctxPlace (s : State) (c : Nat) (clusters : List Nat) : State :=
  if (s.ctx c).st ≠ .runnable ∨ !s.setFree c clusters then s.noRow
  else (s.modCtx c fun x => { x with st := .running, clusters := clusters }).recheck c

/-- Every bank of a context asked to stop at its next safe point (R63). -/
def State.stopAll (s : State) (c : Nat) : State :=
  let mark (b : Bank) : Bank := if b.run != .free && b.id.ctx == c && !b.stop then { b with preempt := true } else b
  { s with bank := mark s.bank, parked := s.parked.map fun x => (x.1, mark x.2) }

/-- Banks of a context that are not free. -/
def State.banksOf (s : State) (c : Nat) : List Nat := (s.busyBanks.filter fun x => x.2.id.ctx == c).map (·.1)

/-- SWAPOUT taken (R409, R410): every bank is to stop at its next safe point; the clusters are free once the last is saved. -/
def State.ctxSwapOut (s : State) (c : Nat) : State :=
  if (s.ctx c).st ≠ .running then s.noRow
  else (((s.pauseAging c).modCtx c fun x => { x with st := .preempted }).stopAll c).afterSave c

/-- The records of a restored image written into the destination's fault area, as far as it has slots, before any other record that waits
(R417). -/
def State.redeliver (s : State) (c : Nat) : State :=
  let x := s.ctx c
  let room := faCap x.fa - x.faults.length
  (x.redeliver.take room).foldl (fun s f => s.putWaited c f)
    (s.modCtx c fun x => { x with redeliver := [], waitq := x.redeliver.drop room ++ x.waitq })

/-- The far-cache lines of a context dropped on the dies of some clusters (R261). -/
def State.dropOn (s : State) (c : Nat) (clusters : List Nat) : State :=
  ((clusters.map (· / 4)).eraseDups).foldl (fun s d => s.dropCtx d c) s

/-- SWAPIN taken (R261, R409, R417, R463). The far-cache lines of the context are dropped on its dies, and the saved tasks are placed as banks
allow. -/
def State.ctxSwapIn (s : State) (c : Nat) (clusters : List Nat) : State :=
  if (s.ctx c).st ≠ .preempted ∨ (s.ctx c).clusters ≠ [] ∨ !s.setFree c clusters then s.noRow
  else ((((s.dropOn c clusters).resumeAging c).modCtx c fun x => { x with st := .running, clusters := clusters }).recheck c).redeliver c

/-! ### Halting (R363, R402, R412, R413) -/

/-- HALT taken (R409, R412, R413): the halt begins, with a timeout in µs, 0 for the default of 10 ms. -/
def State.ctxHalt (s : State) (c timeout : Nat) : State :=
  let t := if timeout = 0 then 10000 else timeout
  if (s.ctx c).st ≠ .running ∧ (s.ctx c).st ≠ .preempted then s.noRow
  else if t < 100 ∨ 100000 < t then s.refuse
  else
    let u := if (s.ctx c).st = .running then s.pauseAging c else s
    (u.modCtx c fun x => { x with st := .halting, former := x.st, haltAt := s.cycle, haltTmo := s.cycle + usCycles t, held := x.clusters }).stopAll c

/-- The groups of a context with their dies and entries. -/
def State.groupsOf (s : State) (c : Nat) : List (Nat × Nat × Group) :=
  [0, 1, 2, 3].flatMap fun d => (s.die d).groups.filterMap fun e => match e.2.grp with
    | some g => if g.ctx = c then some (d, e.1, g) else none
    | none => none

/-- OPEN and DOOMED groups of a halting context aborted with HALTED (R363). -/
def State.haltGroups (s : State) (c : Nat) : State :=
  (s.groupsOf c).foldl (fun s x =>
    if x.2.2.st = 1 ∨ x.2.2.st = 6 then
      (s.modGroup x.1 x.2.1 fun g => { g with halted := true, cause := cHALTED, detail := 0 }).abortGroup x.1 x.2.1 cHALTED 0
    else s) s

/-- A counter of a context. -/
def CtrId.ctx : CtrId → Option Nat
  | .slot c _ _ | .word c _ => some c
  | .remote _ _ => none

/-- No add of a context is on its way (R325). -/
def State.addsDone (s : State) (c : Nat) : Bool :=
  [0, 1, 2, 3].all (fun d => (s.die d).adds.all fun a => a.id.ctx != some c) &&
    s.gate.asked.all fun q => match q.who with
      | .add _ => s.askerCtx q.who != c
      | _ => true

/-- Groups and staged lines of a halting context are resolved, and its entries are IDLE or FAILED (R363, R402). -/
def State.haltSettled (s : State) (c : Nat) : Bool :=
  s.groupsOf c == [] && [0, 1, 2, 3].all (fun d => (s.die d).weir.all fun w => w.ctx != c || !w.prepared) &&
    (s.ctx c).colls.all fun e => e.2.st != 2 && e.2.st != 3

/-- Waiters of a context withdrawn, its counters written out as SPILLED (R325). -/
def State.countersOut (s : State) (c : Nat) : State :=
  [0, 1, 2, 3].foldl (fun s d =>
    let held := ((s.ctx c).ctrs.countP fun e => e.2.st == 1 && keyDie e.1 == d)
    let s := (s.modDie d fun x => { x with slots := x.slots - held, regs_ := x.regs_.filter (·.ctx != c) })
    let s := s.answerWaiters d (fun w => w.ctx == c && w.remote.isSome) cREMOTE_FAULT 6 0
    let s := s.modDie d fun x => { x with waiters := x.waiters.filter (·.ctx != c) }
    s.modCtx c fun x => { x with ctrs := x.ctrs.map fun e => if e.2.st = 1 ∧ keyDie e.1 = d then (e.1, { e.2 with st := 2 }) else e }) s

/-- HALT_SEQUENCE_COMPLETE (R363, R402, R409, R412): once every bank has stopped, OPEN and DOOMED groups are aborted; once all is settled
the context is HALTED. -/
def execHaltSequenceComplete (c : Nat) (s : State) : Out :=
  .next (if (s.ctx c).st ≠ .halting ∨ s.banksOf c ≠ [] ∨ !s.addsDone c then s
    else if (s.groupsOf c).any fun g => g.2.2.st = 1 ∨ g.2.2.st = 6 then State.settleHost (s.haltGroups c)
    else if !s.haltSettled c then s
    else ((s.countersOut c).modCtx c fun x => { x with st := .halted, clusters := [] }).notify (.halt c 0 []))

/-- The banks that a halt saved resumed where they stood (R409, R413). -/
def State.resumeInPlace (s : State) (c : Nat) : State :=
  ((s.ctx c).saved.filter (·.atHalt)).foldl (fun s v =>
    if (s.getBank v.home).run = .free then s.resumeBank c { v with atHalt := false } v.home else s) s

/-- Requests to stop withdrawn. -/
def State.unstopAll (s : State) (c : Nat) : State :=
  let mark (b : Bank) : Bank := if b.id.ctx == c then { b with preempt := false } else b
  { s with bank := mark s.bank, parked := s.parked.map fun x => (x.1, mark x.2) }

/-- The banks of a refused halt go on: those of a running context resume, those of a swapped one stand saved as SWAPOUT saves them. -/
def State.haltUndone (s : State) (c : Nat) : State :=
  if (s.ctx c).st = .running then ((s.resumeAging c).unstopAll c).resumeInPlace c
  else s.modCtx c fun x => { x with saved := x.saved.map fun v => { v with atHalt := false } }

/-- HALT_TIMEOUT (R409, R413): a bank has not stopped in time, so the halt is refused with reason 8 and the context is as it was before. -/
def execHaltTimeout (c : Nat) (s : State) : Out :=
  let x := s.ctx c
  .next (if x.st ≠ .halting ∨ s.cycle < x.haltTmo ∨ s.banksOf c = [] then s
    else
      let cores := ((s.banksOf c).map coreOf).eraseDups
      ((s.modCtx c fun x => { x with st := x.former }).haltUndone c).notify (.halt c 8 cores))

/-- CONTINUE taken (R261, R409): a halted context goes on in place on the clusters of its halt, its far-cache lines dropped first. -/
def State.ctxContinue (s : State) (c : Nat) : State :=
  let x := s.ctx c
  if (x.st ≠ .halted ∧ x.st ≠ .imaged) ∨ x.held.any (s.clusterTaken c) then s.noRow
  else (((s.dropOn c x.held).resumeAging c).modCtx c fun x => { x with st := .running, clusters := x.held }).resumeInPlace c

/-! ### Images (R414, R417) -/

/-- What an image holds of a collective entry (R402): its record, state, ready flag and firing number, and how it failed. -/
def Coll.imaged (x : Coll) : Coll :=
  { Coll.unloaded with st := x.st, recd := x.recd, ready := x.ready, r := x.r, cause := x.cause, detail := x.detail }

/-- What an image holds of a context (R415): frame arrays, windows and answers of other devices stay behind. A record that waits for a slot
stays with its source (R418). -/
def Ctx.imaged (x : Ctx) : Ctx :=
  { x with
    st := .free, clusters := [], held := [], wins := [], launchq := [], pageOps := [], pend := [], dlogOn := false, colsets := [], cmds := [],
    kernels := x.kernels.map fun k => (k.1, k.2.map fun k => { k with frames := [], depFrm := k.depFrm.filter fun d => 16 ≤ d.1 }),
    colls := x.colls.map fun e => (e.1, e.2.imaged), redeliver := x.redeliver ++ x.faults, faults := [] }

/-- Device memory of a range belongs to no context. -/
def State.outside (s : State) (addr n : Nat) : Bool :=
  decide (addr + n ≤ 2 ^ 48) && (List.range (n / 65536 + 2)).all fun i => (s.frameOf (addr + i * 65536)).va % 65536 != 0

/-- The dies between which an image of n bytes crosses (R372, R414): from those that hold banks or counters of the context, and from the Sheepdog,
to the host interface or to the homes of its lines. -/
def State.imageWays (s : State) (c addr n : Nat) (host : Bool) : List (Nat × Nat) :=
  let from_ := sheepdog :: (List.range 4).filter fun d => s.hasTable c d || (s.ctx c).saved.any (·.die == d)
  let dest := if host then [sheepdog] else s.homesOf ((List.range (n / 64 + 2)).map fun i => addr + 64 * i)
  from_.flatMap fun d => (dest.filter (· != d)).map fun e => (d, e)

/-- IMAGE taken (R380, R409, R414): the image is written over the bulk VC to host memory or to device memory outside every context; none while
the VC carries nothing. -/
def State.ctxImage (s : State) (c addr : Nat) (host : Bool) : Option State :=
  if (s.ctx c).st ≠ .halted then some s.noRow
  else
    let b := s.imageBytes c
    if !host && !s.outside addr b.length then some s.refuse
    else (s.haul (s.imageWays c addr b.length host)).map fun s =>
      let t : State := if host then { s with host := mputs 0 s.host addr b } else s.poke addr b
      State.settleHost (({ t with images := t.images ++ [(⟨b, (t.ctx c).imaged⟩ : Image)] } : State).modCtx c fun x => { x with st := .imaged })

/-- A counter id of a restored context. -/
def CtrId.moveTo (c : Nat) : CtrId → CtrId
  | .slot _ k g => .slot c k g
  | .word _ a => .word c a
  | i => i

/-- Whom a restored record concerns. -/
def FaultWho.moveTo (c : Nat) : FaultWho → FaultWho
  | .kernel _ k => .kernel c k
  | .doomed _ k => .doomed c k
  | .add a => .add { a with id := a.id.moveTo c, ctx := c }
  | w => w

/-- A saved bank of a restored context. A memory-form counter that it waited for has another address here, so its CWAIT registers again. -/
def Saved.moveTo (c : Nat) (v : Saved) : Saved :=
  { v with atHalt := false, bank := { v.bank with id := { v.bank.id with ctx := c } }, wait := match v.wait with
      | .counter (.slot _ k g) t => .counter (.slot c k g) t
      | _ => .none }

/-- RESTORE taken (R16, R406, R407, R409, R417): CTX.ROOT and CTX.FA are checked as a write of them is, the image by R417, and its sections are
loaded into a FREE context. -/
def State.ctxRestore (s : State) (c addr : Nat) (host : Bool) (clusters : List Nat) (root fa : Word) : State :=
  if maxContexts ≤ c ∨ (s.ctx c).st ≠ .free then s.noRow
  else if !(rootOk root && faOk fa) then s.refuse
  else match s.restoreCheck c (s.imageAt addr (leNat (s.imageAt (addr + 0x10) 8 host)) host) clusters with
    | .error r => s.notify (.restore c r)
    | .ok x => s.modCtx c fun y =>
        { x with
          st := .resuming, root := root, fa := fa, wrote := 7, fseq := 0, flost := 0, saved := x.saved.map (Saved.moveTo c), cmds := y.cmds,
          redeliver := x.redeliver.map fun f => { f with who := f.who.moveTo c },
          waitq := x.waitq.map fun f => { f with who := f.who.moveTo c },
          ctrs := x.ctrs.map fun e => if e.2.st = 1 then (e.1, { e.2 with st := 2 }) else e }

/-- Regions of a restored context translated and pinned again: none while a page of them is EVICTED or a bank that a walk reaches is busy. -/
def State.repinned (s : State) (c : Nat) (rs : List Region) : Option (List FrameEnt × State) :=
  if rs.any (s.regionWaits c) then none
  else match s.transRegions c rs.zipIdx [] with
    | (.evicted, _, _, _) => none
    | (_, _, fs, t) => some (fs, t)

/-- The regions of a kernel translated and pinned again. -/
def State.reframe (s : State) (c k : Nat) : Option State :=
  match s.kernel c k with
  | none => some s
  | some x =>
    if x.st = .running ∨ x.st = .edge then
      (s.repinned c x.hdr.regions).map fun (fs, t) => t.modKernel c k fun x => { x with frames := fs }
    else some s

/-- A collective entry pins its pages and reads its member words again (R402). -/
def State.recoll (s : State) (c e : Nat) : Option State :=
  (s.repinned c (collRegions (s.coll c e).recd)).map fun (fs, t) =>
    t.modColl c e fun x => { x with frames := fs, members := (t.memberWords c e x.recd fs).getD [] }

/-- RESTORE_LOAD_COMPLETE (R402, R409, R417): the sections are loaded; kernels and collective entries pin their pages again, and an EVICTED page
is waited for (R273). -/
def execRestoreLoadComplete (c : Nat) (s : State) : Out :=
  .next (if (s.ctx c).st ≠ .resuming then s
    else
      let loaded := (s.ctx c).colls.filter fun e => e.2.st != 0
      let t := ((s.kernelList c).foldlM (fun (t : State) e => t.reframe c e.1) s).bind fun t =>
        loaded.foldlM (fun (t : State) e => t.recoll c e.1) t
      match t with
      | some t => (t.modCtx c fun x => { x with st := .preempted }).notify (.restore c 0)
      | none => s)

/-! ### The end of a context (R267, R282, R409) -/

/-- Kernels of a context that are not final ABORTED (R267): detail 2 when it is terminated, 3 when it is destroyed. -/
def State.abortKernels (s : State) (c detail : Nat) : State :=
  (s.kernelList c).foldl (fun s e => if e.2.st.final then s else s.finish c e.1 .aborted cHALTED detail) s

/-- "Terminate the context" (R409, R422): a halt in progress ends with reason 9. -/
def State.terminateCtx (s : State) (c : Nat) : State :=
  let x := s.ctx c
  if x.st = .free ∨ x.st = .destroyed then s.noRow
  else
    let s := if x.st = .halting then s.notify (.halt c 9 []) else s
    (s.modCtx c fun x => { x with st := .faulted }).abortKernels c 2

/-- Counters of a context FREE, its waiters answered (R307). -/
def State.dropCounters (s : State) (c : Nat) : State :=
  ([0, 1, 2, 3].foldl (fun s d =>
    let held := ((s.ctx c).ctrs.countP fun e => e.2.st == 1 && keyDie e.1 == d)
    let s := s.modDie d fun x => { x with slots := x.slots - held }
    s.answerWaiters d (fun w => w.ctx == c) cCOUNTER_FAULT 3 0) s).modCtx c fun x => { x with ctrs := [] }

/-- CTXDESTROY taken (R409). -/
def State.ctxDestroy (s : State) (c : Nat) : State :=
  let st := (s.ctx c).st
  if st = .created ∨ st = .runnable ∨ st = .preempted ∨ st = .halted ∨ st = .imaged ∨ st = .faulted then
    let t := ((s.abortKernels c 3).dropCached c 0 (2 ^ 39)).dropCounters c
    State.settleHost (t.modCtx c fun x => { x with st := .destroyed, wins := [], colls := [], colsets := [] })
  else s.noRow

/-- CONTEXT_RELEASED (R409): no bank, group, staged line or add of a destroyed context is left. -/
def execContextReleased (c : Nat) (s : State) : Out :=
  .next (if (s.ctx c).st ≠ .destroyed ∨ s.banksOf c ≠ [] ∨ s.groupsOf c ≠ [] ∨ !s.addsDone c ∨
      [0, 1, 2, 3].any (fun d => (s.die d).weir.any fun w => w.ctx == c) then s
    else s.modCtx c fun x => { Ctx.reset with cmds := x.cmds })

/-! ### Commands one at a time (R409) -/

/-- A command to a context is in progress: a SWAPOUT that still saves banks, a HALT, a RESTORE that loads. -/
def State.ctxBusy (s : State) (c : Nat) : Bool :=
  let x := s.ctx c
  x.st == .halting || x.st == .resuming || (x.st == .preempted && x.clusters != [])

/-- A command taken; none while it must wait (R414). -/
def State.takeCmd (s : State) (c : Nat) : CtxCmd → Option State
  | .create => some (s.ctxCreate c)
  | .ready => some (s.ctxReady c)
  | .place cl => some (s.ctxPlace c cl)
  | .swapOut => some (s.ctxSwapOut c)
  | .swapIn cl => some (s.ctxSwapIn c cl)
  | .halt t => some (s.ctxHalt c t)
  | .image a host => s.ctxImage c a host
  | .resume => some (s.ctxContinue c)
  | .restore a host cl root fa => some (s.ctxRestore c a host cl root fa)
  | .destroy => some (s.ctxDestroy c)

/-- A command that arrives at a context: taken at once, or behind those before it (R409). -/
def State.command (s : State) (c : Nat) (k : CtxCmd) : State :=
  let wait := s.modCtx c fun x => { x with cmds := x.cmds ++ [k] }
  if s.ctxBusy c ∨ (s.ctx c).cmds ≠ [] then wait else (s.takeCmd c k).getD wait

/-- The first command that waits taken, once the one before it is done. -/
def State.cmdsGo (s : State) (c : Nat) : State :=
  match (s.ctx c).cmds with
  | [] => s
  | k :: ks => if s.ctxBusy c then s else ((s.modCtx c fun x => { x with cmds := ks }).takeCmd c k).getD s

/-- CTXCREATE (R407, R409). No context is made in minimal mode (R433). -/
def execCtxCreate (c : Nat) (s : State) : Out := .next (if s.boot.stage = 8 then s.refuse else s.command c .create)

/-- CTXREADY (R409). -/
def execCtxReady (c : Nat) (s : State) : Out := .next (s.command c .ready)

/-- PLACE (R409, R463). -/
def execPlace (c : Nat) (clusters : List Nat) (s : State) : Out := .next (s.command c (.place clusters))

/-- SWAPOUT (R409, R410). -/
def execSwapOut (c : Nat) (s : State) : Out := .next (s.command c .swapOut)

/-- SWAPIN (R261, R409, R417, R463). -/
def execSwapIn (c : Nat) (clusters : List Nat) (s : State) : Out := .next (s.command c (.swapIn clusters))

/-- CONTEXT_HALT (R409, R412, R413). -/
def execContextHalt (c timeout : Nat) (s : State) : Out := .next (s.command c (.halt timeout))

/-- CONTINUE (R409). -/
def execCtxContinue (c : Nat) (s : State) : Out := .next (s.command c .resume)

/-- IMAGE (R409, R414). -/
def execImage (c addr : Nat) (host : Bool) (s : State) : Out := .next (s.command c (.image addr host))

/-- RESTORE (R407, R409, R417). No context is made in minimal mode (R433). -/
def execRestore (c addr : Nat) (host : Bool) (clusters : List Nat) (root fa : Word) (s : State) : Out :=
  .next (if s.boot.stage = 8 then s.refuse else s.command c (.restore addr host clusters root fa))

/-- CTXDESTROY (R409). -/
def execCtxDestroy (c : Nat) (s : State) : Out := .next (s.command c .destroy)

end Sys2Proof.Machine
end

