-- ==== Sys2Proof/Machine/ProbeCache.lean ====
section
/-! DEFINITION. The probe cache: PROBE, PFILL, PWB, PINV, fills and write-backs (R237 to R241). -/

namespace Sys2Proof.Machine

/-- The probe-cache tile in use: its handle and its sets (R237). -/
def State.probeTile (s : State) : Option (Nat × Nat) :=
  if s.bank.ctl.pcfg.getLsbD 8 then
    let h := s.bank.ctl.pcfg.toNat % 256
    match s.tile h with
    | some t => some (h, (shapeRaw t.shape).rows / 8)
    | none => none
  else none

/-- The tag entry of a row. -/
def State.probe (s : State) (r : Nat) : Probe := mget Probe.none s.bank.probes r

/-- A tag entry replaced. -/
def State.setProbe (s : State) (r : Nat) (p : Probe) : State :=
  s.upd fun b => { b with probes := mset Probe.none b.probes r p }

/-- The block of a tag with its bytes inside extent n (R238). -/
def State.blockOf (s : State) (n tag : Nat) : Block :=
  let rel : Int := tag * 1024 - ((s.ext n).base.toNat % 2 ^ 55 : Nat)
  { vtag := tag, ext := n, lo := (max 0 (-rel)).toNat, hi := (min 1024 ((s.ext n).len.toNat - rel)).toNat }

/-- The extent offset of byte i of a block. -/
def State.blockOff (s : State) (k : Block) (i : Nat) : Nat :=
  (k.vtag * 1024 + i + 2 ^ 55 - (s.ext k.ext).base.toNat % 2 ^ 55) % 2 ^ 55

/-- The way of a set that holds a tag, valid or with its fill pending (R240). -/
def State.probeWay (s : State) (set tag : Nat) : Option Nat :=
  (List.range 8).find? fun w =>
    let p := s.probe (8 * set + w)
    (p.valid || p.fill) && p.blk.vtag == tag

/-- A row made the most recent of its set. -/
def State.recent (s : State) (r : Nat) : State :=
  let top := (List.range 8).foldl (fun m w => max m (s.probe (r / 8 * 8 + w)).age) 0
  s.setProbe r { s.probe r with age := top + 1 }

/-- The way that a miss takes: the lowest invalid one, else the least recent without a fill pending (R240). -/
def State.probeVictim (s : State) (set : Nat) : Option Nat :=
  let free w := let p := s.probe (8 * set + w); !p.valid && !p.fill
  match (List.range 8).find? free with
  | some w => some w
  | none =>
    ((List.range 8).filter fun w => !(s.probe (8 * set + w)).fill).foldl (fun (m : Option Nat) w => match m with
      | none => some w
      | some v => if (s.probe (8 * set + w)).age < (s.probe (8 * set + v)).age then some w else some v) none

/-- A fill of a row begun for a block, its victim remembered while dirty. -/
def State.probeBegin (s : State) (r : Nat) (k : Block) (since : Nat) (ws : List (Nat × Nat)) : State :=
  let p := s.probe r
  s.setProbe r { valid := false, dirty := false, fill := true, blk := k, vic := if p.valid && p.dirty then some p.blk else none,
                 since := since, age := p.age, waits := ws, clob := false }

/-- A block's in-extent bytes written back from row r (R238, R240); true says that a memory block already held an uncorrectable error, and
the bytes are written all the same (R215). op names the operation that waits for the homes. -/
def State.probeBack (s : State) (h r : Nat) (k : Block) (op : Option Nat) : M (Bool × State) :=
  match s.tile h with
  | none => tileFault 4
  | some t => do
    let n := k.hi - k.lo
    let a := s.blockOff k k.lo
    s.extCheck k.ext a n true
    need (!t.bad (8 * (r * 1024 + k.lo)) (8 * n)) cMEMORY_ERROR 0
    s.writeSpans op (.ext k.ext 0) [((8 * a, 8 * n), t.bitsAt (8 * (r * 1024 + k.lo)) (8 * n))]

/-- A row filled with the in-extent bytes of a block, the rest zero (R238). A fill marks nothing dirty. -/
def State.probeRead (s : State) (h r : Nat) (k : Block) : M State :=
  match s.tile h with
  | none => tileFault 4
  | some t => do
    let (bs, u) ← s.extBytes k.ext ((List.range (k.hi - k.lo)).map fun i => s.blockOff k (k.lo + i))
    let row := List.replicate k.lo 0 ++ bs.map (·.2) ++ List.replicate (1024 - k.hi) 0
    pure (u.setTile h (some ((row.zipIdx).foldl (fun (t : Tile) x => t.put (r * 1024 + x.2, x.1, 0xFF)) t)))

/-- The PROBEs that a fill answers complete with a value. -/
def State.probeAnswer (s : State) (ws : List (Nat × Nat)) (ok : Bool) (v : Word) : State :=
  ws.foldl (fun s w => s.completeTok s.cur w.1 w.2 ok v) s

/-- A fill brought to its end: the victim's write-back, then the fill (R240). A failed write-back leaves the victim valid
and dirty, a failed fill leaves the entry invalid. -/
def State.probeFinish (s : State) (h r : Nat) (op : Option Nat) : M (Option Flt × State) :=
  let p := s.probe r
  let fill (s : State) : M (Option Flt × State) :=
    match s.probeRead h r p.blk with
    | .ok t => .ok (none, (t.setProbe r { p with valid := true, dirty := p.clob, fill := false, vic := none, waits := [],
                                                  clob := false }).recent r)
    | .error (.fault f) => .ok (some f, (s.metError f).setProbe r Probe.none)
    | .error .stall => stall
  match p.vic with
  | none => fill s
  | some k =>
    let stays (t : State) : State :=
      t.setProbe r { p with valid := true, dirty := true, fill := false, blk := k, vic := none, waits := [], clob := false }
    match s.probeBack h r k op with
    | .ok (false, t) => fill t
    | .ok (true, t) => .ok (some { cause := cMEMORY_ERROR, detail := 1 }, stays t)
    | .error (.fault f) => .ok (some f, stays s)
    | .error .stall => stall

/-- PROBE (R240). -/
def execProbe (o : SbOp) (s : State) : Out :=
  run s (do
    s.operands [o.xb] o.xa
    let x := s.rx o.xb
    match s.probeTile, placeOf x with
    | some (_, sets), some (.ext n off) => do
      s.extCheck n off 1 false
      let tag := s.extVa n off / 1024
      let set := tag % sets
      match s.probeWay set tag with
      | some w =>
        let r := 8 * set + w
        let t := s.recent r
        if (s.probe r).fill then
          let (ord, t) := t.newOrd
          pure ((t.setProbe r { t.probe r with waits := (t.probe r).waits ++ [(o.xa.toNat, ord)] }).markTok o.xa ord true)
        else pure (t.setX o.xa (BitVec.ofNat 64 r))
      | none =>
        match s.probeVictim set with
        | none => stall
        | some w => do
          let (ord, t) := s.newOrd
          let t := (t.probeBegin (8 * set + w) (t.blockOf n tag) ord [(o.xa.toNat, ord)]).markTok o.xa ord true
          t.jump (t.target (o.off.signExtend 64))
    | _, _ => illegal)

/-- PROBE_FILL_COMPLETE (R240): the fill of a row of bank b, once every earlier access of the bank has performed. -/
def execProbeFillComplete (b row : Nat) (s : State) : Out :=
  .next (s.onBank b fun s =>
    let p := s.probe row
    if !p.fill || s.bank.sq.any (·.ord < p.since) then s
    else match s.probeTile with
      | none => s
      | some (h, _) => match s.probeFinish h row none with
        | .ok (none, t) => t.probeAnswer p.waits true (BitVec.ofNat 64 row)
        | .ok (some f, t) => t.probeAnswer p.waits false (failVal f.cause f.detail 0)
        | .error _ => s)

/-! ### PFILL, PWB, PINV (R241) -/

/-- PFILL (R241). -/
def execPfill (o : COp) (s : State) : Out := copyIssue o (.pfill o) tRAW true s false

/-- PWB (R241). -/
def execPwb (o : COp) (s : State) : Out := copyIssue o (.pwb o) tRAW true s false

/-- PINV (R241). -/
def execPinv (o : COp) (s : State) : Out := copyIssue o (.pinv o) tRAW true s false

/-- ALL of PWB and PINV, and WB of PINV. -/
def EngOp.probeAll (o : EngOp) : Bool := match o.instr with
  | .pfill _ => false
  | _ => bitAt o.mod 0

/-- The items of a probe operation, checked at its start: rows under ALL, else tags of one extent (R241). A block beyond the extent's end is
UNDECLARED_ACCESS only where no byte of it lies inside: DESIGN CHOICE (log 102). -/
def State.probeItems (s : State) (o : EngOp) : M (List Nat) :=
  match s.probeTile with
  | none => illegal
  | some (_, sets) =>
    if o.probeAll then do
      legal (o.cap 0 == 0 && o.cap 2 == 0)
      pure (List.range (8 * sets))
    else do
      let n := (o.cap 2).toNat
      legal (1 ≤ n && n ≤ 2048)
      match placeOf (o.cap 0) with
      | some (.ext e off) => do
        let a : Int := off + o.adv.off
        s.extCheck e a 1 false
        let first := s.extVa e a.toNat / 1024
        let last := ((s.extVa e a.toNat) + 1024 * n - 1) / 1024
        let tags := (List.range (last + 1 - first)).map (first + ·)
        if tags.any fun t => let k := s.blockOf e t; decide (k.hi ≤ k.lo) then raiseAt cUNDECLARED_ACCESS 0 (o.cap 0)
        pure tags
      | _ => illegal

/-- One item of a probe operation (R241): PFILL of a tag, PWB or PINV of a row. -/
def State.probeItem (s : State) (o : EngOp) (h sets : Nat) : M (Option Flt × State) :=
  let x := o.idx[o.next]?.getD 0
  let ext := match placeOf (o.cap 0) with
    | some (.ext e _) => e
    | _ => 0
  let row : Option Nat := if o.probeAll then some x else (s.probeWay (x % sets) x).map (8 * (x % sets) + ·)
  match o.instr, row with
  | .pfill _, some r => do
    await (!(s.probe r).fill)
    pure (none, s)
  | .pfill _, none =>
    match s.probeVictim (x % sets) with
    | none => stall
    | some w => (s.probeBegin (8 * (x % sets) + w) (s.blockOf ext x) 0 []).probeFinish h (8 * (x % sets) + w) (some o.ord)
  | _, none => .ok (none, s)
  | i, some r =>
    let p := s.probe r
    let wb : Bool := match i with
      | .pwb _ => true
      | _ => bitAt o.mod 1
    let after (s : State) : State := match i with
      | .pwb _ => s.setProbe r { s.probe r with dirty := false }
      | _ => s.setProbe r Probe.none
    if p.fill then stall
    else if p.valid && p.dirty && wb then
      match s.probeBack h r p.blk (some o.ord) with
      | .ok (false, t) => .ok (none, after t)
      | .ok (true, t) => .ok (some { cause := cMEMORY_ERROR, detail := 1 }, t)
      | .error (.fault f) => .ok (some f, s)
      | .error .stall => stall
    else .ok (none, if p.valid then after s else s)

/-- The place of an item of a probe operation (R462): the first byte of its block. -/
def State.probePlace (s : State) (o : EngOp) : Word :=
  let x := o.idx[o.next]?.getD 0
  let k := if o.probeAll then (s.probe x).blk else match placeOf (o.cap 0) with
    | some (.ext e _) => s.blockOf e x
    | _ => ⟨0, 0, 0, 0⟩
  (Place.ext k.ext (s.blockOff k k.lo)).word

end Sys2Proof.Machine
end

