-- ==== Sys2Proof/Machine/EngineEvents.lean ====
section
/-! DEFINITION. The device's steps for engine operations: start, item, completion (R213 to R217, R224). -/

namespace Sys2Proof.Machine

/-- An operation ends: its token completes, and the group instructions that waited for it are taken (R217, R368). -/
def State.opFinish (s : State) (o : EngOp) (v : Word) : State := (s.opEnd s.cur o v).takePends s.cur

/-- A CPYG that fails at its start dooms its group when the cause is one of R355. -/
def State.opDoom (s : State) (o : EngOp) (cause detail : Nat) : State :=
  match o.instr with
  | .cpyg _ =>
    if [cWEIR_FULL, cLINK_FAULT, cREMOTE_FAULT, cMEMORY_ERROR, cUNDECLARED_ACCESS, cHALTED, cOUT_OF_SPACE].contains cause then
      match s.cpygGroup o [1] with
      | .ok (d, i) => s.doomGroup d i cause detail
      | .error _ => s
    else s
  | _ => s

/-- An operation started with its items. -/
def State.opRun (s : State) (o : EngOp) (total : Nat) (base : Nat × Nat) (idx : List Nat) : State :=
  s.modOp s.cur o.ord fun o => { o with st := .running, total := total, base := base, idx := idx }

/-- The start of an operation whose tokens have completed (R213, R214): a stall is a race that lacks slots (R224), and nothing else is
checked before it has them. -/
def State.opStart (s : State) (o : EngOp) : M State :=
  match o.instr with
  | .radv _ => do
    let t ← s.startRadv o
    pure (t.opFinish o 0)
  | .cxadd _ => s.startCxadd o
  | .cwaite _ => s.startCwaite o
  | .cpyg _ => do
    let _ ← s.cpygGroup o [1]
    let p ← s.planCpyg o true
    pure (s.opRun o p.items (0, 0) [])
  | .pfill _ | .pwb _ | .pinv _ => do
    let xs ← s.probeItems o
    pure (s.opRun o xs.length (0, 0) xs)
  | .gth _ | .sct _ => do
    let idx ← s.gatherIdx (o.mod / 2 % 256) (copyShape (o.cap 2)).rows
    let p ← s.planIdx o (match o.instr with
      | .sct _ => true
      | _ => false) true idx
    pure (s.opRun o p.items (0, 0) idx)
  | _ =>
    match s.planOf o true with
    | none => .ok s
    | some m => do
      await (!s.raceHolds o 0 false && !s.raceHolds o 1 true)
      let p ← m
      pure (s.opRun o p.items (s.raceCount p.src false, s.raceCount p.dst true) [])

/-- ENGINE_OP_START (R213, R214, R216). -/
def execEngineOpStart (b op : Nat) (s : State) : Out :=
  .next (s.onBank b fun s =>
    match s.opOf s.cur op with
    | none => s
    | some o =>
      if o.st ≠ .queued ∨ !depsReady o.deps then s
      else if depsFail o.deps then s.opFinish o depFailed
      else if !s.engFree o.engine then s
      else match s.opStart o with
        | .ok t => t
        | .error (.fault f) => ((s.metError f).opDoom o f.cause f.detail).opFinish o (failVal f.cause f.detail 0)
        | .error .stall => s)

/-- An item of a CPYG: a failure is recorded, and dooms the group when it becomes final (R371). -/
def State.cpygStep (s : State) (o : EngOp) : State :=
  match s.planCpyg o false with
  | .error _ => s
  | .ok p =>
    let place := p.dst.place ((p.writes o.next).headD (0, 0)) (p.rowD o.next)
    if o.fail ≠ (0, 0) then s.opFail o o.fail.1 o.fail.2 place
    else match s.cpygItem o p with
      | .ok t => t
      | .error (.fault f) => (s.metError f).opFail o f.cause f.detail place
      | .error .stall => s

/-- An item of a probe operation. -/
def State.probeStep (s : State) (o : EngOp) : State :=
  match s.probeTile with
  | none => s
  | some (h, sets) => match s.probeItem o h sets with
    | .ok (none, t) => t.modOp s.cur o.ord fun o => { o with next := o.next + 1 }
    | .ok (some f, t) => t.opFail o f.cause f.detail (s.probePlace o)
    | .error _ => s

/-- ENGINE_ITEM (R215): one step of the next item of an operation. -/
def execEngineItem (b op : Nat) (s : State) : Out :=
  .next (s.onBank b fun s =>
    match s.opOf s.cur op with
    | none => s
    | some o =>
      if o.st ≠ .running then s
      else match o.instr with
        | .cxadd _ =>
          if o.fail ≠ (0, 0) then s.opFail o o.fail.1 o.fail.2 (o.cap 0)
          else if o.got.isSome then s.modOp s.cur op fun o => { o with st := .finished 0 } else s
        | .cwaite _ =>
          if o.fail ≠ (0, 0) then s.opFail o o.fail.1 o.fail.2 (o.cap 0)
          else if o.got.isSome then s.modOp s.cur op fun o => { o with st := .finished 0 } else s
        | .cpyg _ => if o.next < o.total then s.cpygStep o else s
        | .pfill _ | .pwb _ | .pinv _ => if o.next < o.total then s.probeStep o else s
        | _ =>
          if o.total ≤ o.next then s
          else match s.planOf o false with
            | some (.ok p) => s.copyItem o p 0
            | some (.error (.fault f)) => s.opFail o f.cause f.detail (o.cap 0)
            | _ => s)

/-- The races that a CPY with ADV advances after its last item: the source's tail, the target's head (R224). -/
def State.opAdvance (s : State) (o : EngOp) : M State :=
  match o.instr with
  | .cpy _ =>
    if bitAt o.mod 2 then do
      let p ← s.planCpy o false
      let adv (s : State) (sd : Side) (head : Bool) : M State := match sd, s.raceOf sd with
        | .tile b h _ row _, some t => s.raceAdvance b h (slotsMoved (shapeRaw t.shape) row.toNat p.items) head
        | _, _ => .ok s
      let t ← adv s p.src false
      adv t p.dst true
    else .ok s
  | _ => .ok s

/-- ENGINE_OP_COMPLETE (R217): every item has performed at its home and the token completes. -/
def execEngineOpComplete (b op : Nat) (s : State) : Out :=
  .next (s.onBank b fun s =>
    match s.opOf s.cur op with
    | none => s
    | some o =>
      match o.st with
      | .finished v =>
        if s.unacked o.ord then s else
        let s := match o.instr with
          | .cwaite _ => if v = 0 then (s.acquire o.mod).ctrDropOf (o.cap 0) else s
          | _ => s
        s.opFinish o v
      | .running =>
        if o.total = 0 ∨ o.next < o.total ∨ s.unacked o.ord then s
        else match s.opAdvance o with
          | .ok t => t.opFinish o 0
          | .error (.fault f) => s.opFinish o (failVal f.cause f.detail o.total)
          | .error .stall => s
      | _ => s)

end Sys2Proof.Machine
end

