-- ==== Sys2Proof/Machine/HbmEvents.lean ====
section
/-! DEFINITION. The device's steps for the HBM4 memory controller: bank self-test, row swaps, refresh (R423, R428, R429). -/

namespace Sys2Proof.Machine

/-- A MEM.TEST state of a die changed (R429). -/
def State.modTest (s : State) (d : Nat) (f : MemTest → MemTest) : State := s.modDie d fun x => { x with test := f x.test }

/-- MEM_TEST_GO (R16, R429): a write of MEM.TEST with GO. From here a row of the bank is served from the park area once it is copied. -/
def execMemTestGo (die : Nat) (v : Word) (s : State) : Out :=
  let n := v.toNat
  .next (if s.boot.stage = 8 ∨ 4 ≤ die ∨ n / 2 ^ 16 ≠ 0 ∨ !bitAt n 11 ∨ (s.die die).test.st ≠ 0 then s.refuse
    else (s.modTest die fun t =>
      { unit := bitsOf n 6 0, bank := bitsOf n 10 7, st := 1, done := t.done && !bitAt n 15, row := 0 }).modDie die fun x =>
        { x with redir := x.redir ++ [(x.test.bits, x.park.toNat)] })

/-- PARKING_COMPLETE (R429): the last rows are copied, and from here every access to the bank is served from the park area. -/
def execParkingComplete (die : Nat) (s : State) : Out :=
  .next (let t := (s.die die).test
    if t.st ≠ 1 then s
    else s.modTest die fun t => { t with st := 2, row := 0 })

/-- The record of a failed bank test (R420, R429). -/
def testRec (die : Nat) (t : MemTest) : FaultRec :=
  { FaultRec.blank with cause := cMEMORY_ERROR, detail := 3, source := 10, place := BitVec.ofNat 64 (die * 2 ^ 16 + t.bits) }

/-- BANK_TEST_COMPLETE (R420, R429): a bank that passes is restored, one that fails stays redirected and is recorded. -/
def execBankTestComplete (die : Nat) (pass : Bool) (s : State) : Out :=
  .next (let t := (s.die die).test
    if t.st ≠ 2 then s
    else if pass then s.modTest die fun t => { t with st := 3, row := 0 }
    else (s.modTest die fun t => { t with st := 4, done := true }).eventFault .dev die (testRec die t))

/-- RESTORING_COMPLETE (R429): the last rows are copied back. -/
def execRestoringComplete (die : Nat) (s : State) : Out :=
  .next (let t := (s.die die).test
    if t.st ≠ 3 then s
    else (s.modTest die fun t => { t with st := 0, done := true, row := 0 }).modDie die fun x => { x with redir := x.redir.filter (·.1 != t.bits) })

/-- Some more rows of a bank under test are copied, to the park area or back, in ascending order (R429). How many a cycle copies is a FREE VALUE
(log 108); the row that the position names makes its accesses wait, and the last ones are done when the completion comes. -/
def State.copyRows (s : State) : State :=
  [0, 1, 2, 3].foldl (fun s d =>
    let t := (s.die d).test
    if t.st = 1 ∨ t.st = 3 then s.modTest d fun t => { t with row := min 65535 (t.row + Config.rowsCopied s.cycle d) } else s) s

/-- The physical row of a row of a bank (R428). -/
def Die.physRow (x : Die) (bank row : Nat) : Nat := (mget none x.rows (bank * 65536 + row)).getD row

/-- The physical row of a row of a bank set. -/
def Die.setRow (x : Die) (bank row p : Nat) : Die :=
  { x with rows := mset none x.rows (bank * 65536 + row) (if p = row then none else some p) }

/-- ROW_SWAP (R428): a row that has reached 2,048 activations is exchanged with a row of its bank that the hardware generator chooses, and
both counts are reset. -/
def execRowSwap (die unit bank row : Nat) (s : State) : Out :=
  let b := unit + bank * 2 ^ 7
  let x := s.die die
  .next (if mget 0 x.acts (b * 65536 + row) < 2048 then s
    else
      let other := Config.rowChoice s.tick % 65536
      (s.modDie die fun x =>
        let y := (x.setRow b row (x.physRow b other)).setRow b other (x.physRow b row)
        { y with acts := mset 0 (mset 0 x.acts (b * 65536 + row) 0) (b * 65536 + other) 0, rswp := (x.rswp + 1) % 2 ^ 32 }).ticked)

/-- REFRESH_WINDOW_END (R428): once 32 ms of the window have passed, its counts start again. -/
def execRefreshWindowEnd (die : Nat) (s : State) : Out :=
  .next (if s.cycle < (s.die die).actsAt + usCycles 32000 then s else s.modDie die fun x => { x with acts := [], actsAt := s.cycle })

/-- Cycles of the longest refresh of a bank: 350 ns (R423). -/
abbrev refreshCycles : Nat := 788

/-- BANK_REFRESH (R423): accesses to the bank wait until it is done. -/
def execBankRefresh (die unit bank : Nat) (s : State) : Out :=
  .next (if 4 ≤ die ∨ 128 ≤ unit ∨ 16 ≤ bank then s else s.modDie die fun x =>
    { x with refresh := x.refresh.filter (fun r => decide (s.cycle < r.2)) ++ [(unit + bank * 2 ^ 7, s.cycle + refreshCycles)] })

end Sys2Proof.Machine
end

