-- ==== Sys2Proof/Machine/MillEvents.lean ====
section
/-! DEFINITION. The device's steps for the Mill: start and completion of commands, the drain's capture, the ends of leases,
the windows of PAIR mode (R191 to R211). -/

namespace Sys2Proof.Machine

/-- MILL_COMMAND_START (R195, R199). -/
def execMillCommandStart (b : Nat) (s : State) : Out :=
  .next (s.onBank b fun s => match s.nextStart with
    | some c => s.millStart c
    | none => s)

/-! ### Completion -/

/-- The record of a failed row of the bank in focus; the command stands at it (R199, R210, R462). -/
def State.cmdFail (s : State) (c : MillCmd) (cause detail done : Nat) (place : Word) : State :=
  let r := { FaultRec.blank with
    cause := cause, detail := detail, source := 3, slot := 3, core := coreOf s.cur, bank := s.cur % 2, token := c.kd,
    kernel := s.bank.id.kid, done := done, work := c.wid, bundle := c.bundle, place := place }
  (s.modCmd s.cur c.ord fun c => { c with fail := (cause, detail), recorded := true, tag := none }).ctxFault s.bank.id.ctx r
    (.cmd s.cur c.ord)

/-- MSTAT bits of the cogs' status (R209). -/
def Mill.statBits (m : Mill) : Nat := (if m.sat then 1 else 0) ||| (if m.nan then 2 else 0)

/-- A feed fails at a step (R207, R210): the steps before it have been accumulated, and the status that they raised is the command's. The
steps of a beat that the failure has cut stand with the command until it goes on, so that an interrupted run gives the results of an
uninterrupted one (R185); no command reads the array meanwhile (R211). -/
def State.feedFail (s : State) (m : Mill) (c : MillCmd) (cause detail : Nat) (place : Word) : State :=
  let all := (m.feed c.k0 c.fed c.steps c.aRows c.bRows).reported
  let whole := c.aRows.length / m.g * m.g
  let x := (m.feed c.k0 c.fed c.steps (c.aRows.take whole) (c.bRows.take whole)).reported
  let c := { c with fed := whole, stat := c.stat ||| all.statBits }
  ((s.modMillOf s.cur fun _ => { x with sat := false, nan := false }).modCmd s.cur c.ord fun _ => c).cmdFail c cause detail
    (if m.flow = 2 then 0 else c.aRows.length) place

/-- A command's token completes and its queue entry is released; its status merges into MSTAT and idle time counts from
here (R195, R199, R209); the windows of PAIR mode are numbered from the completion of its MMODE (R198). flags are those of the command itself. -/
def State.cmdEnd (s : State) (c : MillCmd) (v : Word) (flags : Nat) : State :=
  let m := s.millOf s.cur
  let st := m.statBits ||| flags
  let s := s.upd fun b => { b with cmds := b.cmds.filter (·.ord != c.ord),
                                   ctl := { b.ctl with mstat := b.ctl.mstat ||| BitVec.ofNat 3 st } }
  let s := s.modMillOf s.cur fun m => { m with sat := false, nan := false }
  let s := if c.isMode && (s.mg (mgOf s.cur)).mill.pair && v == 0 then s.modMill (mgOf s.cur) fun m => { m with window := s.cycle, half := false }
    else s
  let s := if s.bank.millBusy then s
    else s.modMill (mgOf s.cur) fun m => if m.holder = some s.cur then { m with mark := s.cycle } else m
  s.completeTok s.cur c.kd c.ord (v == 0) v

/-- The place of row r of an operand, for a fault record. -/
def MillCmd.rowPlace (c : MillCmd) (w : Word) (r : Nat) : Word :=
  match placeOf w with
  | some (.own h row col) => (Place.own h ((row + c.adv.row).toNat + r) (col + c.adv.off).toNat).word
  | some (.ext n off) => (Place.ext n ((off + c.adv.off).toNat + r * (c.cap 2).toNat)).word
  | some (.remote n win off) => (Place.remote n win ((off + c.adv.off).toNat + r * (c.cap 2).toNat)).word
  | _ => w

/-- Row r of an operand tile as cog values (R180, R207): cnt is the race's tail when reading began. -/
def State.feedRow (s : State) (m : Mill) (c : MillCmd) (w : Word) (cnt r : Nat) : M (List Nat) :=
  match placeOf w with
  | some (.own h row col) =>
    match s.tile h with
    | none => tileFault 4
    | some t => do
      let sh := shapeRaw t.shape
      let p := sh.rowAt cnt ((row + c.adv.row).toNat + r) * (8 * sh.pitch) + sh.colBit (col + c.adv.off).toNat
      need (!t.bad p m.rowBits) cMEMORY_ERROR 0
      pure (m.rowVals (t.bitsAt p m.rowBits))
  | _ => illegal

/-- The race that a place names. -/
def State.raceAt (s : State) (w : Word) : Option (Nat × Tile) :=
  match placeOf w with
  | some (.own h _ _) => match s.tile h with
    | some t => if (shapeRaw t.shape).race then some (h, t) else none
    | none => none
  | _ => none

/-- The tail of the race that a place names. -/
def State.raceTail (s : State) (w : Word) : Nat := match s.raceAt w with
  | some (_, t) => t.tail
  | none => 0

/-- The races of an MFEED hold the slots that it counts (R207). -/
def State.feedWaits (s : State) (c : MillCmd) : Bool :=
  let few (w : Word) (n : Nat) : Bool := match s.raceAt w with
    | some (_, t) => decide (t.filled < n)
    | none => false
  few (c.cap 0) ((c.cap 2).toNat % 2 ^ 16) || few (c.cap 1) (bitsOf (c.cap 2).toNat 31 16)

/-- Rows of an MFEED read one after another, until the last or a failure at a row's place. -/
def State.gather (s : State) (m : Mill) : Nat → MillCmd → MillCmd × Option (Flt × Word)
  | 0, c => (c, none)
  | n + 1, c =>
    let r := c.aRows.length
    if m.feedRows c ≤ r then (c, none)
    else match s.feedRow m c (c.cap 0) c.base.1 r with
      | .error (.fault f) => (c, some (f, c.rowPlace (c.cap 0) r))
      | .error .stall => (c, none)
      | .ok a =>
        if m.flow = 1 then s.gather m n { c with aRows := c.aRows ++ [a] }
        else match s.feedRow m c (c.cap 1) c.base.2 r with
          | .error (.fault f) => (c, some (f, c.rowPlace (c.cap 1) r))
          | .error .stall => (c, none)
          | .ok b => s.gather m n { c with aRows := c.aRows ++ [a], bRows := c.bRows ++ [b] }

/-- The tail of a race that a place names advances; the failure value of an advance that R40 forbids (R224). -/
def State.tailAdvance (s : State) (c : MillCmd) (w : Word) (n : Nat) : State × Word :=
  match s.raceAt w with
  | none => (s, 0)
  | some (h, _) => match s.raceAdvance s.cur h n false with
    | .ok t => (t, 0)
    | .error (.fault f) => (s, failVal f.cause f.detail c.steps)
    | .error .stall => (s, 0)

/-- The tails of the races advance after the last read of an MFEED with ADV (R207); A's first. -/
def State.feedAdvance (s : State) (c : MillCmd) : State × Word :=
  match c.instr with
  | .mfeed _ =>
    if bitAt c.mod 13 then
      let (t, x) := s.tailAdvance c (c.cap 0) ((c.cap 2).toNat % 2 ^ 16)
      let (u, y) := t.tailAdvance c (c.cap 1) (bitsOf (c.cap 2).toNat 31 16)
      (u, if x = 0 then y else x)
    else (s, 0)
  | _ => (s, 0)

/-- The steps that a feed has gathered: under WAVE none before its rows are there. -/
def Mill.stepsDone (m : Mill) (c : MillCmd) : Nat := if m.flow = 2 then 0 else c.aRows.length

/-- A feed command's gathered rows put back, full when they are all there. -/
def State.cmdGathered (s : State) (m : Mill) (c : MillCmd) : State :=
  let full := m.feedRows c ≤ c.aRows.length
  let (t, v) := if full then s.feedAdvance c else (s, 0)
  t.modCmd s.cur c.ord fun _ => { c with full := full, late := v }

/-- An MFEED reads (R207). -/
def State.feedStep (s : State) (m : Mill) (c : MillCmd) : State :=
  if c.aRows = [] ∧ s.feedWaits c then s
  else
    let c := if c.aRows = [] then { c with base := (s.raceTail (c.cap 0), s.raceTail (c.cap 1)) } else c
    match s.gather m (m.feedRows c) c with
    | (c, none) => s.cmdGathered m c
    | (c, some (f, p)) => (s.metError f).feedFail m c f.cause f.detail p

/-- An MFEEDR presents one row: the fetched one from an extent or by an answer, the other from its tile (R210). -/
def State.fetchStep (s : State) (m : Mill) (c : MillCmd) : State :=
  let (far, near) := c.fetched
  let r := c.aRows.length
  let fail (s : State) (f : Flt) (w : Word) : State := (s.metError f).feedFail m c f.cause f.detail (c.rowPlace w r)
  let put (s : State) (v : List Nat) : State :=
    let c := { c with rows := mset [] c.rows r [] }
    if m.flow = 1 then s.cmdGathered m { c with aRows := c.aRows ++ [v] }
    else match s.feedRow m c near 0 r with
      | .ok t =>
        let (a, b) := if bitAt c.mod 12 then (t, v) else (v, t)
        s.cmdGathered m { c with aRows := c.aRows ++ [a], bRows := c.bRows ++ [b] }
      | .error (.fault f) => fail s f near
      | .error .stall => s
  match placeOf far with
  | some (.ext x off) =>
    let p : Span := ((c.fetchBit m false off r).toNat, m.rowBits)
    match s.extBytes x (spanBytes p) 7 with
    | .ok (bs, t) => put t (m.rowVals (spanOf (bs.map (·.2)) p))
    | .error (.fault f) => fail s f far
    | .error .stall => s
  | some (.remote node win off) =>
    let p : Span := ((c.fetchBit m true off r).toNat, m.rowBits)
    if c.tag.isSome then s
    else match mget [] c.rows r with
      | [] => (s.modCmd s.cur c.ord fun c => { c with tag := some s.gate.tag }).ask (dieOf s.cur) s.bank.id.ctx node 7
          (readReq win p) (.cmd s.cur c.ord r)
      | bs => put s (m.rowVals (spanOf bs p))
  | _ => s

/-- A later feed has started, so the stream goes on (R191). -/
def State.streamGoesOn (s : State) (c : MillCmd) : Bool :=
  s.bank.cmds.any fun x => x.ord != c.ord && x.isFeed && x.started && x.value.isNone

/-- A feed ends with the rows that it has gathered: they take effect, their status is known, its token receives v (R190 to R193, R209). -/
def State.feedEnd (s : State) (m : Mill) (c : MillCmd) (v : Word) : State :=
  let m := m.feed c.k0 c.fed c.steps c.aRows c.bRows
  let m := if m.flow ≠ 0 then m else if s.streamGoesOn c then m.reported else m.flush
  (s.modMillOf s.cur fun _ => m).cmdEnd c v c.stat

/-- A feed whose rows are all there: its token is 0, or what the advance of its races answered (R207). -/
def State.feedDone (s : State) (m : Mill) (c : MillCmd) : State := s.feedEnd m c c.late

/-- Rows of an MPRE loaded until the last or a failure (R206). -/
def State.preStep (s : State) (m : Mill) (c : MillCmd) : State :=
  let rows := (List.range nCog).drop c.k0
  let (m', n, f) := rows.foldl (fun (x : Mill × Nat × Option Flt) i =>
    if x.2.2.isSome then x
    else match s.feedRow m c (c.cap 0) 0 i with
      | .ok v => (x.1.preRow i (c.mod % 2 == 1) v, i + 1, none)
      | .error (.fault f) => (x.1, i, some f)
      | .error .stall => x) (m, c.k0, none)
  let s := s.modMillOf s.cur fun _ => m'
  match f with
  | none => s.cmdEnd c 0 0
  | some f => (s.modCmd s.cur c.ord fun c => { c with k0 := n }).cmdFail c f.cause f.detail n (c.rowPlace (c.cap 0) n)

/-- An entry of the drain buffer in the target's format with its flags (R98, R208). -/
def Mill.drainVal (m : Mill) (src : Nat) (sh : Shape) (sat : Bool) (v : Nat) : Nat × Nat :=
  if src = 2 then (v % 2 ^ sh.bits, 0)
  else if domFp m.domain then convNum tFP32 sh.fmt (efrOf m.efr) .rne sat (.fp (fv32 v))
  else convNum tI32 sh.fmt (efrOf m.efr) .rne sat (.int (toSigned v 32))

/-- MSTAT bits of a drain's conversion flags: a clamp, or an overflow to an infinity or NaN (R208, R209). -/
def drainFlags (fl : Nat) : Nat := if bitAt fl 5 then 1 else if bitAt fl 2 then 4 else 0

/-- One row of an MDRAIN written; none is an uncorrectable error that the write does not cover (R208). -/
def State.drainRow (s : State) (m : Mill) (c : MillCmd) (buf : List (List Nat)) (i : Nat) : Option (State × Nat) :=
  match placeOf (c.cap 0) with
  | some (.own h row col) =>
    match s.tile h with
    | none => some (s, 0)
    | some t =>
      let sh := shapeRaw t.shape
      let src := c.mod / 2 ^ 12
      let vs := ((buf[i]?.getD []).take c.size.2).map ({ m with domain := c.dom.1, efr := c.dom.2 }.drainVal src sh (bitAt c.mod 11))
      let p := ((row + c.adv.row).toNat + i) * (8 * sh.pitch) + sh.colBit (col + c.adv.off).toNat
      let n := sh.bits * vs.length
      let ws := maskedBytes p (packed sh.bits (vs.map (·.1))) (2 ^ n - 1)
      if ws.any fun w => w.2.2 != 0xFF#8 && mget false t.poison w.1 then none
      else some (s.tileWrite s.cur h ws, (vs.map fun v => drainFlags v.2).foldl (· ||| ·) 0)
  | _ => some (s, 0)

/-- Rows of an MDRAIN written, in the domain under which the array was captured, from the drain buffer; at the end the buffer is free (R208). -/
def State.drainStep1 (s : State) (m : Mill) (c : MillCmd) (buf : List (List Nat)) : State :=
  let rows := (List.range c.size.1).drop c.k0
  let (t, fl, n, bad) := rows.foldl (fun (x : State × Nat × Nat × Bool) i =>
    if x.2.2.2 then x
    else match x.1.drainRow m c buf i with
      | some (t, f) => (t, x.2.1 ||| f, i + 1, false)
      | none => (x.1, x.2.1, i, true)) (s, c.stat, c.k0, false)
  if bad then
    (t.modCmd t.cur c.ord fun c => { c with k0 := n, stat := fl }).cmdFail c cMEMORY_ERROR 1 n (c.rowPlace (c.cap 0) n)
  else (t.modMillOf t.cur fun m => { m with drain := none }).cmdEnd c 0 fl

/-- A command that touches the cogs. -/
def MillCmd.cogs (c : MillCmd) : Bool := match c.instr with
  | .mpre _ | .mfeed _ | .mfeedr _ => true
  | _ => false

/-- A command that meets an uncorrectable error in the cogs ends with MEMORY_ERROR detail 2 (R211); the steps of its feed so far, and of
those before it, stand in the array. -/
def State.cogError (s : State) (m : Mill) (c : MillCmd) : State :=
  let m := { m with bad := false }
  let s := s.modMillOf s.cur fun _ => m
  let v := failVal cMEMORY_ERROR 2
  if c.isFeed then s.feedEnd m c (v (m.stepsDone c)) else s.cmdEnd c (v c.k0) c.stat

/-- The completion of the bank's first command. -/
def State.millComplete (s : State) (c : MillCmd) : State :=
  let m := s.millOf s.cur
  match c.value with
  | some v => s.cmdEnd c v 0
  | none =>
    if !c.started || c.waiting || c.recorded then s
    else if m.bad && c.cogs then
      s.cogError m c
    else if c.fail ≠ (0, 0) then
      s.feedFail m c c.fail.1 c.fail.2 (c.rowPlace c.fetched.1 c.aRows.length)
    else match c.instr with
      | .mrel _ =>
        let t := s.cmdEnd c 0 0
        if (s.mg (mgOf s.cur)).mill.holder = some s.cur then t.leaseEnd (mgOf s.cur) 0 else t
      | .mpre _ => s.preStep m c
      | .mfeed _ => if c.full then s.feedDone m c else s.feedStep m c
      | .mfeedr _ => if c.full then s.feedDone m c else s.fetchStep m c
      | .mdrain _ => match m.drain with
        | some (n, buf) => if n = (s.cur, c.ord) then s.drainStep1 m c buf else s
        | none => s
      | _ => s

/-- MILL_COMMAND_COMPLETE (R191, R197, R199, R209, R210): the work of the bank's first command, and its completion. A resumed
holder waits for its lease; an MMODE, and a command of a core that PAIR mode shuts out, wait for no window. -/
def execMillCommandComplete (b : Nat) (s : State) : Out :=
  .next (s.onBank b fun s =>
    match s.bank.cmds.head? with
    | some c => if (s.inWindow s.cur && s.bank.mheld.isNone) || (c.value.isSome && (c.isMode || s.millRefused)) then s.millComplete c else s
    | none => s)

/-- MDRAIN_CAPTURE (R208): the array copied into the drain buffer once every earlier command is complete and the buffer
is free. -/
def execMdrainCapture (b : Nat) (s : State) : Out :=
  .next (s.onBank b fun s =>
    match s.bank.cmds.head? with
    | none => s
    | some c =>
      let m := s.millOf s.cur
      match c.instr with
      | .mdrain _ =>
        if c.started && !c.captured && c.value.isNone && m.drain.isNone && s.inWindow s.cur && s.bank.mheld.isNone then
          if m.bad then
            (s.modMillOf s.cur fun m => { m with bad := false }).cmdValue c (failVal cMEMORY_ERROR 2 0)
          else
            (s.modMillOf s.cur fun m => { m with drain := some ((s.cur, c.ord), m.captured (c.mod / 2 ^ 12)) }).modCmd s.cur c.ord
              fun c => { c with captured := true, dom := (m.domain, m.efr) }
        else s
      | _ => s)

/-! ### Leases and PAIR windows -/

/-- LEASE_COUNT_LIMIT (R195): the 64th counted command is complete and no run is open. -/
def execLeaseCountLimit (mg : Nat) (s : State) : Out :=
  let m := (s.mg mg).mill
  .next (match m.holder with
    | some h => if m.count = 64 ∧ !m.open_ ∧ !(s.getBank h).millBusy then s.leaseEnd mg 3 else s
    | none => s)

/-- LEASE_IDLE_LIMIT (R195): the Mill has executed no command of the holder for 65,536 cycles over the lease. -/
def execLeaseIdleLimit (mg : Nat) (s : State) : Out :=
  let m := (s.mg mg).mill
  .next (match m.holder with
    | some h => if !(s.getBank h).millBusy ∧ 65536 ≤ m.idle + (s.cycle - m.mark) then s.leaseEnd mg 6 else s
    | none => s)

/-- PAIR_WINDOW (R198): the next window of 64 cycles belongs to the other core. -/
def execPairWindow (mg : Nat) (s : State) : Out :=
  let m := (s.mg mg).mill
  .next (if m.pair ∧ m.window + 64 ≤ s.cycle then
      s.modMill mg fun m => { m with window := m.window + 64, half := !m.half }
    else s)

end Sys2Proof.Machine
end

