-- ==== Sys2Proof/Machine/Sequencer.lean ====
section
/-! DEFINITION. The device's steps for fetch, dispatch and the two banks of a core (R19, R53, R58, R67, R418). -/

namespace Sys2Proof.Machine

/-! ### Fetch, dispatch, sticky slots -/

/-- FETCH_LINE (R67): a line of the next bundle of a bank, its first or its last, arrives or fails. -/
def execFetchLine (b va : Nat) (s : State) : Out :=
  .next (s.onBank b fun s =>
    let pc := s.bank.at_
    let first := (mget none s.bank.fetched (pc / 64)).isSome
    let n := headerLen (leNat (s.bank.code pc 4))
    let wanted := if first then (pc + n - 1) % 2 ^ 55 / 64 else pc / 64
    if s.bank.run ≠ .ready ∨ s.bank.stop ∨ s.bank.cur.isSome ∨ va / 64 ≠ wanted then s
    else match s.fetchLine pc wanted with
      | .line t => t
      | .fails t f => if s.bank.lag = [] then t.takeFault f else s
      | .waits => s)

/-- BUNDLE_DISPATCH (R52, R58): the next bundle of a bank that holds its core's sequencer, all of it in the fetch buffer, is
checked and made current; a pre-emption at its safe-point boundary goes first (R63). -/
def execBundleDispatch (b : Nat) (s : State) : Out :=
  .next (s.onBank b fun s =>
    let pc := s.bank.at_
    let have_ (l : Nat) : Bool := (mget none s.bank.fetched l).isSome
    let n := headerLen (leNat (s.bank.code pc 4))
    if s.bank.run ≠ .ready ∨ s.bank.stop ∨ s.bank.cur.isSome ∨ (s.core (coreOf s.cur)).active ≠ s.cur % 2 ∨ s.givesWay ∨
        !(have_ (pc / 64) && have_ ((pc + n - 1) % 2 ^ 55 / 64)) then s
    else match s.dispatch with
      | none => if s.bank.lag = [] then s.takeFault { cause := cILLEGAL_BUNDLE, detail := 0, whole := true } else s
      | some t => match t.bank.cur with
        | some r => if s.bank.atBoundary r.b then s else t
        | none => s)

/-- STICKY_ISSUE (R53): an absent sticky slot that is next to issue takes its step, and the bank issues its last operation
as the next step of the machine. A further issue past the bound of R66 faults instead. -/
def execStickyIssue (b slot : Nat) (s : State) : Out :=
  .next (s.onBank b fun s =>
    match s.bank.cur with
    | none => s
    | some r =>
      match s.ready with
      | .op _ t =>
        if t.bank.slot = slot ∧ (r.b.ops[slot]?.getD none).isNone ∧ r.b.sticky.getLsbD slot then
          { t with agenda := .bank b :: t.agenda }
        else s
      | .moved t => if r.begun then s else t
      | _ => s)

/-! ### Hand-over (R19) -/

/-- An operation at which the bank in focus stands reads the pending token of an MLEASE. -/
def Bank.readsLease (b : Bank) : Bool :=
  b.lagReadsLease ||
  b.issued == .stalled && (match b.cur with
    | some r => match b.opOf r b.slot with
      | some (.op i) => b.leaseRead i
      | _ => false
    | none => false)

/-- CWAIT_SWITCH_COUNT (R19): a CWAIT unsatisfied for 256 cycles. -/
def execCwaitSwitchCount (b : Nat) (s : State) : Out :=
  .next (match (s.getBank b).swait with
    | .counter since _ =>
      if (s.getBank b).run = .waiting ∧ since + 256 ≤ s.cycle then s.modBank b fun k => { k with wish := true } else s
    | _ => s)

/-- MLEASE_SWITCH_COUNT (R19): the count of an MLEASE token that an operation reads begins, and after 256 cycles the bank
wishes to hand the sequencer over. -/
def execMleaseSwitchCount (b : Nat) (s : State) : Out :=
  let k := s.getBank b
  .next (if !k.readsLease then s
    else if k.waitAge = 0 then s.modBank b fun k => { k with waitAge := s.cycle + 1 }
    else if k.waitAge + 255 ≤ s.cycle then s.modBank b fun k => { k with wish := true }
    else s)

/-- The record of a bank's fault waits for a slot of its context's area. -/
def State.recordWaits (s : State) (b : Nat) : Bool := (s.ctx (s.getBank b).id.ctx).waitq.any fun h => h.who == .bank b

/-- The bank stands where it gives up the sequencer (R19): after a YIELD at the end of its bundle, in a CWAIT or before a read of an MLEASE
token that has lasted long enough, with its progress recorded, or no task of it issues and the record of its fault is written. -/
def State.yields (s : State) (b : Nat) (give : Bool) : Bool :=
  let k := s.getBank b
  match k.run with
  | .ready => (give && k.cur.isNone) || (k.wish && k.readsLease)
  | .waiting => k.wish
  | .faulted => !s.recordWaits b
  | _ => true

/-- BANK_HANDOVER (R19). -/
def execBankHandover (core : Nat) (s : State) : Out :=
  let k := s.core core
  let here := 2 * core + k.active % 2
  .next (if (s.getBank (otherBank here)).run = .ready ∧ s.yields here k.give then
      s.modCore core fun c => { c with active := 1 - c.active % 2, give := false }
    else s)

/-! ### Fault areas -/

/-- PENDING_EVENT_RECORD_WRITE (R418): a freed slot takes the first record that waits with its source, else the first event
record that the die keeps. -/
def execPendingEventRecordWrite (area : Area) (die : Nat) (s : State) : Out :=
  .next (match area with
    | .ctx c =>
      let x := s.ctx c
      if faCap x.fa ≤ x.faults.length then s
      else match x.waitq, mget [] x.pend die with
        | h :: t, _ => (s.modCtx c fun x => { x with waitq := t }).putWaited c h
        | [], r :: rs => (s.modCtx c fun x => { x with pend := mset [] x.pend die rs }).ctxPut c r .event
        | [], [] => s
    | .dev =>
      if faCap s.dev.fa ≤ s.dev.faults.length then s
      else match s.dev.waitq, mget [] s.dev.pend die with
        | h :: t, _ => ({ s with dev := { s.dev with waitq := t } } : State).devPut h.recd h.who
        | [], r :: rs => ({ s with dev := { s.dev with pend := mset [] s.dev.pend die rs } } : State).devPut r .event
        | [], [] => s)

end Sys2Proof.Machine
end

