-- ==== Sys2Proof/Machine/StoreEvents.lean ====
section
/-! DEFINITION. The device's steps for a bank's store queue: stores entering the die's view, markers, adds, launches, QCTLs and
COLRDYs leaving the bank (R131, R132, R247, R285, R302, R316, R339, R340, R404). -/

namespace Sys2Proof.Machine

/-- The head of the store queue of the bank in focus removed. -/
def State.popSq (s : State) : State := s.upd fun b => { b with sq := b.sq.tail }

/-- The head of the store queue changed. -/
def State.modSq (s : State) (f : SqEntry → SqEntry) : State :=
  s.upd fun b => { b with sq := match b.sq with
    | e :: r => f e :: r
    | [] => [] }

/-- A store entry marked held (R340), or with its mark removed. -/
def SqEntry.hold (h : Bool) (e : SqEntry) : SqEntry :=
  match e.kind with
  | .store ws g _ => { e with kind := .store ws g h }
  | _ => e

/-- The expanded bytes of a store. -/
def memWrites (ws : List BWrite) : List AWrite := ws.filterMap fun w => match w.loc with
  | .mem a => some (a, w.val, w.mask)
  | .tile _ _ => none

/-- The tile bytes of a store, with their handle. -/
def tileWrites (ws : List BWrite) : List (Nat × Nat × Byte × Byte) := ws.filterMap fun w => match w.loc with
  | .mem _ => none
  | .tile h o => some (h, o, w.val, w.mask)

/-- The record of a store that has faulted: it names the entry's bundle and slot (R462). -/
def State.storeRec (s : State) (e : SqEntry) (cause detail done : Nat) : FaultRec :=
  { s.bankRec { cause := cause, detail := detail, done := done, place := e.place } e.slot with bundle := e.bundle, work := e.wid }

/-- A store of the bank in focus faults (R167, R168, R340): the entries that f names stay held, and the bank stops past the issue. A
bank that is stopped already takes the fault when it goes on, so all is held. -/
def State.storeFault (s : State) (e : SqEntry) (cause detail done : Nat) (f : SqEntry → Bool) : State :=
  let r := s.storeRec e cause detail done
  let s := s.upd fun b =>
    { b with sq := b.sq.map fun x => if f x then x.hold true else x, run := if b.run = .ending then .ending else .faulted }
  s.ctxFault s.bank.id.ctx r (.bank s.cur)

/-- A store to global memory: the blocks homed on other dies whose sectors have not been granted yet (R247). -/
def State.ungranted (s : State) (ws : List AWrite) (g : List (Nat × Nat)) : List (Nat × Nat) :=
  (s.rsvNeed (ws.filter fun w => s.home w.1 != dieOf s.cur)).filter fun r => !g.any fun x => x.1 == r.1

/-- Why a store cannot reach a home of another die (R390): the detail of LINK_FAULT. -/
def State.storeLink (s : State) (ws : List AWrite) : Option Nat :=
  ws.findSome? fun w => s.dieFails (dieOf s.cur) (s.home w.1) 0

/-- The head store of the bank in focus is refused with nothing written: it stays held, and a bank not stopped already faults. -/
def State.storeRefused (s : State) (e : SqEntry) (cause detail : Nat) : State :=
  if s.bank.run = .faulted then s.modSq (·.hold true) else s.storeFault e cause detail e.done fun x => x.ord == e.ord

/-- The head store of the bank in focus performed (R165, R166, R247, R339, R346, R349). -/
def State.performStore (s : State) (e : SqEntry) (ws : List BWrite) (g : List (Nat × Nat)) : State :=
  let mem := memWrites ws
  if mem = [] then
    (((tileWrites ws).map (·.1)).eraseDups.foldl (fun (s : State) h =>
      s.tileWrite s.cur h (((tileWrites ws).filter fun w => w.1 == h).map (·.2))) s).popSq
  else if s.heldUp mem then s
  else if s.ungranted mem g ≠ [] then s
  else
    let same (x : SqEntry) : Bool := x.iss == e.iss && x.slot == e.slot
    match s.storeLink mem, s.enterView (dieOf s.cur) s.cur none g mem e.hint with
    | some d, _ => s.storeRefused e cLINK_FAULT d
    | none, none => s.storeRefused e cOUT_OF_SPACE 0
    | none, some t =>
      if s.bank.run = .faulted ∧ s.writePoison mem then s.modSq (·.hold true)
      else
        let t := ((blocksOf mem).foldl (fun (t : State) b => t.dset (b * 512)) t).popSq
        if s.writePoison mem then t.storeFault e cMEMORY_ERROR 1 e.after same else t

/-- The write-throughs of the stores of the bank in focus have all been acknowledged (R250); those of its engines do not count
(R131, R252). -/
def State.wtsDone (s : State) : Bool := !s.wts.any fun w => w.bank == s.cur && w.op.isNone

/-- The adds of the CADDs that have left the bank in focus are performed or reported (R131, R316). -/
def State.addsMade (s : State) : Bool := !s.addsOut s.cur

/-- The bank's accesses that stood before the head of its queue have performed at a scope (R131, R132, R250). -/
def State.earlierDone (s : State) (scope : Nat) : Bool := s.addsMade && (!wideScope scope || s.wtsDone)

/-- A fence's earlier accesses have performed at its scope (R131, R253); an ACQ fence waits for loads alone, which are done. -/
def State.fenceMet (s : State) (scope kind mark : Nat) : Bool :=
  kind == 0 || (s.earlierDone scope &&
    (kind != 3 || !wideScope scope || !s.wts.any fun w => w.src == dieOf s.cur && w.num < mark))

/-- The scope of an ACQ fence. -/
def SqKind.acqScope : SqKind → Option Nat
  | .fence scope 0 _ => some scope
  | _ => none

/-- The ACQ fences that no marker holds back any more take effect (R131). -/
def State.freeAcqs (s : State) : State :=
  let free := s.bank.sq.takeWhile fun e => !e.kind.bars
  let rest := s.bank.sq.drop free.length
  free.foldl (fun s e => match e.kind.acqScope with
      | some scope => s.acquire scope
      | none => s)
    (s.upd fun b => { b with sq := free.filter (fun e => e.kind.acqScope.isNone) ++ rest })

/-- Every slot of the issue that an entry belongs to has issued, so that no load of the issue is still to come (R60, R138, R251). -/
def Bank.issueOver (b : Bank) (e : SqEntry) : Bool :=
  !b.lag.any (·.iss == e.iss) && (e.iss < b.iss || match b.cur with
    | some r => r.todo == []
    | none => true)

/-- A QCTL whose turn has come (R301, R302): its register receives the status word as the operation left it; after ABORT and RESET only when
every bank has stopped, but for its own. -/
def State.performQctl (s : State) (e : SqEntry) (a b : Word) (reg : Nat) : State :=
  let c := s.bank.id.ctx
  let q := a.toNat % 64
  let op := a.toNat / 64
  if (s.ctx c).launchq.any fun l => l.1 < 64 && l.2.2.2.1 == s.cur then s
  else match s.qctlApply c q op b.toNat with
    | none => (s.popSq).completeTok s.cur reg e.ord true (s.queueWord c q 2)
    | some t =>
      if op = 5 ∨ op = 6 then t.modSq fun x => { x with kind := .release 3 (BitVec.ofNat 64 q) (t.queueWord c q 0) reg }
      else (t.popSq).completeTok s.cur reg e.ord true (t.queueWord c q 0)

/-- A release whose earlier accesses have performed at DEVICE scope: LAUNCH, QCTL, COLRDY, or the rest of an ABORT or RESET. -/
def State.performRelease (s : State) (e : SqEntry) (what : Nat) (a b : Word) (reg : Nat) : State :=
  let c := s.bank.id.ctx
  if what = 0 then
    (s.popSq).modCtx c fun x => { x with launchq := x.launchq ++ [(reg, a, b.toNat, s.cur, e.ord)] }
  else if what = 1 then s.performQctl e a b reg
  else if what = 2 then
    let (v, t) := (s.popSq).colrdy c a.toNat
    t.completeTok s.cur reg e.ord (v.getLsbD 63) v
  else if s.queueStopping c a.toNat s.cur then s
  else (s.popSq).completeTok s.cur reg e.ord true b

/-- A CADD whose earlier accesses have performed at its scope leaves the bank (R316). What its issue has checked does not fail here. -/
def State.performCadd (s : State) (e : SqEntry) (id amount : Word) : State :=
  let c := s.bank.id.ctx
  let add (i : CtrId) : CtrAdd :=
    { id := i, amount := amount, src := .cadd s.cur e.ord, place := id, bundle := e.bundle, wid := e.wid, kid := s.bank.id.kid,
      hint := e.hint, ctx := c, va := s.vaOf id }
  match s.bankCtr id true with
  | .ok i => (s.popSq).sendAdd (dieOf s.cur) c (add i)
  | .error .stall => s
  | .error (.fault f) => (s.popSq).addFailed (add (.remote 0 id)) f.cause f.detail

/-- The head of the store queue of the bank in focus. -/
def State.performHead (s : State) : State :=
  match s.bank.sq with
  | [] => s
  | e :: _ => match e.kind with
    | .store ws g held => if held || !s.bank.issueOver e then s else s.performStore e ws g
    | .fence scope kind mark =>
      if s.fenceMet scope kind mark then (if kind = 1 then s.popSq else ((s.popSq).acquire scope).freeAcqs) else s
    | .mark reg => if s.addsMade then ((s.popSq).completeTok s.cur reg e.ord true 0).freeAcqs else s
    | .cadd id amount scope => if s.earlierDone scope then s.performCadd e id amount else s
    | .release what a b reg => if s.earlierDone 3 then s.performRelease e what a b reg else s

/-- STORE_PERFORM (R247): the earliest entry of a bank's store queue takes effect. -/
def execStorePerform (b : Nat) (s : State) : Out := .next (State.settleHost (s.onBank b State.performHead))

/-- The head store of the bank in focus asks for the sectors of the next block homed on another die (R247, R339); refused, or with its
die link failed (R390), it is held and the bank faults (R340). -/
def State.requestSectors (s : State) : State :=
  match s.bank.sq with
  | [] => s
  | e :: _ => match e.kind with
    | .store ws g false => match s.ungranted (memWrites ws) g with
      | [] => s
      | r :: _ =>
        match s.round (dieOf s.cur) (s.home (r.1 * 512)) 0 1 with
        | .error (.fault f) => s.storeRefused e f.cause f.detail
        | .error .stall => s
        | .ok t => match t.reserve .bank [r] with
          | some t => t.modSq fun x => { x with kind := .store ws (g ++ [r]) false }
          | none => s.storeRefused e cOUT_OF_SPACE 0
    | _ => s

/-- SECTOR_RESERVATION_REQUEST (R247, R339). -/
def execSectorReservationRequest (b : Nat) (s : State) : Out := .next (s.onBank b State.requestSectors)

end Sys2Proof.Machine
end

