-- ==== Sys2Proof/Machine/TaskEnd.lean ====
section
/-! DEFINITION. The device's steps for the end of tasks and kernels: task end, the edge phase, stopped tasks, the counter tree, the
completion add (R277 to R284, R364). -/

namespace Sys2Proof.Machine

/-! ### Stopped tasks (R282, R364) -/

/-- A bank that is to stop can be stopped now: its engines stand at item boundaries, and it stands at a bundle boundary or cannot reach
one. -/
def Bank.canStop (b : Bank) : Bool :=
  b.stop && b.atItems && (match b.run with
    | .ready => b.cur.isNone || b.issued == .stalled
    | .dead | .free => false
    | _ => true)

/-- Groups of the bank in focus aborted or left to their outcomes, and freed by themselves once settled; pending group tokens complete with
HALTED (R364). The cause is that of R364 for a DOOMED group too. -/
def State.dropGroups (s : State) (cause detail : Nat) : State :=
  let s := s.upd fun b => { b.gpend.foldl (fun b p => b.completeTok p.reg p.ord false (failVal cHALTED 0 0)) b with gpend := [] }
  (s.bank.gbinds.filterMap (·.2)).foldl (fun s x => match s.boundGroup x with
    | some (d, i, g) =>
      let s := s.modGroup d i fun g => { g with auto := true, cause := if g.st = 6 then 0 else g.cause }
      if g.st = 1 ∨ g.st = 6 then s.abortGroup d i cause detail else s.settleGroup d i
    | none => s) s

/-- The lease of the bank in focus given up, or its request withdrawn (R195). -/
def State.dropLease (s : State) : State :=
  let g := mgOf s.cur
  if (s.mg g).mill.holder == some s.cur then s.leaseEnd g 0 else s.leaseWithdraw g s.cur

/-- The bank in focus stops for good: what it has not performed is abandoned, and no record of it is disposed of any more. -/
def State.stopBank (s : State) : State :=
  let s := (s.withdraw s.cur).dropGroups cHALTED 0
  let s := (s.ungrantBank s.cur).upd fun b =>
    { b with run := .dead, preempt := false, cur := none, sq := [], ops := [], cmds := [], streams := [], probes := [], susp := none,
             mheld := none, swait := .none, late := none, lag := [] }
  let s := s.dropLease
  let gone (w : FaultWho) : Bool := match w with
    | .bank x | .op x _ | .stream x _ | .cmd x _ | .edge x => x == s.cur
    | _ => false
  let f (l : List FaultHeld) : List FaultHeld := l.map fun h => if gone h.who then { h with who := .event } else h
  let keep (q : Asked) : Bool := match q.who with
    | .op x _ | .cmd x _ _ | .stream x _ _ => x != s.cur
    | _ => true
  let s := s.modCtx s.bank.id.ctx fun x => { x with faults := f x.faults, waitq := x.waitq.filter fun h => !gone h.who }
  { s with gate := { s.gate with asked := s.gate.asked.filter keep } }

/-- A stopped bank becomes free once nothing of it is on its way; its tiles are discarded, and with the last bank of a kernel what was kept
of that. -/
def State.buryBank (s : State) : State :=
  if s.settled s.cur then
    let c := s.bank.id.ctx
    let kid := s.bank.id.kid
    let t := (s.dropTiles s.cur).freeBank s.cur
    if t.busyBanks.any (fun b => b.2.runs c kid) then t
    else t.modCtx c fun x => { x with kernels := mset none x.kernels (goneKey kid) none }
  else s

/-! ### Task end and the edge phase (R277 to R280) -/

/-- Every stream still bound is unbound as by SUNB (R234, R277). -/
def State.unbindAll (s : State) : State :=
  s.upd fun b => { b with streams := b.streams.map fun t =>
    if t.unb.isSome then t else { t with untl := some 0, unb := some (0, 0), udeps := [], ubegun := true } }

/-- The operations, accesses, streams and groups of the bank in focus are done (R277, R364). -/
def State.taskQuiet (s : State) : Bool :=
  let b := s.bank
  b.ops == [] && b.streams == [] && b.gpend == [] && !b.millBusy && s.nextStart.isNone && b.probes.all (fun p => !p.2.fill) &&
    s.settled s.cur

/-- The region in whose edge action a block is written back: FLUSH or FORWARD with W, around the block's bytes (R278). -/
def State.edgeRegion (s : State) (h : Header) (k : Block) : Option (Region × Nat) :=
  let a := (s.ext k.ext).base.toNat % 2 ^ 55 + s.blockOff k k.lo
  h.regions.zipIdx.find? fun r => (r.1.edge == 1 || r.1.edge == 3) && bitAt r.1.access 1 &&
    r.1.base.toNat % 2 ^ 55 ≤ a && a + (k.hi - k.lo) ≤ r.1.base.toNat % 2 ^ 55 + r.1.len.toNat

/-- The first row whose block the edge phase has still to write back, with its region (R278). -/
def State.edgeRow (s : State) (h : Header) : Option (Nat × Block × Region × Nat) :=
  s.bank.probes.findSome? fun p =>
    if p.2.valid && p.2.dirty then (s.edgeRegion h p.2.blk).map fun r => (p.1, p.2.blk, r.1, r.2) else none

/-- The handles that the FORWARD regions keep (R279). -/
def Header.forwarded (h : Header) (t : Nat) : Bool := h.regions.any fun r => r.edge == 3 && r.fwdH ≤ t && t ≤ r.fwdH + r.fwdN

/-- The consumer to which a task's handles pass, while its own task has not been placed (R279). -/
def State.consumerOf (s : State) (c : Nat) (x : Kernel) (task : Nat) : Option Nat :=
  match x.consumer with
  | none => none
  | some kid => match s.kernel c (kslot kid) with
    | some y => if y.kid (kslot kid) = kid ∧ !y.st.final ∧ (mget none y.placed task).isNone then some (kslot kid) else none
    | none => none

/-- The task of the bank in focus is over: its handles are freed or passed on, the bank is free, the task is counted (R277, R279,
R283). The registers keep their values until the next task (R443). -/
def State.endTask (s : State) (x : Kernel) : State :=
  let c := s.bank.id.ctx
  let slot := kslot s.bank.id.kid
  let task := s.bank.id.wid.toNat / 2 ^ x.hdr.seqBits
  let ts : List (Nat × Tile) := s.bank.tiles.filterMap fun t => t.2.map fun v => (t.1, v)
  let (kept, freed) : List (Nat × Tile) × List (Nat × Tile) := match s.consumerOf c x task with
    | some _ => ts.partition fun t => x.hdr.forwarded t.1
    | none => ([], ts)
  let core := coreOf s.cur
  let s := s.freeTiles core (freed.map (·.2))
  let s := match s.consumerOf c x task with
    | some k => s.modKernel c k fun y => { y with fwds := y.fwds ++ [(⟨task, core, kept⟩ : Forward)] }
    | none => s
  let b := s.cur
  let regs := s.bank.regs
  (((s.freeBank b).modBank b fun k => { k with regs := regs }).modKernel c slot fun x => { x with ended := x.ended + 1 }).afterSave c

/-- One step of the edge phase of the bank in focus (R278, R280): a block is written back, or the phase ends. A failed item writes a
record and the task waits for its disposition. -/
def State.edgeStep (s : State) (x : Kernel) : State :=
  if s.bank.issued = .faulted then s
  else match s.edgeRow x.hdr, s.probeTile with
    | some (row, k, r, i), some (h, _) =>
      let a := (s.ext k.ext).base.toNat % 2 ^ 55 + s.blockOff k k.lo
      let fails (s : State) (cause : Nat) : State :=
        let rec_ := { FaultRec.blank with
          cause := cause, detail := i, source := 5, core := coreOf s.cur, bank := s.cur % 2, kernel := s.bank.id.kid,
          done := s.bank.part, work := s.bank.id.wid, place := BitVec.signExtend 64 (BitVec.ofNat 55 a) }
        (s.upd fun b => { b with issued := .faulted }).ctxFault s.bank.id.ctx rec_ (.edge s.cur)
      match s.probeBack h row { k with ext := r.ext } none with
      | .ok (false, t) => (t.setProbe row { t.probe row with dirty := false }).upd fun b => { b with part := b.part + 1 }
      | .ok (true, t) => fails t cMEMORY_ERROR
      | .error .stall => s
      | .error (.fault f) => fails (s.metError f) f.cause
    | _, _ => if s.settled s.cur then s.endTask x else s

/-- TASK_END (R277, R282, R364): a bank at its final HALT unbinds its streams and, once everything it has issued is done, gives up its
lease and enters its edge phase; then that phase's steps. A bank of a stopped kernel stops and becomes free. -/
def execTaskEnd (b : Nat) (s : State) : Out :=
  .next (State.settleHost (s.onBank b fun s =>
    if s.bank.canStop then s.stopBank
    else if s.bank.run = .dead then s.buryBank
    else match s.myKernel with
      | none => s
      | some x =>
        if s.bank.run = .edge then s.edgeStep x
        else if s.bank.run ≠ .ending ∨ s.bank.issued = .faulted then s
        else if s.bank.streams.any fun t => t.unb.isNone then s.unbindAll
        else if !s.taskQuiet then s
        else
          let t := (s.dropGroups cGROUP_FAULT 4).dropLease
          t.upd fun b => { b with run := .edge, cmds := [], part := 0, issued := .done }))

/-! ### The end of a kernel (R283, R284) -/

/-- COUNTER_TREE_COMPLETE (R283): every task of a kernel has ended, and its completion add leaves. -/
def execCounterTreeComplete (ctx k : Nat) (s : State) : Out :=
  .next (match s.kernel ctx k with
    | none => s
    | some x => if (x.st = .running ∨ x.st = .edge) ∧ !x.adding ∧ x.ended = x.hdr.ntasks then s.completion ctx k else s)

/-- COMPLETION_ADD_PERFORMED (R267, R284): the kernel becomes DONE, or FAULTED with the failure of its add. -/
def execCompletionAddPerformed (ctx k : Nat) (s : State) : Out := .next (s.completed ctx k)

end Sys2Proof.Machine
end

