-- ==== Sys2Proof/Machine/Auto.lean ====
section
/-! DEFINITION. The device's own steps that a waiting bank lets happen, in one fixed order: the canonical schedule of an
empty agenda. Each step is tried in turn; one that is not enabled leaves the state as it is. Steps of Lorso, the host, the
links and other devices come from the agenda alone. -/

namespace Sys2Proof.Machine

/-- The steps of a bank's engines and streams. -/
def engineSteps (b : Nat) (k : Bank) : List (State → Out) :=
  k.ops.flatMap (fun o => [execEngineOpStart b o.ord, execEngineItem b o.ord, execEngineOpComplete b o.ord]) ++
  k.streams.flatMap (fun t => [execStreamFillItem b t.num, execStreamDrainItem b t.num]) ++
  (k.probes.filter (·.2.fill)).map fun p => execProbeFillComplete b p.1

/-- The steps of a bank's Mill commands. -/
def millSteps (b : Nat) (k : Bank) : List (State → Out) :=
  if k.cmds = [] then []
  else [execLeaseCountLimit (mgOf b), execMillCommandStart b, execMdrainCapture b, execMillCommandComplete b]

/-- The steps of a bank. -/
def bankSteps (x : Nat × Bank) : List (State → Out) :=
  let (b, k) := x
  (if k.sq = [] then [] else [execSectorReservationRequest b, execStorePerform b]) ++ engineSteps b k ++ millSteps b k ++
  (if k.run = .ending ∨ k.run = .edge ∨ k.run = .dead ∨ k.stop then [execTaskEnd b] else []) ++
  (if k.preempt then [execPreemptAtSafePoint b] else [])

/-- The steps of a compute die: the synchronisation engine, requests, the weir and the group unit, the retriever, the exchange of rows. -/
def dieSteps (d : Nat) (x : Die) : List (State → Out) :=
  (if x.adds = [] then [] else [execCounterAdd d]) ++ (if x.regs_ = [] then [] else [execWaiterRegister d]) ++
  (if x.reqs = [] then [] else [execRemoteRequest d]) ++
  (if x.inbox = [] then [] else
    [execWeirPrepare d, execReadyReport d, execWeirRefusal d, execWeirCommitPacket d, execWeirDiscard d, execPublicationReport d,
     execDiscardReport d, execGroupQuery d]) ++
  (if x.cmp.retr then [execRetrieverRun d] else []) ++
  (x.acts.filter fun a => decide (2048 ≤ a.2)).map fun a => execRowSwap d (a.1 / 65536 % 128) (a.1 / 65536 / 128) (a.1 % 65536)

/-- The steps of the fantail for a running context, and of its page operations, halts and restores. -/
def State.ctxSteps (s : State) (c : Nat) (x : Ctx) : List (State → Out) :=
  (if x.launchq = [] then [] else [execLaunchAcceptance c]) ++
  (s.kernelList c).flatMap (fun e => match e.2.st with
    | .pending => [0, 1, 2, 3].map fun d => execDependenceTranslation c e.1 d
    | .dispatching => [execRegionTranslationEnd c e.1, execCompletionAddPerformed c e.1]
    | .running | .edge => [execCounterTreeComplete c e.1, execCompletionAddPerformed c e.1]
    | _ => []) ++
  (if x.st = .running ∧ x.kernels ≠ [] then
    execKernelSelect c :: (s.ranked c).map fun e => execTaskPlace c e.1 ((s.placement c e.1 e.2 []).getD [])
   else []) ++
  (x.colls.map fun e => execSourceReadComplete c e.1) ++ (if x.colsets = [] then [] else [fun (t : State) => (.next (t.colsetsGo c) : Out)]) ++
  x.pageOps.flatMap (fun p => [execMigrationCopyComplete c p.va, execMigrationInvalidateComplete c p.va, execSplitComplete c p.va]) ++
  (if x.cmds = [] then [] else [fun (t : State) => (.next (t.cmdsGo c) : Out)]) ++ (if x.st = .halting then [execHaltSequenceComplete c] else []) ++ (if x.st = .resuming then [execRestoreLoadComplete c] else []) ++
  (if x.st = .destroyed then [execContextReleased c] else []) ++
  if x.waitq = [] ∧ x.pend = [] then [] else [0, 1, 2, 3, 4].map fun d => execPendingEventRecordWrite (.ctx c) d

/-- The write-throughs between dies. -/
def throughSteps (ws : List WThru) : List (State → Out) :=
  ws.flatMap fun w => [execWriteThroughArrival w.src w.home, execWriteThroughAck w.src w.home]

/-- The limits of time that have a clock of their own (R19, R195, R198, R295, R298, R306, R309, R357, R360, R400, R413, R428). -/
def State.clockSteps (s : State) : List (State → Out) :=
  s.busyBanks.flatMap (fun x => match x.2.swait with
    | .counter _ _ => [execCwaitSwitchCount x.1, execCwaitBoundExpiry x.1, execWaitLimitSwapout x.1]
    | _ => []) ++
  (s.busyBanks.filter (·.2.cmds.any MillCmd.awaitsLease)).map (fun x => execMleaseSwitchCount x.1) ++
  s.mgs.flatMap (fun g => (if g.2.mill.holder.isSome then [execLeaseIdleLimit g.1] else []) ++
    if g.2.mill.pair then [execPairWindow g.1] else []) ++
  s.dies.flatMap (fun x => (if x.2.resend = [] then [] else [execWaiterResendTimer x.1]) ++
    (x.2.groups.map fun e => execPrepareTimeout x.1 e.1) ++ (x.2.weir.map fun w => execWeirQueryTimeout x.1 w.name) ++
    if x.2.acts = [] then [] else [execRefreshWindowEnd x.1]) ++
  s.ctxs.flatMap (fun x => (if x.2.st = .halting then [execHaltTimeout x.1] else []) ++
    (if x.2.st = .running ∧ x.2.kernels ≠ [] then (List.range 64).map fun q => execAgingInterval x.1 q else []))

/-- The steps tried when the bank in focus cannot issue. What reaches a collective entry is tried in the order of R399: its failure, lines and
reports, then COLRDY among the banks' steps. -/
def State.candidates (s : State) : List (State → Out) :=
  s.ctxs.flatMap (fun x => x.2.colls.map fun e => execCollectiveTimeout x.1 e.1) ++ (if s.gate.colq = [] then [] else [fun s => .next s.collLocal]) ++
  s.busyBanks.flatMap bankSteps ++ s.dies.flatMap (fun x => dieSteps x.1 x.2) ++ throughSteps s.wts ++
  s.ctxs.flatMap (fun x => s.ctxSteps x.1 x.2) ++
  (s.busyBanks.map fun x => execBankHandover (coreOf x.1)) ++ s.clockSteps

/-- The next bank after the one in focus, in a cycle, that holds its core's sequencer and may issue. -/
def State.nextBank (s : State) : Nat :=
  let can (x : Nat × Bank) : Bool := x.2.run == .ready && (s.core (coreOf x.1)).active == x.1 % 2
  let ready := (s.parked.filter can).map (·.1)
  match ready.find? (s.cur < ·), ready.head? with
  | some b, _ => b
  | none, some b => b
  | none, none => s.cur

/-- A cycle that an event of the device takes passes before it, with the aging of waiting kernels (R35, R295) and the copying of a bank test
(R429). No two events share a cycle, nor an event one with an issue before it (log 43). -/
def State.beforeEvent (s : State) : State := s.passCycle.ageAll.copyRows

/-- A cycle in which nothing happens, once it has passed: held host writes whose space has come go on, and another bank comes into focus. -/
def State.idleCycle (s : State) : State :=
  ({ State.settleHost s with tick := s.tick + 1, lap := 0 } : State).focus s.nextBank

end Sys2Proof.Machine
end

