-- ==== Sys2Proof/Machine/LinkEvents.lean ====
section
/-! DEFINITION. Links and their VCs: training, loss, keys, tags, quarantine, pause, and the export windows (R372, R373, R378, R384 to
R391). -/

namespace Sys2Proof.Machine

/-- The two dies of a die link (R372). -/
def linkEnds (l : Nat) : Nat × Nat :=
  ([(0, 1), (0, 2), (0, 3), (0, 4), (1, 2), (1, 3), (1, 4), (2, 3), (2, 4), (3, 4)] : List (Nat × Nat))[l]?.getD (0, 0)

/-- Lanes of a link at full width: 8 of a fabric port (R372); PRESUMED 8 of an Ethernet port and 64 of a die link (log 30). -/
def linkWidth (l : Nat) : Nat := if l < 10 then 64 else 8

/-- The VC under a key of a link changed. -/
def State.modVc (s : State) (l k : Nat) (f : Vc → Vc) : State := s.modLink l fun x => x.modVc k f

/-- Bits of LNK.EVT set. -/
def State.linkEvt (s : State) (l bit : Nat) : State := s.modLink l fun k => { k with evt := k.evt ||| BitVec.ofNat 64 (2 ^ bit) }

/-- VCs of a link. -/
abbrev vcNumbers : List Nat := List.range 8

/-- The keys of a VC's records: both directions of a die link, every peer of an Ethernet port that has one (R384, R385). -/
def State.vcKeys (s : State) (l v : Nat) : List Nat :=
  if l < 10 then [v, v + 8] else v :: ((s.link l).vcs.map (·.1)).filter fun k => 16 ≤ k && k % 8 == v

/-- The keys of the records that share the state of a VC with the one under k: the two directions of a die link. -/
def twins (l k : Nat) : List Nat := if l < 10 then [k % 8, k % 8 + 8] else [k]

/-! ### Items of a VC that fails (R390) -/

/-- Adds and waiters on their way from die a to die b fail. -/
def State.failCounters (s : State) (a b detail : Nat) : Failed :=
  let as := (s.die b).adds.filter fun x => x.src.origin b == a
  let ws := (s.die b).regs_.filter fun w => (if w.remote.isSome then 4 else dieOf w.bank) == a
  let s := s.modDie b fun d => { d with adds := d.adds.filter fun x => x.src.origin b != a,
                                        regs_ := d.regs_.filter fun w => (if w.remote.isSome then 4 else dieOf w.bank) != a }
  let s := as.foldl (fun s x => s.addFailed x cLINK_FAULT detail) s
  (as.length + ws.length, ws.foldl (fun s w => s.answerWaiter cLINK_FAULT detail 0 w) s)

/-- Requests on their way from die a to die b in a VC fail. -/
def State.failRequests (s : State) (a b v detail : Nat) : Failed :=
  let ps := (s.die b).reqs.filter fun p => p.vc == v && s.fromDie p.src == a
  let s := s.modDie b fun d => { d with reqs := d.reqs.filter fun p => !ps.contains p }
  (ps.length, ps.foldl (fun s p => match p.body with
    | .request tag _ => s.reply b p.src p.dom v tag ⟨cLINK_FAULT, detail, 0, [], false⟩
    | _ => s) s)

/-- Requests of die a in a VC whose answers have not come fail: to other devices over the link to the Sheepdog, or to die b (R390). -/
def State.failAsking (s : State) (a b v detail : Nat) : Failed :=
  let hit := s.gate.asked.filter fun q =>
    let own := s.ownNode (s.askerCtx q.who) q.node
    q.die == a && q.vc == v && (if b = 4 then !own else own && dieOfNode q.node == b)
  (hit.length, hit.foldl (fun s q => s.failAsked q.tag detail) s)

/-- PREPARING groups of die a with a weir that is reached over the link to die b abort (R355). -/
def State.failGroups (s : State) (a b : Nat) : Failed :=
  let hit := (s.die a).groups.filter fun e => match e.2.grp with
    | some g => g.st == 2 && g.weirs.any fun w => s.fromDie w.1 == b
    | none => false
  (hit.length, hit.foldl (fun s e => s.abortGroup a e.1 cLINK_FAULT 0) s)

/-- Packets that wait at a die for its stopped VC to the Sheepdog fail (R387, R390). -/
def State.failWaiting (s : State) (a v detail : Nat) : Failed :=
  let hit := s.gate.unack.filter fun u => u.pkt.vc == v && s.gate.held.any fun h => h.1 && h.2.2 == u.pkt && dieOfNode u.pkt.src == a
  (hit.length, hit.foldl (fun s u => s.failPacket u detail) s)

/-- One direction of a die link's VC. Write-throughs and commit packets wait for the link: R390 names no failure of theirs. -/
def State.failWay (s : State) (a b v detail : Nat) : Failed :=
  if b = 4 then
    let (n, s) := s.failWaiting a v detail
    let (m, s) := s.failAsking a b v detail
    let n := n + m
    if v = 2 ∧ a < 4 then
      let (m, s) := s.failGroups a b
      (n + m, s)
    else (n, s)
  else
    let (n, s) := s.failRequests a b v detail
    let (m, s) := s.failAsking a b v detail
    let n := n + m
    if v = 4 then
      let (m, s) := s.failCounters a b detail
      (n + m, s)
    else if v = 2 ∧ a < 4 then
      let (m, s) := s.failGroups a b
      (n + m, s)
    else (n, s)

/-- Packets of a VC that no port carries any more fail, and on the commit VC the groups that lose a weir (R390). -/
def State.failPackets (s : State) (v : Nat) : Failed :=
  let hit := s.gate.unack.filter fun u => !u.acked && u.pkt.vc == v && (s.routeFails u.pkt.dom u.named v).isSome
  let t := hit.foldl (fun s u => s.failPacket u ((s.routeFails u.pkt.dom u.named v).getD 3)) s
  if v = 2 then
    let (n, t) := t.failAllGroups
    (hit.length + n, t)
  else (hit.length, t)

/-- The record of a VC that has entered QUARANTINED or DOWN (R462, source 9). -/
def linkRec (l v detail n : Nat) : FaultRec :=
  { FaultRec.blank with cause := cLINK_FAULT, detail := detail, source := 9, done := n, place := BitVec.ofNat 64 (l + v * 2 ^ 8) }

/-- Items of a VC fail in order, and the link's record is written (R390). -/
def State.failVc (s : State) (l v detail : Nat) : State :=
  let (n, s) := if l < 10 then
      let (a, b) := linkEnds l
      let (n, s) := s.failWay a b v detail
      let (m, s) := s.failWay b a v detail
      (n + m, s)
    else s.failPackets v
  s.eventFault .dev (if l < 10 then (linkEnds l).1 else 4) (linkRec l v detail n)

/-- A VC becomes QUARANTINED (R388, R390): on a die link in both directions, on an Ethernet port toward one peer. A mode that waits takes
effect. -/
def State.quarantine (s : State) (l k : Nat) : State :=
  (((twins l k).foldl (fun s k => s.modVc l k fun x => { x with st := 2, stop := false, mode := x.nmode.getD x.mode, nmode := none }) s).linkEvt l
    (8 + k % 8)).failVc l (k % 8) 2

/-! ### Keys and tags (R385 to R388) -/

/-- The counter value of a group that a receiver takes (R385, R386): the next one; on an Ethernet port any above the last within the window,
and also one of the next key where the last groups of the old key have been lost. -/
def Vc.takes (x : Vc) (eth : Bool) (counter : Nat) : Option Vc :=
  let old := match x.rnext with
    | some (_, at_) => decide (counter < at_)
    | none => true
  if !eth then (if counter = x.rcnt then some (x.accepted counter) else none)
  else if old && decide (x.rcnt ≤ counter ∧ counter < x.rcnt + 2 ^ 16) then some (x.accepted counter)
  else match x.rnext with
    | some (k, at_) => if counter < 2 ^ 16 ∧ at_ + counter < x.rcnt + 2 ^ 16 then some ((x.rswitch k).accepted counter) else none
    | none => none

/-- FLIT_GROUP_RECEIVE (R385, R388): a group of a protected VC is accepted, or discarded; the eighth failure in succession quarantines
the VC. way names the direction on a die link, whose items move its counters themselves, and the peer device on an Ethernet port. -/
def execFlitGroupReceive (link : Nat) (w : VcWay) (counter : Nat) (tagOk : Bool) (s : State) : Out :=
  let k := vcKey link w.vc w.way
  let x := (s.link link).vc k
  .next (if 8 ≤ w.vc ∨ x.mode = 0 ∨ 2 ≤ x.st then s
    else match (if tagOk then x.takes (ethPort link) counter else none) with
      | some y => s.modVc link k fun x => if link < 10 then { x with bad := 0 } else y
      | none =>
        if x.bad = 7 then (s.modVc link k fun x => { x with bad := 0 }).quarantine link k
        else s.modVc link k fun x => { x with bad := x.bad + 1 })

/-- REKEY_DEADLINE (R387): a VC that has stopped without a key for the time in LNK.RKDL becomes QUARANTINED. -/
def execRekeyDeadline (link : Nat) (w : VcWay) (s : State) : Out :=
  let k := vcKey link w.vc w.way
  let x := (s.link link).vc k
  .next (if w.vc < 8 ∧ x.stop ∧ x.since + usCycles (s.link link).rkdl ≤ s.cycle then State.settleHost (s.quarantine link k) else s)

/-- A VC can be UP: protection OFF or a key installed (R390). -/
def Vc.canUp (x : Vc) : Bool := x.mode == 0 || x.key.isSome

/-- A link's VCs that are DOWN come UP with the link (R390). -/
def State.vcsUp (s : State) (l : Nat) : State :=
  let k := s.link l
  if k.phys = 1 ∨ k.phys = 2 then
    (vcNumbers.flatMap (s.vcKeys l)).foldl (fun s v =>
      if ((s.link l).vc v).st = 3 ∧ (twins l v).all (fun k => ((s.link l).vc k).canUp) then s.modVc l v fun x => { x with st := 0 } else s) s
  else s

/-- KEYLOAD (R386, R387, R390): a next key with its switch count. At the present count it is used from the next group on; a VC without a
key takes it at once. Refused below the present count, above 2^32 - 1, or while a next key stands. way names the direction on a die link, of
which recv is the receiving end, and the peer device on an Ethernet port. -/
def execKeyload (link : Nat) (w : VcWay) (recv : Bool) (key : BitVec 256) (salt : BitVec 32) (at_ : Nat) (s : State) : Out :=
  let n := vcKey link w.vc w.way
  let x := (s.link link).vc n
  let k : Key := ⟨key, salt⟩
  let cnt := if recv then x.rcnt else x.cnt
  let held := if recv then x.rnext else x.next
  .next (if s.boot.stage = 8 ∨ 8 ≤ w.vc ∨ at_ < cnt ∨ 2 ^ 32 - 1 < at_ ∨ held.isSome then s.refuse
    else if x.st = 2 then s.modVc link n fun x => if recv then { x with rnext := some (k, at_) } else { x with next := some (k, at_) }
    else if at_ = cnt then
      (((s.modVc link n fun x => if recv then x.rswitch k else x.switch k).vcsUp link).postHeld)
    else s.modVc link n fun x =>
      let y := if recv then { x with rnext := some (k, at_) } else { x with next := some (k, at_) }
      { y with st := if x.st = 0 then 1 else x.st })

/-- A VC as VCRESET leaves it: UP under the loaded keys, its counters at 0. -/
def Vc.renewed (x : Vc) : Vc :=
  { x with st := 0, key := x.next.map (·.1), rkey := x.rnext.map (·.1), next := none, rnext := none, cnt := 0, rcnt := 0, stop := false, bad := 0 }

/-- VCRESET (R390): a QUARANTINED VC is UP, its counters at 0, once KEYLOAD has given keys at both ends: for both directions of a die link, and
for sending and receiving at this end of another. R390 has no row for any other (R11). -/
def execVcreset (link : Nat) (w : VcWay) (s : State) : Out :=
  let ks := twins link (vcKey link w.vc w.way)
  .next (if ks.all fun k => ((s.link link).vc k).st == 2 && ((s.link link).vc k).next.isSome && ((s.link link).vc k).rnext.isSome then
      (ks.foldl (fun s k => s.modVc link k Vc.renewed) s).postHeld
    else s.noRow)

/-- A VC of a link has an item in flight (R384). -/
def State.vcBusy (s : State) (l v : Nat) : Bool :=
  if l < 10 then
    let (a, b) := linkEnds l
    let way (a b : Nat) : Bool :=
      (s.die b).reqs.any (fun p => p.vc == v && s.fromDie p.src == a) ||
      (v == 4 && ((s.die b).adds.any (fun x => x.src.origin b == a) ||
        (s.die b).regs_.any fun w => (if w.remote.isSome then 4 else dieOf w.bank) == a)) ||
      (v == 2 && (s.die b).inbox.any fun m => s.fromDie m.1 == a) ||
      (s.wts.any fun w => w.vc == v && !w.arrived && w.src == a && w.home == b) ||
      (s.gate.back.any fun x => x.vc == v && x.src == a && x.dst == b) ||
      (b == 4 && s.gate.held.any fun h => h.1 && h.2.2.vc == v && dieOfNode h.2.2.src == a)
    way a b || way b a
  else s.gate.unack.any fun u => u.pkt.vc == v && (s.route u.pkt.dom u.named).2.contains l

/-- The mode that a word gives VC v. -/
def vcpMode (v : Word) (n : Nat) : Nat := bitsOf v.toNat (2 * n + 1) (2 * n)

/-- The fabric ports (R372). -/
def fabricPort (l : Nat) : Bool := decide (16 ≤ l ∧ l ≤ 31)

/-- A mode set for a VC (R384): while it carries items it takes effect with the next agreed count, that of a switch of keys; a VC that is
QUARANTINED or DOWN has no count to agree on and takes it at once. DEDUCED (log 85). -/
def Vc.setMode (x : Vc) (m : Nat) : Vc :=
  if 2 ≤ x.st then { x with mode := m, nmode := none } else { x with nmode := if m = x.mode then none else some m }

/-- LNK_VCP_WRITE (R16, R384, R389): the modes of a link's VCs, and the enclosure bit of a fabric port. -/
def execLnkVcpWrite (link : Nat) (v : Word) (s : State) : Out :=
  let encl := bitAt v.toNat 16
  let ok (n : Nat) : Bool :=
    let m := vcpMode v n
    m != 3 && (m != 1 || link < 10 || (fabricPort link && encl)) &&
      (m == ((s.link link).vc n).nmode.getD ((s.link link).vc n).mode || !s.vcBusy link n)
  .next (if s.boot.stage = 8 ∨ v.toNat / 2 ^ 17 ≠ 0 ∨ (encl && !fabricPort link) ∨ !(vcNumbers.all ok) then s.refuse
    else
      let t := s.modLink link fun k => { k with encl := encl }
      (vcNumbers.foldl (fun t n => (t.vcKeys link n).foldl (fun t k => t.modVc link k fun x => x.setMode (vcpMode v n)) t) t).vcsUp link)

/-! ### Training, loss and retraining (R390) -/

/-- LINK_TRAINING_END (R390). -/
def execLinkTrainingEnd (link : Nat) (r : Training) (lanes : Nat) (s : State) : Out :=
  .next (if (s.link link).phys ≠ 0 then s
    else match r with
      | .allLanes => (((s.modLink link fun k => { k with phys := 1, lanes := linkWidth link }).vcsUp link).postHeld)
      | .reduced => (((s.modLink link fun k => { k with phys := 2, lanes := lanes }).linkEvt link 16).vcsUp link).postHeld
      | .failed => (s.modLink link fun k => { k with phys := 3, lanes := 0 }).linkEvt link 17)

/-- LINK_LANE_LOSS (R390): traffic continues at reduced width. -/
def execLinkLaneLoss (link lanes : Nat) (s : State) : Out :=
  .next (if (s.link link).phys = 1 then (s.modLink link fun k => { k with phys := 2, lanes := lanes }).linkEvt link 16 else s)

/-- LINK_LANES_RESTORED (R390). -/
def execLinkLanesRestored (link : Nat) (s : State) : Out :=
  .next (if (s.link link).phys = 2 then s.modLink link fun k => { k with phys := 1, lanes := linkWidth link } else s)

/-- LINK_DOWN (R390, R418): every VC is DOWN, the keys are erased, and the items of each VC fail. -/
def execLinkDown (link : Nat) (s : State) : Out :=
  .next (if (s.link link).phys ≠ 1 ∧ (s.link link).phys ≠ 2 then s
    else
      let t := (s.modLink link fun k => { k with phys := 3, lanes := 0 }).linkEvt link 17
      let t := t.modLink link fun k => { k with vcs := (k.vcs.filter (·.1 < 16)) }
      let t := (vcNumbers.flatMap (t.vcKeys link)).foldl (fun t v => t.modVc link v fun x => { x with
        st := 3, key := none, rkey := none, next := none, rnext := none, stop := false, mode := x.nmode.getD x.mode, nmode := none }) t
      State.settleHost (vcNumbers.foldl (fun t v => t.failVc link v 3) t))

/-- LINK_RETRAIN (R390): R390 has a row for a link that is DOWN only (R11). -/
def execLinkRetrain (link : Nat) (s : State) : Out :=
  .next (if (s.link link).phys = 3 ∧ s.boot.stage ≠ 8 then s.modLink link fun k => { k with phys := 0 } else s.noRow)

/-- FABRIC_VC_PAUSE (R373, R374): the switch holds or frees the sending of a VC on a fabric port, or on an Ethernet port the priority of that VC. -/
def execFabricVcPause (port vc : Nat) (raised : Bool) (s : State) : Out :=
  .next (if !(fabricPort port || ethPort port) ∨ 8 ≤ vc then s
    else
      let t := s.modVc port vc fun x => { x with pause := raised }
      if raised then t else t.postHeld)

/-! ### Export windows (R378) -/

/-- The pages of a window that are mapped as it needs, from a page number to the last one, and those that are EVICTED, for whose return it
waits (R273); the others stay out of its frame array. -/
def State.windowPages (s : State) (c : Nat) (r : Region) (last : Nat) : Nat → Nat → List FrameEnt → List Nat → List FrameEnt × List Nat × State
  | 0, _, fs, ws => (fs, ws, s)
  | n + 1, vpn, fs, ws =>
    if last < vpn then (fs, ws, s)
    else match s.transPages c r (min last vpn) 1 vpn fs with
      | (.done, fs, t) => t.windowPages c r last n (match findFrame fs r.ext vpn with
          | some f => f.vpn + f.pages
          | none => vpn + 1) fs ws
      | (.evicted, fs, t) => t.windowPages c r last n (vpn + 1) fs (ws ++ [vpn])
      | (.fault _ _, fs, t) => t.windowPages c r last n (vpn + 1) fs ws

/-- WINDOW_OPEN (R16, R378): a write of WIN.L. A length of 0 closes the window and unpins its pages; any other opens it over a range that
meets R265, its pages translated and pinned. -/
def execWindowOpen (ctx n : Nat) (v : Word) (s : State) : Out :=
  let w := mget Window.closed (s.ctx ctx).wins n
  let len := v.toNat
  let r : Region := { base := w.base, len := v, access := (if w.r then 1 else 0) + (if w.w then 2 else 0), edge := 0, shared := false,
                      hint := false, fwdH := 0, fwdN := 0, ext := 0 }
  let put (s : State) (len : Nat) (fs : List FrameEnt) (ws : List Nat) : State :=
    s.modCtx ctx fun x => { x with wins := mset Window.closed x.wins n { w with len := len, frames := fs, waits := ws } }
  .next (if 16 ≤ n ∨ 2 ^ 44 ≤ len ∨ (s.ctx ctx).st = .free ∨ (s.ctx ctx).st = .destroyed then s.refuse
    else if len = 0 then put s 0 [] []
    else if !r.rangeOk then s.refuse
    else
      let a := w.base.toNat % 2 ^ 55
      let last := (a + len - 1) / 65536
      let (fs, ws, t) := s.windowPages ctx r last (last + 1 - a / 65536) (a / 65536) [] []
      put t len fs ws)

end Sys2Proof.Machine
end

