-- ==== Sys2Proof/Machine/BootEvents.lean ====
section
/-! DEFINITION. The start sequence, minimal mode, attestation, error counts, power (R28, R430 to R437, R439). -/

namespace Sys2Proof.Machine

/-! ### Flash (R431, R432) -/

/-- Copy A of the start count is in force: it is valid, and no valid copy has a higher sequence number (R432). -/
def Flash.firstInForce (f : Flash) : Bool := f.copyA.valid && (!f.copyB.valid || decide (f.copyB.seq ≤ f.copyA.seq))

/-- The copy in force. -/
def Flash.copy (f : Flash) : FlashCopy := if f.firstInForce then f.copyA else f.copyB

/-- Some copy is valid. -/
def Flash.readable (f : Flash) : Bool := f.copyA.valid || f.copyB.valid

/-- A count written into the other copy (R432). -/
def Flash.putCount (f : Flash) (n : Nat) : Flash :=
  let c := { f.copy with seq := f.copy.seq + 1, count := n, valid := true }
  if f.firstInForce then { f with copyB := c } else { f with copyA := c }

/-- The reason and the die of a failed start written into the copy in force (R432). -/
def Flash.putReason (f : Flash) (r d : Nat) : Flash :=
  let c := { f.copy with reason := r, die := d }
  if f.firstInForce then { f with copyA := c } else { f with copyB := c }

/-- The write of the copy now in force cut off by a reset: its check word does not match, and the older copy is in force (R432). -/
def Flash.cutOff (f : Flash) : Flash :=
  let c := { f.copy with valid := false }
  if f.firstInForce then { f with copyA := c } else { f with copyB := c }

/-- A slot verifies (R431). -/
def Flash.verifies (f : Flash) (x : FlashSlot) : Bool :=
  sha3 x.pubkey == Config.romKeyDigest && Config.mldsaValid x.pubkey (sha3 x.image) x.sig && f.floor ≤ x.version

/-- The slot that the ROM takes, 0 A or 1 B, and its contents (R431). -/
def Flash.chosen (f : Flash) : Option (Nat × FlashSlot) :=
  match f.slotA.filter f.verifies, f.slotB.filter f.verifies with
  | some a, some b => if a.version < b.version then some (1, b) else some (0, a)
  | some a, none => some (0, a)
  | none, some b => some (1, b)
  | none, none => none

/-! ### Starts (R430, R433) -/

/-- The device in reset: flash, host memory, images written and the soundness of the Mills stay (R430), and so does what is to come from
outside. -/
def State.inReset (s : State) : State :=
  { State.reset with
    flash := s.flash, host := s.host, images := s.images, tick := s.tick, agenda := s.agenda
    mgs := (s.mgs.filter fun g => !g.2.mill.usable).map fun g =>
      (g.1, { MillGroup.reset with mill := { Mill.reset with usable := false }, mill2 := { Mill.reset with usable := false } }) }

/-- Minimal mode (R433). -/
def State.minimal (s : State) : State := { s with boot := { s.boot with stage := 8, slot := 0, version := 0, ready := 0 } }

/-- A start (R430, R432, R433): the ROM reads the start count; a count of 3 leads to minimal mode, another is incremented. Where neither
copy is valid it counts as 0 and flash as unreadable: DESIGN CHOICE (log 58). -/
def State.start (s : State) : State :=
  let t := s.inReset
  let c : FlashCopy := if t.flash.readable then t.flash.copy else ⟨0, 0, 1, 0xFF, true⟩
  let t : State := { t with boot := { t.boot with ran := true, reason := c.reason, fails := c.count, faildie := c.die } }
  if c.count = 3 then t.minimal else { t with flash := ({ t.flash with copyA := if t.flash.readable then t.flash.copyA else c } : Flash).putCount (c.count + 1) }

/-- A start fails: the reason and the die are recorded, and the next start begins (R432). -/
def State.startFails (s : State) (reason die : Nat) : State := { s with flash := s.flash.putReason reason die }.start

/-- PCIE_RESET_DEASSERT (R430). -/
def execPcieResetDeassert (s : State) : Out := .next (if s.boot.ran then s else s.start)

/-- PCIE_RESET_ASSERT (R430, R432): nothing on the package runs. One that comes in stage 0 may cut off the start's write of its count, which
leaves the older copy in force: whether it does is a FREE VALUE (log 58). -/
def execPcieResetAssert (s : State) : Out :=
  .next (if Config.writeCut s.tick ∧ s.boot.ran ∧ s.boot.stage = 0 then ({ s with flash := s.flash.cutOff } : State).inReset.ticked else s.inReset.ticked)

/-- FWVERIFY (R431, R433): the slot that verifies, or minimal mode with reason 2, the count as the start read it. -/
def State.fwVerify (s : State) : State :=
  match s.flash.chosen with
  | some (n, x) => { s with boot := { s.boot with stage := 2, slot := n, version := x.version, done := [] } }
  | none => ({ s with flash := (s.flash.putCount s.boot.fails).putReason 2 0xFF, boot := { s.boot with reason := 2, faildie := 0xFF } } : State).minimal

/-- CAP.VR of a core with f faulty register banks, 0 when it is out of service (R28). -/
def capVrOf (f : Nat) : Nat := if f = 0 then 320 else if 8 ≤ f then 0 else 320 - 32 * (f - 1)

/-- REGBIST on a die (R28): the CAP.VR of its cores. -/
def State.regBist (s : State) (die : Nat) (faulty : Map Nat) : State :=
  (List.range 64).foldl (fun (t : State) i => t.modCore (64 * die + i) fun k => { k with capVr := capVrOf (mget 0 faulty (64 * die + i)) }) s

/-- A compute die has no core in service (R28). -/
def State.noCore (s : State) (die : Nat) : Bool := (List.range 64).all fun i => (s.core (64 * die + i)).capVr == 0

/-- PUF (R430, R435): die 0 derives the seed of the device's key pair from the corrected response. -/
def State.pufRead (s : State) : State :=
  { s with boot := { s.boot with stage := 3, done := [], seed := sha3 (Config.pufResponse s.flash.helper) } }

/-- LINKS (R430): the die links are up. -/
def State.linksUp (s : State) : State :=
  (List.range 10).foldl (fun s l => (s.modLink l fun k => { k with phys := 1, lanes := linkWidth l }).vcsUp l) s

/-- READY (R430, R431, R432): Lorso writes the start count to 0 and raises the version floor. -/
def State.nowReady (s : State) : State :=
  { s with flash := { s.flash.putCount 0 with floor := max s.flash.floor s.boot.version },
           boot := { s.boot with stage := 7, done := [] } }

/-- The reason with which a stage fails (R434). -/
def stageReason (stage : Nat) : Nat := ([1, 2, 3, 4, 5, 6] : List Nat)[stage]?.getD 7

/-- The dies that take part in a stage (R430). -/
def stageDies (stage : Nat) : List Nat := if stage = 2 then [0] else if stage = 3 ∨ stage = 4 then [0, 1, 2, 3] else [0, 1, 2, 3, 4]

/-- Every die that takes part has completed the stage: the next begins (R430). -/
def State.stageEnds (s : State) : State :=
  let next : State := { s with boot := { s.boot with stage := s.boot.stage + 1, done := [] } }
  if s.boot.stage = 1 then s.fwVerify
  else if s.boot.stage = 2 then s.pufRead
  else if s.boot.stage = 5 then next.linksUp
  else if s.boot.stage = 6 then s.nowReady
  else next

/-- A die has completed its part of the stage; with the last of its stages it is ready (R430, R434). -/
def State.stagePart (s : State) (die : Nat) : State :=
  let t : State := { s with boot := { s.boot with
    done := die :: s.boot.done.erase die, ready := if s.boot.stage = 6 then s.boot.ready ||| 2 ^ die else s.boot.ready } }
  if (stageDies t.boot.stage).all t.boot.done.contains then t.stageEnds else t

/-- BOOT_STAGE_COMPLETE (R430): a die completes its part of a stage, which ends with the last of them, or the start fails. What FWVERIFY finds
is what flash holds (R431). -/
def execBootStageComplete (r : StageResult) (s : State) : Out :=
  let st := s.boot.stage
  .next (if !s.boot.ran ∨ 7 ≤ st ∨ !(stageDies st).contains r.die then s
    else if st ≠ 1 ∧ !r.ok then s.startFails (stageReason st) r.die
    else if st = 3 then
      let t := s.regBist r.die r.faulty
      if t.noCore r.die then s.startFails 4 r.die else t.stagePart r.die
    else s.stagePart r.die)

/-- BOOT_TIMEOUT (R430): 60 s have passed since reset without READY. -/
def execBootTimeout (s : State) : Out :=
  .next (if s.boot.ran ∧ s.boot.stage < 7 ∧ usCycles 60000000 ≤ s.cycle then s.startFails 7 0xFF else s)

/-- BOOTSTAT (R434). -/
def Boot.stat (b : Boot) : Word :=
  BitVec.ofNat 64 (b.stage + b.slot * 2 ^ 4 + b.reason * 2 ^ 8 + b.fails * 2 ^ 16 + b.ready * 2 ^ 19 + b.faildie * 2 ^ 24 + b.version * 2 ^ 32)

/-- BOOTSTAT_READ (R430, R434): answered once the PCIe link has trained. -/
def execBootstatRead (s : State) : Out := .next (if s.boot.ran then s.notify (.value s.boot.stat) else s)

/-- FLASHWR (R16, R433): in minimal mode a verifying image is written to a slot, and the start count to 0. -/
def execFlashWr (slot : Nat) (img : FlashSlot) (s : State) : Out :=
  .next (if !s.boot.ran ∨ s.boot.stage ≠ 8 ∨ 2 ≤ slot ∨ !s.flash.verifies img then s.refuse
    else
      let f := s.flash.putCount 0
      { s with flash := if slot = 0 then { f with slotA := some img } else { f with slotB := some img } })

/-- RESTART (R433): every die is reset, and the next start begins. -/
def execRestart (s : State) : Out := .next (if !s.boot.ran ∨ s.boot.stage ≠ 8 then s.refuse else s.start)

/-! ### Attestation (R435, R436). The message layouts are DMTF SPDM 1.2's, PRESUMED (log 40). -/

/-- The responder answers: the ROM in minimal mode, Lorso when the start is READY. -/
def Boot.answers (b : Boot) : Bool := b.ran && (b.stage == 7 || b.stage == 8)

/-- An answer given. -/
def State.spdmSay (s : State) (b : List Byte) : State := { s with spdm := { s.spdm with resp := b } }.notify (.bytes b)

/-- The head of an SPDM 1.2 message: version, code, two parameters. -/
def spdmHead (code p1 p2 : Nat) : List Byte := leBytes 1 0x12 ++ leBytes 1 code ++ leBytes 1 p1 ++ leBytes 1 p2

/-- An ERROR answer. -/
def State.spdmError (s : State) (code : Nat) : State := s.spdmSay (spdmHead 0x7F code 0)

/-- A request that needs what an earlier one has reached. -/
def State.spdmIf (s : State) (ok : Bool) (f : State → State) : State :=
  if !s.boot.answers then s else if ok then f s else s.spdmError 4

/-- GET_VERSION: SPDM 1.2 alone. -/
def execGetVersion (s : State) : Out :=
  .next (s.spdmIf true fun s =>
    ({ s with spdm := { ver := true, caps := false, alg := false, resp := [] } } : State).spdmSay
      (leBytes 1 0x10 ++ leBytes 1 4 ++ leBytes 3 0 ++ leBytes 1 1 ++ leBytes 2 0x1200))

/-- GET_CAPABILITIES. The capability fields are open. -/
def execGetCapabilities (s : State) : Out :=
  .next (s.spdmIf s.spdm.ver fun s =>
    ({ s with spdm := { s.spdm with caps := true } } : State).spdmSay (spdmHead 0x61 0 0 ++ Config.spdmBytes 0xE1))

/-- A NEGOTIATE_ALGORITHMS request of SPDM 1.2 that offers the extended algorithms of the device: its length field is right, and its lists of
extended algorithms name ML-DSA-44 and SHA3-256 under the registry identifiers, which are open (R436). -/
def offersAlgs (req : List Byte) : Bool :=
  let a := recNat req 28 1
  let h := recNat req 29 1
  let names (off n id : Nat) : Bool := (List.range n).any fun i => recNat req (off + 4 * i) 4 == id
  recNat req 0 1 == 0x12 && recNat req 1 1 == 0xE3 && recNat req 4 2 == req.length && 32 + 4 * (a + h) ≤ req.length &&
    names 32 a (Config.algId 0).toNat && names (32 + 4 * a) h (Config.algId 1).toNat

/-- NEGOTIATE_ALGORITHMS: a request that does not offer the device's algorithms is an invalid one. The fields of the answer are open. -/
def execNegotiateAlgorithms (req : List Byte) (s : State) : Out :=
  .next (s.spdmIf s.spdm.caps fun s =>
    if !offersAlgs req then s.spdmError 1 else ({ s with spdm := { s.spdm with alg := true } } : State).spdmSay (spdmHead 0x63 0 0 ++ Config.spdmBytes 0xE3))

/-- GET_DIGESTS: the digest of the certificate in slot 0. -/
def execGetDigests (s : State) : Out :=
  .next (s.spdmIf s.spdm.alg fun s => s.spdmSay (spdmHead 0x01 0 1 ++ sha3 s.flash.cert))

/-- GET_CERTIFICATE: the certificate held in flash, from an offset (R435). -/
def execGetCertificate (off len : Nat) (s : State) : Out :=
  .next (s.spdmIf s.spdm.alg fun s =>
    let b := (s.flash.cert.drop off).take len
    s.spdmSay (spdmHead 0x02 0 0 ++ leBytes 2 b.length ++ leBytes 2 (s.flash.cert.length - off - b.length) ++ b))

/-- CHALLENGE: an answer signed with the device's private key, which comes from its seed (R435). -/
def execChallenge (nonce : List Byte) (s : State) : Out :=
  .next (s.spdmIf s.spdm.alg fun s =>
    let m := spdmHead 0x03 0 1 ++ sha3 s.flash.cert ++ Config.spdmBytes 0x83 ++ leBytes 2 0
    s.spdmSay (m ++ Config.mldsaSign s.boot.seed (nonce ++ m)))

/-- A measurement (R436); none where there is none of that index. -/
def State.measurement (s : State) (i : Nat) : Option (List Byte) :=
  let slot := if s.boot.slot = 0 then s.flash.slotA else s.flash.slotB
  match i with
  | 1 => some Config.romMeasurement
  | 2 => if s.boot.stage = 8 then none else slot.map fun x => sha3 x.image ++ leBytes 4 s.boot.version
  | 3 => some (leBytes 8 s.boot.stat.toNat)
  | 4 => if s.boot.stage = 8 then none else
      some ((List.range 256).flatMap (fun c => leBytes 2 (s.core c).capVr) ++
        leBytes 8 (((List.range 64).map fun g => if (s.mg g).mill.usable then 2 ^ g else 0).foldl (· + ·) 0))
  | _ => none

/-- The type byte of a measurement: immutable ROM and mutable firmware as digests, BOOTSTAT as firmware configuration and CAP.VR as hardware
configuration, both raw, which bit 7 says. -/
def measType (i : Nat) : Nat := ([0, 0, 1, 0x83, 0x82] : List Nat)[i]?.getD 0

/-- A measurement block. -/
def measBlock (i : Nat) (v : List Byte) : List Byte :=
  leBytes 1 i ++ leBytes 1 1 ++ leBytes 2 (v.length + 3) ++ leBytes 1 (measType i) ++ leBytes 2 v.length ++ v

/-- GET_MEASUREMENTS: index 0 asks for their number, 0xFF for all (R436). A request with the signature bit carries a nonce, and its answer is
signed over both. The raw bit asks for raw values where there are any, which are the only form of the device's. -/
def execGetMeasurements (q : MeasRequest) (s : State) : Out :=
  .next (s.spdmIf s.spdm.alg fun s =>
    let all := [1, 2, 3, 4].filterMap fun i => (s.measurement i).map fun v => (i, v)
    let req := spdmHead 0xE0 ((if q.sign then 1 else 0) + if q.raw then 2 else 0) q.idx ++ if q.sign then q.nonce else []
    let answer (m : List Byte) : State := s.spdmSay (m ++ if q.sign then Config.mldsaSign s.boot.seed (req ++ m) else [])
    let say (l : List (Nat × List Byte)) : State :=
      let b := l.flatMap fun x => measBlock x.1 x.2
      answer (spdmHead 0x60 0 0 ++ leBytes 1 l.length ++ leBytes 3 b.length ++ b ++ Config.spdmBytes 0xE0 ++ leBytes 2 0)
    if q.sign ∧ q.nonce.length ≠ 32 then s.spdmError 1
    else if q.idx = 0 then answer (spdmHead 0x60 all.length 0 ++ leBytes 1 0 ++ leBytes 3 0 ++ Config.spdmBytes 0xE0 ++ leBytes 2 0)
    else if q.idx = 0xFF then say all
    else match s.measurement q.idx with
      | some v => say [(q.idx, v)]
      | none => s.spdmError 1)

/-! ### Error counts, clocks, heat (R437, R439) -/

/-- A threshold that Lorso has not set: no count passes it. DESIGN CHOICE (log 2). -/
abbrev rasUnset : Nat := 2 ^ 32 - 1

/-- CORRECTED_ERROR (R437): no value changes; the count may pass its threshold. far names the line of the die's far cache in which an
uncorrectable error has been found: it is dropped, to be filled again (R248), and counts as corrected. -/
def execCorrectedError (die : Nat) (e : ErrorFound) (s : State) : Out :=
  let k := e.kind
  .next (if 4 < die ∨ 5 ≤ k then s
    else
      let s := match e.far with
        | some line => s.dropFar die fun l _ => l == line
        | none => s
      let n := min (mget 0 (s.die die).ras k + 1) (2 ^ 32 - 1)
      let t := s.modDie die fun x => { x with ras := mset 0 x.ras k n }
      if mget rasUnset (s.die die).rasThr k < n then
        (t.modDie die fun x => { x with rasEvt := x.rasEvt ||| 2 ^ k }).notify (.ras die k)
      else t)

/-- CLOCK_STEP_SET (R16, R439): one of the six steps, from 0, 2.25 GHz, to 5, 1.2 GHz. -/
def execClockStepSet (die step : Nat) (s : State) : Out :=
  .next (if 4 ≤ die ∨ 6 ≤ step ∨ s.boot.stage = 8 then s.refuse else s.modDie die fun x => { x with step := step })

/-- THERMAL_THROTTLE (R439): the die runs at 1.2 GHz while it is hot. -/
def execThermalThrottle (die : Nat) (s : State) : Out := .next (if 4 < die then s else s.modDie die fun x => { x with hot := true })

/-- THERMAL_RECOVER (R439). -/
def execThermalRecover (die : Nat) (s : State) : Out := .next (if 4 < die then s else s.modDie die fun x => { x with hot := false })

/-- THERMAL_TRIP (R432, R439): the trip is recorded with reason 8, counted if the start had reached READY, and the device is reset. -/
def execThermalTrip (die : Nat) (s : State) : Out :=
  .next (if 4 < die ∨ !s.boot.ran then s
    else
      let f := if s.boot.stage = 7 then s.flash.putCount (s.flash.copy.count + 1) else s.flash
      ({ s with flash := f.putReason 8 die } : State).start)

end Sys2Proof.Machine
end

