-- ==== Sys2Proof/Machine/Dispositions.lean ====
section
/-! DEFINITION. Dispositions of fault records, FDISP (R66, R210, R215, R274, R280, R316, R420, R422, R464). -/

namespace Sys2Proof.Machine

/-- The undisposed records of an area. -/
def State.records (s : State) : Area → List FaultHeld
  | .ctx c => (s.ctx c).faults
  | .dev => s.dev.faults

/-- The undisposed record of an area with a sequence number. -/
def State.recordAt (s : State) (a : Area) (seq : Nat) : Option FaultHeld := (s.records a).find? (·.recd.seq == seq)

/-- A record disposed of: its slot is free (R418). -/
def State.unrecord (s : State) (a : Area) (seq : Nat) : State :=
  match a with
  | .ctx c => s.modCtx c fun x => { x with faults := x.faults.filter (·.recd.seq != seq) }
  | .dev => { s with dev := { s.dev with faults := s.dev.faults.filter (·.recd.seq != seq) } }

/-- f run with bank b of a context in focus: a bank of the device, or one that is saved under key b, from 512 on. -/
def State.onHome (s : State) (c b : Nat) (f : State → State) : State :=
  if b < 512 then s.onBank b f
  else match (s.ctx c).saved.find? (·.key == b) with
    | none => s
    | some v =>
      let here := s.cur
      let t := f { s with parked := mset Bank.reset s.parked here s.bank, bank := v.bank, cur := b }
      let k := t.bank
      let u : State := { t with bank := mget Bank.reset t.parked here, cur := here, parked := mset Bank.reset t.parked here Bank.reset }
      u.modCtx c fun x => { x with saved := x.saved.map fun w => if w.key = b then { w with bank := k } else w }

/-- A store entry that a refusal holds (R340). -/
def SqEntry.isHeld (e : SqEntry) : Bool := match e.kind with
  | .store _ _ h => h
  | _ => false

/-- A faulted bank goes on from its recorded points; its held store entries ask for their sectors again first (R62, R66, R340, R422). -/
def State.resumeFaulted (s : State) (r : FaultRec) : State :=
  s.upd fun b =>
    { b with sq := b.sq.map (·.hold false), dist := if r.cause = cSAFEPOINT_DISTANCE then 0 else b.dist, issued := .done,
             run := if b.run ≠ .faulted then b.run else match b.swait with
               | .counter _ _ => .waiting
               | _ => .ready,
             reissue := b.reissue || b.sq.any (·.isHeld) }

/-- The failure value that a token receives from a record (R23, R215). -/
def FaultRec.value (r : FaultRec) : Word := failVal r.cause r.detail r.done

/-- A feed command that MRESUME can continue (R207, R210). -/
def MillCmd.suspends (c : MillCmd) (r : FaultRec) : Bool := c.isFeed && !(r.cause == cMEMORY_ERROR && r.detail == 2)

/-- A failed command of the bank in focus ends: a feed becomes suspended, a drain gives up its buffer; its status merges (R207 to R210). -/
def State.cmdResume (s : State) (c : MillCmd) (r : FaultRec) : State :=
  let m := s.millOf s.cur
  let s := match m.drain with
    | some (n, _) => if n = (s.cur, c.ord) then s.modMillOf s.cur fun m => { m with drain := none } else s
    | none => s
  let s := if c.suspends r then s.upd fun b => { b with susp := some { c with fail := (0, 0), recorded := false, stat := 0 }, prog := r.done } else s
  if s.cur < 512 then s.cmdEnd c r.value c.stat
  else (s.upd fun b => { b with cmds := b.cmds.filter (·.ord != c.ord),
                                mheld := b.mheld.map fun m => if m.drain.any (·.1.2 == c.ord) then { m with drain := none } else m,
                                ctl := { b.ctl with mstat := b.ctl.mstat ||| BitVec.ofNat 3 c.stat } }).completeTok s.cur c.kd c.ord false r.value

/-- A counter operation of the bank in focus is sent again: by a bank on its core at once, by a saved one once it is resumed (R218, R422). -/
def State.ctrRetry (s : State) (o : EngOp) (r : M State) : State :=
  if 512 ≤ s.cur then s.modOp s.cur o.ord fun o => { o with st := .queued }
  else match r with
    | .ok t => t
    | .error (.fault f) => s.opFinish o (failVal f.cause f.detail 0)
    | .error .stall => s.modOp s.cur o.ord fun o => { o with st := .queued }

/-- A failed operation of the bank in focus runs its item again; a counter add or a waiter is sent again (R215, R321, R322). -/
def State.opRetry (s : State) (o : EngOp) : State :=
  let s := s.modOp s.cur o.ord fun o => { o with st := .running, fail := (0, 0) }
  match o.instr with
  | .cxadd _ => s.ctrRetry o (s.startCxadd o)
  | .cwaite _ => s.ctrRetry o (s.startCwaite o)
  | _ => s

/-- The counter of a CADD that is sent again: a word is where its page now lies (R311, R316). -/
def State.addAgain (s : State) (a : CtrAdd) : CtrAdd :=
  match a.id, a.va with
  | .word _ _, some va => match s.leafOf a.ctx va with
    | some l => if l.pte.st = 1 then a else { a with id := .word a.ctx ((l.frame + (va / 65536 - l.vpn)) * 65536 + va % 65536) }
    | none => a
  | _, _ => a

/-- Resume or retry of what a record concerns (R255, R422): a token completes only when the writes of the items before have been acknowledged.
again is a retry. -/
def State.dispose (s : State) (c : Nat) (h : FaultHeld) (again : Bool) : State :=
  let r := h.recd
  match h.who with
  | .event | .doomed _ _ => s
  | .bank b => s.onHome c b fun s => s.resumeFaulted r
  | .op b ord => s.onHome c b fun s => match s.opOf s.cur ord with
    | some o =>
      if again then s.opRetry o
      else
        let t := s.opDoom o r.cause r.detail
        if t.unacked o.ord then t.modOp t.cur ord fun o => { o with st := .finished r.value } else t.opFinish o r.value
    | none => s
  | .stream b ord => s.onHome c b fun s => match s.bank.streams.find? (·.ord == ord) with
    | some t =>
      let s := if s.bank.run = .ending then s.upd fun b => { b with issued := .done } else s
      if again then s.setStrm { t with failed := false }
      else
        let t := { t with failed := false, fail := some (r.done, r.value) }
        if s.unacked t.ord then s.setStrm t else (s.setStrm t).strmTok t r.value
    | none => s
  | .cmd b ord => s.onHome c b fun s => match s.bank.cmds.find? (·.ord == ord) with
    | some m => if again then s.modCmd s.cur ord fun m => { m with fail := (0, 0), recorded := false } else s.cmdResume m r
    | none => s
  | .edge b => s.onHome c b fun s =>
    let s := s.upd fun k => { k with issued := .done }
    if again then s
    else match s.myKernel with
      | some x => match s.edgeRow x.hdr with
        | some (row, _, _, _) => s.setProbe row { s.probe row with dirty := false }
        | none => s
      | none => s
  | .add a =>
    if again then match a.src with
      | .cadd b _ => s.sendAdd (dieOf (b % 512)) c (s.addAgain a)
      | _ => s
    else s
  | .kernel c k => match s.kernel c k with
    | some x =>
      if x.kid k = r.kernel then
        s.modKernel c k fun x => { x with stop := none, depFrm := [0, 1, 2, 3].foldl (fun m d => mset none m (16 + d) none) x.depFrm }
      else s
    | none => s

/-- The kernel that a record names, FAULTED (R267, R422). -/
def State.killKernel (s : State) (c : Nat) (h : FaultHeld) : State :=
  let k := kslot h.recd.kernel
  let named : Bool := match h.who with
    | .event => decide (h.recd.source < 7)
    | _ => true
  match s.kernel c k with
  | some x => if named ∧ x.kid k = h.recd.kernel then s.finish c k .faulted h.recd.cause h.recd.detail else s
  | none => s

/-- A disposition of a record of an area; a device record takes only resume, and a record that is not there is refused (R16, R420,
R422). -/
def State.fdisp (s : State) (a : Area) (seq : Nat) (resume : Bool) (f : Nat → FaultHeld → State → State) : State :=
  match s.recordAt a seq with
  | none => s.refuse
  | some h => match a with
    | .dev => if resume then s.unrecord a seq else s.refuse
    | .ctx c => State.settleHost (f c h (s.unrecord a seq))

/-- FDISP_RESUME (R422). -/
def execFdispResume (a : Area) (seq : Nat) (s : State) : Out := .next (s.fdisp a seq true fun c h s => s.dispose c h false)

/-- FDISP_RETRY (R422): for a bank, dispatch, a weir, the Sheepdog and a link, as resume. -/
def execFdispRetry (a : Area) (seq : Nat) (s : State) : Out := .next (s.fdisp a seq false fun c h s => s.dispose c h true)

/-- FDISP_TERMINATE_KERNEL (R267, R282, R422). -/
def execFdispTerminateKernel (a : Area) (seq : Nat) (s : State) : Out := .next (s.fdisp a seq false fun c h s => s.killKernel c h)

/-- FDISP_TERMINATE_CONTEXT (R409, R422). -/
def execFdispTerminateContext (a : Area) (seq : Nat) (s : State) : Out :=
  .next (s.fdisp a seq false fun c _ s => s.terminateCtx c)

end Sys2Proof.Machine
end

