-- ==== Sys2Proof/Machine/HostEvents.lean ====
section
/-! DEFINITION. What the host does through its windows and to device memory: counter adds and reads, writes and reads (R259, R324,
R341, R375). -/

namespace Sys2Proof.Machine

/-- PCIe functions: one physical and 16 virtual (R375). -/
abbrev functions : Nat := 17

/-- HCA_ADD (R259, R324): a write to HCA.ADD adds to HCA.ID's counter once every posted write sent before it has performed. -/
def execHcaAdd (fn : Nat) (v : Word) (s : State) : Out :=
  .next (if functions ≤ fn then s
    else
      let w := (s.fn fn).hcaId
      State.settleHost ((s.modFn fn fun f => { f with hcaAmt := v }).hostPost fn (w.toNat, [], some v)))

/-- HCA_VAL (R324): a relaxed read of HCA.ID's counter. -/
def execHcaVal (fn : Nat) (s : State) : Out := .next (if functions ≤ fn then s else s.hostRead fn none)

/-- The bytes lie within expanded memory (R46). -/
def inMemory (addr len : Nat) : Bool := decide (addr + len ≤ 2 ^ 48)

/-- HOST_WRITE (R259, R341, R375): a posted write of a function arrives; it performs at its home after those before it, or is held. -/
def execHostWrite (fn addr : Nat) (data : List Byte) (s : State) : Out :=
  .next (if functions ≤ fn ∨ !inMemory addr data.length then s
    else State.settleHost (s.hostPost fn (addr, data, none)))

/-- HOST_READ (R246, R259): the home values, which the host receives; a line under prepare-hold is waited for, and one with an
uncorrectable error answers nothing but its fault. What waits is kept in HostFn.reads. -/
def execHostRead (fn addr len : Nat) (s : State) : Out :=
  .next (if functions ≤ fn ∨ !inMemory addr len then s
    else s.hostRead fn (some (addr, len)))

end Sys2Proof.Machine
end

