-- ==== Sys2Proof/Machine/Places.lean ====
section
/-! DEFINITION. Place builders, XLOOK and WIDF (R112 to R116, R287). -/

namespace Sys2Proof.Machine

/-- PLX (R112). -/
def execPlx (o : SrOp) (s : State) : Out :=
  scalar s [o.xa, o.xb] o.xd (do
    let off := (s.rx o.xa).toNat + (s.rx o.xb).toNat
    legal (off < 2 ^ 57)
    pure (Place.ext o.fn.toNat off).word)

/-- The handle, row and column operands of PLT; nonzero bits above them are ILLEGAL_OPERAND (R113). -/
def pltArgs (a b : Word) : M (Nat × Nat × Nat) := do
  legal (a.toNat < 2 ^ 8 && b.toNat < 2 ^ 32)
  pure (a.toNat, b.toNat / 2 ^ 16, b.toNat % 2 ^ 16)

/-- PLT, own-tile form (R113). -/
def execPlt (o : SrOp) (s : State) : Out :=
  scalar s [o.xa, o.xb] o.xd (do
    let (h, r, c) ← pltArgs (s.rx o.xa) (s.rx o.xb)
    pure (Place.own h r c).word)

/-- PLT, peer form (R113): fn is 0x20 + core. -/
def execPltPeer (o : SrOp) (s : State) : Out :=
  scalar s [o.xa, o.xb] o.xd (do
    let (h, r, c) ← pltArgs (s.rx o.xa) (s.rx o.xb)
    pure (Place.peer (o.fn.toNat % 16) h r c).word)

/-- PLR (R114). -/
def execPlr (o : SrOp) (s : State) : Out :=
  scalar s [o.xa, o.xb] o.xd (do
    let n := (s.rx o.xa).toNat
    let off := (s.rx o.xb).toNat
    legal (n < 2 ^ 13 && off < 2 ^ 44)
    pure (Place.remote n o.fn.toNat off).word)

/-- A place moved by a signed displacement (R115); none is ILLEGAL_OPERAND. -/
def padd (p : Place) (b : Word) : Option Place :=
  let d := b.toInt
  let dr := (b.extractLsb' 32 32).toInt
  let dc := (b.extractLsb' 0 32).toInt
  let inside (x : Int) (n : Nat) : Bool := decide (0 ≤ x ∧ x < 2 ^ n)
  match p with
  | .ext n off => if inside (off + d) 57 then some (.ext n (off + d).toNat) else none
  | .remote n w off => if inside (off + d) 44 then some (.remote n w (off + d).toNat) else none
  | .own h r c => if inside (r + dr) 16 && inside (c + dc) 16 then some (.own h (r + dr).toNat (c + dc).toNat) else none
  | .peer k h r c =>
    if inside (r + dr) 16 && inside (c + dc) 16 then some (.peer k h (r + dr).toNat (c + dc).toNat) else none
  | .ctr _ _ _ => none

/-- PADD (R115). -/
def execPadd (o : SrOp) (s : State) : Out :=
  scalar s [o.xa, o.xb] o.xd (match (placeOf (s.rx o.xa)).bind fun p => padd p (s.rx o.xb) with
    | some p => .ok p.word
    | none => illegal)

/-- The extents that hold an address, lowest first (R116). -/
def State.xlook (s : State) (a : Word) (w : Bool) : M Word :=
  if !canonical a then raiseAt cNONCANONICAL 0 a
  else
    match (List.range 16).find? fun n =>
      let e := s.ext n
      e.len != 0 && e.base.sle a && decide ((a - e.base).toNat < e.len.toNat) && (!w || bitAt e.flags 1) with
    | some n => .ok (BitVec.ofNat 64 (n * 2 ^ 57) + (a - (s.ext n).base))
    | none => raiseAt cUNDECLARED_ACCESS 0 a

/-- XLOOK (R116). -/
def execXlook (o : SrOp) (s : State) : Out := scalar s [o.xa] o.xd (s.xlook (s.rx o.xa) false)

/-- XLOOK.W (R116): only extents that permit writes. -/
def execXlookW (o : SrOp) (s : State) : Out := scalar s [o.xa] o.xd (s.xlook (s.rx o.xa) true)

/-- Field f of a work ID (R269, R287). -/
def widField (widths : List Nat) (f w : Nat) : Nat :=
  (w >>> ((widths.drop (f + 1)).foldl (· + ·) 0)) % 2 ^ (widths[f]?.getD 0)

/-- WIDF (R287). -/
def execWidf (o : SiOp) (s : State) : Out :=
  scalar s [o.xa] o.xd (do
    legal (o.imm.toNat < 6)
    let ws := match s.myKernel with
      | some k => k.hdr.widths
      | none => []
    pure (BitVec.ofNat 64 (widField ws o.imm.toNat (s.rx o.xa).toNat)))

end Sys2Proof.Machine
end

