-- ==== Sys2Proof/Machine/Pred.lean ====
section
/-! DEFINITION. Predicate operations (R170). -/

namespace Sys2Proof.Machine

/-- A predicate of two sources. -/
def plogic (o : VrOp) (s : State) (g : PBits → PBits → PBits) : Out :=
  run s (do
    let a ← s.pget (predOf o.va)
    let b ← s.pget (predOf o.vb)
    pure (s.pset (predOf o.vd) (g a b)))

/-- PAND (R170). -/
def execPand (o : VrOp) (s : State) : Out := plogic o s fun a b => a &&& b

/-- POR (R170). -/
def execPor (o : VrOp) (s : State) : Out := plogic o s fun a b => a ||| b

/-- PXOR (R170). -/
def execPxor (o : VrOp) (s : State) : Out := plogic o s fun a b => a ^^^ b

/-- PNOT (R170). -/
def execPnot (o : VrOp) (s : State) : Out :=
  run s (do
    let a ← s.pget (predOf o.va)
    pure (s.pset (predOf o.vd) (~~~a)))

/-- PMOV (R170). -/
def execPmov (o : VrOp) (s : State) : Out :=
  run s (do
    let a ← s.pget (predOf o.va)
    pure (s.pset (predOf o.vd) a))

/-- The elements of a format that a predicate governs true, as numbers. -/
def setElems (f : Nat) (p : PBits) : List Nat :=
  let w := (fmtBits f).getD 8
  (List.range (2048 / w)).filter fun i => governs p 0 i w

/-- A predicate of whole elements of a format. -/
def State.pelems (s : State) (vd : VFld) (f : Nat) (g : Nat → Bool) : State :=
  let w := (fmtBits f).getD 8
  s.pset (predOf vd) (predOfElems w (2048 / w) g)

/-- PCNT (R170): as many elements from 0 as pa governs. -/
def execPcnt (o : VrOp) (s : State) : Out :=
  run s (do
    legal (sizedFmt o.fmt.toNat)
    let a ← s.pget (predOf o.va)
    let c := (setElems o.fmt.toNat a).length
    pure (s.pelems o.vd o.fmt.toNat fun i => i < c))

/-- PFIRST (R170): the lowest element that pa governs. -/
def execPfirst (o : VrOp) (s : State) : Out :=
  run s (do
    legal (sizedFmt o.fmt.toNat)
    let a ← s.pget (predOf o.va)
    let c := (setElems o.fmt.toNat a).head?
    pure (s.pelems o.vd o.fmt.toNat fun i => c == some i))

/-- PSET (R170): sat/mode 01 clears every bit. -/
def execPset (o : VrOp) (s : State) : Out :=
  run s (do
    legal (o.sm.toNat < 2)
    if o.sm = 1 then pure (s.pset (predOf o.vd) 0)
    else do
      legal (sizedFmt o.fmt.toNat)
      pure (s.pelems o.vd o.fmt.toNat fun i => i ≤ o.fn.toNat))

end Sys2Proof.Machine
end

