-- ==== Sys2Proof/Machine/Registers.lean ====
section
/-! DEFINITION. Writes of the management and window registers that have no row of their own (R7, R16, R43, R295, R297 to R299, R306, R324,
R337, R347, R362, R374, R376, R378, R389, R401, R406, R407, R420, R424 to R426, R429, R437). -/

namespace Sys2Proof.Machine

/-- A write that its register allows, or one that is refused (R16). -/
def State.writeIf (s : State) (ok : Bool) (t : State) : State := if ok then t else s.refuse

/-- A value of a range. -/
def inRange (v : Word) (lo hi : Nat) : Bool := decide (lo ≤ v.toNat ∧ v.toNat ≤ hi)

/-! ### Contexts, windows, the dirty log -/

/-- A context exists, that is, is neither FREE nor DESTROYED. -/
def State.ctxLive (s : State) (c : Nat) : Bool := c < maxContexts && (s.ctx c).st != .free && (s.ctx c).st != .destroyed

/-- A register of R406 may be written: the context is CREATED, RUNNABLE or PREEMPTED. -/
def State.ctxOpen (s : State) (c : Nat) : Bool :=
  c < maxContexts && ((s.ctx c).st == .created || (s.ctx c).st == .runnable || (s.ctx c).st == .preempted)

/-- A write to a register of a context (R347, R378, R406). -/
def State.writeCtx (s : State) (r : MReg) (v : Word) : State :=
  match r with
  | .ctxRoot c => s.writeIf (s.ctxOpen c && rootOk v) (s.modCtx c fun x => { x with root := v, wrote := x.wrote ||| 1 })
  | .ctxSize c => s.writeIf (s.ctxOpen c && v.toNat ≤ 4) (s.modCtx c fun x => { x with size := v, wrote := x.wrote ||| 2 })
  | .ctxFa c => s.writeIf (s.ctxOpen c && faOk v) (s.modCtx c fun x => { x with fa := v, wrote := x.wrote ||| 4 })
  | .ctxDom c => s.writeIf (s.ctxOpen c && only v 15 0) (s.modCtx c fun x => { x with dom := v.toNat })
  | .ctxAlias c => s.writeIf (s.ctxOpen c && only v 10 0) (s.modCtx c fun x => { x with aliasNo := v.toNat })
  | .winB c n => s.writeIf (s.ctxLive c && n < 16 && canonical v)
      (s.modCtx c fun x => { x with wins := mmod Window.closed x.wins n fun w => { w with base := v } })
  | .winF c n => s.writeIf (s.ctxLive c && n < 16 && only v 1 0)
      (s.modCtx c fun x => { x with wins := mmod Window.closed x.wins n fun w => { w with r := bitAt v.toNat 0, w := bitAt v.toNat 1 } })
  | .dlogBase c => s.writeIf (s.ctxLive c && only v 47 6) (s.modCtx c fun x => { x with dlogBase := v })
  | .dlogCap c => s.writeIf (s.ctxLive c && inRange v 1 (2 ^ 24)) (s.modCtx c fun x => { x with dlogCap := v.toNat })
  | .dlogHead c => s.writeIf (s.ctxLive c && only v 24 0) (s.modCtx c fun x => { x with dlogHead := v.toNat })
  | .dlogCtl c => s.writeIf (s.ctxLive c && only v 1 0)
      (s.modCtx c fun x => { x with dlogOn := bitAt v.toNat 0, dlogOvf := x.dlogOvf && !bitAt v.toNat 1 })
  | _ => s.noRow

/-! ### Memory and its controllers -/

/-- No context exists. -/
def State.noContexts (s : State) : Bool := s.ctxs.all fun x => x.2.st == .free

/-- The rows of a redirected bank that stand in its park area (R429): from the first to before the last. -/
def MemTest.parked (t : MemTest) (bank : Nat) : Nat × Nat :=
  if t.bits ≠ bank then (0, 65536) else if t.st = 1 then (0, t.row) else if t.st = 3 then (t.row, 65536) else (0, 65536)

/-- A region of a die holds a granted sector or a parked row (R426). -/
def State.regionHeld (s : State) (d r : Nat) : Bool :=
  (s.blocksOn d).any (fun b =>
    let e := mget BlockEnt.zero s.blocks b
    e.count != 0 && e.sector / 2 ^ 24 == r) ||
  (s.die d).redir.any fun x =>
    let (lo, hi) := (s.die d).test.parked x.1
    lo < hi && (x.2 + lo * 1024) / 2 ^ 30 ≤ r && r ≤ (x.2 + hi * 1024 - 1) / 2 ^ 30

/-- Sectors taken out of the runs that hold them (R337). -/
def dropRun (first n : Nat) : List (Nat × Nat) → Option (List (Nat × Nat))
  | [] => none
  | (a, l) :: rs =>
    if a ≤ first ∧ first + n ≤ a + l then
      some ((if a < first then [(a, first - a)] else []) ++ (if first + n < a + l then [(first + n, a + l - (first + n))] else []) ++ rs)
    else (dropRun first n rs).map fun x => (a, l) :: x

/-- A write to a register of a compression or memory controller, or of an error count (R337, R424 to R426, R429, R437). -/
def State.writeMem (s : State) (r : MReg) (v : Word) : State :=
  let cmp (d : Nat) (f : Cmp → Cmp) : State := s.modDie d fun x => { x with cmp := f x.cmp }
  match r with
  | .cmpResamp d => s.writeIf (d < 4 && only v 15 0) (cmp d fun c => { c with resamp := v.toNat, sampAt := s.cycle })
  | .cmpBln d => s.writeIf (d < 4 && v.toNat % 8 == 0) (cmp d fun c => { c with bln := v })
  | .cmpEvt d => s.writeIf (d < 4 && only v 2 0) (cmp d fun c => { c with evt := c.evt &&& ~~~(BitVec.ofNat 3 v.toNat) })
  | .memHome b => s.writeIf (s.noContexts && b < 2 && v != 0 && only v 47 9) { s with homeM := mset 0 s.homeM b v }
  | .memHmask d p n =>
    let others := (List.range 11).filter (· != n)
    s.writeIf (d < 4 && p < 2 && n < 11 && only v 36 6 && v.getLsbD (6 + n) && others.all (fun k => !v.getLsbD (6 + k)) &&
        (List.range 128).all fun g => mget false (s.die d).rgn g != (p == 1))
      (s.modDie d fun x => { x with hmask := mset 0 x.hmask (16 * p + n) v })
  | .memRgn d g => s.writeIf (d < 4 && g < 128 && only v 0 0 && !s.regionHeld d g)
      (s.modDie d fun x => { x with rgn := mset false x.rgn g (v != 0) })
  | .memPark d => s.writeIf (d < 4 && only v 36 6) (s.modDie d fun x => { x with park := v })
  | .memTestDone d => s.writeIf (d < 4 && only v 15 0 && !v.getLsbD 11)
      (s.modDie d fun x => { x with test :=
        let t := { x.test with done := x.test.done && !v.getLsbD 15 }
        if t.st = 0 then { t with unit := bitsOf v.toNat 6 0, bank := bitsOf v.toNat 10 7 } else t })
  | .rasEvt d => s.writeIf (d < 5 && only v 4 0)
      (s.modDie d fun x => { x with rasEvt := (BitVec.ofNat 5 x.rasEvt &&& ~~~(BitVec.ofNat 5 v.toNat)).toNat })
  | .rasThr d k => s.writeIf (d < 5 && k < 5 && only v 31 0) (s.modDie d fun x => { x with rasThr := mset rasUnset x.rasThr k v.toNat })
  | .keepSectors d first => match dropRun first v.toNat (s.die d).cmp.runs with
    | some rs => s.writeIf (d < 4 && s.boot.stage < 7) (cmp d fun c => { c with runs := rs, free := c.free - v.toNat })
    | none => s.refuse
  | _ => s.noRow

/-! ### The device, links, routes, functions -/

/-- The links of a port set: bit n stands for link 16 + n. DESIGN CHOICE (log 41). -/
def portSet (n : Nat) : List Nat := (List.range 20).filterMap fun i => if bitAt n i then some (16 + i) else none

/-- A route entry written: its device is reached again through it, and packets held go out (R376, R383). -/
def State.routed (s : State) (entry : Nat) : State :=
  ({ s with gate := { s.gate with dead := s.gate.dead.filter (· != entry) } } : State).postHeld

/-- A write to a register of the device, of a link, of the gateway, or of a function (R43, R295, R297 to R299, R306, R324, R362, R374, R376, R389,
R401, R420). The exposed physical space is written while no context exists, as a nonzero multiple of 64 KiB up to 1 TiB: DESIGN CHOICE (log 60). -/
def State.writeDev (s : State) (r : MReg) (v : Word) : State :=
  let n := v.toNat
  match r with
  | .devFa => s.writeIf (s.dev.faults == [] && faOk v) { s with dev := { s.dev with fa := v } }
  | .lnkEvt l => s.writeIf (only v 17 0) (s.modLink l fun k => { k with evt := k.evt &&& ~~~v })
  | .lnkRkdl l => s.writeIf (inRange v 10 10000) (s.modLink l fun k => { k with rkdl := n })
  | .colTmo => s.writeIf (inRange v 100 100000) { s with colTmo := n }
  | .cgTmax => s.writeIf (inRange v 100 10000 && s.cgDef ≤ n) { s with cgTmax := n }
  | .cgDefault => s.writeIf (inRange v 10 s.cgTmax) { s with cgDef := n }
  | .agingInterval => s.writeIf (inRange v (2 ^ 12) (2 ^ 24)) { s with aging := n }
  | .preemptMargin => s.writeIf (n ≤ 7) { s with margin := n }
  | .waitLimit => s.writeIf (inRange v (2 ^ 16) (2 ^ 30)) { s with waitLim := n }
  | .ethType => s.writeIf (only v 15 0) { s with ethType := n }
  | .exposedSpace => s.writeIf (s.noContexts && 0 < n && n ≤ 2 ^ 40 && n % 65536 == 0) { s with space := n }
  | .fabricNumber => s.writeIf (only v 10 0 && s.noContexts) { s with fabric := n }
  | .ctrLog c d => s.writeIf (c < maxContexts && d < 4 && inRange v 12 24 && (s.ctx c).ctrs.all fun e => keyDie e.1 != d)
      (s.modDie d fun x => { x with ctrLog := mset 12 x.ctrLog c n })
  | .route dev => s.writeIf (dev < 2048 && only v 19 0)
      (({ s with gate := { s.gate with routes := mset [] s.gate.routes dev (portSet n) } } : State).routed dev)
  | .routeOverride dom dev =>
    let key := dom * 2048 + dev
    let phys := bitsOf n 42 32
    s.writeIf (dom < 2 ^ 16 && dev < 2048 && n / 2 ^ 43 == 0 && bitsOf n 31 20 == 0 &&
        (n == 0 || s.gate.overs.length < 256 || (mget none s.gate.overs key).isSome))
      (({ s with gate := { s.gate with overs := mset none s.gate.overs key (if n = 0 then none else some (phys, portSet n)) } } : State).routed
        (2048 + key))
  | .hlwAddr f => s.writeIf (f < functions) (s.modFn f fun x => { x with addr := v })
  | .hlwStat f => s.writeIf (f < functions && only v 1 0) (s.modFn f fun x => { x with ovr := x.ovr && !bitAt n 1 })
  | .hlwBind f => s.writeIf (f < functions && n ≤ maxContexts) (s.modFn f fun x => { x with bound := if n = 0 then none else some (n - 1) })
  | .hcaId f => s.writeIf (f < functions) (s.modFn f fun x => { x with hcaId := v })
  | _ => s.noRow

/-- REGISTER_WRITE (R7, R16): a register whose fields are all RO refuses every write with ILLEGAL_OPERAND. In minimal mode no register is
written (R433). -/
def execRegisterWrite (r : MReg) (v : Word) (s : State) : Out :=
  .next (if s.boot.stage = 8 then s.refuse else match r with
    | .cmpFree _ | .cmpGen _ | .ctxFhead _ | .devFhead | .lnkStat _ | .lnkIvc _ _ | .memRswp _ | .hlwResult _ | .hcaStat _ |
      .hcaVal _ | .bootstat => s.noRow
    | .ctxRoot _ | .ctxSize _ | .ctxFa _ | .ctxDom _ | .ctxAlias _ | .winB _ _ | .winF _ _ | .dlogBase _ | .dlogCap _ | .dlogHead _ |
      .dlogCtl _ => s.writeCtx r v
    | .cmpResamp _ | .cmpBln _ | .cmpEvt _ | .memHome _ | .memHmask _ _ _ | .memRgn _ _ | .memPark _ | .memTestDone _ | .rasEvt _ |
      .rasThr _ _ | .keepSectors _ _ => s.writeMem r v
    | .devFa | .lnkEvt _ | .lnkRkdl _ | .colTmo | .cgTmax | .cgDefault | .agingInterval | .preemptMargin | .waitLimit | .ethType |
      .fabricNumber | .exposedSpace | .ctrLog _ _ | .route _ | .routeOverride _ _ | .hlwAddr _ | .hlwStat _ | .hlwBind _ | .hcaId _ => s.writeDev r v)

end Sys2Proof.Machine
end

