-- ==== Sys2Proof/Machine/SortList.lean ====
section
/-! DEFINITION. The sorted list unit and VHIST (R171 to R176). -/

namespace Sys2Proof.Machine

/-- The formats of a list (R171). -/
def listFmt (f : Nat) : Bool := isFp3 f || f == tI16 || f == tN16 || f == tI32 || f == tN32

/-- Element bits of a list format. -/
abbrev listBits (f : Nat) : Nat := (fmtBits f).getD 32

/-- x is strictly below y in the order of R172: −0 below +0. -/
def listBelow (f x y : Nat) : Bool :=
  if isFp f then fvBelow (fpDecode (fpFmt f) x) (fpDecode (fpFmt f) y)
  else if isSigned f then decide (toSigned x (listBits f) < toSigned y (listBits f))
  else decide (x < y)

/-- Entry a precedes entry b, which was inserted before it (R172). -/
def listBefore (f : Nat) (smallest : Bool) (a b : LsEntry) : Bool :=
  if a.bits = b.bits then decide (a.idx < b.idx)
  else if smallest then listBelow f a.bits b.bits else listBelow f b.bits a.bits

/-- An entry put at its place in list order. -/
def listInsert (f : Nat) (smallest : Bool) (a : LsEntry) : List LsEntry → List LsEntry
  | [] => [a]
  | b :: bs => if listBefore f smallest a b then a :: b :: bs else b :: listInsert f smallest a bs

/-- The sorted list unit replaced. -/
def State.setList (s : State) (l : SList) : State := s.upd fun b => { b with slist := l }

/-- LS.NANCNT changed. -/
def State.setNan (s : State) (f : Word → Word) : State :=
  s.upd fun b => { b with ctl := { b.ctl with nancnt := f b.ctl.nancnt } }

/-- LSCLR (R173). -/
def execLsclr (o : VrOp) (s : State) : Out :=
  run s (do
    legal (listFmt o.fmt.toNat && o.sm.toNat < 2)
    pure ((s.setList { cap := o.fn.toNat + 1, fmt := o.fmt.toNat, smallest := o.sm == 1, entries := [] }).setNan fun _ => 0))

/-- One element offered to the list: a NaN is counted (R174). -/
def lsOffer (l : SList) (r : List LsEntry × Nat) (x : LsEntry) : List LsEntry × Nat :=
  if isFp l.fmt && fvNan (fpDecode (fpFmt l.fmt) x.bits) then (r.1, r.2 + 1)
  else ((listInsert l.fmt l.smallest x r.1).take l.cap, r.2)

/-- LSINS (R174). -/
def execLsins (o : VrOp) (s : State) : Out :=
  run s (do
    let slot := vslot o.sl
    let l := s.bank.slist
    let f := o.fmt.toNat
    legal (l.cap != 0 && f == l.fmt)
    let w := listBits f
    let takes ← s.vmask (o.fn == 1) o.vc
    let (v, s) ← s.vtagged slot o.va f
    let (is, s) ← s.vtaggeds slot o.vb (if w = 16 then 2 else 1) tIDX
    let idx := is.flatMap fun i => elems i.bits.toNat 32 64
    let xs := ((elems v.bits.toNat w (2048 / w)).zip idx).zipIdx.filter fun x => takes x.2 w
    let (es, nans) := xs.foldl (fun r x => lsOffer l r ⟨x.1.1, x.1.2⟩) (l.entries, 0)
    pure ((s.setList { l with entries := es }).setNan (· + BitVec.ofNat 64 nans)))

/-- LSRD (R175): fn bit 0 reads indices, bits 4..1 name the part. -/
def execLsrd (o : VrOp) (s : State) : Out :=
  run s (do
    let l := s.bank.slist
    legal (l.cap != 0)
    let idx := bitAt o.fn.toNat 0
    let w := if idx then 32 else listBits l.fmt
    let n := 2048 / w
    let p := o.fn.toNat / 2 % 16
    legal (p * n < 256)
    let fill := if idx then 0xFFFFFFFF else if isFp l.fmt then (fpFmt l.fmt).nan else 0
    let xs := (List.range n).map fun i => match l.entries[p * n + i]? with
      | some e => if idx then e.idx else e.bits
      | none => fill
    s.vdst (vslot o.sl) o.vd ⟨BitVec.ofNat 2048 (packed w xs), if idx then tIDX else l.fmt⟩)

/-- The 64 bins of VHIST (R176): the digit of d bits at shift sh of each key counted. -/
def histBins (sh d : Nat) (h : List Nat) (keys : List Nat) : List Nat :=
  let digits := keys.map fun x => (x >>> sh) % 2 ^ d
  h.zipIdx.map fun b => (b.1 + digits.count b.2) % 2 ^ 32

/-- VHIST (R176): sat/mode bit 0 masks, bit 1 accumulates; a stream cannot be both read and written (R30). -/
def execVhist (o : VrOp) (s : State) : Out :=
  run s (do
    let slot := vslot o.sl
    let f := o.fmt.toNat
    let w := (fmtBits f).getD 8
    legal (isInt f && !isSigned f && o.fn.toNat % 64 < w)
    let takes ← s.vmask (bitAt o.sm.toNat 0) o.vc
    let (v, s) ← s.vtagged slot o.va f
    let (h, s) ← if bitAt o.sm.toNat 1 then do
        legal (!isStream o.vd)
        let (old, s) ← s.vold slot o.vd
        need (old.tag == tN32) cFORMAT_MISMATCH 0
        pure (elems old.bits.toNat 32 64, s)
      else pure (List.replicate 64 0, s)
    let keys := ((elems v.bits.toNat w (2048 / w)).zipIdx.filter fun x => takes x.2 w).map (·.1)
    s.vdst slot o.vd ⟨BitVec.ofNat 2048 (packed 32 (histBins (o.fn.toNat % 64) (6 - o.fn.toNat / 64) h keys)), tN32⟩)

end Sys2Proof.Machine
end

