-- ==== Sys2Proof/Machine/VecMem.lean ====
section
/-! DEFINITION. Vector memory access: tiles, extents, gathers and scatters, the kennel (R164 to R169). -/

namespace Sys2Proof.Machine

/-! ### Units (R164) -/

/-- The element bits of a memory format: PLANE and mantissa widths that no register pair holds are ILLEGAL_OPERAND. -/
def State.memFmt (s : State) (slot f : Nat) : M Nat := do
  legal (f < 0x12 && f != tPLANE)
  if f = tBFP then s.pairWidth slot else pure (fmtWidth f (s.efr slot))

/-- Registers of a unit. -/
def unitRegs (f : Nat) : Nat := if f = tBFP then 2 else 1

/-- Bytes of a unit in memory. -/
def unitBytes (f w : Nat) : Nat := if f = tBFP then 64 / w * bfpBytes w else (2048 / w * w + 7) / 8

/-- The memory form of a unit's registers: blocks of an exponent and 32 mantissas for BFP (R99). -/
def unitOf (f w : Nat) (vs : List VReg) : Nat :=
  let a := (vs[0]?.getD VReg.zero).bits.toNat
  let b := (vs[1]?.getD VReg.zero).bits.toNat
  if f = tBFP then
    packed (8 * bfpBytes w) ((List.range (64 / w)).map fun j => fieldAt b j 8 + (fieldAt a j (32 * w)) <<< 8)
  else a % 2 ^ (2048 / w * w)

/-- The registers of a unit read from memory, tagged f. -/
def regsOf (f w u : Nat) : List VReg :=
  if f = tBFP then
    let bs := (List.range (64 / w)).map fun j => fieldAt u j (8 * bfpBytes w)
    [⟨BitVec.ofNat 2048 (packed (32 * w) (bs.map (· >>> 8))), f⟩, ⟨BitVec.ofNat 2048 (packed 8 bs), f⟩]
  else [⟨BitVec.ofNat 2048 (u % 2 ^ (2048 / w * w)), f⟩]

/-- The memory bits of a unit that a guard lets a store write (R71, R164): bits of elements only. The spare bits of a PACKED unit's
last byte are left as they are in memory: DESIGN CHOICE (log 69) for an extent, which R164 leaves open. -/
def unitMask (f w : Nat) (g : Option (PBits × BitVec 1)) : Nat :=
  match g with
  | none => if f = tBFP then 2 ^ (8 * unitBytes f w) - 1 else 2 ^ (2048 / w * w) - 1
  | some (p, pol) =>
    if f = tBFP then
      packed (8 * bfpBytes w) ((List.range (64 / w)).map fun j =>
        if p.getLsbD j != (pol == 1) then 2 ^ (8 * bfpBytes w) - 1 else 0)
    else packed w ((List.range (2048 / w)).map fun i => if governs p pol i w then 2 ^ w - 1 else 0)

/-- The guard of a store: none, or a predicate with its polarity (R71). -/
def State.vguard (s : State) (guard : BitVec 2) (pg : BitVec 6) (pol : BitVec 1) : M (Option (PBits × BitVec 1)) :=
  if guard = 0 then .ok none
  else if guard = 2 then illegal
  else do
    let p ← s.pget pg
    pure (some (p, pol))

/-- The registers of count units, an even first one and an even count for BFP (R164). -/
def State.vunits (s : State) (slot : Nat) (v : VFld) (f cnt : Nat) : M Unit :=
  legal (f != tBFP || (s.vnumber slot v % 2 == 0 && cnt % 2 == 0))

/-- Units of a register list. -/
def chunks (k : Nat) : Nat → List VReg → List (List VReg)
  | 0, _ => []
  | n + 1, vs => vs.take k :: chunks k n (vs.drop k)

/-! ### Tiles (R165) -/

/-- A race locked by a stream is barred to every other use (R224, R231). -/
def unlocked (t : Tile) : M Unit := if t.lock.isSome then tileFault 7 else .ok ()

/-- Where the units of a tile access start: the tile's handle and shape, the bit position in the row, the first row. -/
structure TilePos where
  h    : Nat
  tile : Tile
  sh   : Shape
  bit  : Nat
  row  : Nat

/-- The checks of a tile access of n units at a place (R39, R55, R117, R165). A race that a stream has locked is barred (R224, R231);
a stepped place must itself lie in the tile, before off12 is added (R54, R55, R164). -/
def State.tilePos (s : State) (slot : Nat) (xp : Word) (off : Int) (f w n : Nat) : M TilePos :=
  match placeOf xp with
  | some (.own h row col) =>
    match s.tile h with
    | none => tileFault 4
    | some t => do
      let sh := shapeRaw t.shape
      unlocked t
      need (f == tRAW || (f == sh.fmt && ((f != tPACKED && f != tBFP) || w == sh.width))) cFORMAT_MISMATCH 0
      sh.stepped (s.adv slot) row col
      let c : Int := col + (s.adv slot).off + off
      let r : Int := row + (s.adv slot).row
      if !decide (0 ≤ c ∧ c < sh.cols ∧ 0 ≤ r ∧ r + n ≤ sh.rows) then tileFault 5
      legal (sh.fmt != tBFP || c % 32 == 0)
      pure ⟨h, t, sh, sh.colBit c.toNat, r.toNat⟩
  | _ => illegal

/-- The first bit of unit j's row. -/
def TilePos.base (p : TilePos) (j : Nat) : Nat := (p.row + j) * p.sh.pitch * 8 + p.bit

/-- VLD (R165). -/
def execVld (o : VmOp) (s : State) : Out :=
  run s (do
    let slot := vslot o.sl
    let f := o.fmt.toNat
    let w ← s.memFmt slot f
    let cnt := o.cnt.toNat + 1
    s.vunits slot o.v f cnt
    let xp ← s.scap slot o.xp
    atPlace xp (do
      let n := cnt / unitRegs f
      let p ← s.tilePos slot xp o.off.toInt f w n
      let mask := p.sh.liveMask p.bit (8 * unitBytes f w)
      let us ← (List.range n).mapM fun j => s.loadTile p.h p.tile (p.base j) (Nat.log2 mask + 1)
      s.vdsts slot o.v (us.flatMap fun u => regsOf f w (u &&& mask))))

/-- VST (R165). The registers of a BFP pair may differ in tag, which the stores accept: DESIGN CHOICE (log 71), as for VSTE and
VSTM; R84 says both that these operations accept every tag and that such a pair is FORMAT_MISMATCH. -/
def execVst (o : VmOp) (s : State) : Out :=
  run s (do
    let slot := vslot o.sl
    let f := o.fmt.toNat
    let w ← s.memFmt slot f
    let cnt := o.cnt.toNat + 1
    s.vunits slot o.v f cnt
    let g ← s.vguard o.guard o.pg o.pol
    let xp ← s.scap slot o.xp
    let (vs, s) ← s.vsrcs slot o.v cnt
    if unitMask f w g = 0 then pure s
    else atPlace xp (do
      let n := cnt / unitRegs f
      let p ← s.tilePos slot xp o.off.toInt f w n
      let mask := p.sh.liveMask p.bit (8 * unitBytes f w) &&& unitMask f w g
      let ws := if mask = 0 then [] else (chunks (unitRegs f) n vs).zipIdx.flatMap fun x =>
        (maskedBytes (p.base x.2) (unitOf f w x.1) mask).map fun b => ⟨Loc.tile p.h b.1, b.2.1, b.2.2⟩
      pure (s.pushStore ws 0 xp)))

/-! ### Extents (R164, R166, R167) -/

/-- The first byte of a place of extent n after st steps still lies in the extent (R54, R55). -/
def State.extStepped (s : State) (n base : Nat) (st : Int) (f w : Nat) : M Unit :=
  let bits : Int := if f = tBFP then st / 32 * (8 * bfpBytes w : Nat) else if f = tPACKED then st * w else 8 * st
  let bit : Int := 8 * (base : Int) + bits
  if st = 0 ∨ 0 ≤ bit ∧ bit < 8 * (s.ext n).len.toNat then .ok ()
  else raiseAt cUNDECLARED_ACCESS 0 (Place.ext n (bit / 8 % 2 ^ 57).toNat).word

/-- The byte offset of element off of an extent access, stepped and checked for alignment (R54, R55, R164). -/
def State.extStart (s : State) (slot n base : Nat) (off : Int) (f w : Nat) : M Int := do
  let st := (s.adv slot).off
  s.extStepped n base st f w
  if f = tBFP then do
    legal (decide ((off + st) % 32 = 0))
    pure (base + (off + st) / 32 * (bfpBytes w : Nat))
  else if f = tPACKED then do
    legal (decide ((8 * (base : Int) + (off + st) * w) % 8 = 0))
    pure ((8 * (base : Int) + (off + st) * w) / 8)
  else do
    legal (decide ((base + st) % ((w / 8 : Nat) : Int) = 0))
    pure (base + st + off * (w / 8 : Nat))

/-- The place word of an offset of extent n, for a fault record. -/
def extPlace (n : Nat) (off : Int) : Word := (Place.ext n (off % 2 ^ 57).toNat).word

/-- The extent place of a V-slot access; other spaces are ILLEGAL_OPERAND (R164). -/
def extOf (xp : Word) : M (Nat × Nat) :=
  match placeOf xp with
  | some (.ext n off) => .ok (n, off)
  | _ => illegal

/-- The stride of VLDE and VSTE: 1 for PACKED and BFP, not 0 for a store (R166). -/
def strideOf (fn : BitVec 8) (f : Nat) (store : Bool) : M Int := do
  let st := fn.toInt
  legal ((f != tPACKED && f != tBFP) || st == 1)
  legal (!store || st != 0)
  pure st

/-- The byte offsets of a unit, its elements st elements apart. -/
def unitOffs (f w : Nat) (b st : Int) : List Int :=
  if st = 1 then (List.range (unitBytes f w)).map fun (i : Nat) => b + (i : Int)
  else (List.range (2048 / w)).flatMap fun (i : Nat) => (List.range (w / 8)).map fun (k : Nat) => b + (i : Int) * st * (w / 8 : Nat) + (k : Int)

/-- Every byte offset lies in the extent, which permits the access (R32). -/
def State.extChecks (s : State) (n : Nat) (offs : List Int) (write : Bool) : M Unit :=
  match offs.find? fun o => !(s.ext n).permits o 1 write with
  | some o => raiseAt cUNDECLARED_ACCESS 0 (extPlace n o)
  | none => .ok ()

/-- A unit read from an extent (R166). -/
def State.loadUnit (s : State) (n : Nat) (offs : List Int) : M (Nat × State) := do
  let (bs, s) ← atPlace (extPlace n (offs.headD 0)) (s.loadExt n (offs.map Int.toNat))
  pure (leNat bs, s)

/-- The byte writes of a unit to an extent: those whose mask is not zero. -/
def State.unitWrites (s : State) (n : Nat) (offs : List Int) (u mask : Nat) : M (List BWrite) := do
  let bytes := offs.zipIdx.filterMap fun x =>
    let m : Byte := BitVec.ofNat 8 (mask >>> (8 * x.2))
    if m = 0 then none else some (x.1, BitVec.ofNat 8 (u >>> (8 * x.2)), m)
  s.extChecks n (bytes.map (·.1)) true
  bytes.mapM fun b => do
    let a ← s.extAddr n b.1.toNat
    pure ⟨.mem a, b.2.1, b.2.2⟩

/-- VLDE (R166). -/
def execVlde (o : VmOp) (s : State) : Out :=
  run s (do
    let slot := vslot o.sl
    let f := o.fmt.toNat
    let w ← s.memFmt slot f
    s.vunits slot o.v f (unitRegs f)
    let st ← strideOf o.fn f false
    let xp ← s.scap slot o.xp
    atPlace xp (do
      let (n, off) ← extOf xp
      let b ← s.extStart slot n off o.off.toInt f w
      let offs := unitOffs f w b st
      s.extChecks n offs false
      let (u, s) ← s.loadUnit n offs
      s.vdsts slot o.v (regsOf f w u)))

/-- VSTE (R166). -/
def execVste (o : VmOp) (s : State) : Out :=
  run s (do
    let slot := vslot o.sl
    let f := o.fmt.toNat
    let w ← s.memFmt slot f
    s.vunits slot o.v f (unitRegs f)
    let st ← strideOf o.fn f true
    let g ← s.vguard o.guard o.pg o.pol
    let xp ← s.scap slot o.xp
    let (vs, s) ← s.vsrcs slot o.v (unitRegs f)
    if unitMask f w g = 0 then pure s
    else atPlace xp (do
      let (n, off) ← extOf xp
      let b ← s.extStart slot n off o.off.toInt f w
      let offs := unitOffs f w b st
      let ws ← s.unitWrites n offs (unitOf f w vs) (unitMask f w g)
      pure ((s.efcTouch n (offs.map (·.toNat))).pushStore ws 0 (extPlace n b))))

/-- The units j, j+1, … of a VLDM, k of them: the state with the registers of those that transferred, and the fault or
stall that ended the issue (R167). -/
def State.vldmGo (s : State) (slot : Nat) (v : VFld) (f w cnt n : Nat) (b : Int) : Nat → Nat → State × Option Stop
  | _, 0 => (s, none)
  | j, k + 1 =>
    let r : M State := do
      let (u, s) ← s.loadUnit n (unitOffs f w (b + j * (unitBytes f w : Nat)) 1)
      if cnt = 1 then s.vdsts slot v (regsOf f w u)
      else do
        let ks ← s.vkeys slot v cnt
        pure ((((ks.drop (unitRegs f * j)).take (unitRegs f)).zip (regsOf f w u)).foldl (fun s x => s.vset x.1 x.2) s)
    match r with
    | .ok t => t.vldmGo slot v f w cnt n b (j + 1) k
    | .error (.fault x) => (s, some (.fault { x with done := j }))
    | .error .stall => (s, some .stall)

/-- VLDM (R167): a memory error at unit j leaves the units below it transferred, and a resume goes on at unit j. -/
def execVldm (o : VmOp) (s : State) : Out :=
  let slot := vslot o.sl
  let f := o.fmt.toNat
  let cnt := o.cnt.toNat + 1
  let prep : M (Nat × Nat × Int) := do
    let w ← s.memFmt slot f
    s.vunits slot o.v f cnt
    let _ ← if isStream o.v && cnt == 1 then pure [] else s.vkeys slot o.v cnt
    let xp ← s.scap slot o.xp
    atPlace xp (do
      let (n, off) ← extOf xp
      let b ← s.extStart slot n off o.off.toInt f w
      s.extChecks n ((List.range (cnt / unitRegs f * unitBytes f w)).map fun (i : Nat) => b + (i : Int)) false
      pure (w, n, b))
  match prep with
  | .error e => run s (.error e)
  | .ok (w, n, b) =>
    match s.vldmGo slot o.v f w cnt n b s.bank.part (cnt / unitRegs f - s.bank.part) with
    | (t, none) => run t (.ok t)
    | (t, some (.fault x)) => if x.late then run t (.error (.fault x)) else .next (t.takeFault x)
    | (_, some .stall) => run s (.error .stall)

/-- VSTM (R167): each unit a store-queue entry of its own. -/
def execVstm (o : VmOp) (s : State) : Out :=
  run s (do
    let slot := vslot o.sl
    let f := o.fmt.toNat
    let cnt := o.cnt.toNat + 1
    let w ← s.memFmt slot f
    s.vunits slot o.v f cnt
    let xp ← s.scap slot o.xp
    let (vs, s) ← s.vsrcs slot o.v cnt
    atPlace xp (do
      let (n, off) ← extOf xp
      let b ← s.extStart slot n off o.off.toInt f w
      let ub := unitBytes f w
      s.extChecks n ((List.range (cnt / unitRegs f * ub)).map fun (i : Nat) => b + (i : Int)) true
      (chunks (unitRegs f) (cnt / unitRegs f) vs).zipIdx.foldlM (fun (s : State) x => do
        let offs := unitOffs f w (b + x.2 * (ub : Nat)) 1
        let ws ← s.unitWrites n offs (unitOf f w x.1) (unitMask f w none)
        pure ((s.efcTouch n (offs.map (·.toNat))).pushUnit ws x.2 (extPlace n (b + x.2 * (ub : Nat))))) s))

/-! ### Gathers and scatters (R168) -/

/-- fmt of a VGTH or VSCT word (R69). -/
abbrev gthFmt (o : VxOp) : Nat := bitsOf o.imm.toNat 17 13

/-- Where an element of a gather or scatter lies: extent and offset, or a tile's bit position. -/
inductive ElemAt where
  | ext (n : Nat) (off : Int)
  | tile (h : Nat) (t : Tile) (bit : Nat)

/-- The element that index k names, checked (R168). A format that is not the tile's is FORMAT_MISMATCH: DESIGN CHOICE (log 70),
R168 names no cause. -/
def State.elemAt (s : State) (slot : Nat) (xa : Word) (f w : Nat) (write : Bool) (k : Nat) : M ElemAt :=
  match placeOf xa with
  | some (.ext n off) => do
    let b ← s.extStart slot n off 0 f w
    let a := b + k * (w / 8 : Nat)
    if (s.ext n).permits a (w / 8) write then pure (.ext n a)
    else raiseAt cUNDECLARED_ACCESS 0 (extPlace n a)
  | some (.own h row col) =>
    match s.tile h with
    | none => tileFault 4
    | some t => do
      let sh := shapeRaw t.shape
      unlocked t
      need (f == sh.fmt) cFORMAT_MISMATCH 0
      sh.stepped (s.adv slot) row col
      let r : Int := row + (s.adv slot).row
      let c : Int := col + (s.adv slot).off
      let e := (r * sh.cols + c + k).toNat
      if !decide (0 ≤ r ∧ r < 65536 ∧ 0 ≤ c ∧ c < 65536 ∧ e < sh.rows * sh.cols) then tileFault 5
      pure (.tile h t (e / sh.cols * sh.pitch * 8 + e % sh.cols * w))
  | _ => illegal

/-- The indices of a gather or scatter: the first min(64, n) elements of va (R168). -/
def State.gthIdx (s : State) (o : VxOp) (f w : Nat) : M (List Nat × State) := do
  legal (sizedFmt f)
  let (v, s) ← s.vtagged (vslot o.sl) o.va tIDX
  pure ((Machine.elems v.bits.toNat 32 64).take (2048 / w), s)

/-- VGTH (R168). -/
def execVgth (o : VxOp) (s : State) : Out :=
  run s (do
    let slot := vslot o.sl
    let f := gthFmt o
    let w := fmtWidth f (s.efr slot)
    let (ks, s) ← s.gthIdx o f w
    let xa ← s.scap slot o.xa
    atPlace xa (do
      let es ← ks.mapM (s.elemAt slot xa f w false)
      let (xs, s) ← es.foldlM (fun (r : List Nat × State) e => match e with
        | .ext n off => do
          let (u, s) ← r.2.loadUnit n ((List.range (w / 8)).map fun (i : Nat) => off + (i : Int))
          pure (r.1 ++ [u], s)
        | .tile h t bit => do
          let u ← r.2.loadTile h t bit w
          pure (r.1 ++ [u], r.2)) ([], s)
      s.vdst slot o.vd ⟨BitVec.ofNat 2048 (packed w xs), f⟩))

/-- The write of one element of a scatter as a store-queue entry: done is its number (R168). -/
def State.putElem (s : State) (w : Nat) (x : Nat × Nat × ElemAt) : M State :=
  match x.2.2 with
  | .ext n off => do
    let offs := (List.range (w / 8)).map fun (i : Nat) => off + (i : Int)
    let ws ← s.unitWrites n offs x.2.1 (2 ^ w - 1)
    pure ((s.efcTouch n (offs.map (·.toNat))).pushUnit ws x.1 (extPlace n off))
  | .tile h _ bit => .ok (s.pushUnit
      ((maskedBytes bit x.2.1 (2 ^ w - 1)).map fun b => ⟨Loc.tile h b.1, b.2.1, b.2.2⟩) x.1 0)

/-- VSCT (R168): permitted elements in ascending order, each an entry of its own. -/
def execVsct (o : VxOp) (s : State) : Out :=
  run s (do
    let slot := vslot o.sl
    let f := gthFmt o
    let w := fmtWidth f (s.efr slot)
    let n := o.imm.toNat
    let g ← s.vguard (BitVec.ofNat 2 (bitsOf n 19 18)) (BitVec.ofNat 6 (bitsOf n 26 21)) (BitVec.ofNat 1 (bitsOf n 20 20))
    let (ks, s) ← s.gthIdx o f w
    let (v, s) ← s.vsrc slot o.vd
    let xa ← s.scap slot o.xa
    atPlace xa (do
      let live := (ks.zip (Machine.elems v.bits.toNat w ks.length)).zipIdx.filter fun x => match g with
        | some (p, pol) => governs p pol x.2 w
        | none => true
      let es ← live.mapM fun x => do
        let e ← s.elemAt slot xa f w true x.1.1
        pure (x.2, x.1.2, e)
      es.foldlM (fun (s : State) x => s.putElem w x) s))

/-! ### The kennel (R169) -/

/-- The registers of VKLD and VKST: any format tag. -/
def kennelFmt (f : Nat) : M Unit := legal (f < 0x12)

/-- VKLD (R169): every register is tagged fmt; BFP takes whole pairs (R99, R164). -/
def execVkld (o : VkOp) (s : State) : Out :=
  run s (do
    let f := o.fmt.toNat
    kennelFmt f
    let cnt := o.cnt.toNat + 1
    s.vunits (vslot o.sl) o.v f cnt
    let us ← (List.range cnt).mapM fun j => s.kennelBytes (o.off.toNat + 256 * j) 256
    s.vdsts (vslot o.sl) o.v (us.map fun bs => ⟨BitVec.ofNat 2048 (leNat bs), f⟩))

/-- A kennel byte with some bits written. -/
def State.kmerge (s : State) (off : Nat) (v m : Byte) : State :=
  if m = 0 then s else s.kput off ((mget 0 s.bank.kennel (off % 65536) &&& ~~~m) ||| (v &&& m))

/-- The bits of a register that VKST writes under its guard: whole registers by bytes for PLANE and BFP (R169). -/
def kstMask (f : Nat) (e : Efr) (g : Option (PBits × BitVec 1)) : Nat :=
  match g with
  | none => 2 ^ 2048 - 1
  | some _ => if f = tPLANE ∨ f = tBFP then unitMask tRAW 8 g else unitMask f (fmtWidth f e) g

/-- VKST (R169); BFP takes whole pairs (R99, R164). -/
def execVkst (o : VkOp) (s : State) : Out :=
  run s (do
    let slot := vslot o.sl
    let f := o.fmt.toNat
    kennelFmt f
    s.vunits slot o.v f (o.cnt.toNat + 1)
    let g ← s.vguard o.guard o.pg o.pol
    let (vs, s) ← s.vsrcs slot o.v (o.cnt.toNat + 1)
    let mask := kstMask f (s.efr slot) g
    pure (vs.zipIdx.foldl (fun s x => (List.range 256).foldl (fun s i =>
      s.kmerge (o.off.toNat + 256 * x.2 + i) (BitVec.ofNat 8 (x.1.bits.toNat >>> (8 * i))) (BitVec.ofNat 8 (mask >>> (8 * i)))) s) s))

end Sys2Proof.Machine
end

