-- ==== Sys2Proof/Machine/Dispatch.lean ====
section
/-! DEFINITION. The meaning of every instruction: one arm per constructor, one direct call per arm. -/

namespace Sys2Proof.Machine

/-- The effect of an instruction or step on the machine. -/
def exec (i : Instr) (s : State) : Host.Outcome State Fault Refusal :=
  match i with
  | .add o => Sys2Proof.Machine.execAdd o s
  | .sub o => Sys2Proof.Machine.execSub o s
  | .mul o => Sys2Proof.Machine.execMul o s
  | .mulh o => Sys2Proof.Machine.execMulh o s
  | .mulhn o => Sys2Proof.Machine.execMulhn o s
  | .div o => Sys2Proof.Machine.execDiv o s
  | .divn o => Sys2Proof.Machine.execDivn o s
  | .rem o => Sys2Proof.Machine.execRem o s
  | .remn o => Sys2Proof.Machine.execRemn o s
  | .and o => Sys2Proof.Machine.execAnd o s
  | .or o => Sys2Proof.Machine.execOr o s
  | .xor o => Sys2Proof.Machine.execXor o s
  | .sll o => Sys2Proof.Machine.execSll o s
  | .srl o => Sys2Proof.Machine.execSrl o s
  | .sra o => Sys2Proof.Machine.execSra o s
  | .slt o => Sys2Proof.Machine.execSlt o s
  | .sltn o => Sys2Proof.Machine.execSltn o s
  | .min o => Sys2Proof.Machine.execMin o s
  | .max o => Sys2Proof.Machine.execMax o s
  | .minn o => Sys2Proof.Machine.execMinn o s
  | .maxn o => Sys2Proof.Machine.execMaxn o s
  | .clz o => Sys2Proof.Machine.execClz o s
  | .ctz o => Sys2Proof.Machine.execCtz o s
  | .popc o => Sys2Proof.Machine.execPopc o s
  | .addi o => Sys2Proof.Machine.execAddi o s
  | .andi o => Sys2Proof.Machine.execAndi o s
  | .ori o => Sys2Proof.Machine.execOri o s
  | .xori o => Sys2Proof.Machine.execXori o s
  | .slli o => Sys2Proof.Machine.execSlli o s
  | .srli o => Sys2Proof.Machine.execSrli o s
  | .srai o => Sys2Proof.Machine.execSrai o s
  | .slti o => Sys2Proof.Machine.execSlti o s
  | .li o => Sys2Proof.Machine.execLi o s
  | .lih o => Sys2Proof.Machine.execLih o s
  | .lil o imm64 => Sys2Proof.Machine.execLil o imm64 s
  | .plx o => Sys2Proof.Machine.execPlx o s
  | .plt o => Sys2Proof.Machine.execPlt o s
  | .pltPeer o => Sys2Proof.Machine.execPltPeer o s
  | .plr o => Sys2Proof.Machine.execPlr o s
  | .padd o => Sys2Proof.Machine.execPadd o s
  | .xlook o => Sys2Proof.Machine.execXlook o s
  | .xlookW o => Sys2Proof.Machine.execXlookW o s
  | .widf o => Sys2Proof.Machine.execWidf o s
  | .talloc o => Sys2Proof.Machine.execTalloc o s
  | .tallocHandle o => Sys2Proof.Machine.execTallocHandle o s
  | .tfree o => Sys2Proof.Machine.execTfree o s
  | .tshape o => Sys2Proof.Machine.execTshape o s
  | .tqry o => Sys2Proof.Machine.execTqry o s
  | .beq o => Sys2Proof.Machine.execBeq o s
  | .bne o => Sys2Proof.Machine.execBne o s
  | .blt o => Sys2Proof.Machine.execBlt o s
  | .bge o => Sys2Proof.Machine.execBge o s
  | .bltn o => Sys2Proof.Machine.execBltn o s
  | .bgen o => Sys2Proof.Machine.execBgen o s
  | .bany o => Sys2Proof.Machine.execBany o s
  | .ball o => Sys2Proof.Machine.execBall o s
  | .bnone o => Sys2Proof.Machine.execBnone o s
  | .j o => Sys2Proof.Machine.execJ o s
  | .call o => Sys2Proof.Machine.execCall o s
  | .ret o => Sys2Proof.Machine.execRet o s
  | .loopb o => Sys2Proof.Machine.execLoopb o s
  | .probe o => Sys2Proof.Machine.execProbe o s
  | .kld o => Sys2Proof.Machine.execKld o s
  | .kst o => Sys2Proof.Machine.execKst o s
  | .crr o => Sys2Proof.Machine.execCrr o s
  | .crw o => Sys2Proof.Machine.execCrw o s
  | .crs o => Sys2Proof.Machine.execCrs o s
  | .crc o => Sys2Proof.Machine.execCrc o s
  | .fence o => Sys2Proof.Machine.execFence o s
  | .mark o => Sys2Proof.Machine.execMark o s
  | .trap o => Sys2Proof.Machine.execTrap o s
  | .brk o => Sys2Proof.Machine.execBrk o s
  | .halt o => Sys2Proof.Machine.execHalt o s
  | .yieldS o => Sys2Proof.Machine.execYieldS o s
  | .calloc o => Sys2Proof.Machine.execCalloc o s
  | .callocDie o => Sys2Proof.Machine.execCallocDie o s
  | .cfree o => Sys2Proof.Machine.execCfree o s
  | .cadd o => Sys2Proof.Machine.execCadd o s
  | .cwait o => Sys2Proof.Machine.execCwait o s
  | .crd o => Sys2Proof.Machine.execCrd o s
  | .atom o => Sys2Proof.Machine.execAtom o s
  | .launch o => Sys2Proof.Machine.execLaunch o s
  | .kstat o => Sys2Proof.Machine.execKstat o s
  | .qctlQuery o => Sys2Proof.Machine.execQctlQuery o s
  | .qctlSetmode o => Sys2Proof.Machine.execQctlSetmode o s
  | .qctlDrain o => Sys2Proof.Machine.execQctlDrain o s
  | .qctlHalt o => Sys2Proof.Machine.execQctlHalt o s
  | .qctlResume o => Sys2Proof.Machine.execQctlResume o s
  | .qctlAbort o => Sys2Proof.Machine.execQctlAbort o s
  | .qctlReset o => Sys2Proof.Machine.execQctlReset o s
  | .gopen o => Sys2Proof.Machine.execGopen o s
  | .gcommit o => Sys2Proof.Machine.execGcommit o s
  | .gabort o => Sys2Proof.Machine.execGabort o s
  | .gstat o => Sys2Proof.Machine.execGstat o s
  | .colrdy o => Sys2Proof.Machine.execColrdy o s
  | .vadd o => Sys2Proof.Machine.execVadd o s
  | .vsub o => Sys2Proof.Machine.execVsub o s
  | .vadds o => Sys2Proof.Machine.execVadds o s
  | .vsubs o => Sys2Proof.Machine.execVsubs o s
  | .vmul o => Sys2Proof.Machine.execVmul o s
  | .vmulh o => Sys2Proof.Machine.execVmulh o s
  | .vmad o => Sys2Proof.Machine.execVmad o s
  | .vabsd o => Sys2Proof.Machine.execVabsd o s
  | .vmin o => Sys2Proof.Machine.execVmin o s
  | .vmax o => Sys2Proof.Machine.execVmax o s
  | .vand o => Sys2Proof.Machine.execVand o s
  | .vor o => Sys2Proof.Machine.execVor o s
  | .vxor o => Sys2Proof.Machine.execVxor o s
  | .vbit o => Sys2Proof.Machine.execVbit o s
  | .vshl o => Sys2Proof.Machine.execVshl o s
  | .vshr o => Sys2Proof.Machine.execVshr o s
  | .vcmp o => Sys2Proof.Machine.execVcmp o s
  | .vsel o => Sys2Proof.Machine.execVsel o s
  | .vfadd o => Sys2Proof.Machine.execVfadd o s
  | .vfsub o => Sys2Proof.Machine.execVfsub o s
  | .vfmul o => Sys2Proof.Machine.execVfmul o s
  | .vfma o => Sys2Proof.Machine.execVfma o s
  | .vfmin o => Sys2Proof.Machine.execVfmin o s
  | .vfmax o => Sys2Proof.Machine.execVfmax o s
  | .vfcmp o => Sys2Proof.Machine.execVfcmp o s
  | .vfrcp o => Sys2Proof.Machine.execVfrcp o s
  | .vfrsq o => Sys2Proof.Machine.execVfrsq o s
  | .vfexp2 o => Sys2Proof.Machine.execVfexp2 o s
  | .vflog2 o => Sys2Proof.Machine.execVflog2 o s
  | .vfsgn o => Sys2Proof.Machine.execVfsgn o s
  | .vcvt o => Sys2Proof.Machine.execVcvt o s
  | .vtag o => Sys2Proof.Machine.execVtag o s
  | .vbfpq o => Sys2Proof.Machine.execVbfpq o s
  | .vbfpd o => Sys2Proof.Machine.execVbfpd o s
  | .vplane o => Sys2Proof.Machine.execVplane o s
  | .vunpl o => Sys2Proof.Machine.execVunpl o s
  | .vokey o => Sys2Proof.Machine.execVokey o s
  | .vpadd o => Sys2Proof.Machine.execVpadd o s
  | .vpdot o => Sys2Proof.Machine.execVpdot o s
  | .vpshl o => Sys2Proof.Machine.execVpshl o s
  | .vred o => Sys2Proof.Machine.execVred o s
  | .vscan o => Sys2Proof.Machine.execVscan o s
  | .vperm o => Sys2Proof.Machine.execVperm o s
  | .vslide o => Sys2Proof.Machine.execVslide o s
  | .vbcast o => Sys2Proof.Machine.execVbcast o s
  | .vbcastElement o => Sys2Proof.Machine.execVbcastElement o s
  | .viota o => Sys2Proof.Machine.execViota o s
  | .vextr o => Sys2Proof.Machine.execVextr o s
  | .vins o => Sys2Proof.Machine.execVins o s
  | .vmov o => Sys2Proof.Machine.execVmov o s
  | .vld o => Sys2Proof.Machine.execVld o s
  | .vst o => Sys2Proof.Machine.execVst o s
  | .vlde o => Sys2Proof.Machine.execVlde o s
  | .vste o => Sys2Proof.Machine.execVste o s
  | .vgth o => Sys2Proof.Machine.execVgth o s
  | .vsct o => Sys2Proof.Machine.execVsct o s
  | .vldm o => Sys2Proof.Machine.execVldm o s
  | .vstm o => Sys2Proof.Machine.execVstm o s
  | .vkld o => Sys2Proof.Machine.execVkld o s
  | .vkst o => Sys2Proof.Machine.execVkst o s
  | .pand o => Sys2Proof.Machine.execPand o s
  | .por o => Sys2Proof.Machine.execPor o s
  | .pxor o => Sys2Proof.Machine.execPxor o s
  | .pnot o => Sys2Proof.Machine.execPnot o s
  | .pcnt o => Sys2Proof.Machine.execPcnt o s
  | .pfirst o => Sys2Proof.Machine.execPfirst o s
  | .pset o => Sys2Proof.Machine.execPset o s
  | .pmov o => Sys2Proof.Machine.execPmov o s
  | .lsclr o => Sys2Proof.Machine.execLsclr o s
  | .lsins o => Sys2Proof.Machine.execLsins o s
  | .lsrd o => Sys2Proof.Machine.execLsrd o s
  | .vhist o => Sys2Proof.Machine.execVhist o s
  | .mlease o => Sys2Proof.Machine.execMlease o s
  | .mrel o => Sys2Proof.Machine.execMrel o s
  | .mmode o => Sys2Proof.Machine.execMmode o s
  | .mloadp o => Sys2Proof.Machine.execMloadp o s
  | .mflow o => Sys2Proof.Machine.execMflow o s
  | .mskew o => Sys2Proof.Machine.execMskew o s
  | .mclr o => Sys2Proof.Machine.execMclr o s
  | .mpre o => Sys2Proof.Machine.execMpre o s
  | .mfeed o => Sys2Proof.Machine.execMfeed o s
  | .mfeedr o => Sys2Proof.Machine.execMfeedr o s
  | .mdrain o => Sys2Proof.Machine.execMdrain o s
  | .mstat o => Sys2Proof.Machine.execMstat o s
  | .mresume o => Sys2Proof.Machine.execMresume o s
  | .cpy o => Sys2Proof.Machine.execCpy o s
  | .cpyt o => Sys2Proof.Machine.execCpyt o s
  | .cpys o => Sys2Proof.Machine.execCpys o s
  | .gth o => Sys2Proof.Machine.execGth o s
  | .sct o => Sys2Proof.Machine.execSct o s
  | .cpyg o => Sys2Proof.Machine.execCpyg o s
  | .sbind o => Sys2Proof.Machine.execSbind o s
  | .sunb o => Sys2Proof.Machine.execSunb o s
  | .radv o => Sys2Proof.Machine.execRadv o s
  | .pfill o => Sys2Proof.Machine.execPfill o s
  | .pwb o => Sys2Proof.Machine.execPwb o s
  | .pinv o => Sys2Proof.Machine.execPinv o s
  | .cxadd o => Sys2Proof.Machine.execCxadd o s
  | .cwaite o => Sys2Proof.Machine.execCwaite o s
  | .fetchLine b va => Sys2Proof.Machine.execFetchLine b va s
  | .bundleDispatch b => Sys2Proof.Machine.execBundleDispatch b s
  | .stickyIssue b slot => Sys2Proof.Machine.execStickyIssue b slot s
  | .cwaitSwitchCount b => Sys2Proof.Machine.execCwaitSwitchCount b s
  | .mleaseSwitchCount b => Sys2Proof.Machine.execMleaseSwitchCount b s
  | .bankHandover core => Sys2Proof.Machine.execBankHandover core s
  | .preemptAtSafePoint b => Sys2Proof.Machine.execPreemptAtSafePoint b s
  | .pendingEventRecordWrite area die => Sys2Proof.Machine.execPendingEventRecordWrite area die s
  | .loadDataReturn die line => Sys2Proof.Machine.execLoadDataReturn die line s
  | .storePerform b => Sys2Proof.Machine.execStorePerform b s
  | .sectorReservationRequest b => Sys2Proof.Machine.execSectorReservationRequest b s
  | .writeThroughArrival src home => Sys2Proof.Machine.execWriteThroughArrival src home s
  | .writeThroughAck src home => Sys2Proof.Machine.execWriteThroughAck src home s
  | .farCacheAgeExpiry die line => Sys2Proof.Machine.execFarCacheAgeExpiry die line s
  | .blockWrite lv addr data => Sys2Proof.Machine.execBlockWrite lv addr data s
  | .retrieverRun die => Sys2Proof.Machine.execRetrieverRun die s
  | .resampleInterval die => Sys2Proof.Machine.execResampleInterval die s
  | .learningPhaseEnd die => Sys2Proof.Machine.execLearningPhaseEnd die s
  | .tableWaitExpiry die => Sys2Proof.Machine.execTableWaitExpiry die s
  | .cmpWatermarkWrite die w v => Sys2Proof.Machine.execCmpWatermarkWrite die w v s
  | .dirtyDSet ctx va => Sys2Proof.Machine.execDirtyDSet ctx va s
  | .pteWrite ctx va entry => Sys2Proof.Machine.execPteWrite ctx va entry s
  | .invalidationCommand ctx va => Sys2Proof.Machine.execInvalidationCommand ctx va s
  | .pageEvict ctx va slot => Sys2Proof.Machine.execPageEvict ctx va slot s
  | .pageReturn ctx va frame => Sys2Proof.Machine.execPageReturn ctx va frame s
  | .migrate ctx va frame => Sys2Proof.Machine.execMigrate ctx va frame s
  | .migrationCopyComplete ctx va => Sys2Proof.Machine.execMigrationCopyComplete ctx va s
  | .migrationInvalidateComplete ctx va => Sys2Proof.Machine.execMigrationInvalidateComplete ctx va s
  | .migrationCancel ctx va => Sys2Proof.Machine.execMigrationCancel ctx va s
  | .split ctx va table r w wp => Sys2Proof.Machine.execSplit ctx va table r w wp s
  | .splitComplete ctx va => Sys2Proof.Machine.execSplitComplete ctx va s
  | .launchAcceptance ctx => Sys2Proof.Machine.execLaunchAcceptance ctx s
  | .hlwGo fn v => Sys2Proof.Machine.execHlwGo fn v s
  | .dependenceTranslation ctx k d => Sys2Proof.Machine.execDependenceTranslation ctx k d s
  | .agingInterval ctx q => Sys2Proof.Machine.execAgingInterval ctx q s
  | .kernelSelect ctx => Sys2Proof.Machine.execKernelSelect ctx s
  | .regionTranslationEnd ctx k => Sys2Proof.Machine.execRegionTranslationEnd ctx k s
  | .taskPlace ctx k on => Sys2Proof.Machine.execTaskPlace ctx k on s
  | .waitLimitSwapout b => Sys2Proof.Machine.execWaitLimitSwapout b s
  | .taskEnd b => Sys2Proof.Machine.execTaskEnd b s
  | .counterTreeComplete ctx k => Sys2Proof.Machine.execCounterTreeComplete ctx k s
  | .completionAddPerformed ctx k => Sys2Proof.Machine.execCompletionAddPerformed ctx k s
  | .counterAdd die => Sys2Proof.Machine.execCounterAdd die s
  | .waiterRegister die => Sys2Proof.Machine.execWaiterRegister die s
  | .waiterResendTimer die => Sys2Proof.Machine.execWaiterResendTimer die s
  | .cwaitBoundExpiry b => Sys2Proof.Machine.execCwaitBoundExpiry b s
  | .hcaAdd fn v => Sys2Proof.Machine.execHcaAdd fn v s
  | .hcaVal fn => Sys2Proof.Machine.execHcaVal fn s
  | .hostWrite fn addr data => Sys2Proof.Machine.execHostWrite fn addr data s
  | .hostRead fn addr len => Sys2Proof.Machine.execHostRead fn addr len s
  | .engineOpStart b op => Sys2Proof.Machine.execEngineOpStart b op s
  | .engineItem b op => Sys2Proof.Machine.execEngineItem b op s
  | .engineOpComplete b op => Sys2Proof.Machine.execEngineOpComplete b op s
  | .streamFillItem b st => Sys2Proof.Machine.execStreamFillItem b st s
  | .streamDrainItem b st => Sys2Proof.Machine.execStreamDrainItem b st s
  | .probeFillComplete b row => Sys2Proof.Machine.execProbeFillComplete b row s
  | .millCommandStart b => Sys2Proof.Machine.execMillCommandStart b s
  | .millCommandComplete b => Sys2Proof.Machine.execMillCommandComplete b s
  | .mdrainCapture b => Sys2Proof.Machine.execMdrainCapture b s
  | .leaseCountLimit mg => Sys2Proof.Machine.execLeaseCountLimit mg s
  | .leaseIdleLimit mg => Sys2Proof.Machine.execLeaseIdleLimit mg s
  | .pairWindow mg => Sys2Proof.Machine.execPairWindow mg s
  | .weirStageLine die g l => Sys2Proof.Machine.execWeirStageLine die g l s
  | .weirPrepare die => Sys2Proof.Machine.execWeirPrepare die s
  | .readyReport die => Sys2Proof.Machine.execReadyReport die s
  | .weirRefusal die => Sys2Proof.Machine.execWeirRefusal die s
  | .weirCommitPacket die => Sys2Proof.Machine.execWeirCommitPacket die s
  | .weirDiscard die => Sys2Proof.Machine.execWeirDiscard die s
  | .publicationReport die => Sys2Proof.Machine.execPublicationReport die s
  | .discardReport die => Sys2Proof.Machine.execDiscardReport die s
  | .prepareTimeout die idx => Sys2Proof.Machine.execPrepareTimeout die idx s
  | .weirQueryTimeout die g => Sys2Proof.Machine.execWeirQueryTimeout die g s
  | .groupQuery die => Sys2Proof.Machine.execGroupQuery die s
  | .remoteRequest die => Sys2Proof.Machine.execRemoteRequest die s
  | .fabricPacketReceive p => Sys2Proof.Machine.execFabricPacketReceive p s
  | .ethernetFrameReceive port etherType p => Sys2Proof.Machine.execEthernetFrameReceive port etherType p s
  | .gatewayRetryTimeout dst vc seq => Sys2Proof.Machine.execGatewayRetryTimeout dst vc seq s
  | .flitGroupReceive link vc counter tagOk => Sys2Proof.Machine.execFlitGroupReceive link vc counter tagOk s
  | .rekeyDeadline link vc => Sys2Proof.Machine.execRekeyDeadline link vc s
  | .keyload link vc recv key salt st => Sys2Proof.Machine.execKeyload link vc recv key salt st s
  | .vcreset link vc => Sys2Proof.Machine.execVcreset link vc s
  | .lnkVcpWrite link v => Sys2Proof.Machine.execLnkVcpWrite link v s
  | .linkTrainingEnd link r lanes => Sys2Proof.Machine.execLinkTrainingEnd link r lanes s
  | .linkLaneLoss link lanes => Sys2Proof.Machine.execLinkLaneLoss link lanes s
  | .linkLanesRestored link => Sys2Proof.Machine.execLinkLanesRestored link s
  | .linkDown link => Sys2Proof.Machine.execLinkDown link s
  | .linkRetrain link => Sys2Proof.Machine.execLinkRetrain link s
  | .windowOpen ctx n v => Sys2Proof.Machine.execWindowOpen ctx n v s
  | .colset ctx entry r => Sys2Proof.Machine.execColset ctx entry r s
  | .colclr ctx entry => Sys2Proof.Machine.execColclr ctx entry s
  | .chunkLineReceive ctx entry rank step seq data => Sys2Proof.Machine.execChunkLineReceive ctx entry rank step seq data s
  | .releaseReport ctx entry rank step => Sys2Proof.Machine.execReleaseReport ctx entry rank step s
  | .sourceReadComplete ctx entry => Sys2Proof.Machine.execSourceReadComplete ctx entry s
  | .finishReport ctx entry rank r => Sys2Proof.Machine.execFinishReport ctx entry rank r s
  | .failureNotice ctx entry rank => Sys2Proof.Machine.execFailureNotice ctx entry rank s
  | .collectiveTimeout ctx entry => Sys2Proof.Machine.execCollectiveTimeout ctx entry s
  | .ctxCreate c => Sys2Proof.Machine.execCtxCreate c s
  | .ctxReady c => Sys2Proof.Machine.execCtxReady c s
  | .place c clusters => Sys2Proof.Machine.execPlace c clusters s
  | .swapOut c => Sys2Proof.Machine.execSwapOut c s
  | .swapIn c clusters => Sys2Proof.Machine.execSwapIn c clusters s
  | .contextHalt c timeout => Sys2Proof.Machine.execContextHalt c timeout s
  | .haltSequenceComplete c => Sys2Proof.Machine.execHaltSequenceComplete c s
  | .haltTimeout c => Sys2Proof.Machine.execHaltTimeout c s
  | .image c addr host => Sys2Proof.Machine.execImage c addr host s
  | .ctxContinue c => Sys2Proof.Machine.execCtxContinue c s
  | .restore c addr host clusters root fa => Sys2Proof.Machine.execRestore c addr host clusters root fa s
  | .restoreLoadComplete c => Sys2Proof.Machine.execRestoreLoadComplete c s
  | .ctxDestroy c => Sys2Proof.Machine.execCtxDestroy c s
  | .contextReleased c => Sys2Proof.Machine.execContextReleased c s
  | .fdispResume area seq => Sys2Proof.Machine.execFdispResume area seq s
  | .fdispRetry area seq => Sys2Proof.Machine.execFdispRetry area seq s
  | .fdispTerminateKernel area seq => Sys2Proof.Machine.execFdispTerminateKernel area seq s
  | .fdispTerminateContext area seq => Sys2Proof.Machine.execFdispTerminateContext area seq s
  | .memTestGo die v => Sys2Proof.Machine.execMemTestGo die v s
  | .parkingComplete die => Sys2Proof.Machine.execParkingComplete die s
  | .bankTestComplete die pass => Sys2Proof.Machine.execBankTestComplete die pass s
  | .restoringComplete die => Sys2Proof.Machine.execRestoringComplete die s
  | .rowSwap die unit bank row => Sys2Proof.Machine.execRowSwap die unit bank row s
  | .refreshWindowEnd die => Sys2Proof.Machine.execRefreshWindowEnd die s
  | .pcieResetDeassert => Sys2Proof.Machine.execPcieResetDeassert s
  | .bootStageComplete r => Sys2Proof.Machine.execBootStageComplete r s
  | .bootTimeout => Sys2Proof.Machine.execBootTimeout s
  | .bootstatRead => Sys2Proof.Machine.execBootstatRead s
  | .flashWr slot img => Sys2Proof.Machine.execFlashWr slot img s
  | .restart => Sys2Proof.Machine.execRestart s
  | .getVersion => Sys2Proof.Machine.execGetVersion s
  | .getCapabilities => Sys2Proof.Machine.execGetCapabilities s
  | .negotiateAlgorithms req => Sys2Proof.Machine.execNegotiateAlgorithms req s
  | .getDigests => Sys2Proof.Machine.execGetDigests s
  | .getCertificate off len => Sys2Proof.Machine.execGetCertificate off len s
  | .challenge nonce => Sys2Proof.Machine.execChallenge nonce s
  | .getMeasurements idx => Sys2Proof.Machine.execGetMeasurements idx s
  | .correctedError die k => Sys2Proof.Machine.execCorrectedError die k s
  | .clockStepSet die step => Sys2Proof.Machine.execClockStepSet die step s
  | .thermalThrottle die => Sys2Proof.Machine.execThermalThrottle die s
  | .thermalRecover die => Sys2Proof.Machine.execThermalRecover die s
  | .thermalTrip die => Sys2Proof.Machine.execThermalTrip die s
  | .registerWrite r v => Sys2Proof.Machine.execRegisterWrite r v s
  | .pcieResetAssert => Sys2Proof.Machine.execPcieResetAssert s
  | .fabricVcPause port vc raised => Sys2Proof.Machine.execFabricVcPause port vc raised s
  | .bankRefresh die unit bank => Sys2Proof.Machine.execBankRefresh die unit bank s
  | .dirtyRoundStart ctx => Sys2Proof.Machine.execDirtyRoundStart ctx s

end Sys2Proof.Machine
end

