-- ==== Sys2Proof/Machine/Step.lean ====
section
/-! DEFINITION. One step of the device. The agenda, plain data of the state, says which agent moves next: a step of the
device, or a bank that issues one slot operation. With an empty agenda the bank in focus issues; where it cannot, and after every 256
issues, the enabled steps of Auto.lean happen in their order. -/

namespace Sys2Proof.Machine

/-- The first of some steps of the device that changes the state; when none does, the cycle passes with nothing done. -/
def State.tries (s : State) : List (State → Out) → Out
  | [] => .next s.idleCycle
  | f :: fs =>
    match f s with
    | .next t => if t = s then s.tries fs else .next t
    | r => r

/-- What happens in the next cycle when the bank in focus cannot issue, or the device's own steps have their turn. -/
def State.idle (s : State) : Host.Outcome State Fault Refusal :=
  let t := s.beforeEvent
  t.tries t.candidates

/-- The head operation of a bank cannot issue now: it is put aside and the other slots run on (R58); where nothing of the bank can go on, an
error that a read has met stops it (R41, R438), else the device's own steps happen. -/
def State.putOff (s : State) : Host.Outcome State Fault Refusal :=
  if s.mayPutAside then .next s.putAside
  else if s.bank.late.isSome then .next s.lateFault
  else s.idle

/-- What follows an operation: it is done, it waits, its bank has faulted, or it has met an error that stops the bank at the end of the
bundle, and stays in its queue. -/
def State.after (i : Instr) (o : Host.Outcome State Fault Refusal) : Host.Outcome State Fault Refusal :=
  match o with
  | .next t =>
    match t.bank.issued with
    | .done => .next (t.opDone i)
    | .stalled => t.putOff
    | .late => match t.bank.cur with
      | some r => .next (if t.bank.atCwait r then t.lateFault else t.putAside)
      | none => .next t
    | .faulted => .next t
  | r => r

/-- The bank in focus issues the slot operation that comes next in program order. -/
def State.headStep (s : State) : Host.Outcome State Fault Refusal :=
  match s.ready with
  | .op i t => State.after i (exec i t)
  | .bad t => .next (t.takeFault { cause := cILLEGAL_OPERAND, detail := 0 })
  | .behind t => t.putOff
  | .moved t => .next t
  | .blocked => if s.bank.run = .ready ∧ s.bank.late.isSome then .next s.lateFault else s.idle

/-- The bank in focus issues one slot operation: the first of those that lag behind that can, else the next one (R58). -/
def State.issueFrom (s : State) : List (Nat × Nat) → Host.Outcome State Fault Refusal
  | [] => s.headStep
  | (iss, slot) :: ks =>
    match s.lagReady iss slot with
    | none => s.issueFrom ks
    | some (e, i, t) =>
      match exec i t with
      | .next u =>
        match u.bank.issued with
        | .done => .next ((u.opMark i).leave s e)
        | .faulted => .next (u.leave s e)
        | .stalled | .late => (u.leave s e).issueFrom ks
      | r => r

/-- The bank in focus issues. -/
def State.issueStep (s : State) : Host.Outcome State Fault Refusal :=
  if s.mayIssue then s.issueFrom (s.bank.lag.map fun e => (e.iss, e.slot)) else s.headStep

/-- Issues of banks after which the device's own steps have a turn (log 43). -/
abbrev maxLap : Nat := 256

/-- One step of the machine. An event of the agenda is a well-formed step of the device; a slot instruction, which only a bank
issues, is passed over there. -/
def step (s : State) : Host.Outcome State Fault Refusal :=
  if s.cur < 512 then
    match s.agenda with
    | .event i :: as =>
      if (encode i).isNone && WellFormed i then exec i ({ s with agenda := as } : State).beforeEvent else .next { s with agenda := as }
    | .bank b :: as =>
      if b < 512 then (({ s with agenda := as } : State).focus b).issueStep else .fault .noSuchBank
    | [] => if s.lap < maxLap then ({ s with lap := s.lap + 1 } : State).issueStep else s.idle
  else .fault .noSuchBank

/-- A page table entry. -/
def tableEntry (frame flags : Nat) : Nat := frame * 2 ^ 16 + flags

/-- s with an instruction placed where step fetches next. The bank in focus is ready at virtual address 0 with nothing of
an earlier bundle left, it holds its core's sequencer, and its context's page table maps page 0 to the frame in which the
words stand: level 1, 2 and 3 tables in frames 1 to 3, the code in frame 4. This stands for the load of a program by
Lorso and the fantail (log 5). -/
def State.withFetchWord (s : State) (nbits w : Nat) : State :=
  let m := mputs 0 s.mem 0x10000 (leBytes 8 (tableEntry 2 1))
  let m := mputs 0 m 0x20000 (leBytes 8 (tableEntry 3 1))
  let m := mputs 0 m 0x30000 (leBytes 8 (tableEntry 4 0x19))
  let m := mputs 0 m 0x40000 (leBytes 56 (w % 2 ^ nbits))
  let t : State := { s with mem := m, agenda := [] }
  let t := t.modCtx s.bank.id.ctx fun c => { c with root := 0x10000, stale := [] }
  let t := t.modCore (coreOf s.cur) fun c => { c with active := s.cur % 2, itc := [] }
  t.upd fun b => { b with run := .ready, cur := none, pc := 0, fetched := [], preempt := false, stop := false, lag := [], reissue := false }

end Sys2Proof.Machine
end

