-- ==== Sys2Proof/Safety.lean ====
section
/-! DEFINITION. What a safe run is, in the terms the statements use. -/

namespace Sys2Proof.Machine

/-- The memory keeps its canonical form: addresses rising, no entry equal to what an unlisted address reads as. -/
abbrev Memory.wf (m : Map Byte) : Prop := mwf 0 m = true

/-- The step answers a next state. -/
def goesOn (s : State) : Prop := ∃ t, step s = .next t

end Sys2Proof.Machine
end

