-- ==== Sys2Proof/Certificates/Slice0/Obligations.lean ====
section
/-! DEFINITION. The statements for the provers. Every one is about exec, step, the decoder or the encoder; the small definitions
beside them say in the spec's terms what the statements use. -/

namespace Sys2Proof.Claims
open Sys2Proof.Machine

/-- The issue has completed: nothing but the mark that step reads changes. -/
def done (s : State) : State := s.upd fun b => { b with issued := .done }

/-- The issue waits (R22, R59): the operation stays queued. -/
def waits (s : State) : State := s.upd fun b => { b with issued := .stalled }

/-- Every source is readable without a stall, the destination is not pending, and no source holds an uncorrectable error
(R22, R107, R438). -/
def Readable (s : State) (srcs : List XReg) (dst : XReg) : Prop :=
  (∀ a ∈ srcs, s.bank.view.pending a = false ∧ (a = 0 ∨ s.poisoned a.toNat = false)) ∧ s.bank.regs.pending dst = false

end Sys2Proof.Claims

open Sys2Proof Sys2Proof.Machine Sys2Proof.Claims

namespace Sys2Proof.Claims

/-- 1 for a true condition, else 0. -/
def oneIf (c : Prop) [Decidable c] : Word := if c then 1 else 0

/-- The quotient and the remainder of R86 on numbers: the value for a zero divisor is given by the caller. -/
def divided (zero : Word) (b : Int) (v : Int) : Word := if b = 0 then zero else BitVec.ofInt 64 v

/-- What R109 writes to xd for the two-operand operations, on the values a and b of xa and xb. -/
def srResult (i : Instr) (a b : Word) : Option (SrOp × Word) :=
  match i with
  | .add o => some (o, BitVec.ofInt 64 (a.toInt + b.toInt))
  | .sub o => some (o, BitVec.ofInt 64 (a.toInt - b.toInt))
  | .mul o => some (o, BitVec.ofInt 64 (a.toInt * b.toInt))
  | .mulh o => some (o, BitVec.ofInt 64 (a.toInt * b.toInt / 2 ^ 64))
  | .mulhn o => some (o, BitVec.ofNat 64 (a.toNat * b.toNat / 2 ^ 64))
  | .div o => some (o, divided (BitVec.allOnes 64) b.toInt (a.toInt.tdiv b.toInt))
  | .divn o => some (o, divided (BitVec.allOnes 64) b.toNat (a.toNat / b.toNat : Nat))
  | .rem o => some (o, divided a b.toInt (a.toInt.tmod b.toInt))
  | .remn o => some (o, divided a b.toNat (a.toNat % b.toNat : Nat))
  | .and o => some (o, a &&& b)
  | .or o => some (o, a ||| b)
  | .xor o => some (o, a ^^^ b)
  | .sll o => some (o, BitVec.ofNat 64 (a.toNat * 2 ^ (b.toNat % 64)))
  | .srl o => some (o, BitVec.ofNat 64 (a.toNat / 2 ^ (b.toNat % 64)))
  | .sra o => some (o, BitVec.ofInt 64 (a.toInt / 2 ^ (b.toNat % 64)))
  | .slt o => some (o, oneIf (a.toInt < b.toInt))
  | .sltn o => some (o, oneIf (a.toNat < b.toNat))
  | .min o => some (o, if a.toInt ≤ b.toInt then a else b)
  | .max o => some (o, if b.toInt ≤ a.toInt then a else b)
  | .minn o => some (o, if a.toNat ≤ b.toNat then a else b)
  | .maxn o => some (o, if b.toNat ≤ a.toNat then a else b)
  | _ => none

/-- What R110 writes to xd, on the value a of xa; a shift beyond 63 has no result. -/
def siResult (i : Instr) (a : Word) : Option (SiOp × Word) :=
  match i with
  | .addi o => some (o, BitVec.ofInt 64 (a.toInt + o.imm.toInt))
  | .andi o => some (o, a &&& BitVec.ofInt 64 o.imm.toInt)
  | .ori o => some (o, a ||| BitVec.ofInt 64 o.imm.toInt)
  | .xori o => some (o, a ^^^ BitVec.ofInt 64 o.imm.toInt)
  | .slti o => some (o, oneIf (a.toInt < o.imm.toInt))
  | .slli o => if o.imm.toNat < 64 then some (o, BitVec.ofNat 64 (a.toNat * 2 ^ o.imm.toNat)) else none
  | .srli o => if o.imm.toNat < 64 then some (o, BitVec.ofNat 64 (a.toNat / 2 ^ o.imm.toNat)) else none
  | .srai o => if o.imm.toNat < 64 then some (o, BitVec.ofInt 64 (a.toInt / 2 ^ o.imm.toNat)) else none
  | _ => none

/-- The shifts by an immediate. -/
def immShiftOp (i : Instr) : Option SiOp :=
  match i with
  | .slli o | .srli o | .srai o => some o
  | _ => none

end Sys2Proof.Claims

/-- ADD to MAXN (R109, R86): a next state in which xd alone is written, with the value of the table. -/
def Obligations.IntegerOperationsComplete : Prop :=
  ∀ (i : Instr) (s : State) (o : SrOp) (v : Word),
    srResult i (s.rx o.xa) (s.rx o.xb) = some (o, v) → Readable s [o.xa, o.xb] o.xd →
    exec i s = .next (done (s.setX o.xd v))

/-- The operations of formats SI and SL (R110, R111). -/
def Obligations.ImmediateOperationsComplete : Prop :=
  (∀ (i : Instr) (s : State) (o : SiOp) (v : Word),
    siResult i (s.rx o.xa) = some (o, v) → Readable s [o.xa] o.xd → exec i s = .next (done (s.setX o.xd v))) ∧
  (∀ (i : Instr) (s : State) (o : SiOp), immShiftOp i = some o → 64 ≤ o.imm.toNat → Readable s [o.xa] o.xd →
    exec i s = .next (s.takeFault { cause := cILLEGAL_OPERAND, detail := 0 })) ∧
  (∀ (s : State) (o : SlOp), Readable s [] o.xd →
    exec (.li o) s = .next (done (s.setX o.xd (BitVec.ofInt 64 o.imm.toInt))) ∧
    ∀ v, exec (.lil o v) s = .next (done (s.setX o.xd v))) ∧
  (∀ (s : State) (o : SlOp), Readable s [o.xd] o.xd →
    exec (.lih o) s = .next (done (s.setX o.xd (BitVec.ofInt 64 (o.imm.toInt * 2 ^ 18 + (s.rx o.xd).toNat % 2 ^ 18))))) ∧
  (∀ (s : State) (o : SlOp), s.bank.view.pending o.xd = true → exec (.lih o) s = .next (waits s))

/-- CLZ, CTZ and POPC (R109), their counts told by the bits of a. -/
def Obligations.BitCountsComplete : Prop :=
  ∀ (s : State) (o : SrOp), Readable s [o.xa] o.xd →
    (∃ n, exec (.clz o) s = .next (done (s.setX o.xd (BitVec.ofNat 64 n))) ∧ n ≤ 64 ∧
      (∀ k, k < n → (s.rx o.xa).getLsbD (63 - k) = false) ∧ (n < 64 → (s.rx o.xa).getLsbD (63 - n) = true)) ∧
    (∃ n, exec (.ctz o) s = .next (done (s.setX o.xd (BitVec.ofNat 64 n))) ∧ n ≤ 64 ∧
      (∀ k, k < n → (s.rx o.xa).getLsbD k = false) ∧ (n < 64 → (s.rx o.xa).getLsbD n = true)) ∧
    exec (.popc o) s =
      .next (done (s.setX o.xd (BitVec.ofNat 64 ((List.range 64).countP fun k => (s.rx o.xa).getLsbD k))))

/-- Scalar registers (R21). -/
def Obligations.ScalarRegisterWrite : Prop :=
  (∀ s : State, s.rx 0 = 0) ∧
  (∀ (s : State) (v : Word), s.setX 0 v = s) ∧
  (∀ (s : State) (a : XReg) (v : Word), a ≠ 0 →
    mget 0 (s.setX a v).bank.regs.x a.toNat = v ∧
    (∀ b : XReg, b ≠ a → mget 0 (s.setX a v).bank.regs.x b.toNat = mget 0 s.bank.regs.x b.toNat) ∧
    (s.setX a v).bank.regs.v = s.bank.regs.v ∧ (s.setX a v).bank.regs.p = s.bank.regs.p ∧
    (s.setX a v).bank.ctl = s.bank.ctl ∧ (s.setX a v).bank.exts = s.bank.exts ∧ (s.setX a v).bank.tiles = s.bank.tiles ∧
    (s.setX a v).bank.pc = s.bank.pc ∧ (s.setX a v).bank.cur = s.bank.cur ∧ ∀ x, (s.setX a v).byteAt x = s.byteAt x)

/-- The stall of R22 for ADD to MAXN. -/
def Obligations.PendingOperandStalls : Prop :=
  ∀ (i : Instr) (s : State) (o : SrOp) (v : Word),
    srResult i (s.rx o.xa) (s.rx o.xb) = some (o, v) →
    (s.bank.view.pending o.xa = true ∨ s.bank.view.pending o.xb = true ∨ s.bank.regs.pending o.xd = true) →
    exec i s = .next (waits s)

namespace Sys2Proof.Claims

/-- ILLEGAL_OPERAND taken (R20, R62). -/
def illegalTaken (s : State) : State := s.takeFault { cause := cILLEGAL_OPERAND, detail := 0 }

/-- A place of space 000 or 010, or of space 001 or 011 with the fields that R42 marks zero at zero, moved by R115: the word it
becomes when the moved fields stay in their ranges. -/
def movedPlace (a b : Word) : Option Word :=
  let n := a.toNat
  let space := n / 2 ^ 61
  let move (bits : Nat) : Option Word :=
    let r : Int := (n % 2 ^ bits : Nat) + b.toInt
    if 0 ≤ r ∧ r < 2 ^ bits then some (BitVec.ofInt 64 ((n / 2 ^ bits * 2 ^ bits : Nat) + r)) else none
  let row : Int := (n / 2 ^ 32 % 2 ^ 16 : Nat) + (b.extractLsb' 32 32).toInt
  let col : Int := (n / 2 ^ 16 % 2 ^ 16 : Nat) + (b.extractLsb' 0 32).toInt
  let tile : Option Word :=
    if n % 2 ^ 16 = 0 ∧ 0 ≤ row ∧ row < 2 ^ 16 ∧ 0 ≤ col ∧ col < 2 ^ 16 then
      some (BitVec.ofInt 64 ((n / 2 ^ 48 * 2 ^ 48 : Nat) + row * 2 ^ 32 + col * 2 ^ 16)) else none
  if space = 0 then move 57
  else if space = 2 then move 44
  else if space = 1 ∧ n / 2 ^ 48 % 2 ^ 5 = 0 then tile
  else if space = 3 ∧ n / 2 ^ 48 % 2 = 0 then tile
  else none

/-- Extent n holds the address a, and permits writes when w asks for it (R116). -/
def holdsAddr (s : State) (n : Nat) (a : Word) (w : Bool) : Prop :=
  (s.ext n).len ≠ 0 ∧ (s.ext n).base.toInt ≤ a.toInt ∧ a.toInt - (s.ext n).base.toInt < (s.ext n).len.toNat ∧
  (w = true → (s.ext n).flags.testBit 1 = true)

/-- The value of XLOOK for an address that an extent holds: the place in the lowest extent that does (R116). -/
def xlookValue (s : State) (n : Nat) (a : Word) : Word := BitVec.ofNat 64 (n * 2 ^ 57) + (a - (s.ext n).base)

end Sys2Proof.Claims

/-- The place builders (R112 to R114). -/
def Obligations.PlaceBuildersComplete : Prop :=
  ∀ (s : State) (o : SrOp), Readable s [o.xa, o.xb] o.xd →
    let a := (s.rx o.xa).toNat
    let b := (s.rx o.xb).toNat
    let writes (i : Instr) (v : Nat) : Prop := exec i s = .next (done (s.setX o.xd (BitVec.ofNat 64 v)))
    let faults (i : Instr) : Prop := exec i s = .next (illegalTaken s)
    (a + b < 2 ^ 57 → writes (.plx o) (o.fn.toNat * 2 ^ 57 + (a + b))) ∧ (2 ^ 57 ≤ a + b → faults (.plx o)) ∧
    (a < 2 ^ 8 ∧ b < 2 ^ 32 → writes (.plt o) (2 ^ 61 + a * 2 ^ 53 + b / 2 ^ 16 * 2 ^ 32 + b % 2 ^ 16 * 2 ^ 16)) ∧
    (¬ (a < 2 ^ 8 ∧ b < 2 ^ 32) → faults (.plt o) ∧ faults (.pltPeer o)) ∧
    (a < 2 ^ 8 ∧ b < 2 ^ 32 → 32 ≤ o.fn.toNat → o.fn.toNat < 48 →
      writes (.pltPeer o) (3 * 2 ^ 61 + (o.fn.toNat - 32) * 2 ^ 57 + a * 2 ^ 49 + b / 2 ^ 16 * 2 ^ 32 + b % 2 ^ 16 * 2 ^ 16)) ∧
    (a < 2 ^ 13 ∧ b < 2 ^ 44 → writes (.plr o) (2 * 2 ^ 61 + a * 2 ^ 48 + o.fn.toNat * 2 ^ 44 + b)) ∧
    (¬ (a < 2 ^ 13 ∧ b < 2 ^ 44) → faults (.plr o))

/-- PADD (R115). -/
def Obligations.PaddMovesPlaces : Prop :=
  ∀ (s : State) (o : SrOp), Readable s [o.xa, o.xb] o.xd →
    (∀ v, movedPlace (s.rx o.xa) (s.rx o.xb) = some v → exec (.padd o) s = .next (done (s.setX o.xd v))) ∧
    (movedPlace (s.rx o.xa) (s.rx o.xb) = none → exec (.padd o) s = .next (illegalTaken s))

/-- XLOOK, XLOOK.W (R116) and WIDF (R287). -/
def Obligations.LookupsComplete : Prop :=
  (∀ (s : State) (o : SrOp) (i : Instr) (w : Bool), ((i = .xlook o ∧ w = false) ∨ (i = .xlookW o ∧ w = true)) →
    Readable s [o.xa] o.xd →
    (∀ n, n < 16 → canonical (s.rx o.xa) = true → holdsAddr s n (s.rx o.xa) w → (∀ m, m < n → ¬ holdsAddr s m (s.rx o.xa) w) →
      exec i s = .next (done (s.setX o.xd (xlookValue s n (s.rx o.xa))))) ∧
    (canonical (s.rx o.xa) = true → (∀ n, n < 16 → ¬ holdsAddr s n (s.rx o.xa) w) →
      exec i s = .next (s.takeFault { cause := cUNDECLARED_ACCESS, detail := 0, place := s.rx o.xa })) ∧
    (canonical (s.rx o.xa) = false →
      exec i s = .next (s.takeFault { cause := cNONCANONICAL, detail := 0, place := s.rx o.xa }))) ∧
  (∀ (s : State) (o : SiOp) (k : Kernel), Readable s [o.xa] o.xd → s.myKernel = some k →
    (∀ w, k.hdr.widths[o.imm.toNat]? = some w → o.imm.toNat < 6 →
      exec (.widf o) s = .next (done (s.setX o.xd (BitVec.ofNat 64
        ((s.rx o.xa).toNat / 2 ^ ((k.hdr.widths.drop (o.imm.toNat + 1)).foldl (· + ·) 0) % 2 ^ w))))) ∧
    (6 ≤ o.imm.toNat → exec (.widf o) s = .next (illegalTaken s)))

namespace Sys2Proof.Claims

/-- The bank holds no more than it declared, and the pool of the level has the granules (R118). -/
def canAllocate (s : State) (sh : Shape) : Prop :=
  s.bank.granules + sh.granules ≤ s.bank.id.tileBound ∧ sh.granules ≤ s.pool sh.level

/-- The state after handle h is allocated with shape word w (R118): granules taken, every byte zero, head and tail zero. -/
def allocated (s : State) (w : Word) (sh : Shape) (h : Nat) : State :=
  (s.modPool s.cur sh.level (· - sh.granules)).setTile h (some (freshTile w sh.granules))

/-- A tile in use by a bound stream, as its race or as the base of its pattern, or named by PCFG (R117). -/
def InUse (s : State) (h : Nat) (t : Tile) : Prop :=
  t.lock ≠ none ∨ (∃ x ∈ s.bank.streams, namesTile (coreOf s.cur) h (BitVec.ofNat 64 (recNat x.recd 0 8)) = true) ∨
    s.bank.pcfgTile h = true

/-- A handle that is ALLOCATED and not in use (R117). -/
def Unused (s : State) (h : Nat) (t : Tile) : Prop := s.tile h = some t ∧ ¬ InUse s h t

/-- A handle that is ALLOCATED, not in use, and named by no pending operation (R119). -/
def Idle (s : State) (h : Nat) (t : Tile) : Prop := Unused s h t ∧ s.bank.usesTile (coreOf s.cur) h = false

end Sys2Proof.Claims

/-- Tile management (R118 to R120). -/
def Obligations.TileManagementCompletes : Prop :=
  (∀ (s : State) (o : SrOp) (sh : Shape) (h : Nat), Readable s [o.xa] o.xd → shapeOf (s.rx o.xa) = some sh → h < 256 →
    s.tile h = none → (∀ k, k < h → s.tile k ≠ none) → canAllocate s sh →
    exec (.talloc o) s = .next (done ((allocated s (s.rx o.xa) sh h).setX o.xd (BitVec.ofNat 64 h)))) ∧
  (∀ (s : State) (o : SrOp) (sh : Shape), Readable s [o.xa, o.xb] o.xd → shapeOf (s.rx o.xa) = some sh →
    (s.rx o.xb).toNat < 256 → s.tile (s.rx o.xb).toNat = none → canAllocate s sh →
    exec (.tallocHandle o) s = .next (done ((allocated s (s.rx o.xa) sh (s.rx o.xb).toNat).setX o.xd (s.rx o.xb)))) ∧
  (∀ (s : State) (o : SrOp) (t : Tile), Readable s [o.xa] 0 → (s.rx o.xa).toNat < 256 → Idle s (s.rx o.xa).toNat t →
    exec (.tfree o) s =
      .next (done ((s.modPool s.cur (shapeRaw t.shape).level (· + t.gran)).setTile (s.rx o.xa).toNat none))) ∧
  (∀ (s : State) (o : SrOp) (t : Tile) (sh : Shape), Readable s [o.xa, o.xb] 0 → (s.rx o.xa).toNat < 256 →
    shapeOf (s.rx o.xb) = some sh → Idle s (s.rx o.xa).toNat t → sh.level = (shapeRaw t.shape).level → sh.granules ≤ t.gran →
    let same := sh.race = (shapeRaw t.shape).race ∧ sh.slots = (shapeRaw t.shape).slots
    exec (.tshape o) s = .next (done (s.setTile (s.rx o.xa).toNat
      (some { t with shape := s.rx o.xb, head := if same then t.head else 0, tail := if same then t.tail else 0 }))))

/-- The faults of tile management (R117 to R120). -/
def Obligations.TileManagementFaults : Prop :=
  let tile (d : Nat) (s : State) : State := s.takeFault { cause := cTILE_FAULT, detail := d }
  (∀ (s : State) (o : SrOp), Readable s [o.xa] o.xd →
    (shapeOf (s.rx o.xa) = none → exec (.talloc o) s = .next (illegalTaken s)) ∧
    ∀ sh, shapeOf (s.rx o.xa) = some sh →
      ((∀ h, h < 256 → s.tile h ≠ none) → exec (.talloc o) s = .next (tile 3 s)) ∧
      ((∃ h, h < 256 ∧ s.tile h = none) → s.bank.id.tileBound < s.bank.granules + sh.granules →
        exec (.talloc o) s = .next (tile 2 s)) ∧
      ((∃ h, h < 256 ∧ s.tile h = none) → s.bank.granules + sh.granules ≤ s.bank.id.tileBound → s.pool sh.level < sh.granules →
        exec (.talloc o) s = .next (tile 1 s))) ∧
  (∀ (s : State) (o : SrOp) (sh : Shape), Readable s [o.xa, o.xb] o.xd → shapeOf (s.rx o.xa) = some sh →
    (s.rx o.xb).toNat < 256 →
    (s.tile (s.rx o.xb).toNat ≠ none → exec (.tallocHandle o) s = .next (tile 3 s)) ∧
    (s.tile (s.rx o.xb).toNat = none → s.bank.id.tileBound < s.bank.granules + sh.granules →
      exec (.tallocHandle o) s = .next (tile 2 s)) ∧
    (s.tile (s.rx o.xb).toNat = none → s.bank.granules + sh.granules ≤ s.bank.id.tileBound → s.pool sh.level < sh.granules →
      exec (.tallocHandle o) s = .next (tile 1 s))) ∧
  (∀ (s : State) (o : SrOp), Readable s [o.xa, o.xb] o.xd → shapeOf (s.rx o.xa) = none →
    exec (.tallocHandle o) s = .next (illegalTaken s)) ∧
  (∀ (s : State) (o : SrOp), Readable s [o.xa, o.xb] 0 → shapeOf (s.rx o.xb) = none →
    exec (.tshape o) s = .next (illegalTaken s)) ∧
  (∀ (s : State) (o : SrOp), Readable s [o.xa] 0 → (s.rx o.xa).toNat < 256 →
    (s.tile (s.rx o.xa).toNat = none → exec (.tfree o) s = .next (tile 4 s)) ∧
    (∀ t, s.tile (s.rx o.xa).toNat = some t → InUse s (s.rx o.xa).toNat t →
      exec (.tfree o) s = .next (tile 7 s))) ∧
  (∀ (s : State) (o : SrOp) (sh : Shape), Readable s [o.xa, o.xb] 0 → (s.rx o.xa).toNat < 256 → shapeOf (s.rx o.xb) = some sh →
    (s.tile (s.rx o.xa).toNat = none → exec (.tshape o) s = .next (tile 4 s)) ∧
    (∀ t, s.tile (s.rx o.xa).toNat = some t → InUse s (s.rx o.xa).toNat t →
      exec (.tshape o) s = .next (tile 7 s)) ∧
    (∀ t, Unused s (s.rx o.xa).toNat t → sh.level ≠ (shapeRaw t.shape).level → exec (.tshape o) s = .next (illegalTaken s)) ∧
    (∀ t, Unused s (s.rx o.xa).toNat t → sh.level = (shapeRaw t.shape).level → t.gran < sh.granules →
      exec (.tshape o) s = .next (tile 6 s)))

/-- TQRY (R121). -/
def Obligations.TileQueriesComplete : Prop :=
  ∀ (s : State) (o : SrOp), Readable s [o.xa] o.xd →
    let a := (s.rx o.xa).toNat
    (a < 256 → o.fn.toNat < 3 → s.tile a = none → exec (.tqry o) s = .next (done (s.setX o.xd 0))) ∧
    (∀ t, a < 256 → s.tile a = some t →
      (o.fn.toNat = 0 → exec (.tqry o) s = .next (done (s.setX o.xd t.shape))) ∧
      (o.fn.toNat = 1 → (shapeRaw t.shape).race = true →
        exec (.tqry o) s = .next (done (s.setX o.xd (BitVec.ofNat 64 (t.head * 2 ^ 32 + t.tail))))) ∧
      (o.fn.toNat = 1 → (shapeRaw t.shape).race = false → exec (.tqry o) s = .next (done (s.setX o.xd 0))) ∧
      (o.fn.toNat = 2 → exec (.tqry o) s = .next (done (s.setX o.xd (BitVec.ofNat 64 t.gran))))) ∧
    (o.fn.toNat = 3 → a < 2 → exec (.tqry o) s = .next (done (s.setX o.xd (BitVec.ofNat 64 (s.pool a))))) ∧
    (o.fn.toNat = 4 → a < 256 → exec (.tqry o) s = .next (done (s.setX o.xd (BitVec.ofNat 64 s.bank.granules)))) ∧
    ((o.fn.toNat ≠ 3 ∧ 256 ≤ a) ∨ (o.fn.toNat = 3 ∧ 2 ≤ a) ∨ 5 ≤ o.fn.toNat → exec (.tqry o) s = .next (illegalTaken s))

namespace Sys2Proof.Claims

/-- The branch to an address made (R123): the bundle's successor is set, nothing else changes. -/
def goes (s : State) (t : Word) : State := s.upd fun b => { b with cur := b.cur.map fun r => { r with npc := some t } }

/-- The target of a distance d in 4-byte units from the bundle's first byte (R68). -/
def away (s : State) (d : Int) : Word := s.bank.bundleAt + BitVec.ofInt 64 (4 * d)

/-- The conditions of the compare branches (R124). -/
def compareBranch (i : Instr) (a b : Word) : Option (SbOp × Bool) :=
  match i with
  | .beq o => some (o, decide (a = b))
  | .bne o => some (o, decide (a ≠ b))
  | .blt o => some (o, decide (a.toInt < b.toInt))
  | .bge o => some (o, decide (b.toInt ≤ a.toInt))
  | .bltn o => some (o, decide (a.toNat < b.toNat))
  | .bgen o => some (o, decide (b.toNat ≤ a.toNat))
  | _ => none

/-- Bit i of the tested bits of R125, for the size code in bits 23..22 of the word. -/
def testedBit (p : PBits) (o : SbOp) (i : Nat) : Bool := p.getLsbD (i * 2 ^ (o.xa.toNat / 16))

/-- How many bits are tested. -/
def testedCount (o : SbOp) : Nat := 256 / 2 ^ (o.xa.toNat / 16)

/-- The conditions of the predicate branches (R125). -/
def predicateBranch (i : Instr) (p : PBits) : Option (SbOp × Bool) :=
  match i with
  | .bany o => some (o, decide (∃ k, k < testedCount o ∧ testedBit p o k = true))
  | .ball o => some (o, decide (∀ k, k < testedCount o → testedBit p o k = true))
  | .bnone o => some (o, decide (∀ k, k < testedCount o → testedBit p o k = false))
  | _ => none

end Sys2Proof.Claims

/-- The branches (R123 to R125). -/
def Obligations.BranchesComplete : Prop :=
  (∀ (i : Instr) (s : State) (o : SbOp) (c : Bool), compareBranch i (s.rx o.xa) (s.rx o.xb) = some (o, c) →
    Readable s [o.xa, o.xb] 0 →
    (c = true → canonical (away s o.off.toInt) = true → exec i s = .next (done (goes s (away s o.off.toInt)))) ∧
    (c = false → exec i s = .next (done s)) ∧
    (c = true → canonical (away s o.off.toInt) = false →
      exec i s = .next (s.takeFault { cause := cNONCANONICAL, detail := 0, place := away s o.off.toInt }))) ∧
  (∀ (i : Instr) (s : State) (o : SbOp) (c : Bool),
    predicateBranch i (mget 0 s.bank.view.p (s.pkey o.xb)) = some (o, c) → s.poisoned (512 + s.pkey o.xb) = false →
    (c = true → canonical (away s o.off.toInt) = true → exec i s = .next (done (goes s (away s o.off.toInt)))) ∧
    (c = false → exec i s = .next (done s)) ∧
    (c = true → canonical (away s o.off.toInt) = false →
      exec i s = .next (s.takeFault { cause := cNONCANONICAL, detail := 0, place := away s o.off.toInt })))

/-- The unconditional transfers and the loop (R126, R127). -/
def Obligations.TransfersComplete : Prop :=
  (∀ (s : State) (o : SjOp), canonical (away s o.off.toInt) = true →
    exec (.j o) s = .next (done (goes s (away s o.off.toInt)))) ∧
  (∀ (s : State) (o : SjOp), Readable s [] o.xl → canonical (away s o.off.toInt) = true →
    exec (.call o) s = .next (done ((goes s (away s o.off.toInt)).setX o.xl s.sequel))) ∧
  (∀ (s : State) (o : SrOp), Readable s [o.xa] 0 → canonical (s.rx o.xa) = true →
    ((s.rx o.xa).toNat % 4 = 0 → exec (.ret o) s = .next (done (goes s (s.rx o.xa)))) ∧
    ((s.rx o.xa).toNat % 4 ≠ 0 → exec (.ret o) s = .next (illegalTaken s))) ∧
  (∀ (s : State) (o : SjOp), canonical (away s o.off.toInt) = true →
    let c := s.bank.ctl
    let n : Word := if c.lcount = 0 then 0 else c.lcount - 1
    let t := if n = 0 then s else goes s (away s o.off.toInt)
    exec (.loopb o) s = .next (done (((t.queueCr 0x20 (BitVec.ofNat 64 ((c.rotV + s.rotM - 1) % s.rotM)) 1).queueCr 0x21
      (BitVec.ofNat 64 ((c.rotP + 47) % 48)) 1).queueCr 0x22 n 1)))

namespace Sys2Proof.Claims

/-- The control registers of R33 with the values that CRR gives; the step sets, EFRs and extents follow. -/
def crTable (s : State) : List (Nat × Word) :=
  let b := s.bank
  [ (0x000, b.ctl.frm.zeroExtend 64), (0x001, b.ctl.fflags.zeroExtend 64), (0x002, b.ctl.seed.zeroExtend 64),
    (0x020, BitVec.ofNat 64 b.ctl.rotV), (0x021, BitVec.ofNat 64 b.ctl.rotP), (0x022, b.ctl.lcount), (0x030, b.ctl.pcfg),
    (0x040, BitVec.ofNat 64 b.id.capVr), (0x050, b.ctl.cycle), (0x051, BitVec.ofNat 64 (s.time / 504)),
    (0x061, BitVec.ofNat 64 b.id.task), (0x062, BitVec.ofNat 64 b.id.kid), (0x063, BitVec.ofNat 64 b.id.ctx),
    (0x070, b.ctl.nancnt) ] ++
  (List.range 5).map (fun k => (0x010 + k, mget 0 b.ctl.efr k)) ++
  (List.range 16).map (fun n => (0x200 + n, (s.ext n).base)) ++ (List.range 16).map (fun n => (0x210 + n, (s.ext n).len)) ++
  (List.range 16).map (fun n => (0x220 + n, BitVec.ofNat 64 (s.ext n).flags))

/-- The new value that CRW, CRS and CRC make of the old one and the operand (R129). -/
def crNew (i : Instr) (old a : Word) : Option (SiOp × Word) :=
  match i with
  | .crw o => some (o, a)
  | .crs o => some (o, old ||| a)
  | .crc o => some (o, old &&& ~~~a)
  | _ => none

/-- The eight kennel bytes at an offset, as the bundle reads them. -/
def kennelWord (s : State) (off : Nat) : Word :=
  BitVec.ofNat 64 (leNat ((List.range 8).map fun k => mget 0 s.bank.kview (off + k)))

end Sys2Proof.Claims

/-- CRR (R129). -/
def Obligations.ControlRegisterReads : Prop :=
  ∀ (s : State) (o : SiOp), Readable s [] o.xd →
    (∀ v, (o.imm.toNat, v) ∈ crTable s → exec (.crr o) s = .next (done (s.setX o.xd v))) ∧
    (∀ k slot, k < 16 → slot < 6 → o.imm.toNat = 0x100 + 8 * k + slot →
      exec (.crr o) s = .next (done (s.setX o.xd (mget 0 s.bank.ctl.steps (6 * k + slot))))) ∧
    (o.imm.toNat = 0x003 ∨ o.imm.toNat = 0x015 ∨ o.imm.toNat = 0x106 ∨ 0x230 ≤ o.imm.toNat →
      exec (.crr o) s = .next (illegalTaken s))

/-- CRW, CRS and CRC (R129, R130). -/
def Obligations.ControlRegisterWrites : Prop :=
  ∀ (i : Instr) (s : State) (o : SiOp) (old new : Word), crNew i old (s.rx o.xa) = some (o, new) → Readable s [o.xa] o.xd →
    let c := s.bank.ctl
    let n := o.imm.toNat
    let queued (k : Nat) : Prop := exec i s = .next (done ((s.queueCr n new k).setX o.xd old))
    let now (f : Ctl → Ctl) : Prop := exec i s = .next (done ((s.upd fun b => { b with ctl := f b.ctl }).setX o.xd old))
    (n = 0x000 → old = c.frm.zeroExtend 64 → (s.rx o.xa).toNat < 8 → new.toNat < 6 → queued 1) ∧
    (n = 0x001 → old = c.fflags.zeroExtend 64 → (s.rx o.xa).toNat < 64 → now fun c => { c with fflags := new.extractLsb' 0 6 }) ∧
    (n = 0x002 → old = c.seed.zeroExtend 64 → (s.rx o.xa).toNat < 2 ^ 32 → new ≠ 0 →
      now fun c => { c with seed := new.extractLsb' 0 32 }) ∧
    (n = 0x070 → old = c.nancnt → now fun c => { c with nancnt := new }) ∧
    (n = 0x020 → old = BitVec.ofNat 64 c.rotV → new.toNat < s.rotM → queued 1) ∧
    (n = 0x021 → old = BitVec.ofNat 64 c.rotP → new.toNat < 48 → queued 1) ∧
    (n = 0x022 → old = c.lcount → queued 1) ∧
    (0x100 ≤ n → n < 0x180 → n % 8 < 6 → old = mget 0 c.steps (6 * ((n - 0x100) / 8) + n % 8) →
      (s.rx o.xa).toNat % 256 = 0 → queued 1) ∧
    (0x010 ≤ n → n ≤ 0x014 → old = mget 0 c.efr (n - 0x010) → s.rx o.xa &&& ~~~0x1C7FFFFF = 0 →
      bitsOf new.toNat 28 26 ≠ 7 → (new.toNat % 2 = 1 → bitsOf new.toNat 5 1 ≠ 0) → queued 3) ∧
    (n = 0x040 ∨ n = 0x051 ∨ n = 0x061 ∨ (0x200 ≤ n ∧ n < 0x230) → exec i s = .next (illegalTaken s)) ∧
    (n = 0x000 → old = c.frm.zeroExtend 64 → (new = 6 ∨ new = 7) → exec i s = .next (illegalTaken s)) ∧
    (n = 0x002 → old = c.seed.zeroExtend 64 → new = 0 → exec i s = .next (illegalTaken s)) ∧
    (n = 0x021 → old = BitVec.ofNat 64 c.rotP → 48 ≤ new.toNat → exec i s = .next (illegalTaken s))

/-- The kennel word, order markers, the end of a work item and YIELD (R128, R131, R132, R134, R288). -/
def Obligations.KennelOrderAndEndComplete : Prop :=
  (∀ (s : State) (o : SkOp), Readable s [] o.x →
    (∀ k, k < 8 → mget false s.bank.kpoison ((8 * o.off.toNat + k) % 65536) = false) →
    exec (.kld o) s = .next (done (s.setX o.x (kennelWord s (8 * o.off.toNat))))) ∧
  (∀ (s : State) (o : SkOp), Readable s [o.x] 0 →
    (o.g = 0 → exec (.kst o) s = .next (done (s.kputs (8 * o.off.toNat) (leBytes 8 (s.rx o.x).toNat)))) ∧
    (o.g = 1 → s.poisoned (512 + o.pg.toNat) = false →
      exec (.kst o) s = .next (done (if (mget 0 s.bank.view.p o.pg.toNat).getLsbD 0 = (o.pol == 0) then
        s.kputs (8 * o.off.toNat) (leBytes 8 (s.rx o.x).toNat) else s)))) ∧
  (∀ (s : State) (o : SiOp),
    let scope := o.imm.toNat % 8
    let kind := o.imm.toNat / 16 % 4
    (4 < scope → exec (.fence o) s = .next (illegalTaken s)) ∧
    (scope ≤ 2 → kind = 0 → s.bank.heldBack = false → exec (.fence o) s = .next (done s)) ∧
    (scope = 3 ∨ scope = 4 → kind = 0 → s.bank.heldBack = false →
      exec (.fence o) s = .next (done (s.dropCtx (dieOf s.cur) s.bank.id.ctx))) ∧
    (scope ≤ 4 → kind ≠ 0 → exec (.fence o) s = .next (done (s.enqueue (.fence scope kind s.wtNext) 0 0)))) ∧
  (∀ (s : State) (o : SrOp), Readable s [] o.xd →
    exec (.mark o) s = .next (done ((s.enqueue (.mark o.xd.toNat) 0 0).markTok o.xd s.bank.ord true))) ∧
  (∀ (s : State) (o : SrOp),
    (o.fn.toNat < 2 → exec (.halt o) s =
      .next (done (s.upd fun b => { b with cur := b.cur.map fun r => { r with halt := some (o.fn == 1) } }))) ∧
    (2 ≤ o.fn.toNat → exec (.halt o) s = .next (illegalTaken s))) ∧
  (∀ (s : State) (o : SrOp),
    ((s.getBank (otherBank s.cur)).run = .ready →
      exec (.yieldS o) s = .next (done (s.modCore (coreOf s.cur) fun c => { c with give := true }))) ∧
    ((s.getBank (otherBank s.cur)).run ≠ .ready → exec (.yieldS o) s = .next (done s)))

/-- TRAP and BRK (R133): the fault is their effect. -/
def Obligations.TrapsTakeTheirFault : Prop :=
  ∀ (s : State) (o : SiOp) (i : Instr) (cause : Nat) (place : Word),
    ((i = .trap o ∧ cause = cTRAP ∧ place = s.rx o.xa ∧ Readable s [o.xa] 0) ∨ (i = .brk o ∧ cause = cBREAKPOINT ∧ place = 0)) →
    let c := s.bank.id.ctx
    (o.imm.toNat ≤ 255 → (s.ctx c).faults.length < faCap (s.ctx c).fa →
      ∃ t r, exec i s = .next t ∧ t.bank.run = .faulted ∧ (t.ctx c).faults = (s.ctx c).faults ++ [⟨r, .bank s.cur⟩] ∧
        r.cause = cause ∧ r.detail = o.imm.toNat ∧ r.place = place ∧ r.slot = s.bank.slot ∧ r.core = s.cur / 2 ∧
        r.bank = s.cur % 2 ∧ r.kernel = s.bank.id.kid ∧ r.work = s.bank.id.wid ∧ r.bundle = s.bank.bundleAt ∧
        r.seq = (s.ctx c).fseq ∧
        ∀ q, t.bank.cur = some q → ∃ p, s.bank.cur = some p ∧ q.todo = p.todo.erase s.bank.slot) ∧
    (255 < o.imm.toNat → exec i s = .next (illegalTaken s))

namespace Sys2Proof.Claims

/-- The exact integer results of R141 to R143 for the elements a, b, c of kind k: the operation word, whether vc is read, whether
PACKED is a format of it, and the bits and flags stored. -/
def vecIntOp (i : Instr) (k : IKind) (a b c : Int) : Option (VrOp × Bool × Bool × (Nat × Nat)) :=
  match i with
  | .vadd o => some (o, false, true, placeInt (a + b) k (o.sm == 1))
  | .vsub o => some (o, false, true, placeInt (a - b) k (o.sm == 1))
  | .vadds o => some (o, false, true, placeInt (a + b) k true)
  | .vsubs o => some (o, false, true, placeInt (a - b) k true)
  | .vmul o => some (o, false, false, placeInt (a * b) k (o.sm == 1))
  | .vmad o => some (o, true, false, placeInt (a * b + c) k (o.sm == 1))
  | .vabsd o => some (o, false, false, placeInt (max a b - min a b) k (o.sm == 1))
  | _ => none

/-- The element values of three registers, in step. -/
def triples (f : Nat) (e : Efr) (a b c : VReg) : List (Int × Int × Int) :=
  let k := ikindOf f e
  (a.elems f e).zipWith (fun x y => (readInt k e x, readInt k e y.1, readInt k e y.2)) ((b.elems f e).zip (c.elems f e))

/-- The flags of all elements merged (R96). -/
def allFlags (rs : List (Nat × Nat)) : Nat := rs.foldl (fun a r => a ||| r.2) 0

end Sys2Proof.Claims

/-- The placing of an exact integer (R85), for plain elements. -/
def Obligations.IntegersArePlaced : Prop :=
  ∀ (w : Nat) (signed : Bool) (x : Int), 1 ≤ w →
    let lo : Int := if signed then -2 ^ (w - 1) else 0
    let hi : Int := if signed then 2 ^ (w - 1) - 1 else 2 ^ w - 1
    let k : IKind := ⟨w, signed, false⟩
    (placeInt x k false = ((x % 2 ^ w).toNat, 0)) ∧
    (lo ≤ x → x ≤ hi → placeInt x k true = ((x % 2 ^ w).toNat, 0)) ∧
    (x < lo → placeInt x k true = ((lo % 2 ^ w).toNat, fSAT)) ∧
    (hi < x → placeInt x k true = ((hi % 2 ^ w).toNat, fSAT)) ∧
    (lo ≤ x → x ≤ hi → placeExact k x = ((x % 2 ^ w).toNat, 0))

/-- The exact integer operations (R141, R142). vsrc and vdst are the operand forms: a register, or a pop or push of a stream. -/
def Obligations.IntegerVectorOperationsComplete : Prop :=
  ∀ (i : Instr) (s s1 s2 s3 t : State) (o : VrOp) (three pk : Bool) (a b c : VReg) (rs : List (Nat × Nat)),
    let f := o.fmt.toNat
    let slot := vslot o.sl
    let e := s3.efr slot
    (∀ x y z, ∃ r, vecIntOp i (ikindOf f e) x y z = some (o, three, pk, r)) →
    (isInt f = true ∨ (pk = true ∧ f = tPACKED)) → o.sm.toNat < 2 →
    s.vsrc slot o.va = .ok (a, s1) → a.tag = f → s1.vsrc slot o.vb = .ok (b, s2) → b.tag = f →
    (three = false → s3 = s2 ∧ c = VReg.zero) → (three = true → s2.vsrc slot o.vc = .ok (c, s3) ∧ c.tag = f) →
    (triples f e a b c).map (fun x => (vecIntOp i (ikindOf f e) x.1 x.2.1 x.2.2).map (·.2.2.2)) = rs.map some →
    (s3.addFlags (allFlags rs)).vdst slot o.vd (vpack f e (rs.map (·.1))) = .ok t →
    exec i s = .next (done t)

/-- Minima, maxima, fractional products and shifts (R141, R143, R144). -/
def Obligations.ShiftsAndProductsComplete : Prop :=
  (∀ (s s1 s2 t : State) (o : VrOp) (a b : VReg),
    let f := o.fmt.toNat
    let slot := vslot o.sl
    let e := s2.efr slot
    let k := ikindOf f e
    let pairs := (a.elems f e).zip (b.elems f e)
    s.vsrc slot o.va = .ok (a, s1) → a.tag = f → s1.vsrc slot o.vb = .ok (b, s2) → b.tag = f →
    let stores (g : Int → Int → Nat × Nat) (i : Instr) : Prop :=
      let rs := pairs.map fun x => g (readInt k e x.1) (readInt k e x.2)
      (s2.addFlags (allFlags rs)).vdst slot o.vd (vpack f e (rs.map (·.1))) = .ok t → exec i s = .next (done t)
    (isInt f = true ∨ f = tPACKED → stores (fun x y => placeExact k (min x y)) (.vmin o)) ∧
    (isInt f = true ∨ f = tPACKED → stores (fun x y => placeExact k (max x y)) (.vmax o)) ∧
    (isInt f = true → o.sm = 0 → stores (fun x y => ((x * y / 2 ^ k.width % 2 ^ k.width).toNat, 0)) (.vmulh o)) ∧
    (∀ code, isSigned f = true → o.sm = 2 → s.rmCode o.rnd = .ok code →
      (let r := roundElems code s2.rounding (pairs.map fun x m =>
        let y := roundShift m (readInt k e x.1 * readInt k e x.2) (k.width - 1)
        ((placeInt y.1 k true).1, y.2 ||| (placeInt y.1 k true).2))
      (s2.rounded r.2).vdst slot o.vd (vpack f e r.1) = .ok t) → exec (.vmulh o) s = .next (done t))) ∧
  (∀ (s s1 t : State) (o : VrOp) (xs : List (Nat × Nat)) (code : Nat),
    let f := o.fmt.toNat
    let slot := vslot o.sl
    let e := s1.efr slot
    let k := ikindOf f e
    s.vshift o = .ok (xs, s1) →
    (o.sm.toNat < 2 →
      (let rs := xs.map fun x => placeInt (readInt k e x.1 * (2 : Int) ^ x.2) k (o.sm == 1)
      (s1.addFlags (allFlags rs)).vdst slot o.vd (vpack f e (rs.map (·.1))) = .ok t) → exec (.vshl o) s = .next (done t)) ∧
    (s.rmCode o.rnd = .ok code →
      (let r := roundElems code s1.rounding (xs.map fun x m =>
        (wrapBits (roundShift m (readInt k e x.1) x.2).1 k.width, (roundShift m (readInt k e x.1) x.2).2))
      (s1.rounded r.2).vdst slot o.vd (vpack f e r.1) = .ok t) → exec (.vshr o) s = .next (done t)))

/-- Comparisons, selection and bitwise operations (R145 to R147). -/
def Obligations.ComparesAndBitwiseComplete : Prop :=
  (∀ (s s1 s2 : State) (o : VrOp) (a b : VReg),
    let f := o.fmt.toNat
    let slot := vslot o.sl
    let e := s2.efr slot
    let k := ikindOf f e
    isInt f = true → o.fn.toNat < 6 →
    s.vsrc slot o.va = .ok (a, s1) → a.tag = f → s1.vsrc slot o.vb = .ok (b, s2) → b.tag = f →
    let rs := ((a.elems f e).zip (b.elems f e)).map fun x =>
      condOf o.fn.toNat (decide (readInt k e x.1 < readInt k e x.2)) (x.1 == x.2)
    exec (.vcmp o) s = .next (done (s2.pset (predOf o.vd) (predOfElems k.width (nElems f e) fun j => rs[j]?.getD false)))) ∧
  (∀ (s s1 s2 t : State) (o : VgOp) (a b : VReg) (p : PBits),
    let f := o.fmt.toNat
    let slot := vslot o.sl
    let e := s2.efr slot
    sizedFmt f = true → f ≠ tRAW → s.vsrc slot o.va = .ok (a, s1) → a.tag = f →
    (o.guard = 2 → b = VReg.zero ∧ s2 = s1) → (o.guard ≠ 2 → s1.vsrc slot o.vb = .ok (b, s2) ∧ b.tag = f) →
    (o.guard ≠ 0 → s2.pget o.pg = .ok p) →
    s2.vdst slot o.vd (vpack f e (((a.elems f e).zip (b.elems f e)).zipIdx.map fun x =>
      if o.guard = 0 ∨ governs p o.pol x.2 (fmtWidth f e) then x.1.1 else x.1.2)) = .ok t →
    exec (.vsel o) s = .next (done t)) ∧
  (∀ (s s1 s2 t : State) (o : VrOp) (a b : VReg),
    let slot := vslot o.sl
    s.vsrc slot o.va = .ok (a, s1) → s1.vsrc slot o.vb = .ok (b, s2) →
    (s2.vdst slot o.vd ⟨a.bits &&& b.bits, bitsTag a b VReg.zero⟩ = .ok t → exec (.vand o) s = .next (done t)) ∧
    (s2.vdst slot o.vd ⟨a.bits ||| b.bits, bitsTag a b VReg.zero⟩ = .ok t → exec (.vor o) s = .next (done t)) ∧
    (s2.vdst slot o.vd ⟨a.bits ^^^ b.bits, bitsTag a b VReg.zero⟩ = .ok t → exec (.vxor o) s = .next (done t)) ∧
    (∀ (c : VReg) (s3 : State), s2.vsrc slot o.vc = .ok (c, s3) →
      s3.vdst slot o.vd ⟨(a.bits &&& c.bits) ||| (b.bits &&& ~~~c.bits), bitsTag a b c⟩ = .ok t → exec (.vbit o) s = .next (done t)))

namespace Sys2Proof.Claims

/-- The value and flags of one element of the floating-point operations (R148, R149) on decoded sources: the operation word, how
many sources are read, whether rnd is used. -/
def vecFpOp (i : Instr) (f : FpFmt) (r : Rm) (a b c : FV) : Option (VrOp × Nat × Bool × (Nat × Nat)) :=
  match i with
  | .vfadd o => some (o, 2, true, fpDone f r (fvAdd r a b))
  | .vfsub o => some (o, 2, true, fpDone f r (fvAdd r a (fvNeg b)))
  | .vfmul o => some (o, 2, true, fpDone f r (fvMul a b))
  | .vfma o => some (o, 3, true, fpDone f r (fvFma r a b c))
  | .vfmin o => some (o, 2, false, fpPack f r (fvMinMax false a b))
  | .vfmax o => some (o, 2, false, fpPack f r (fvMinMax true a b))
  | .vfrcp o => some (o, 1, true, fpRcp f r a)
  | .vfrsq o => some (o, 1, true, fpRsq f r a)
  | .vfexp2 o => some (o, 1, true, fpExp2 f r a)
  | .vflog2 o => some (o, 1, true, fpLog2 f r a)
  | _ => none

/-- The decoded elements of three registers, in step. -/
def fpTriples (f : Nat) (e : Efr) (a b c : VReg) : List (FV × FV × FV) :=
  let t := fpFmt f
  (a.elems f e).zipWith (fun x y => (fpDecode t x, fpDecode t y.1, fpDecode t y.2)) ((b.elems f e).zip (c.elems f e))

end Sys2Proof.Claims

/-- The floating-point operations (R148). -/
def Obligations.FloatVectorOperationsComplete : Prop :=
  ∀ (i : Instr) (s s1 s2 s3 t : State) (o : VrOp) (n code : Nat) (rnd : Bool) (a b c : VReg) (g : Rm → FV → FV → FV → Nat × Nat),
    let f := o.fmt.toNat
    let slot := vslot o.sl
    let e := s3.efr slot
    isFp3 f = true → (∀ r x y z, vecFpOp i (fpFmt f) r x y z = some (o, n, rnd, g r x y z)) →
    (rnd = true → s.rmCode o.rnd = .ok code) → (rnd = false → code = 0) →
    s.vsrc slot o.va = .ok (a, s1) → a.tag = f →
    (n = 1 → s2 = s1 ∧ b = VReg.zero) → (2 ≤ n → s1.vsrc slot o.vb = .ok (b, s2) ∧ b.tag = f) →
    (n ≤ 2 → s3 = s2 ∧ c = VReg.zero) → (n = 3 → s2.vsrc slot o.vc = .ok (c, s3) ∧ c.tag = f) →
    (let r := roundElems code s3.rounding ((fpTriples f e a b c).map fun x m => g m x.1 x.2.1 x.2.2)
     (s3.rounded r.2).vdst slot o.vd (vpack f e r.1) = .ok t) →
    exec i s = .next (done t)

/-- VFCMP and VFSGN (R145, R150). -/
def Obligations.FloatComparesAndSignsComplete : Prop :=
  (∀ (s s1 s2 : State) (o : VrOp) (a b : VReg),
    let f := o.fmt.toNat
    let slot := vslot o.sl
    let e := s2.efr slot
    let un (x : Nat × Nat) : Bool := fvNan (fpDecode (fpFmt f) x.1) || fvNan (fpDecode (fpFmt f) x.2)
    let holds (x : Nat × Nat) : Bool :=
      if o.fn.toNat = 6 then un x else if o.fn.toNat = 7 then !un x
      else if un x then o.fn.toNat == 1
      else condOf o.fn.toNat (fvLt (fpDecode (fpFmt f) x.1) (fpDecode (fpFmt f) x.2))
        (fvEq (fpDecode (fpFmt f) x.1) (fpDecode (fpFmt f) x.2))
    let pairs := (a.elems f e).zip (b.elems f e)
    isFp3 f = true → o.fn.toNat < 8 →
    s.vsrc slot o.va = .ok (a, s1) → a.tag = f → s1.vsrc slot o.vb = .ok (b, s2) → b.tag = f →
    exec (.vfcmp o) s = .next (done
      ((if 2 ≤ o.fn.toNat ∧ o.fn.toNat < 6 ∧ pairs.any un = true then s2.addFlags fNV else s2).pset (predOf o.vd)
        (predOfElems (fmtWidth f e) (nElems f e) fun j => ((pairs.map holds)[j]?).getD false)))) ∧
  (∀ (s s1 s2 t : State) (o : VrOp) (a b : VReg),
    let f := o.fmt.toNat
    let slot := vslot o.sl
    let e := s2.efr slot
    let w := fmtWidth f e
    let sign (x y : Bool) : Bool := ([y, !y, x != y, false, !x][o.fn.toNat]?).getD false
    isFp3 f = true → o.fn.toNat < 5 → s.vsrc slot o.va = .ok (a, s1) → a.tag = f →
    (o.fn.toNat < 3 → s1.vsrc slot o.vb = .ok (b, s2) ∧ b.tag = f) → (3 ≤ o.fn.toNat → b = a ∧ s2 = s1) →
    s2.vdst slot o.vd (vpack f e (((a.elems f e).zip (b.elems f e)).map fun x =>
      if fvNan (fpDecode (fpFmt f) x.1) then (fpFmt f).nan
      else withSign (fpFmt f) (sign (x.1.testBit (w - 1)) (x.2.testBit (w - 1))) (x.1 % 2 ^ (w - 1)))) = .ok t →
    exec (.vfsgn o) s = .next (done t))

/-- Special operands (R94, R149): cells of the table of R149, and the invalid operations of additions and products. -/
def Obligations.FloatSpecialOperands : Prop :=
  ∀ (f : Nat) (r : Rm) (x : FV) (sg sg' : Bool) (m : Nat) (e : Int), isFp3 f = true → m ≠ 0 →
    let t := fpFmt f
    let inf (s : Bool) : Nat := withSign t s t.inf
    let zero (s : Bool) : FV := .fin s 0 e
    (fpRcp t r (zero sg) = (inf sg, fDZ) ∧ fpRcp t r (.inf sg) = (fpZero t sg, 0) ∧ fpRcp t r .nan = (t.nan, 0)) ∧
    (fpRsq t r (zero sg) = (inf sg, 0) ∧ fpRsq t r (.inf false) = (fpZero t false, 0) ∧ fpRsq t r (.inf true) = (t.nan, fNV) ∧
      fpRsq t r (.fin true m e) = (t.nan, fNV) ∧ fpRsq t r .nan = (t.nan, 0)) ∧
    (fpExp2 t r (zero sg) = (t.bias.toNat * 2 ^ t.fb, 0) ∧ fpExp2 t r (.inf false) = (inf false, 0) ∧
      fpExp2 t r (.inf true) = (fpZero t false, 0) ∧ fpExp2 t r .nan = (t.nan, 0)) ∧
    (fpLog2 t r (zero sg) = (inf true, fDZ) ∧ fpLog2 t r (.inf false) = (inf false, 0) ∧ fpLog2 t r (.inf true) = (t.nan, fNV) ∧
      fpLog2 t r (.fin true m e) = (t.nan, fNV) ∧ fpLog2 t r .nan = (t.nan, 0)) ∧
    (fpDone t r (fvAdd r .nan x) = (t.nan, 0) ∧ fpDone t r (fvAdd r x .nan) = (t.nan, 0) ∧
      fpDone t r (fvMul .nan x) = (t.nan, 0) ∧ fpDone t r (fvMul x .nan) = (t.nan, 0) ∧
      fpDone t r (fvAdd r (.inf sg) (.inf (!sg))) = (t.nan, fNV) ∧ fpDone t r (fvMul (.inf sg) (.fin sg' 0 e)) = (t.nan, fNV) ∧
      fpDone t r (fvMul (.fin sg' 0 e) (.inf sg)) = (t.nan, fNV)) ∧
    fpDone t r (fvAdd r (.fin sg m e) (.fin (!sg) m e)) = (fpZero t (r == .rdn), 0)

/-- Conversions (R151 to R154, R156). -/
def Obligations.ConversionsComplete : Prop :=
  (∀ (s s1 t : State) (o : VrOp) (a : VReg) (code : Nat),
    let f := o.fmt.toNat
    let slot := vslot o.sl
    let e := s.efr slot
    let ns := nElems a.tag e
    let nd := nElems f e
    let n := min ns nd
    let p := o.fn.toNat % 16
    let conv (xs : List Nat) := roundElems code s1.rounding (xs.map fun x m => convNum a.tag f e m (o.sm == 1) (readNum a.tag e x))
    cvtFmt f = true → cvtFmt a.tag = true → o.sm.toNat < 2 → s.rmCode o.rnd = .ok code → s.vsrc slot o.va = .ok (a, s1) →
    (p + 1) * n ≤ max ns nd →
    (nd ≤ ns → (s1.rounded (conv (((a.elems a.tag e).drop (p * n)).take n)).2).vdst slot o.vd
        (vpack f e (conv (((a.elems a.tag e).drop (p * n)).take n)).1) = .ok t → exec (.vcvt o) s = .next (done t)) ∧
    (∀ old s2, ns < nd → (s1.rounded (conv (a.elems a.tag e)).2).vold slot o.vd = .ok (old, s2) →
      s2.vdst slot o.vd ⟨BitVec.ofNat 2048 (setFields (old.bits.toNat % 2 ^ (fmtWidth f e * nd)) (p * n * fmtWidth f e)
        (fmtWidth f e) (conv (a.elems a.tag e)).1), f⟩ = .ok t → exec (.vcvt o) s = .next (done t))) ∧
  (∀ (s s1 t : State) (o : VrOp) (vs : List VReg),
    let f := o.fmt.toNat
    let slot := vslot o.sl
    f < 0x12 → (f = tBFP → s.vnumber slot o.va % 2 = 0 ∧ s.vnumber slot o.vd % 2 = 0) →
    s.vsrcs slot o.va (if f = tBFP then 2 else if f = tPLANE then (s.efr slot).width else 1) = .ok (vs, s1) →
    s1.vdsts slot o.vd (vs.map fun v => ⟨v.bits, f⟩) = .ok t → exec (.vtag o) s = .next (done t)) ∧
  (∀ (s s1 s2 t : State) (o : VrOp) (w : Nat) (a : VReg) (old : List VReg) (takes : Nat → Nat → Bool),
    let f := o.fmt.toNat
    let slot := vslot o.sl
    let e := s.efr slot
    let nb := nElems f e / 32
    let p := o.fn.toNat % 16
    let xs := (a.elems f e).zipIdx.map fun x => (fpDecode (fpFmt f) x.1, !takes x.2 (fmtWidth f e))
    let bs := (List.range nb).map fun k => bfpQuant w ((xs.drop (32 * k)).take 32)
    isFp3 f = true → (w = 2 ∨ w = 4 ∨ w = 8) → e.bfpw = w → s.vnumber slot o.vd % 2 = 0 → (p + 1) * nb ≤ 64 / w →
    s.vmask (bitAt o.fn.toNat 4) o.vc = .ok takes → s.vsrc slot o.va = .ok (a, s1) → a.tag = f →
    s1.volds slot o.vd 2 = .ok (old, s2) →
    (s2.addFlags (bs.foldl (fun a b => a ||| b.2.2) 0)).vdsts slot o.vd
      [⟨BitVec.ofNat 2048 (setFields ((old[0]?.getD VReg.zero).bits.toNat) (p * nb * 32 * w) w (bs.flatMap (·.2.1))), tBFP⟩,
       ⟨BitVec.ofNat 2048 (setFields ((old[1]?.getD VReg.zero).bits.toNat % 2 ^ (8 * (64 / w))) (p * nb * 8) 8 (bs.map (·.1))),
        tBFP⟩] = .ok t →
    exec (.vbfpq o) s = .next (done t)) ∧
  (∀ (s s1 t : State) (o : VrOp) (w : Nat) (mant exps : VReg),
    let f := o.fmt.toNat
    let slot := vslot o.sl
    let e := s.efr slot
    let nb := nElems f e / 32
    let p := o.fn.toNat % 16
    let rs := (List.range (nElems f e)).map fun j =>
      bfpOut f w (fieldAt exps.bits.toNat (p * nb + j / 32) 8) (fieldAt mant.bits.toNat (p * nb * 32 + j) w) e
    (f = tFP32 ∨ f = tBF16) → (w = 2 ∨ w = 4 ∨ w = 8) → e.bfpw = w → s.vnumber slot o.va % 2 = 0 → (p + 1) * nb ≤ 64 / w →
    s.vsrcs slot o.va 2 = .ok ([mant, exps], s1) → mant.tag = tBFP → exps.tag = tBFP →
    (s1.addFlags (allFlags rs)).vdst slot o.vd (vpack f (s1.efr slot) (rs.map (·.1))) = .ok t →
    exec (.vbfpd o) s = .next (done t)) ∧
  (∀ (s s1 t : State) (o : VrOp) (a : VReg),
    let f := o.fmt.toNat
    let slot := vslot o.sl
    let e := s1.efr slot
    let w := fmtWidth f e
    (isInt f = true ∨ f = tIDX ∨ isFp3 f = true) → o.fn.toNat < 2 → s.vsrc slot o.va = .ok (a, s1) → a.tag = f →
    s1.vdst slot o.vd (vpack (keyFmt w) e ((a.elems f e).map fun x => orderKey f w x (o.fn == 1))) = .ok t →
    exec (.vokey o) s = .next (done t))

/-- The order of keys (R156). -/
def Obligations.KeysOrderElements : Prop :=
  (∀ (f w x y : Nat), 1 ≤ w → isInt f = true → x < 2 ^ w → y < 2 ^ w →
    let value (z : Nat) : Int := if isSigned f = true then toSigned z w else (z : Int)
    (orderKey f w x false < orderKey f w y false ↔ value x < value y) ∧
    (orderKey f w x true < orderKey f w y true ↔ value y < value x)) ∧
  (∀ (f w x : Nat), isFp f = true → fvNan (fpDecode (fpFmt f) x) = true →
    orderKey f w x false = 0 ∧ orderKey f w x true = 2 ^ w - 1)

/-- Bit-plane operations (R155, R157 to R159). -/
def Obligations.PlaneOperationsComplete : Prop :=
  (∀ (s s1 s2 t : State) (o : VrOp) (a : VReg) (old : List VReg),
    let slot := vslot o.sl
    let w := (s.efr slot).width
    let n := 2048 / w
    let p := o.fn.toNat
    let xs := (a.elems tPACKED (s2.efr slot)).take (2048 - p * n)
    p < (2048 + n - 1) / n → s.vsrc slot o.va = .ok (a, s1) → a.tag = tPACKED → s1.volds slot o.vd w = .ok (old, s2) →
    s2.vdsts slot o.vd (planeRegs w ((planeElems old).take (p * n) ++ xs ++ (planeElems old).drop (p * n + xs.length))) = .ok t →
    exec (.vplane o) s = .next (done t)) ∧
  (∀ (s s1 t : State) (o : VrOp) (vs : List VReg),
    let slot := vslot o.sl
    let w := (s.efr slot).width
    let n := 2048 / w
    let p := o.fn.toNat
    p < (2048 + n - 1) / n → s.vsrcs slot o.va w = .ok (vs, s1) → (∀ v ∈ vs, v.tag = tPLANE) →
    s1.vdst slot o.vd (vpack tPACKED (s1.efr slot) (((planeElems vs).drop (p * n)).take n)) = .ok t →
    exec (.vunpl o) s = .next (done t)) ∧
  (∀ (s s1 s2 t : State) (o : VrOp) (a b : List VReg),
    let slot := vslot o.sl
    let e := s.efr slot
    let w := e.width
    let k : IKind := ⟨w, e.signed, true⟩
    let pairs := (planeInts e a).zip (planeInts e b)
    s.vsrcs slot o.va w = .ok (a, s1) → (∀ v ∈ a, v.tag = tPLANE) → s1.vsrcs slot o.vb w = .ok (b, s2) →
    (∀ v ∈ b, v.tag = tPLANE) → s2.efr slot = e → o.sm.toNat < 2 →
    (o.fn.toNat < 2 →
      (let rs := pairs.map fun x => placeInt (if o.fn = 1 then x.1 - x.2 else x.1 + x.2) k (o.sm == 1)
       (s2.addFlags (allFlags rs)).vdsts slot o.vd (planeRegs w (rs.map (·.1))) = .ok t) → exec (.vpadd o) s = .next (done t)) ∧
    ((let rs := (sums32 (pairs.map fun x => x.1 * x.2)).map fun x => placeInt x ⟨32, true, false⟩ (o.sm == 1)
      (s2.addFlags (allFlags rs)).vdst slot o.vd (vpack tI32 e (rs.map (·.1))) = .ok t) → exec (.vpdot o) s = .next (done t))) ∧
  (∀ (s s1 t : State) (o : VrOp) (a : List VReg),
    let slot := vslot o.sl
    let e := s.efr slot
    let w := e.width
    let n := o.fn.toNat % 16
    s.vsrcs slot o.va w = .ok (a, s1) → (∀ v ∈ a, v.tag = tPLANE) → s1.efr slot = e → o.sm.toNat < 2 →
    (let rs := (planeInts e a).map fun x =>
       placeInt (if o.fn.toNat.testBit 4 then x / 2 ^ n else x * 2 ^ n) ⟨w, e.signed, true⟩ (o.sm == 1)
     (s1.addFlags (allFlags rs)).vdsts slot o.vd (planeRegs w (rs.map (·.1))) = .ok t) →
    exec (.vpshl o) s = .next (done t))

namespace Sys2Proof.Claims

/-- The sources of a reduction or scan: elements that the mask leaves out replaced by the operation's identity (R160). -/
def treeInputs (f : Nat) (e : Efr) (a : VReg) (op : TreeOp) (takes : Nat → Nat → Bool) : List Nat :=
  (a.elems f e).zipIdx.map fun x => if takes x.2 (fmtWidth f e) then x.1 else op.ident

end Sys2Proof.Claims

/-- Trees, permutation and register moves (R102, R160, R161, R163). -/
def Obligations.TreesAndPermutesComplete : Prop :=
  (∀ (s s1 t : State) (o : VrOp) (a : VReg) (op : TreeOp) (code : Nat) (takes : Nat → Nat → Bool),
    let f := o.fmt.toNat
    let slot := vslot o.sl
    let e := s1.efr slot
    let xs := treeInputs f e a op takes
    let red := redTree code op.op (Nat.log2 xs.length) s1.rounding xs
    let scan := scanTree code op.op (Nat.log2 xs.length) 1 s1.rounding xs
    o.sm.toNat < 2 → treeOf (o.fn.toNat % 128) f (o.sm == 1) = some op → s.rmCode o.rnd = .ok code →
    s.vmask (bitAt o.fn.toNat 7) o.vc = .ok takes → s.vsrc slot o.va = .ok (a, s1) → a.tag = f →
    ((s1.rounded red.2).vdst slot o.vd (vpack f e red.1) = .ok t → exec (.vred o) s = .next (done t)) ∧
    ((s1.rounded scan.2).vdst slot o.vd (vpack f e scan.1) = .ok t → exec (.vscan o) s = .next (done t))) ∧
  (∀ (s s1 s2 s3 t : State) (o : VrOp) (a b c : VReg),
    let f := o.fmt.toNat
    let slot := vslot o.sl
    let e := s3.efr slot
    let n := nElems f e
    let w := fmtWidth f e
    sizedFmt f = true → s.vsrc slot o.va = .ok (a, s1) → s1.vsrc slot o.vb = .ok (b, s2) →
    (o.fn = 0 → c = VReg.zero ∧ s3 = s2) → (o.fn = 1 → s2.vsrc slot o.vc = .ok (c, s3)) →
    (o.fn = 0 → s3.vdst slot o.vd (vpack f e ((b.elems f e).map fun k => fieldAt a.bits.toNat (k % n) w)) = .ok t →
      exec (.vperm o) s = .next (done t)) ∧
    (o.fn = 1 → s3.vdst slot o.vd (vpack f e ((b.elems f e).map fun k =>
        fieldAt (a.bits.toNat + c.bits.toNat <<< 2048) (k % (n * 2)) w)) = .ok t → exec (.vperm o) s = .next (done t))) ∧
  (∀ (s s1 t : State) (o : VrOp) (vs : List VReg), o.fn.toNat < 32 →
    s.vsrcs (vslot o.sl) o.va (o.fn.toNat + 1) = .ok (vs, s1) → s1.vdsts (vslot o.sl) o.vd vs = .ok t →
    exec (.vmov o) s = .next (done t))

/-- The moves of format VX (R162). -/
def Obligations.LaneMovesComplete : Prop :=
  (∀ (s s1 : State) (o : VxOp) (a : VReg),
    let slot := vslot o.sl
    let f := vxFmt o
    let e := s.efr slot
    let v := fieldAt a.bits.toNat (vxImm o) (fmtWidth f e)
    sizedFmt f = true → vxImm o < nElems f e → s.bank.regs.pending o.xa = false → s.vsrc slot o.va = .ok (a, s1) →
    exec (.vextr o) s = .next (done (s1.setX o.xa
      (if isSigned f = true then BitVec.ofInt 64 (toSigned v (fmtWidth f e)) else BitVec.ofNat 64 v)))) ∧
  (∀ (s : State) (o : VxOp) (x : Word),
    let slot := vslot o.sl
    let f := vxFmt o
    s.scap slot o.xa = .ok x →
    (∀ a s1 t, let e := s1.efr slot
      let n := nElems f e
      let w := fmtWidth f e
      let k : Int := x.toInt + vxSimm o
      sizedFmt f = true → s.vsrc slot o.va = .ok (a, s1) →
      (s1.vdst slot o.vd (vpack f e ((List.range n).map fun (j : Nat) =>
          if vxFlag o = true ∨ (0 ≤ (j : Int) + k ∧ (j : Int) + k < (n : Int)) then
            fieldAt a.bits.toNat (((j : Int) + k) % (n : Int)).toNat w else 0)) = .ok t →
        exec (.vslide o) s = .next (done t)) ∧
      (0 ≤ k → k < (n : Int) → s1.vdst slot o.vd (vpack f e (List.replicate n (fieldAt a.bits.toNat k.toNat w))) = .ok t →
        exec (.vbcastElement o) s = .next (done t))) ∧
    (∀ t, let e := s.efr slot
      (sizedFmt f = true → s.vdst slot o.vd (vpack f e (List.replicate (nElems f e) x.toNat)) = .ok t →
        exec (.vbcast o) s = .next (done t)) ∧
      (isInt f = true ∨ f = tIDX →
        s.vdst slot o.vd (vpack f e ((List.range (nElems f e)).map fun (j : Nat) =>
          ((x.toInt + (j : Int) * vxSimm o) % 2 ^ fmtWidth f e).toNat)) = .ok t → exec (.viota o) s = .next (done t))) ∧
    (∀ old s1 t, let w := fmtWidth f (s.efr slot)
      sizedFmt f = true → vxImm o < nElems f (s.efr slot) → s.vold slot o.vd = .ok (old, s1) →
      s1.vdst slot o.vd ⟨BitVec.ofNat 2048 (setField old.bits.toNat (vxImm o * w) w x.toNat), f⟩ = .ok t →
      exec (.vins o) s = .next (done t)))

/-- The predicate operations (R170) and the write of a predicate (R26, R27). -/
def Obligations.PredicateOperationsComplete : Prop :=
  (∀ (s : State) (o : VrOp) (a b : PBits),
    s.pget (predOf o.va) = .ok a → s.pget (predOf o.vb) = .ok b →
    exec (.pand o) s = .next (done (s.pset (predOf o.vd) (a &&& b))) ∧
    exec (.por o) s = .next (done (s.pset (predOf o.vd) (a ||| b))) ∧
    exec (.pxor o) s = .next (done (s.pset (predOf o.vd) (a ^^^ b)))) ∧
  (∀ (s : State) (o : VrOp) (a : PBits), s.pget (predOf o.va) = .ok a →
    exec (.pnot o) s = .next (done (s.pset (predOf o.vd) (~~~a))) ∧
    exec (.pmov o) s = .next (done (s.pset (predOf o.vd) a)) ∧
    ∀ w, fmtBits o.fmt.toNat = some w →
      let n := 2048 / w
      let governed := (List.range n).filter fun j => a.getLsbD (j * w / 8)
      exec (.pcnt o) s = .next (done (s.pset (predOf o.vd) (predOfElems w n fun j => j < governed.length))) ∧
      exec (.pfirst o) s = .next (done (s.pset (predOf o.vd) (predOfElems w n fun j => governed.head? == some j)))) ∧
  (∀ (s : State) (o : VrOp),
    (o.sm = 1 → exec (.pset o) s = .next (done (s.pset (predOf o.vd) 0))) ∧
    (∀ w, o.sm = 0 → fmtBits o.fmt.toNat = some w →
      exec (.pset o) s = .next (done (s.pset (predOf o.vd) (predOfElems w (2048 / w) fun j => j ≤ o.fn.toNat))))) ∧
  (∀ (s : State) (p : BitVec 6) (v : PBits),
    mget 0 (s.pset p v).bank.regs.p (s.pkey p) = v ∧ (s.pset p v).poisoned (512 + s.pkey p) = false ∧
    (∀ k, k ≠ s.pkey p → mget 0 (s.pset p v).bank.regs.p k = mget 0 s.bank.regs.p k) ∧
    (s.pset p v).bank.regs.x = s.bank.regs.x ∧ (s.pset p v).bank.regs.v = s.bank.regs.v ∧
    (s.pset p v).bank.ctl = s.bank.ctl ∧ (s.pset p v).bank.tiles = s.bank.tiles ∧ (s.pset p v).bank.pc = s.bank.pc ∧
    ∀ x, (s.pset p v).byteAt x = s.byteAt x)

/-- The sorted list unit and the histogram (R171 to R176). -/
def Obligations.SortedListAndHistogramComplete : Prop :=
  (∀ (s : State) (o : VrOp), listFmt o.fmt.toNat = true → o.sm.toNat < 2 →
    exec (.lsclr o) s = .next (done (s.upd fun b => { b with
      slist := { cap := o.fn.toNat + 1, fmt := o.fmt.toNat, smallest := o.sm == 1, entries := [] },
      ctl := { b.ctl with nancnt := 0 } }))) ∧
  (∀ (s s1 s2 : State) (o : VrOp) (takes : Nat → Nat → Bool) (v : VReg) (ix : List VReg),
    let l := s.bank.slist
    let slot := vslot o.sl
    let w := listBits l.fmt
    let xs := ((elems v.bits.toNat w (2048 / w)).zip (ix.flatMap fun k => elems k.bits.toNat 32 64)).zipIdx.filter fun x => takes x.2 w
    let r := xs.foldl (fun r x => lsOffer l r ⟨x.1.1, x.1.2⟩) (l.entries, 0)
    l.cap ≠ 0 → o.fmt.toNat = l.fmt → s.vmask (o.fn == 1) o.vc = .ok takes → s.vsrc slot o.va = .ok (v, s1) → v.tag = l.fmt →
    s1.vsrcs slot o.vb (if w = 16 then 2 else 1) = .ok (ix, s2) → (∀ k ∈ ix, k.tag = tIDX) →
    exec (.lsins o) s = .next (done (s2.upd fun b => { b with
      slist := { l with entries := r.1 }, ctl := { b.ctl with nancnt := b.ctl.nancnt + BitVec.ofNat 64 r.2 } }))) ∧
  (∀ (s t : State) (o : VrOp),
    let l := s.bank.slist
    let isIdx := o.fn.toNat.testBit 0
    let w := if isIdx then 32 else listBits l.fmt
    let n := 2048 / w
    let p := o.fn.toNat / 2 % 16
    let fill := if isIdx then 0xFFFFFFFF else if isFp l.fmt then (fpFmt l.fmt).nan else 0
    let xs := (List.range n).map fun j => ((l.entries[p * n + j]?).map fun x => if isIdx then x.idx else x.bits).getD fill
    l.cap ≠ 0 → p * n < 256 →
    s.vdst (vslot o.sl) o.vd ⟨BitVec.ofNat 2048 (packed w xs), if isIdx then tIDX else l.fmt⟩ = .ok t →
    exec (.lsrd o) s = .next (done t)) ∧
  (∀ (s s1 s2 t : State) (o : VrOp) (takes : Nat → Nat → Bool) (v old : VReg) (w : Nat),
    let f := o.fmt.toNat
    let slot := vslot o.sl
    let acc := bitAt o.sm.toNat 1
    let keys := ((elems v.bits.toNat w (2048 / w)).zipIdx.filter fun x => takes x.2 w).map (·.1)
    let h := if acc then elems old.bits.toNat 32 64 else List.replicate 64 0
    isInt f = true → isSigned f = false → fmtBits f = some w → o.fn.toNat % 64 < w →
    s.vmask (bitAt o.sm.toNat 0) o.vc = .ok takes → s.vsrc slot o.va = .ok (v, s1) → v.tag = f →
    (acc = true → s1.vold slot o.vd = .ok (old, s2) ∧ old.tag = tN32) → (acc = false → s2 = s1) →
    s2.vdst slot o.vd ⟨BitVec.ofNat 2048 (packed 32 (h.zipIdx.map fun b =>
      (b.1 + (keys.map fun x => x / 2 ^ (o.fn.toNat % 64) % 2 ^ (6 - o.fn.toNat / 64)).count b.2) % 2 ^ 32)), tN32⟩ = .ok t →
    exec (.vhist o) s = .next (done t))

/-- Vector operand forms (R24, R27, R232, R233), for an operation without register steps. -/
def Obligations.VectorOperandForms : Prop :=
  (∀ (s : State) (slot : Nat) (f : VFld), (s.adv slot).reg = 0 →
    (f.toNat < 64 → s.vkeys slot f 1 = .ok [f.toNat]) ∧
    (64 ≤ f.toNat → f.toNat < s.bank.id.capVr →
      s.vkeys slot f 1 = .ok [64 + (f.toNat - 64 + s.bank.ctl.rotV) % s.rotM]) ∧
    (64 ≤ f.toNat → s.bank.id.capVr ≤ f.toNat → s.vkeys slot f 1 = raise cILLEGAL_OPERAND 0)) ∧
  (∀ (s : State) (slot k : Nat) (f : VFld), isStream f = false → s.vkeys slot f 1 = .ok [k] →
    (s.poisoned (64 + k) = false → s.vsrc slot f = .ok (mget VReg.zero s.bank.view.v k, s)) ∧
    ∀ v, s.vdst slot f v = .ok (s.vset k v)) ∧
  (∀ (s : State) (k : Nat) (v : VReg),
    mget VReg.zero (s.vset k v).bank.regs.v k = v ∧
    (∀ j, j ≠ k → mget VReg.zero (s.vset k v).bank.regs.v j = mget VReg.zero s.bank.regs.v j) ∧
    (s.vset k v).poisoned (64 + k) = false ∧ (s.vset k v).bank.regs.x = s.bank.regs.x ∧ (s.vset k v).bank.regs.p = s.bank.regs.p ∧
    (s.vset k v).bank.ctl = s.bank.ctl ∧ (s.vset k v).bank.pc = s.bank.pc ∧ ∀ a, (s.vset k v).byteAt a = s.byteAt a) ∧
  (∀ (s : State) (slot : Nat) (f : VFld) (st : Stream) (tile : Tile), isStream f = true →
    s.bank.streamOf (f.toNat - 320) = some st → s.tile st.race = some tile → st.out = false → st.used < st.total tile →
    (tile.filled = 0 → st.fail = none → s.vsrc slot f = stall) ∧
    (tile.filled ≠ 0 →
      tile.bad (tile.tail % (shapeRaw tile.shape).rows * (8 * (shapeRaw tile.shape).pitch)) (st.width tile * (shapeRaw tile.shape).bits) = false →
      ∃ v t u, s.vsrc slot f = .ok (v, t) ∧ v.tag = (shapeRaw tile.shape).fmt ∧
        t.tile st.race = some u ∧ u.tail = (tile.tail + 1) % 2 ^ 32 ∧ u.head = tile.head ∧ u.bytes = tile.bytes ∧
        v.bits = BitVec.ofNat 2048 (tile.bitsAt (tile.tail % (shapeRaw tile.shape).rows * (8 * (shapeRaw tile.shape).pitch))
          (st.width tile * (shapeRaw tile.shape).bits)) ∧
        t.bank.streamOf (f.toNat - 320) = some { st with used := st.used + 1 } ∧ t.bank.regs = s.bank.regs)) ∧
  (∀ (s : State) (slot : Nat) (f : VFld) (v : VReg) (st : Stream) (tile : Tile), isStream f = true →
    s.bank.streamOf (f.toNat - 320) = some st → s.tile st.race = some tile → st.out = true → st.used < st.total tile →
    (v.tag ≠ (shapeRaw tile.shape).fmt → s.vdst slot f v = raise cFORMAT_MISMATCH 0) ∧
    (v.tag = (shapeRaw tile.shape).fmt → st.fail = none → tile.free = 0 → s.vdst slot f v = stall) ∧
    (v.tag = (shapeRaw tile.shape).fmt → st.fail = none → tile.free ≠ 0 →
      ∃ t u, s.vdst slot f v = .ok t ∧ t.tile st.race = some u ∧ u.head = (tile.head + 1) % 2 ^ 32 ∧ u.tail = tile.tail ∧
        u.shape = tile.shape ∧ t.bank.streamOf (f.toNat - 320) = some { st with used := st.used + 1 } ∧
        t.bank.regs = s.bank.regs))

namespace Sys2Proof.Claims

/-- The extent n and byte offset b at which an extent access of format f starts, its place and step taken, its alignment checked
(R54, R164). -/
def startsAt (s : State) (slot : Nat) (xp : Word) (off : Int) (f w n : Nat) (b : Int) : Prop :=
  ∃ o, placeOf xp = some (.ext n o) ∧ s.extStart slot n o off f w = .ok b

/-- Every byte of a list of offsets lies in extent n, which permits the access (R32). -/
def inExtent (s : State) (n : Nat) (offs : List Int) (write : Bool) : Prop :=
  ∀ x ∈ offs, (s.ext n).permits x 1 write = true

/-- A unit's element count and alignment suit the format: BFP takes an even register and an even count (R164). -/
def unitsFit (s : State) (slot : Nat) (v : VFld) (f cnt : Nat) : Prop :=
  f = tBFP → s.vnumber slot v % 2 = 0 ∧ cnt % 2 = 0

/-- The byte writes that a unit u with mask m sends to extent n: one for every byte with a masked bit, at the expanded address of its
offset (R166). -/
def unitStores (s : State) (n : Nat) (offs : List Int) (u m : Nat) (ws : List BWrite) : Prop :=
  let live := offs.zipIdx.filter fun (x : Int × Nat) => decide (m / 2 ^ (8 * x.2) % 256 ≠ 0)
  ws.length = live.length ∧ ∀ (j : Nat) (x : Int × Nat) (w : BWrite), live[j]? = some x → ws[j]? = some w →
    (s.ext n).permits x.1 1 true = true ∧
    (∃ a, s.extAddr n x.1.toNat = .ok a ∧ w.loc = .mem a) ∧ w.val = BitVec.ofNat 8 (u / 2 ^ (8 * x.2)) ∧
    w.mask = BitVec.ofNat 8 (m / 2 ^ (8 * x.2))

/-- Nothing but the store queue, its numbering and the poison and contents of memory's readers has changed: registers, control
registers, extents, tiles, the kennel, the program counter and every byte of memory are as before. -/
def onlyQueued (s t : State) : Prop :=
  t.bank.regs = s.bank.regs ∧ t.bank.ctl = s.bank.ctl ∧ t.bank.exts = s.bank.exts ∧ t.bank.tiles = s.bank.tiles ∧
  t.bank.kennel = s.bank.kennel ∧ t.bank.pc = s.bank.pc ∧ t.bank.cur = s.bank.cur ∧ t.mem = s.mem ∧ t.ctxs = s.ctxs ∧ t.dies = s.dies

end Sys2Proof.Claims

/-- Vector loads (R164 to R169). -/
def Obligations.VectorLoadsComplete : Prop :=
  (∀ (s t : State) (o : VmOp) (w : Nat) (xp : Word) (p : TilePos) (us : List Nat),
    let f := o.fmt.toNat
    let slot := vslot o.sl
    let cnt := o.cnt.toNat + 1
    let n := cnt / unitRegs f
    let mask := p.sh.liveMask p.bit (8 * unitBytes f w)
    s.memFmt slot f = .ok w → unitsFit s slot o.v f cnt → s.scap slot o.xp = .ok xp →
    s.tilePos slot xp o.off.toInt f w n = .ok p →
    (List.range n).mapM (fun j => s.loadTile p.h p.tile (p.base j) (Nat.log2 mask + 1)) = .ok us →
    s.vdsts slot o.v (us.flatMap fun u => regsOf f w (u &&& mask)) = .ok t →
    exec (.vld o) s = .next (done t)) ∧
  (∀ (s s1 t : State) (o : VmOp) (w n u : Nat) (xp : Word) (b : Int),
    let f := o.fmt.toNat
    let slot := vslot o.sl
    let offs := unitOffs f w b o.fn.toInt
    s.memFmt slot f = .ok w → unitsFit s slot o.v f (unitRegs f) → (f = tPACKED ∨ f = tBFP → o.fn.toInt = 1) →
    s.scap slot o.xp = .ok xp → startsAt s slot xp o.off.toInt f w n b → inExtent s n offs false →
    s.loadUnit n offs = .ok (u, s1) → s1.vdsts slot o.v (regsOf f w u) = .ok t →
    exec (.vlde o) s = .next (done t)) ∧
  (∀ (s t : State) (o : VmOp) (w n : Nat) (xp : Word) (b : Int) (ks : List Nat),
    let f := o.fmt.toNat
    let slot := vslot o.sl
    let cnt := o.cnt.toNat + 1
    s.memFmt slot f = .ok w → unitsFit s slot o.v f cnt → isStream o.v = false → s.vkeys slot o.v cnt = .ok ks →
    s.scap slot o.xp = .ok xp → startsAt s slot xp o.off.toInt f w n b →
    inExtent s n ((List.range (cnt / unitRegs f * unitBytes f w)).map fun (j : Nat) => b + (j : Int)) false → s.bank.part = 0 →
    s.vldmGo slot o.v f w cnt n b 0 (cnt / unitRegs f) = (t, none) →
    exec (.vldm o) s = .next (done t)) ∧
  (∀ (s s1 s2 t : State) (o : VxOp) (ks xs : List Nat) (xa : Word) (es : List ElemAt),
    let slot := vslot o.sl
    let f := gthFmt o
    let w := fmtWidth f (s.efr slot)
    s.gthIdx o f w = .ok (ks, s1) → s1.scap slot o.xa = .ok xa → ks.mapM (s1.elemAt slot xa f w false) = .ok es →
    es.foldlM (fun (r : List Nat × State) e => match e with
      | .ext n off => (r.2.loadUnit n ((List.range (w / 8)).map fun (j : Nat) => off + (j : Int))).map fun (q : Nat × State) => (r.1 ++ [q.1], q.2)
      | .tile h v bit => (r.2.loadTile h v bit w).map fun (u : Nat) => (r.1 ++ [u], r.2)) ([], s1) = .ok (xs, s2) →
    s2.vdst slot o.vd ⟨BitVec.ofNat 2048 (packed w xs), f⟩ = .ok t →
    exec (.vgth o) s = .next (done t)) ∧
  (∀ (s t : State) (o : VkOp),
    let cnt := o.cnt.toNat + 1
    o.fmt.toNat < 0x12 → unitsFit s (vslot o.sl) o.v o.fmt.toNat cnt →
    (∀ k, k < 256 * cnt → mget false s.bank.kpoison ((o.off.toNat + k) % 65536) = false) →
    s.vdsts (vslot o.sl) o.v ((List.range cnt).map fun j => ⟨BitVec.ofNat 2048 (leNat ((List.range 256).map fun k =>
      mget 0 s.bank.kview ((o.off.toNat + 256 * j + k) % 65536))), o.fmt.toNat⟩) = .ok t →
    exec (.vkld o) s = .next (done t))

/-- Vector stores (R164 to R169), with their frame. -/
def Obligations.VectorStoresComplete : Prop :=
  (∀ (s s1 : State) (o : VmOp) (w : Nat) (g : Option (PBits × BitVec 1)) (xp : Word) (vs : List VReg),
    let f := o.fmt.toNat
    let slot := vslot o.sl
    let cnt := o.cnt.toNat + 1
    s.memFmt slot f = .ok w → unitsFit s slot o.v f cnt → s.vguard o.guard o.pg o.pol = .ok g → s.scap slot o.xp = .ok xp →
    s.vsrcs slot o.v cnt = .ok (vs, s1) →
    (unitMask f w g = 0 → exec (.vst o) s = .next (done s1)) ∧
    ∀ p, unitMask f w g ≠ 0 → s1.tilePos slot xp o.off.toInt f w (cnt / unitRegs f) = .ok p →
      let mask := p.sh.liveMask p.bit (8 * unitBytes f w) &&& unitMask f w g
      let ws : List BWrite := if mask = 0 then [] else (chunks (unitRegs f) (cnt / unitRegs f) vs).zipIdx.flatMap fun x =>
        (maskedBytes (p.base x.2) (unitOf f w x.1) mask).map fun b => ⟨Loc.tile p.h b.1, b.2.1, b.2.2⟩
      exec (.vst o) s = .next (done (s1.pushStore ws 0 xp))) ∧
  (∀ (s s1 : State) (o : VmOp) (w : Nat) (g : Option (PBits × BitVec 1)) (xp : Word) (vs : List VReg),
    let f := o.fmt.toNat
    let slot := vslot o.sl
    s.memFmt slot f = .ok w → unitsFit s slot o.v f (unitRegs f) → o.fn.toInt ≠ 0 → (f = tPACKED ∨ f = tBFP → o.fn.toInt = 1) →
    s.vguard o.guard o.pg o.pol = .ok g → s.scap slot o.xp = .ok xp → s.vsrcs slot o.v (unitRegs f) = .ok (vs, s1) →
    (unitMask f w g = 0 → exec (.vste o) s = .next (done s1)) ∧
    ∀ n b ws, unitMask f w g ≠ 0 → startsAt s1 slot xp o.off.toInt f w n b →
      unitStores s1 n (unitOffs f w b o.fn.toInt) (unitOf f w vs) (unitMask f w g) ws →
      exec (.vste o) s = .next (done ((s1.efcTouch n ((unitOffs f w b o.fn.toInt).map (·.toNat))).pushStore ws 0 (extPlace n b)))) ∧
  (∀ (s s1 t : State) (o : VmOp) (w n : Nat) (b : Int) (xp : Word) (vs : List VReg),
    let f := o.fmt.toNat
    let slot := vslot o.sl
    let cnt := o.cnt.toNat + 1
    let ub := unitBytes f w
    s.memFmt slot f = .ok w → unitsFit s slot o.v f cnt → s.scap slot o.xp = .ok xp → s.vsrcs slot o.v cnt = .ok (vs, s1) →
    startsAt s1 slot xp o.off.toInt f w n b →
    inExtent s1 n ((List.range (cnt / unitRegs f * ub)).map fun (j : Nat) => b + (j : Int)) true →
    (chunks (unitRegs f) (cnt / unitRegs f) vs).zipIdx.foldlM (fun (s : State) x =>
      (s.unitWrites n (unitOffs f w (b + x.2 * (ub : Nat)) 1) (unitOf f w x.1) (unitMask f w none)).map fun ws =>
        (s.efcTouch n ((unitOffs f w (b + x.2 * (ub : Nat)) 1).map (·.toNat))).pushUnit ws x.2 (extPlace n (b + x.2 * (ub : Nat)))) s1 = .ok t →
    exec (.vstm o) s = .next (done t) ∧ onlyQueued s1 t) ∧
  (∀ (s s1 s2 t : State) (o : VxOp) (g : Option (PBits × BitVec 1)) (ks : List Nat) (v : VReg) (xa : Word)
      (es : List (Nat × Nat × ElemAt)),
    let slot := vslot o.sl
    let f := gthFmt o
    let w := fmtWidth f (s.efr slot)
    let n := o.imm.toNat
    let live := (ks.zip (elems v.bits.toNat w ks.length)).zipIdx.filter fun x => match g with
      | some (p, pol) => governs p pol x.2 w
      | none => true
    s.vguard (BitVec.ofNat 2 (bitsOf n 19 18)) (BitVec.ofNat 6 (bitsOf n 26 21)) (BitVec.ofNat 1 (bitsOf n 20 20)) = .ok g →
    s.gthIdx o f w = .ok (ks, s1) → s1.vsrc slot o.vd = .ok (v, s2) → s2.scap slot o.xa = .ok xa →
    live.mapM (fun x => (s2.elemAt slot xa f w true x.1.1).map fun e => (x.2, x.1.2, e)) = .ok es →
    es.foldlM (fun (s : State) x => s.putElem w x) s2 = .ok t →
    exec (.vsct o) s = .next (done t) ∧ onlyQueued s2 t) ∧
  (∀ (s s1 : State) (o : VkOp) (g : Option (PBits × BitVec 1)) (vs : List VReg),
    let f := o.fmt.toNat
    let slot := vslot o.sl
    f < 0x12 → unitsFit s slot o.v f (o.cnt.toNat + 1) → s.vguard o.guard o.pg o.pol = .ok g → s.vsrcs slot o.v (o.cnt.toNat + 1) = .ok (vs, s1) →
    ∃ t, exec (.vkst o) s = .next t ∧ t.mem = s1.mem ∧ t.bank.regs = s1.bank.regs ∧ t.bank.sq = s1.bank.sq ∧
      (g = none → ∀ j v k, vs[j]? = some v → k < 256 → o.off.toNat + 256 * vs.length ≤ 65536 →
        mget 0 t.bank.kennel (o.off.toNat + 256 * j + k) = BitVec.ofNat 8 (v.bits.toNat / 2 ^ (8 * k))) ∧
      ∀ a, a < 65536 → (∀ k, k < 256 * vs.length → a ≠ (o.off.toNat + k) % 65536) →
        mget 0 t.bank.kennel a = mget 0 s1.bank.kennel a) ∧
  (∀ (s : State) (ws : List BWrite) (d : Nat) (p : Word), onlyQueued s (s.pushStore ws d p) ∧
    (ws ≠ [] → (s.pushStore ws d p).bank.sq =
      s.bank.sq ++ [⟨s.bank.ord, s.bank.iss, .store ws [] false, s.bank.bundleAt, s.bank.slot, s.bank.id.wid, d, 0, p, s.hintOf p⟩]))

namespace Sys2Proof.Claims

/-- Entry k is the first FREE one of the context's table on die d, whose entries rise (R307, R314). -/
def firstFree (s : State) (c d k : Nat) : Prop :=
  mwf CtrEnt.free (s.ctx c).ctrs = true ∧ ctrKey d 0 ≤ k ∧ k < ctrKey d (s.ctrSize c d) ∧ (s.ctrEnt c k).st = 0 ∧
  ∀ j, ctrKey d 0 ≤ j → j < k → (s.ctrEnt c j).st ≠ 0

/-- The entry that an allocation leaves, and every other entry and all memory unchanged (R307, R314). -/
def allocatedCtr (s t : State) (c k : Nat) (v : Word) : Prop :=
  (t.ctrEnt c k).st = 1 ∧ (t.ctrEnt c k).val = v ∧ (t.ctrEnt c k).gen = (s.ctrEnt c k).gen ∧
  (∀ j, j ≠ k → t.ctrEnt c j = s.ctrEnt c j) ∧ t.mem = s.mem ∧ t.bank.regs = s.bank.regs ∧ t.bank.sq = s.bank.sq

/-- The place of counter k of the focus bank's context on a die (R42, R314). -/
def ctrPlace (s : State) (d k : Nat) : Word :=
  let c := s.bank.id.ctx
  (Place.ctr ((s.ctx c).aliasNo * 4 + d) (s.ctrEnt c k).gen (k % 2 ^ 24)).word

/-- The queue operations of R301 by their number. -/
def qctlOp (i : Instr) : Option (SrOp × Nat) :=
  match i with
  | .qctlQuery o => some (o, 0)
  | .qctlSetmode o => some (o, 1)
  | .qctlDrain o => some (o, 2)
  | .qctlHalt o => some (o, 3)
  | .qctlResume o => some (o, 4)
  | .qctlAbort o => some (o, 5)
  | .qctlReset o => some (o, 6)
  | _ => none

/-- The state with register k pending for the bank's next issue number and a release entry at that place of the queue. -/
def released (s : State) (what : Nat) (a b : Word) (k : XReg) : State :=
  (s.enqueue (.release what a b k.toNat) 0 0).markTok k s.bank.ord true

/-- The state in which a register has been made pending and completed by an answer in the same step (R22, R57). -/
def answered (s : State) (k : XReg) (ok : Bool) (v : Word) : State :=
  ((s.upd fun b => { b with ord := b.ord + 1 }).markTok k s.bank.ord true).completeTok s.cur k.toNat s.bank.ord ok v

end Sys2Proof.Claims

/-- CALLOC, CALLOC.DIE and CFREE (R314, R315). -/
def Obligations.CounterAllocationCompletes : Prop :=
  (∀ (s : State) (o : SrOp) (k : Nat), Readable s [o.xa] o.xd →
    (firstFree s s.bank.id.ctx (dieOf s.cur) k → (s.die (dieOf s.cur)).slots < 65536 →
      ∃ t, exec (.calloc o) s = .next (done (t.setX o.xd (ctrPlace s (dieOf s.cur) k))) ∧
        allocatedCtr s t s.bank.id.ctx k (s.rx o.xa)) ∧
    (mwf CtrEnt.free (s.ctx s.bank.id.ctx).ctrs = true →
      (∀ j, ctrKey (dieOf s.cur) 0 ≤ j → j < ctrKey (dieOf s.cur) (s.ctrSize s.bank.id.ctx (dieOf s.cur)) →
        (s.ctrEnt s.bank.id.ctx j).st ≠ 0) →
      exec (.calloc o) s = .next (done (s.setX o.xd (failVal cNOSLOT 0 0 + 2 ^ 63))))) ∧
  (∀ (s : State) (o : SrOp) (k : Nat), Readable s [o.xa, o.xb] o.xd →
    let d := (s.rx o.xb).toNat
    (∀ u, d < 4 → s.reachDie d = .ok u → firstFree s s.bank.id.ctx d k → (s.die d).slots < 65536 →
      ∃ t, exec (.callocDie o) s = .next (done (t.setX o.xd (ctrPlace s d k))) ∧ allocatedCtr s t s.bank.id.ctx k (s.rx o.xa)) ∧
    (4 ≤ d → exec (.callocDie o) s = .next (illegalTaken s))) ∧
  (∀ (s u : State) (o : SrOp) (node gen k : Nat), Readable s [o.xa] 0 → placeOf (s.rx o.xa) = some (.ctr node gen k) →
    s.bank.swait = .none → s.ownNode s.bank.id.ctx node = true → s.reachDie (dieOfNode node) = .ok u →
    let c := s.bank.id.ctx
    let key := ctrKey (dieOfNode node) k
    s.ctrBehind (.slot c key gen) = false →
    k < s.ctrSize c (dieOfNode node) → (s.ctrEnt c key).gen = gen → ((s.ctrEnt c key).st = 1 ∨ (s.ctrEnt c key).st = 2) →
    (∀ e ∈ s.kernelList c, e.2.st ≠ .pending) →
    ∃ t, exec (.cfree o) s = .next t ∧ t.bank.issued = .done ∧ (t.ctrEnt c key).gen = gen + 1 ∧
      (t.ctrEnt c key).st = (if gen + 1 < 0xFFFF then 0 else 3) ∧
      ((∀ w ∈ (s.die (dieOfNode node)).waiters, w.isOn (.slot c key gen) = true → w.remote = none) → t.mem = s.mem))

/-- CADD, CWAIT, CRD and ATOM (R316 to R320). -/
def Obligations.CounterUseCompletes : Prop :=
  (∀ (s : State) (o : SgOp), Readable s [o.xd, o.xb] 0 → o.fn.toNat < 5 →
    (∀ id, s.sgGuard o = .ok true → s.bankCtr (s.rx o.xd) true = .ok id →
      exec (.cadd o) s = .next (done (s.enqueue (.cadd (s.rx o.xd) (s.rx o.xb) o.fn.toNat) 0 (s.rx o.xd)))) ∧
    (s.sgGuard o = .ok false → exec (.cadd o) s = .next (done s))) ∧
  (∀ (s u t : State) (o : SrOp) (id : CtrId) (v : Word), s.bank.swait = .none → s.bankCtr (s.rx o.xa) false = .ok id →
    (∀ n w, id ≠ .remote n w) → s.ctrSettled (dieOf s.cur) id = true → s.reachDie (s.ctrDie id) = .ok u → u.ctrRead id = .ok (v, t) →
    (Readable s [o.xa, o.xb] o.xd → o.fn.toNat % 8 < 5 → s.drained = true →
      ((s.rx o.xb).toNat ≤ v.toNat →
        exec (.cwait o) s = .next (done ((t.ctrDrop (dieOf s.cur) id).cwaitEnd o.xd (o.fn.toNat % 8) v))) ∧
      (v.toNat < (s.rx o.xb).toNat → ∃ x, exec (.cwait o) s = .next x ∧ x.bank.run = .waiting ∧ x.bank.issued = .stalled ∧
        x.bank.regs = s.bank.regs ∧ x.mem = s.mem ∧ ∃ w, (x.die (s.ctrDie id)).regs_ = (s.die (s.ctrDie id)).regs_ ++ [w] ∧
          w.bank = s.cur ∧ w.ctr = id ∧ w.target = s.rx o.xb)) ∧
    (Readable s [o.xa] o.xd → s.bank.heldBack = false → s.ctrBehind id = false → exec (.crd o) s = .next (done ((t.refreshFar (dieOf s.cur) id).setX o.xd v)))) ∧
  (∀ (s u t : State) (o : SgOp) (n off a : Nat) (old : Word) (bad : Bool),
    let op := o.fn.toNat % 8
    let size := if bitAt o.fn.toNat 3 then 8 else 4
    let sg := bitAt o.fn.toNat 4
    Readable s ([o.xb, o.xd] ++ if op = 7 then [casReg o.xd] else []) o.xd → (sg = true → op = 1 ∨ op = 2) →
    s.bank.swait = .none →
    (s.sgGuard o = .ok false → exec (.atom o) s = .next (done s)) ∧
    (s.sgGuard o = .ok true → placeOf (s.rx o.xb) = some (.ext n off) →
    (off % size ≠ 0 → exec (.atom o) s = .next (s.takeFault { cause := cILLEGAL_OPERAND, detail := 1, place := s.rx o.xb })) ∧
    (off % size = 0 → (s.ext n).permits off size false = true → (s.ext n).permits off size true = true → s.drained = true →
      s.extAddr n off = .ok a → s.lineSettled (dieOf s.cur) a = true → s.reachVc (s.home a) 0 = .ok u →
      u.atomAt a size op sg (if op = 7 then s.rx (casReg o.xd) else s.rx o.xd) (s.rx o.xd) (bitAt (s.ext n).flags 5) = .ok (old, bad, t) →
      let t := ((t.dropLine (dieOf s.cur) a).efcTouch n [off])
      (bad = false → exec (.atom o) s = .next (done (t.setX o.xd (atomResult size sg old)))) ∧
      (bad = true → exec (.atom o) s = .next ((t.setX o.xd (atomResult size sg old)).takeFault
        { cause := cMEMORY_ERROR, detail := 1, place := s.rx o.xb, after := true })))))

/-- LAUNCH, KSTAT, QCTL and COLRDY (R285, R286, R301, R404). -/
def Obligations.LaunchAndQueueControlComplete : Prop :=
  (∀ (s : State) (o : SrOp), Readable s [o.xa, o.xb] o.xd →
    exec (.launch o) s = .next (done (released s 0 (s.rx o.xa) (s.rx o.xb) o.xd))) ∧
  (∀ (s : State) (o : SrOp), Readable s [o.xa] o.xd →
    ((s.rx o.xa).toNat < 2 ^ 12 → exec (.colrdy o) s = .next (done (released s 2 (s.rx o.xa) 0 o.xd))) ∧
    (2 ^ 12 ≤ (s.rx o.xa).toNat → exec (.colrdy o) s = .next (illegalTaken s))) ∧
  (∀ (i : Instr) (s : State) (o : SrOp) (op : Nat), qctlOp i = some (o, op) →
    (s.bank.id.sys = false → exec i s = .next (illegalTaken s)) ∧
    (s.bank.id.sys = true → Readable s [o.xa, o.xb] o.xd → (s.rx o.xa).toNat < 64 →
      (op = 1 → (s.rx o.xb).toNat < 2) → (op ≠ 1 → s.rx o.xb = 0) →
      exec i s = .next (done (released s 1 (BitVec.ofNat 64 ((s.rx o.xa).toNat + op * 64)) (s.rx o.xb) o.xd)))) ∧
  (∀ (s : State) (o : SrOp), Readable s [o.xa] o.xd →
    let id := (s.rx o.xa).toNat % 2 ^ 63
    let wrong := id / 2 ^ 32 ≠ 0 ∨ id / 2 ^ 12 % 2 ^ 4 ≠ 0
    (wrong → exec (.kstat o) s = .next (illegalTaken s)) ∧
    (¬ wrong → s.kernel s.bank.id.ctx (id % 4096) = none → exec (.kstat o) s = .next (done (s.setX o.xd 15))) ∧
    (∀ k, ¬ wrong → s.kernel s.bank.id.ctx (id % 4096) = some k →
      (k.gen ≠ id / 2 ^ 16 → exec (.kstat o) s = .next (done (s.setX o.xd 15))) ∧
      (k.gen = id / 2 ^ 16 → k.st ≠ .faulted → k.st ≠ .aborted → k.ended < 2 ^ 32 →
        exec (.kstat o) s = .next (done (s.setX o.xd (BitVec.ofNat 64 (k.st.code + k.queue * 2 ^ 24 + k.ended * 2 ^ 32))))) ∧
      (k.gen = id / 2 ^ 16 → (k.st = .faulted ∨ k.st = .aborted) → k.ended < 2 ^ 32 →
        exec (.kstat o) s = .next (done (s.setX o.xd (BitVec.ofNat 64
          (k.st.code + k.cause * 2 ^ 8 + k.detail * 2 ^ 16 + k.queue * 2 ^ 24 + k.ended * 2 ^ 32)))))))

/-- The commit-group instructions (R366 to R370). -/
def Obligations.CommitGroupInstructionsComplete : Prop :=
  (∀ (s : State) (o : SrOp), Readable s [o.xa] o.xd →
    let n := (s.rx o.xa).toNat
    let d := dieOf s.cur
    (n ≠ 0 → (n < 10 ∨ s.cgTmax < n) → exec (.gopen o) s = .next (s.takeFault { cause := cILLEGAL_OPERAND, detail := 2 })) ∧
    (n = 0 ∨ (10 ≤ n ∧ n ≤ s.cgTmax) →
      (mget none s.bank.gbinds o.fn.toNat ≠ none →
        exec (.gopen o) s = .next (done (answered s o.xd false (failVal cILLEGAL_OPERAND 1 0)))) ∧
      (mget none s.bank.gbinds o.fn.toNat = none → s.freeGents d = [] →
        exec (.gopen o) s = .next (done (answered s o.xd false (failVal cNOSLOT 0 0)))) ∧
      (mget none s.bank.gbinds o.fn.toNat = none → s.freeGents d ≠ [] →
        ∃ (t : State) (i : Nat) (g : Group), i ∈ s.freeGents d ∧
          exec (.gopen o) s = .next (done (answered t o.xd true (BitVec.ofNat 64
            (groupId (s.gent d i) i + ((s.ctx s.bank.id.ctx).aliasNo * 4 + d) * 2 ^ 16 + o.fn.toNat * 2 ^ 29 + 2 ^ 63)))) ∧
          (t.gent d i).grp = some g ∧ (t.gent d i).gen = (s.gent d i).gen ∧ (∀ j, j ≠ i → t.gent d j = s.gent d j) ∧
          g.st = 1 ∧ g.bank = s.cur ∧ g.bind = o.fn.toNat ∧ g.weirs = [] ∧ g.timeout = (if n = 0 then s.cgDef else n) ∧
          mget none t.bank.gbinds o.fn.toNat =
            some ⟨groupId (s.gent d i) i, (s.ctx s.bank.id.ctx).aliasNo * 4 + d, false⟩ ∧
          t.bank.regs = s.bank.regs ∧ t.mem = s.mem))) ∧
  (∀ (s : State) (o : SrOp) (i : Instr) (commit : Bool), ((i = .gcommit o ∧ commit = true) ∨ (i = .gabort o ∧ commit = false)) →
    Readable s [o.xa] o.xd →
    (handleFields (s.rx o.xa) = none → exec i s = .next (done (answered s o.xd false (failVal cGROUP_FAULT 3 0)))) ∧
    (∀ id node n, handleFields (s.rx o.xa) = some (id, node, n) →
      ((∀ x, mget none s.bank.gbinds n = some x → x.id ≠ id ∨ x.node ≠ node) →
        exec i s = .next (done (answered s o.xd false (failVal cGROUP_FAULT 3 0)))) ∧
      (∀ x, mget none s.bank.gbinds n = some x → x.id = id → x.node = node →
        exec i s = .next (done ((((s.upd fun b => { b with ord := b.ord + 1 }).markTok o.xd s.bank.ord true).upd fun b =>
          { b with gpend := b.gpend ++ [⟨n, o.xd.toNat, s.bank.ord, commit, false⟩] }).takePends s.cur)) ∧
        ∀ d e g, s.boundGroup x = some (d, e, g) → g.st = 1 → g.weirs = [] → g.report = [] → g.poison = false → g.halted = false →
          g.bind = n → g.ctx = s.bank.id.ctx → node = (s.ctx s.bank.id.ctx).aliasNo * 4 + d → s.bank.gpend = [] →
          s.bank.cpygBefore n s.bank.ord = false →
          ∃ t, exec i s = .next (done t) ∧ (t.gent d e).grp = none ∧ (t.gent d e).gen = ((s.gent d e).gen + 1) % 16 ∧
            mget none t.bank.gbinds n = none ∧ t.bank.gpend = [] ∧ t.bank.regs.pending o.xd = false ∧
            (o.xd ≠ 0 → mget 0 t.bank.regs.x o.xd.toNat = 0) ∧ t.mem = s.mem))) ∧
  (∀ (s : State) (o : SrOp), Readable s [o.xa] o.xd →
    (handleFields (s.rx o.xa) = none → exec (.gstat o) s = .next (done (answered s o.xd false (failVal cGROUP_FAULT 3 0)))) ∧
    (∀ id node n, handleFields (s.rx o.xa) = some (id, node, n) →
      ((∀ x, mget none s.bank.gbinds n = some x → x.id ≠ id ∨ x.node ≠ node) →
        exec (.gstat o) s = .next (done (answered s o.xd true 0))) ∧
      (∀ x, mget none s.bank.gbinds n = some x → x.id = id → x.node = node →
        (x.marked = true → exec (.gstat o) s = .next (done (answered s o.xd true (BitVec.ofNat 64 (5 + cHALTED * 2 ^ 8))))) ∧
        (x.marked = false → s.boundGroup x = none → exec (.gstat o) s = .next (done (answered s o.xd true 0))) ∧
        (∀ d i g, s.boundGroup x = some (d, i, g) →
          exec (.gstat o) s = .next (done (answered s o.xd true (BitVec.ofNat 64
            (g.st + g.cause * 2 ^ 8 + g.detail * 2 ^ 16 + min g.weirs.length 64 * 2 ^ 24 +
              min (g.weirs.map (·.2 - 1)).sum (2 ^ 32 - 1) * 2 ^ 32))))))))

namespace Sys2Proof.Claims

/-- The scalar operands, token register and place operands of an M- or C-slot operation may be taken: at its first issue the operands
are readable and the token register is free (R22, R53, R438). -/
def Takes (s : State) (slot : Nat) (srcs : List XReg) (k : XReg) : Prop :=
  (s.cursor slot).fresh = true →
    (∀ a ∈ srcs, s.bank.view.pending a = false ∧ (a = 0 ∨ s.poisoned a.toNat = false)) ∧ s.bank.regs.pending k = false

/-- The value of a captured operand: read at the first issue, kept for the later ones (R53). -/
def capOf (s : State) (slot : Nat) (a : XReg) : Word :=
  if (s.cursor slot).fresh then s.rx a else mget 0 (s.cursor slot).val a.toNat

/-- Row r and column c of a tile stay in their fields under an advance, and where the advance moves them, in the tile if it is there
(R54, R55). -/
def rowColIn (t : Option Tile) (adv : Adv) (r c : Nat) : Prop :=
  0 ≤ (r : Int) + adv.row ∧ (r : Int) + adv.row < 65536 ∧ 0 ≤ (c : Int) + adv.off ∧ (c : Int) + adv.off < 65536 ∧
  ∀ x, t = some x → (adv.off = 0 ∨ (c : Int) + adv.off < (shapeRaw x.shape).cols) ∧ (adv.row = 0 ∨ (r : Int) + adv.row < (shapeRaw x.shape).rows)

/-- The tile that a peer place names, if it can be reached (R44). -/
def peerTile (s : State) (k h : Nat) : Option Tile := match s.peerBank k with
  | .ok b => s.tileOf b h
  | .error _ => none

/-- A place that the slot's advance moves stays in its range: its field, its extent, its tile (R54, R55). -/
def stepsInRange (s : State) (slot f w : Nat) (x : Word) : Prop :=
  let adv := s.adv slot
  match placeOf x with
  | some (.ext n off) => adv.off = 0 ∨
      0 ≤ 8 * (off : Int) + stepBits f w adv ∧ 8 * (off : Int) + stepBits f w adv < 8 * ((s.ext n).len.toNat : Int)
  | some (.remote _ _ off) => 0 ≤ (off : Int) + adv.off ∧ (off : Int) + adv.off < 2 ^ 44
  | some (.own h r c) => rowColIn (s.tileOf s.cur h) adv r c
  | some (.peer k h r c) => rowColIn (peerTile s k h) adv r c
  | _ => True

/-- What an M-slot instruction asks of its fields and mode at issue (R202, R203, R204, R205, R208). -/
def millLegal (s : State) (i : Instr) : Bool :=
  match i with
  | .mmode _ => s.bank.id.sys
  | .mloadp o => o.mod.toNat % 16 < 10
  | .mflow o => o.mod.toNat % 4 != 3
  | .mclr o => o.mod.toNat % 8 < 5
  | .mdrain o => o.mod.toNat / 2 ^ 12 % 4 != 3
  | _ => true

/-- The place operands of an M-slot instruction, true for those that must be tiles (R206 to R210). -/
def millPlaces (i : Instr) : List (XReg × Bool) :=
  match i with
  | .mpre o | .mdrain o => [(o.xa, true)]
  | .mfeed o => [(o.xa, true), (o.xb, true)]
  | .mfeedr o => [(o.xa, bitAt o.mod.toNat 12), (o.xb, !bitAt o.mod.toNat 12)]
  | _ => []

/-- The place operands of a copy or probe instruction (R220, R241). -/
def copyPlaces (i : Instr) (o : COp) : List XReg :=
  match i with
  | .pfill _ | .pwb _ | .pinv _ => [o.xs]
  | _ => [o.xs, o.xt]

/-- The format in which a copy or probe instruction steps its places (R54), and whether it may name that format (R220, R226, R371). -/
def copyForm (i : Instr) : Option (COp × Nat × Bool) :=
  match i with
  | .cpy o | .gth o | .sct o => some (o, o.mod.toNat / 512, decide (o.mod.toNat / 512 < 0x12))
  | .cpyt o => some (o, o.mod.toNat / 512, plainFmt (o.mod.toNat / 512))
  | .cpyg o => some (o, o.mod.toNat / 8 % 32, o.mod.toNat / 8 % 32 == tRAW || plainFmt (o.mod.toNat / 8 % 32))
  | .pfill o | .pwb o | .pinv o => some (o, tRAW, true)
  | _ => none

/-- RADV, CXADD and CWAITE, with CWAITE's condition on its scope (R236, R321, R322). -/
def otherForm (i : Instr) : Option (COp × Bool) :=
  match i with
  | .radv o | .cxadd o => some (o, true)
  | .cwaite o => some (o, decide (o.mod.toNat < 5))
  | _ => none

/-- One operation has been placed at the end of an engine's queue with its operands and tokens, its token register is pending, and
registers, tiles, extents and all memory are otherwise as before (R212, R214). -/
def engineQueued (s t : State) (o : COp) (i : Instr) : Prop :=
  let slot := cslot o.sl
  ∃ e, t.bank.ops = s.bank.ops ++ [e] ∧ e.ord = s.bank.ord ∧ e.engine = o.sl.toNat ∧ e.instr = i ∧ e.st = .queued ∧ e.next = 0 ∧
    e.cap 0 = capOf s slot o.xs ∧ e.cap 1 = capOf s slot o.xt ∧ e.cap 2 = capOf s slot o.xn ∧ e.adv = s.adv slot ∧
    e.efr = s.efrWord slot ∧ e.deps = [o.k1, o.k2, o.k3].map s.depOf ∧
    t.bank.regs = s.bank.regs.mark o.kd s.bank.ord (s.cursor slot).fresh ∧ t.bank.tiles = s.bank.tiles ∧
    t.bank.exts = s.bank.exts ∧ t.bank.ctl = s.bank.ctl ∧ t.bank.sq = s.bank.sq ∧ t.bank.streams = s.bank.streams ∧ t.mem = s.mem

/-- No consumed token that has its value holds an uncorrectable error (R22, R438). -/
def tokensSound (s : State) (ks : List XReg) : Prop :=
  ∀ a ∈ ks, a = 0 ∨ s.bank.view.pending a = true ∨ s.poisoned a.toNat = false

/-- The queue has room and the operands and tokens may be taken. -/
def engineReady (s : State) (o : COp) : Prop :=
  s.bank.engLoad o.sl.toNat < 16 ∧ Takes s (cslot o.sl) [o.xs, o.xt, o.xn] o.kd ∧ tokensSound s [o.k1, o.k2, o.k3]

end Sys2Proof.Claims

/-- The issue of the M slot (R199). -/
def Obligations.MillIssuesComplete : Prop :=
  ∀ (s : State) (i : Instr) (o : MOp), mopOf i = some o →
    (s.bank.id.mill = true → millLegal s i = true → s.bank.cmds.length < 8 → Takes s 3 [o.xa, o.xb, o.xc] o.kd →
      tokensSound s [o.k1, o.k2, o.k3] →
      (∀ a ∈ millPlaces i, (a.2 = true ∧ ∀ h r c, placeOf (capOf s 3 a.1) ≠ some (.own h r c)) ∨
        stepsInRange s 3 (domFmt s.domainAhead.domain) s.domainAhead.width (capOf s 3 a.1)) →
      ∃ t c, exec i s = .next (done t) ∧ t.bank.cmds = s.bank.cmds ++ [c] ∧ c.ord = s.bank.ord ∧ c.instr = i ∧
        c.cap 0 = capOf s 3 o.xa ∧ c.cap 1 = capOf s 3 o.xb ∧ c.cap 2 = capOf s 3 o.xc ∧ c.adv = s.adv 3 ∧ c.efr = s.efrWord 3 ∧
        c.deps = [o.k1, o.k2, o.k3].map s.depOf ∧ c.started = false ∧ c.value = none ∧
        t.bank.regs = s.bank.regs.mark o.kd s.bank.ord (s.cursor 3).fresh ∧ t.bank.tiles = s.bank.tiles ∧
        t.bank.ctl = s.bank.ctl ∧ t.bank.sq = s.bank.sq ∧ t.mgs = s.mgs ∧ t.mem = s.mem) ∧
    (s.bank.id.mill = true → millLegal s i = true → 8 ≤ s.bank.cmds.length → exec i s = .next (waits s)) ∧
    (s.bank.id.mill = false ∨ millLegal s i = false → exec i s = .next (illegalTaken s))

/-- The issue of the C slots (R212). -/
def Obligations.EngineIssuesComplete : Prop :=
  (∀ (s : State) (i : Instr) (o : COp) (f : Nat) (ok : Bool), copyForm i = some (o, f, ok) →
    (ok = false → exec i s = .next (illegalTaken s)) ∧
    (ok = true → engineReady s o →
      (∀ a ∈ copyPlaces i o, stepsInRange s (cslot o.sl) f (fmtWidth f (s.efr (cslot o.sl))) (capOf s (cslot o.sl) a)) →
      ∃ t, exec i s = .next (done t) ∧ engineQueued s t o i) ∧
    (ok = true → 16 ≤ s.bank.engLoad o.sl.toNat → exec i s = .next (waits s))) ∧
  (∀ (s : State) (i : Instr) (o : COp) (ok : Bool), otherForm i = some (o, ok) →
    (ok = false → exec i s = .next (illegalTaken s)) ∧
    (ok = true → engineReady s o → ∃ t, exec i s = .next (done t) ∧ engineQueued s t o i) ∧
    (ok = true → 16 ≤ s.bank.engLoad o.sl.toNat → exec i s = .next (waits s))) ∧
  (∀ (s : State) (o : COp) (rs rt : List Byte) (bias : Map Nat),
    let slot := cslot o.sl
    let xn := (capOf s slot o.xn).toNat
    let p := patOf rs
    let q := patOf rt
    engineReady s o → xn < 2 ^ 32 → xn % 8 = 0 → xn / 2 ^ 16 % 8 = 0 →
    s.kennelBytes (xn % 2 ^ 16) 64 = .ok rs → s.kennelBytes (xn / 2 ^ 16) 64 = .ok rt → cpysOk (s.efr slot) p q = true →
    s.biases p = .ok bias →
    stepsInRange s slot p.fmt (p.width (s.efr slot)) (capOf s slot o.xs) →
    stepsInRange s slot q.fmt (q.width (s.efr slot)) (capOf s slot o.xt) →
    ∃ t, exec (.cpys o) s = .next (done t) ∧ engineQueued s t o (.cpys o))

/-- SBIND, SUNB and PROBE (R231, R234, R240). -/
def Obligations.StreamsAndProbesComplete : Prop :=
  (∀ (s : State) (o : COp) (r : List Byte) (t0 : Tile) (bias : Map Nat),
    let slot := cslot o.sl
    let off := (capOf s slot o.xs).toNat
    let n := o.mod.toNat % 16
    engineReady s o → off < 2 ^ 16 → off % 8 = 0 →
    (s.bank.streamOf n ≠ none → exec (.sbind o) s = .next (illegalTaken s)) ∧
    (s.bank.streamOf n = none → s.kennelBytes off 64 = .ok r → s.tile (patOf r).race = some t0 →
      s.sbindOk (s.efr slot) (patOf r) t0 = .ok () → s.biases (patOf r) = .ok bias →
      ∃ t st, exec (.sbind o) s = .next (done t) ∧ t.bank.streams = s.bank.streams ++ [st] ∧ st.num = n ∧
        st.since = s.bank.bundles + 1 ∧ st.untl = none ∧ st.recd = r ∧ st.race = (patOf r).race ∧
        st.out = ((patOf r).flags == 1) ∧ st.next = 0 ∧ st.kd = o.kd.toNat ∧ st.ord = s.bank.ord ∧
        t.tile (patOf r).race = some { t0 with lock := some n } ∧ (∀ h, h ≠ (patOf r).race → t.tile h = s.tile h) ∧
        t.bank.regs = s.bank.regs.mark o.kd s.bank.ord true ∧ t.mem = s.mem)) ∧
  (∀ (s : State) (o : COp), engineReady s o →
    let n := o.mod.toNat % 16
    (∀ x, s.bank.streamOf n = some x →
      ∃ t x', exec (.sunb o) s = .next (done t) ∧ t.bank.streams = s.bank.streams.map (fun y => if y.ord = x.ord then x' else y) ∧
        x'.num = n ∧ x'.ord = x.ord ∧ x'.next = x.next ∧
        (x.unb = none → x'.untl = some s.bank.bundles ∧ x'.unb = some (o.kd.toNat, s.bank.ord) ∧ x'.more = x.more) ∧
        (x.unb ≠ none → x'.untl = x.untl ∧ x'.unb = x.unb ∧ x'.more = x.more ++ [(o.sl.toNat, o.kd.toNat, s.bank.ord)]) ∧
        t.bank.regs = s.bank.regs.mark o.kd s.bank.ord true ∧ t.bank.tiles = s.bank.tiles ∧ t.mem = s.mem) ∧
    (s.bank.streamOf n = none → exec (.sunb o) s = .next (illegalTaken s))) ∧
  (∀ (s : State) (o : SbOp) (h sets n off : Nat), Readable s [o.xb] o.xa → s.probeTile = some (h, sets) →
    placeOf (s.rx o.xb) = some (.ext n off) → (s.ext n).permits off 1 false = true →
    let tag := s.extVa n off / 1024
    let set := tag % sets
    (∀ w, s.probeWay set tag = some w → (s.probe (8 * set + w)).fill = false →
      exec (.probe o) s = .next (done ((s.recent (8 * set + w)).setX o.xa (BitVec.ofNat 64 (8 * set + w))))) ∧
    (∀ w, s.probeWay set tag = some w → (s.probe (8 * set + w)).fill = true →
      ∃ t, exec (.probe o) s = .next (done t) ∧ t.bank.regs = s.bank.regs.mark o.xa s.bank.ord true ∧
        (t.probe (8 * set + w)).waits = (s.probe (8 * set + w)).waits ++ [(o.xa.toNat, s.bank.ord)] ∧
        (∀ r, r ≠ 8 * set + w → t.probe r = s.probe r) ∧ t.bank.cur = s.bank.cur ∧ t.mem = s.mem) ∧
    (s.probeWay set tag = none → s.probeVictim set = none → exec (.probe o) s = .next (waits s)) ∧
    (∀ w, s.probeWay set tag = none → s.probeVictim set = some w → canonical (away s o.off.toInt) = true →
      let old := s.probe (8 * set + w)
      ∃ t, exec (.probe o) s = .next (done (goes t (away s o.off.toInt))) ∧
        t.bank.regs = s.bank.regs.mark o.xa s.bank.ord true ∧ t.bank.cur = s.bank.cur ∧ t.mem = s.mem ∧
        (t.probe (8 * set + w)).fill = true ∧ (t.probe (8 * set + w)).valid = false ∧
        (t.probe (8 * set + w)).blk = s.blockOf n tag ∧
        (t.probe (8 * set + w)).vic = (if old.valid = true ∧ old.dirty = true then some old.blk else none) ∧
        (t.probe (8 * set + w)).waits = [(o.xa.toNat, s.bank.ord)] ∧
        ∀ r, r ≠ 8 * set + w → t.probe r = s.probe r)) ∧
  (∀ (s : State) (o : SbOp), Readable s [o.xb] o.xa →
    (s.probeTile = none ∨ ∀ n off, placeOf (s.rx o.xb) ≠ some (.ext n off)) → exec (.probe o) s = .next (illegalTaken s))

namespace Sys2Proof.Claims

/-- The bank may fetch and dispatch its next bundle: it is ready, not to be stopped, and no bundle is under way (R52, R67). -/
def atBundle (b : Bank) : Prop := b.run = .ready ∧ b.stop = false ∧ b.cur = none

/-- The line of the next bundle that is still missing: the one with its header, then its last (R67). -/
def wantedLine (b : Bank) : Nat :=
  if (mget none b.fetched (b.at_ / 64)).isSome then (b.at_ + headerLen (leNat (b.code b.at_ 4)) - 1) % 2 ^ 55 / 64 else b.at_ / 64

/-- A line entered in the fetch buffer. -/
def keepsLine (s : State) (line : Nat) (bits : BitVec 512) : State :=
  s.upd fun k => { k with fetched := mset none k.fetched line (some bits) }

/-- The lines of the next bundle are in the fetch buffer, and its bank holds its core's sequencer (R58). -/
def canDispatch (s : State) : Prop :=
  atBundle s.bank ∧ (s.core (coreOf s.cur)).active = s.cur % 2 ∧ s.givesWay = false ∧
  (mget none s.bank.fetched (s.bank.at_ / 64)).isSome = true ∧
  (mget none s.bank.fetched ((s.bank.at_ + headerLen (leNat (s.bank.code s.bank.at_ 4)) - 1) % 2 ^ 55 / 64)).isSome = true

/-- FETCH_FAULT that names a code address, all slots stopped (R67). -/
def fetchFault (d va : Nat) : Flt :=
  { cause := cFETCH_FAULT, detail := d, place := BitVec.signExtend 64 (BitVec.ofNat 55 va), whole := true }

/-- The bytes of the next bundle. -/
def nextBytes (b : Bank) : List Byte := b.code b.at_ (headerLen (leNat (b.code b.at_ 4)))

end Sys2Proof.Claims

/-- The sequencer's steps (R19, R52, R53, R58, R67, R418). -/
def Obligations.SequencerStepsComplete : Prop :=
  (∀ (s : State) (b va : Nat),
    let u := s.focus b
    let line := va / 64
    atBundle u.bank → line = wantedLine u.bank → mget none u.bank.fetched line = none →
    (mget 0 (u.core (coreOf u.cur)).itc (itcKey u.bank.id.ctx (line / 1024)) ≠ 0 ∨
      u.walkWaits u.bank.id.ctx (line / 1024 * 65536) = false) →
    (∀ w u1, u.itcFill (line / 1024) = (.ok w, u1) →
      ((pteOf w).st = 2 → exec (.fetchLine b va) s = .next ((keepsLine u1 line 0).focus s.cur)) ∧
      (∀ bs u2, (pteOf w).st ≠ 2 →
        u1.viewBytes (dieOf u1.cur) u1.bank.id.ctx
          ((List.range 64).map (leafFrame (pteOf w) (line * 64) * 65536 + line * 64 % 65536 + ·)) = .ok (bs, u2) →
        exec (.fetchLine b va) s = .next ((keepsLine u2 line (BitVec.ofNat 512 (leNat bs))).focus s.cur))) ∧
    (∀ d u1, u.bank.lag = [] → u.itcFill (line / 1024) = (.error d, u1) →
      exec (.fetchLine b va) s = .next ((u1.takeFault (fetchFault d (max u.bank.at_ (line * 64)))).focus s.cur))) ∧
  (∀ (s : State) (b : Nat),
    let u := s.focus b
    canDispatch u →
    (∀ x rest, decodeBundle (nextBytes u.bank) = .ok (x, rest) → u.bank.badSticky x = false → u.bank.atBoundary x = false →
      ∃ (t : State) (r : Running), exec (.bundleDispatch b) s = .next (t.focus s.cur) ∧ t.cur = b ∧ t.bank.cur = some r ∧ r.addr = u.bank.pc ∧ r.b = x ∧
        r.rep = 0 ∧ r.begun = false ∧ r.npc = none ∧ r.halt = none ∧
        r.steps = (List.range 6).map (fun i => mget 0 u.bank.ctl.steps (6 * x.stepSet + i)) ∧ t.bank.view = u.bank.regs ∧
        t.bank.kview = u.bank.kennel ∧ t.bank.regs = u.bank.regs ∧ t.mem = s.mem) ∧
    (∀ x rest, decodeBundle (nextBytes u.bank) = .ok (x, rest) → u.bank.badSticky x = false → u.bank.atBoundary x = true →
      exec (.bundleDispatch b) s = .next (u.focus s.cur)) ∧
    (u.bank.lag = [] → ((∃ e, decodeBundle (nextBytes u.bank) = .error e) ∨ ∃ x rest, decodeBundle (nextBytes u.bank) = .ok (x, rest) ∧
        u.bank.badSticky x = true) →
      exec (.bundleDispatch b) s = .next ((u.takeFault { cause := cILLEGAL_BUNDLE, detail := 0, whole := true }).focus s.cur))) ∧
  (∀ (s : State) (b slot : Nat) (r : Running) (rest : List Nat) (i : Instr),
    let u := s.focus b
    let c := mget Cursor.empty u.bank.cursors slot
    u.bank.run = .ready → (u.core (coreOf u.cur)).active = u.cur % 2 → u.bank.cur = some r → r.begun = true →
    r.todo = slot :: rest → r.ready = false → u.bank.reissue = false → u.bank.lag = [] → (isLoad i = true → u.bank.tokenHolds [] r slot = false) →
    r.b.ops[slot]?.getD none = none → r.b.sticky.getLsbD slot = true →
    c.op = some (.op i) →
    ∃ t : State, exec (.stickyIssue b slot) s = .next (t.focus s.cur) ∧ t.agenda = .bank b :: s.agenda ∧ t.bank.slot = slot ∧
      mget Cursor.empty t.bank.cursors slot = { c with adv := c.adv.add (stepOf (r.steps[slot]?.getD 0)) } ∧
      t.bank.cur = some { r with ready := true } ∧ t.bank.regs = u.bank.regs ∧ t.mem = s.mem) ∧
  (∀ (s : State) (b since bound : Nat), (s.getBank b).swait = .counter since bound → (s.getBank b).run = .waiting →
    since + 256 ≤ s.cycle →
    exec (.cwaitSwitchCount b) s = .next (s.modBank b fun k => { k with wish := true })) ∧
  (∀ (s : State) (b : Nat), (s.getBank b).readsLease = true →
    ((s.getBank b).waitAge = 0 →
      exec (.mleaseSwitchCount b) s = .next (s.modBank b fun k => { k with waitAge := s.cycle + 1 })) ∧
    ((s.getBank b).waitAge ≠ 0 → (s.getBank b).waitAge + 255 ≤ s.cycle →
      exec (.mleaseSwitchCount b) s = .next (s.modBank b fun k => { k with wish := true }))) ∧
  (∀ (s : State) (core : Nat),
    let here := 2 * core + (s.core core).active % 2
    (s.getBank (otherBank here)).run = .ready →
    ((s.getBank here).run = .ready ∧ (s.core core).give = true ∧ (s.getBank here).cur = none ∨
      (s.getBank here).run = .ready ∧ (s.getBank here).wish = true ∧ (s.getBank here).readsLease = true ∨
      (s.getBank here).run = .waiting ∧ (s.getBank here).wish = true ∨
      (s.getBank here).run = .faulted ∧ s.recordWaits here = false ∨
      (s.getBank here).run ∉ [.ready, .waiting, .faulted]) →
    exec (.bankHandover core) s = .next (s.modCore core fun c => { c with active := 1 - c.active % 2, give := false })) ∧
  (∀ (s : State) (c d : Nat), (s.ctx c).faults.length < faCap (s.ctx c).fa →
    (∀ h rest, (s.ctx c).waitq = h :: rest →
      exec (.pendingEventRecordWrite (.ctx c) d) s =
        .next ((s.modCtx c fun x => { x with waitq := rest }).putWaited c h)) ∧
    (∀ r rest, (s.ctx c).waitq = [] → mget [] (s.ctx c).pend d = r :: rest →
      exec (.pendingEventRecordWrite (.ctx c) d) s =
        .next ((s.modCtx c fun x => { x with pend := mset [] x.pend d rest }).ctxPut c r .event))) ∧
  (∀ (s : State) (d : Nat) (h : FaultHeld) (rest : List FaultHeld), s.dev.faults.length < faCap s.dev.fa → s.dev.waitq = h :: rest →
    exec (.pendingEventRecordWrite .dev d) s = .next (({ s with dev := { s.dev with waitq := rest } } : State).devPut h.recd h.who))

/-- The taking of a fault (R62, R67, R418, R462). -/
def Obligations.FaultsAreTaken : Prop :=
  (∀ (s : State) (f : Flt), s.bank.lateFirst = true → s.takeFault f = (s.metError f).lateFault) ∧
  ∀ (s : State) (f : Flt), s.bank.lateFirst = false →
    let t := s.takeFault f
    let c := s.bank.id.ctx
    t.cur = s.cur ∧ t.bank.run = .faulted ∧ t.bank.issued = .faulted ∧ t.bank.swait = .none ∧ t.bank.regs = s.bank.regs ∧
    t.bank.ctl = s.bank.ctl ∧ t.bank.tiles = s.bank.tiles ∧ t.bank.sq = s.bank.sq ∧ t.bank.pc = s.bank.pc ∧
    t.bank.fetched = (if f.cause = cFETCH_FAULT then [] else s.bank.fetched) ∧
    ∃ r : FaultRec, r.cause = f.cause ∧ r.detail = f.detail ∧ r.source = 0 ∧ r.slot = (if f.whole then 0xFF else s.bank.slot) ∧
      r.core = coreOf s.cur ∧ r.bank = s.cur % 2 ∧ r.kernel = s.bank.id.kid ∧ r.done = f.done ∧ r.work = s.bank.id.wid ∧
      r.bundle = s.bank.bundleAt ∧ r.place = f.place ∧
      (r.window, r.progress) = (if f.after then s.bank.pastOp else s.bank).windowOf ∧
      (if (s.ctx c).waitq = [] ∧ (s.ctx c).faults.length < faCap (s.ctx c).fa then
        r.seq = (s.ctx c).fseq ∧ (t.ctx c).fseq = ((s.ctx c).fseq + 1) % 2 ^ 32 ∧
        (t.ctx c).faults = (s.ctx c).faults ++ [⟨r, .bank s.cur⟩] ∧ t.notices = s.notices ++ [.fault (.ctx c) r.seq] ∧
        (Memory.wf s.mem →
          t.bytesAt (faBase (s.ctx c).fa + 64 * ((s.ctx c).fseq % faCap (s.ctx c).fa)) 64 = r.bytes)
       else (t.ctx c).waitq = (s.ctx c).waitq ++ [⟨r, .bank s.cur⟩] ∧ (t.ctx c).faults = (s.ctx c).faults ∧ t.mem = s.mem)

namespace Sys2Proof.Claims

/-- A line homed elsewhere can be filled into a die's far cache now: nothing of the die to it is on its way, no group holds it, no bank makes
its reads wait, the die link carries the request and its answer, and it holds no uncorrectable error (R246, R247, R380, R423, R428, R429). -/
def canFill (s : State) (d line : Nat) : Prop :=
  s.wts.any (fun w => w.src == d && w.ws.any (fun x => x.1 / 64 == line)) = false ∧ s.prepHeld line = false ∧
  s.lineWaits line = false ∧ (∃ u, s.round d (s.home (line * 64)) 0 1 = .ok u) ∧ s.linePoison (line * 64) = false

/-- No byte of the writes is of a page that migrates or a line under prepare-hold, and no bank makes them wait (R342, R359, R423, R428,
R429). -/
def unheld (s : State) (ws : List AWrite) : Prop :=
  (∀ w ∈ ws, s.wpAt w.1 = false ∧ s.prepHeld (w.1 / 64) = false) ∧ ∀ b ∈ blocksOf ws, s.blockWaits b = false

/-- The dirty reports of every block written (R346). -/
def reported (s : State) (ws : List AWrite) : State := (blocksOf ws).foldl (fun t b => t.dset (b * 512)) s

/-- The first entry of the store queue of a bank. -/
def headEntry (s : State) (e : SqEntry) : Prop := s.bank.sq.head? = some e

end Sys2Proof.Claims

/-- The steps of the memory system (R246 to R248, R332, R339). -/
def Obligations.StoresAndFillsPerform : Prop :=
  (∀ (s : State) (die line : Nat), die < 4 → s.home (line * 64) ≠ die → s.farLine die line = none → canFill s die line →
    ∃ t : State, exec (.loadDataReturn die line) s = .next t ∧
      mget none (t.die die).far line = some ⟨s.lineBits line, s.cycle, (s.frameOf (line * 64)).ctx⟩ ∧
      t.mem = s.mem ∧ t.bank = s.bank ∧ t.ctxs = s.ctxs ∧ t.blocks = s.blocks) ∧
  (∀ (s : State) (b : Nat) (e : SqEntry),
    let u := s.focus b
    headEntry u e →
    (∀ ws g, e.kind = .store ws g false → u.bank.issueOver e = true → memWrites ws = [] →
      exec (.storePerform b) s = .next (State.settleHost (((((tileWrites ws).map (·.1)).eraseDups.foldl (fun (s : State) h =>
        s.tileWrite s.cur h (((tileWrites ws).filter fun w => w.1 == h).map (·.2))) u).popSq).focus s.cur))) ∧
    (∀ ws g, e.kind = .store ws g false → u.bank.issueOver e = true → memWrites ws ≠ [] → unheld u (memWrites ws) → u.ungranted (memWrites ws) g = [] →
      u.storeLink (memWrites ws) = none →
      (∀ t, u.enterView (dieOf u.cur) u.cur none g (memWrites ws) e.hint = some t → u.writePoison (memWrites ws) = false →
        exec (.storePerform b) s = .next (State.settleHost (((reported t (memWrites ws)).popSq).focus s.cur))) ∧
      (u.enterView (dieOf u.cur) u.cur none g (memWrites ws) e.hint = none → u.bank.run ≠ .faulted →
        exec (.storePerform b) s = .next (State.settleHost
          ((u.storeFault e cOUT_OF_SPACE 0 e.done fun x => x.ord == e.ord).focus s.cur)))) ∧
    (∀ scope kind mark, e.kind = .fence scope kind mark → u.fenceMet scope kind mark = true →
      (kind = 1 → exec (.storePerform b) s = .next (State.settleHost (u.popSq.focus s.cur))) ∧
      (kind ≠ 1 → exec (.storePerform b) s = .next (State.settleHost ((u.popSq.acquire scope).freeAcqs.focus s.cur)))) ∧
    (∀ reg, e.kind = .mark reg → u.addsMade = true →
      exec (.storePerform b) s = .next (State.settleHost ((u.popSq.completeTok u.cur reg e.ord true 0).freeAcqs.focus s.cur))) ∧
    (∀ id amount scope i, e.kind = .cadd id amount scope → u.earlierDone scope = true → u.bankCtr id true = .ok i →
      exec (.storePerform b) s = .next (State.settleHost ((u.popSq.sendAdd (dieOf u.cur) u.bank.id.ctx
        ⟨i, amount, .cadd u.cur e.ord, id, e.bundle, e.wid, u.bank.id.kid, e.hint, u.bank.id.ctx, u.vaOf id⟩).focus s.cur))) ∧
    (∀ va q reg, e.kind = .release 0 va q reg → u.earlierDone 3 = true →
      exec (.storePerform b) s = .next (State.settleHost ((u.popSq.modCtx u.bank.id.ctx fun x =>
        { x with launchq := x.launchq ++ [(reg, va, q.toNat, u.cur, e.ord)] }).focus s.cur)))) ∧
  (∀ (s t v : State) (b : Nat) (e : SqEntry) (ws : List BWrite) (g : List (Nat × Nat)) (r : Nat × Nat) (rs : List (Nat × Nat)),
    let u := s.focus b
    headEntry u e → e.kind = .store ws g false → u.ungranted (memWrites ws) g = r :: rs →
    u.round (dieOf u.cur) (u.home (r.1 * 512)) 0 1 = .ok t → t.reserve .bank [r] = some v →
    exec (.sectorReservationRequest b) s =
      .next ((v.modSq fun x => { x with kind := .store ws (g ++ [r]) false }).focus s.cur)) ∧
  (∀ (s t v : State) (src home : Nat) (w : WThru),
    (s.wts.find? fun x => x.src == src && x.home == home && !x.arrived) = some w → (∀ x ∈ w.ws, s.prepHeld (x.1 / 64) = false) →
    (∀ b ∈ blocksOf w.ws, s.blockWaits b = false) → s.cross src home w.vc = some t → t.softWrite .reserve w.rsv w.ws w.hint = some v →
    exec (.writeThroughArrival src home) s = .next (reported
      { v with wts := v.wts.map fun x => if x.num = w.num then { x with arrived := true } else x } w.ws)) ∧
  (∀ (s t : State) (src home : Nat) (w : WThru), (s.wts.find? fun x => x.src == src && x.home == home) = some w → w.arrived = true →
    s.cross home src 1 = some t → exec (.writeThroughAck src home) s = .next { t with wts := t.wts.filter (·.num != w.num) }) ∧
  (∀ (s : State) (die line : Nat) (l : FarLine), mget none (s.die die).far line = some l → l.born + 2 ^ 20 ≤ s.cycle →
    exec (.farCacheAgeExpiry die line) s = .next (s.modDie die fun x => { x with far := x.far.filter fun e =>
      e.1 != line && e.2.isSome })) ∧
  (∀ (s : State) (lv : Level) (addr : Nat) (data : List Byte), addr + data.length < 2 ^ 48 → addr % 512 + data.length ≤ 512 →
    unheld s (wholeBytes addr data) →
    (∀ t, s.softWrite lv [] (wholeBytes addr data) = some t →
      exec (.blockWrite lv addr data) s = .next (reported t (wholeBytes addr data))) ∧
    (s.softWrite lv [] (wholeBytes addr data) = none → exec (.blockWrite lv addr data) s = .next s))

/-- The compression controllers (R334 to R338). -/
def Obligations.CompressionStepsComplete : Prop :=
  (∀ (s : State) (die : Nat), (s.die die).cmp.resamp ≠ 0 → (s.die die).cmp.sampAt + (s.die die).cmp.resamp * 2 ^ 20 ≤ s.cycle →
    (s.die die).cmp.learn = false → (s.die die).cmp.next = none →
    exec (.resampleInterval die) s = .next (s.modDie die fun x =>
      { x with cmp := { x.cmp with learn := true, counts := [], nblk := 0, learnAt := s.cycle, sampAt := x.cmp.sampAt + x.cmp.resamp * 2 ^ 20 } })) ∧
  (∀ (s : State) (die : Nat), (s.die die).cmp.learn = true → (s.die die).cmp.learnAt + 2 ^ 20 ≤ s.cycle → (s.die die).cmp.prev = none →
    ∃ t : State, exec (.learningPhaseEnd die) s = .next t ∧ (t.die die).cmp.learn = false ∧ (t.die die).cmp.next = none ∧
      (t.die die).cmp.prev = (s.die die).cmp.cur ∧
      (t.die die).cmp.cur = some (learnedTable ((match (s.die die).cmp.cur with
        | some x => x.gen + 1
        | none => 0) % 2 ^ 16) (s.die die).cmp.counts) ∧ t.mem = s.mem ∧ t.blocks = s.blocks) ∧
  (∀ (s : State) (die : Nat), (s.die die).cmp.next.isSome = true → (s.die die).cmp.nextAt + 2 ^ 24 ≤ s.cycle →
    exec (.tableWaitExpiry die) s = .next (s.modDie die fun x => { x with cmp := { x.cmp with evt := x.cmp.evt ||| 4 } })) ∧
  (∀ (s : State) (die : Nat), (s.die die).cmp.retr = true → (s.die die).cmp.next = none →
    let a := State.recover die (fun s b => s.shrink die b) (s.blocksOn die) s
    let b := State.recover die State.fold (a.blocksOn die) a
    let z := if (b.die die).cmp.high ≤ (b.die die).cmp.free then b else b.zeroPages
    let c := State.recover die (fun s i => s.balloon die i) (List.range ((z.die die).cmp.bln.toNat / 2 ^ 48)) z
    ((c.die die).cmp.high ≤ (c.die die).cmp.free →
      exec (.retrieverRun die) s = .next (State.settleHost (c.modDie die fun x => { x with cmp := { x.cmp with retr := false } }))) ∧
    ((c.die die).cmp.free < (c.die die).cmp.high → (c.die die).cmp.evt.getLsbD 1 = false →
      exec (.retrieverRun die) s = .next (State.settleHost
        ((c.modDie die fun x => { x with cmp := { x.cmp with evt := x.cmp.evt ||| 2 } }).notify (.evict die))))) ∧
  (∀ (s : State) (die : Nat) (w : Watermark) (v : Nat),
    let c := (s.die die).cmp
    let m : Nat × Nat × Nat := match w with
      | .rsv => (v, c.low, c.high)
      | .low => (c.rsv, v, c.high)
      | .high => (c.rsv, c.low, v)
    (s.boot.stage ≠ 8 → v < 2 ^ 32 → m.1 < m.2.1 → m.2.1 < m.2.2 →
      exec (.cmpWatermarkWrite die w v) s = .next (s.modDie die fun x =>
        { x with cmp := ({ c with rsv := m.1, low := m.2.1, high := m.2.2 } : Cmp).setFree c.free })) ∧
    (¬ (s.boot.stage ≠ 8 ∧ v < 2 ^ 32 ∧ m.1 < m.2.1 ∧ m.2.1 < m.2.2) → exec (.cmpWatermarkWrite die w v) s = .next s.refuse))

namespace Sys2Proof.Claims

/-- A leaf's word with another frame. -/
def reframed (w : Word) (frame : Nat) : Word := BitVec.ofNat 64 (w.toNat % 2 ^ 16 + frame % 2 ^ 32 * 2 ^ 16)

/-- The frame has left the context: zero blocks, no entry at its home controller, no far-cache line, no cached translation (R329, R348). -/
def frameGone (s : State) (c : Nat) (l : Leaf) (frame : Nat) : State :=
  (((s.freeFrames frame 1).setFrames frame 1 fun _ => Frame.none).dropFrames frame 1).dropCached c l.vpn 1

/-- A migration or split of a page removed from those under way. -/
def opOver (s : State) (c va : Nat) : State := s.modCtx c fun x => { x with pageOps := x.pageOps.filter (·.va != va) }

/-- A RESIDENT or ZERO 64 KiB page that nothing holds in its frame may go to a slot at a host address that their fields hold (R326, R329,
R365, R375). -/
def evictable (s : State) (c : Nat) (l : Leaf) (dest : EvictSlot) : Bool :=
  l.n == 1 && !s.pageBusy c l && (l.pte.st == 0 || l.pte.st == 2) && !s.pinned c l &&
  !s.stagedIn l.frame 1 && decide (dest.slot < 2 ^ 32 ∧ dest.host + 65536 ≤ 2 ^ 64)

/-- The write-throughs to a page have landed and its blocks have crossed to the Sheepdog in the bulk VC (R247, R375, R380). -/
def broughtOut (s : State) (frame : Nat) : Option State :=
  (s.landed frame).bind fun t => t.haul ((t.heldBlocks frame).map fun i => (t.blockHome frame i, sheepdog))

/-- A slot's record: where its contents stand in host memory, which blocks held sectors, which lines an uncorrectable error (R329, R349). -/
def slotOf (s : State) (frame host : Nat) : Evicted :=
  ⟨host, s.heldBlocks frame, (List.range 1024).filter fun i => s.linePoison (frame * 65536 + 64 * i)⟩

/-- A RESIDENT 64 KiB page that may move to a frame (R342, R365). -/
def movable (s : State) (c : Nat) (l : Leaf) (frame : Nat) : Bool :=
  l.n == 1 && l.pte.st == 0 && !s.pageBusy c l && !s.stagedIn l.frame 1 && s.exposed frame 1

/-- The home controller's entry of a page's frame as a return makes it (R329). -/
def ownFrame (c : Nat) (l : Leaf) : Frame := { comp := l.pte.c, wp := l.pte.wp, reported := false, ctx := c, va := l.vpn * 65536 }

/-- No core's caches hold a translation of some pages: code pages from first, and extent entries that touch n pages from vpn (R327, R330,
R348). -/
def uncached (t : State) (c first count vpn n : Nat) : Prop :=
  ∀ core, (∀ e ∈ (t.core core).itc, ¬ (itcKey c first ≤ e.1 ∧ e.1 < itcKey c first + count)) ∧
    ∀ e ∈ (t.core core).efc, ¬ (e.ctx = c ∧ e.ent.touches vpn n = true)

end Sys2Proof.Claims

/-- The pages of a context (R326 to R330, R342 to R347). The two stages of SPLIT_COMPLETE are the model's choice (log 75). -/
def Obligations.PageStepsComplete : Prop :=
  (∀ (s : State) (c va : Nat) (entry : Word),
    let m := s.asWritten c
    (∀ l, m.leafOf c va = some l → m.pageBusy c l = true → exec (.pteWrite c va entry) s = .next s.refuse) ∧
    (∀ l, m.leafOf c va = some l → m.pageBusy c l = false → (pteOf entry).v = true → exec (.pteWrite c va entry) s = .next s.noRow) ∧
    (∀ l, m.leafOf c va = some l → m.pageBusy c l = false → (pteOf entry).v = false →
      exec (.pteWrite c va entry) s = .next (if m.pinned c l then s.refuse else s.softPte c l.at_ entry)) ∧
    (∀ a, m.leafOf c va = none → (pteOf entry).v = false → m.balloonedAt c va = some a →
      exec (.pteWrite c va entry) s = .next (s.softPte c a entry)) ∧
    (∀ a, m.leafOf c va = none → (pteOf entry).v = true → m.pteSlot c va ((pteOf entry).size == 1) = some a →
      ((pteOf entry).large = true ∧ ptrFrame (m.pteWord c a) = none ∨ (pteOf entry).small = true) →
      ((pteOf entry).st = 0 ∨ (pteOf entry).st = 2) →
      s.exposed (pteOf entry).frame (if (pteOf entry).size = 1 then 2 ^ 13 else 1) = true →
      ∃ t, exec (.pteWrite c va entry) s = .next t ∧ t = s.newLeaf c va a entry ∧
        ((pteOf entry).st = 0 → s.pteWord c a ≠ entry → t.pteWord c a = s.pteWord c a))) ∧
  (∀ (s : State) (c va : Nat),
    let n := s.pagesUnder c va
    let lo := va / 65536 / n * n
    let seen (t : State) (a : Nat) : Prop := mget none (t.ctx c).stale a = none
    ∃ t : State, exec (.invalidationCommand c va) s = .next (State.settleHost t) ∧ uncached t c lo n lo n ∧ seen t (s.rootSlot c va) ∧
      ∀ large a, (s.unstale c va).pteSlot c va large = some a → seen t a) ∧
  (∀ (s : State) (c va : Nat) (dest : EvictSlot) (l : Leaf), s.leafOf c va = some l →
    (∀ t l', evictable s c l dest = true → broughtOut s l.frame = some t → t.leafOf c va = some l' →
      exec (.pageEvict c va dest) s = .next (State.settleHost
        ((frameGone { t.toHost l'.frame dest.host with evicted := mset none t.evicted dest.slot (some (slotOf t l'.frame dest.host)) } c l'
          l'.frame).putPte c l' (pteState (reframed l'.w dest.slot) 1)))) ∧
    (evictable s c l dest = true → broughtOut s l.frame = none → exec (.pageEvict c va dest) s = .next s.refuse) ∧
    (evictable s c l dest = false → (l.pte.st = 0 ∨ l.pte.st = 2 ∨ s.pageBusy c l = true) → exec (.pageEvict c va dest) s = .next s.refuse)) ∧
  (∀ (s : State) (c va frame : Nat) (l : Leaf), s.leafOf c va = some l → s.pageBusy c l = false → l.n = 1 → l.pte.st = 1 →
    s.exposed frame 1 = true →
    let e := (mget none s.evicted l.pte.frame).getD ⟨0, [], []⟩
    ∀ u, ((s.freeFrames frame 1).setFrames frame 1 fun _ => ownFrame c l).haul (e.held.map fun i => (sheepdog, s.blockHome frame i)) = some u →
    (∀ t, u.fillFrame .bank frame (s.hostCells e) = some t → exec (.pageReturn c va frame) s = .next (State.settleHost
      ((({ t with evicted := mset none t.evicted l.pte.frame none } : State).putPte c l (pteState (reframed l.w frame) 0)).winsReturn c l.vpn
        frame l.pte))) ∧
    (u.fillFrame .bank frame (s.hostCells e) = none → exec (.pageReturn c va frame) s = .next (s.notify (.refused cOUT_OF_SPACE 0)))) ∧
  (∀ (s : State) (c va frame : Nat) (l : Leaf), s.leafOf c va = some l →
    (movable s c l frame = true → exec (.migrate c va frame) s = .next
      ((((s.putPte c l (pteWp l.w true)).modEntries c l.vpn 1 fun e => { e with wp := true }).frameWp l.frame 1 true).modCtx c fun x =>
        { x with pageOps := x.pageOps ++ [⟨l.vpn * 65536, false, frame, 0, none, none, none⟩] })) ∧
    (movable s c l frame = false → (l.pte.st = 0 ∨ s.pageBusy c l = true) → exec (.migrate c va frame) s = .next s.refuse)) ∧
  (∀ (s u t : State) (c va : Nat) (p : PageOp) (l : Leaf),
    let page := va / 65536 * 65536
    s.pageOp c page = some p → s.leafOf c page = some l → p.split = false → p.stage = 0 →
    s.wts.any (fun w => !w.arrived && w.ws.any fun x => x.1 / 65536 == l.frame) = false →
    ((s.freeFrames p.target 1).setFrames p.target 1 fun _ => s.frameOf (l.frame * 65536)).haul
      ((s.heldBlocks l.frame).map fun i => (s.blockHome l.frame i, s.blockHome p.target i)) = some u →
    u.fillFrame .reserve p.target (s.frameCells l.frame) = some t →
    exec (.migrationCopyComplete c va) s = .next (State.settleHost
      ((((((t.putPte c l (pteWp (reframed l.w p.target) false)).modCtx c fun x => x.mapFrames fun e =>
        if e.touches l.vpn 1 && e.pages == 1 then { e with frame := p.target, wp := false } else e).follow l.frame p.target).rehome).dropFrames
        l.frame 1).modCtx c fun x => { x with pageOps := x.pageOps.map fun q => if q.va = page then { q with stage := 1, target := l.frame } else q }))) ∧
  (∀ (s : State) (c va : Nat) (p : PageOp) (l : Leaf),
    let page := va / 65536 * 65536
    s.pageOp c page = some p → s.leafOf c page = some l → p.split = false → p.stage = 1 →
    exec (.migrationInvalidateComplete c va) s = .next (State.settleHost (opOver
      (((((((s.dropCached c (page / 65536) 1).dropFrames p.target 1).follow p.target l.frame).rehome).freeFrames p.target 1).setFrames
        p.target 1 fun _ => Frame.none).frameWp l.frame 1 false) c page))) ∧
  (∀ (s : State) (c va : Nat) (l : Leaf),
    let page := va / 65536 * 65536
    s.leafOf c page = some l → l.pte.st = 0 → l.pte.wp = true →
    (s.ctx c).pageOps.any (fun p => p.split && p.va == page / 2 ^ 29 * 2 ^ 29) = false →
    exec (.migrationCancel c va) s = .next (State.settleHost (opOver
      (((s.putPte c l (pteWp l.w false)).modEntries c l.vpn l.n fun e => { e with wp := false }).frameWp l.frame l.n false) c page))) ∧
  (∀ (s : State) (c va table : Nat) (r w wp : Option Bool) (l : Leaf), s.leafOf c va = some l → l.n ≠ 1 → l.pte.st = 0 →
    s.pageBusy c l = false → s.stagedIn l.frame l.n = false → s.exposed table 1 = true → (l.pte.r = false ∨ r.getD l.pte.r = true ∨ s.regionNeeds c l false = false) →
    (l.pte.w = false ∨ w.getD l.pte.w = true ∨ s.regionNeeds c l true = false) →
    exec (.split c va table r w wp) s = .next ((s.putPte c l (pteState l.w 3)).modCtx c fun x =>
      { x with pageOps := x.pageOps ++ [⟨l.vpn * 65536, true, table, 0, r, w, wp⟩] })) ∧
  (∀ (s : State) (c va : Nat) (p : PageOp),
    let page := va / 2 ^ 29 * 2 ^ 29
    ((s.ctx c).pageOps.find? fun q => q.va == page && q.split) = some p →
    (∀ l, p.stage = 0 → s.leafOf c page = some l →
      ∃ t : State, exec (.splitComplete c va) s = .next t ∧
        (t.ctx c).pageOps = (s.ctx c).pageOps.map (fun q => if q.va = p.va ∧ q.split then { q with stage := 1 } else q) ∧
        t.mem = ((s.poke (p.target * 65536) ((List.range l.n).flatMap fun i => leBytes 8 (smallLeaf l.w i (p.r.getD l.pte.r)
          (p.w.getD l.pte.w) (p.wp.getD l.pte.wp)))).putPte c l (BitVec.ofNat 64 (p.target * 2 ^ 16 + 1))).mem) ∧
    (p.stage ≠ 0 →
      ∃ t : State, exec (.splitComplete c va) s = .next (t.modCtx c fun x =>
          { x with pageOps := x.pageOps.filter fun q => !(q.va == page && q.split) }) ∧
        t.mem = s.mem ∧ t.ctxs = s.ctxs ∧ t.blocks = s.blocks ∧ uncached t c (page / 65536) (2 ^ 13) (page / 65536) (2 ^ 13))) ∧
  (∀ (s : State) (c va : Nat) (l : Leaf), s.leafOf c va = some l → l.pte.v = true → l.pte.st ≠ 1 →
    exec (.dirtyDSet c va) s = .next (s.dset ((l.frame + (va / 65536 - l.vpn)) * 65536))) ∧
  (∀ (s : State) (c : Nat), mwf Ctx.reset s.ctxs = true → ∃ t : State, exec (.dirtyRoundStart c) s = .next t ∧
    (∀ k ∈ t.kernelList c, ∀ e ∈ k.2.frames, e.reported = false) ∧
    (∀ w ∈ (t.ctx c).wins, ∀ e ∈ w.2.frames, e.reported = false) ∧
    (∀ x ∈ (t.ctx c).colls, ∀ e ∈ x.2.frames, e.reported = false) ∧ t.bank = s.bank)

namespace Sys2Proof.Claims

/-- The kernel of a slot in a state with no stop and no completion add under way. -/
def kernelAt (s : State) (c k : Nat) (x : Kernel) (st : KState) : Prop := s.kernel c k = some x ∧ x.st = st

/-- A bank that stands at an issue boundary with nothing of it on its way (R63, R218, R261). -/
def quietAt (s : State) : Prop := s.bank.stop = false ∧ s.bank.atItems = true ∧ s.settled s.cur = true

end Sys2Proof.Claims

/-- The fantail's steps for kernels (R263 to R300, R464). -/
def Obligations.KernelStepsComplete : Prop :=
  (∀ (s : State) (c : Nat) (src : Nat) (va : Word) (q b ord : Nat) (rest : List (Nat × Word × Nat × Nat × Nat)),
    (s.ctx c).launchq = (src, va, q, b, ord) :: rest → (src < 64 ∨ (s.fn (src - 64)).posted = []) →
    let t := s.modCtx c fun x => { x with launchq := rest }
    (∀ kid u, t.launch c va q (src == 64) = .ok (kid, u) →
      exec (.launchAcceptance c) s = .next (u.launchAnswer src b ord true (BitVec.ofNat 64 (2 ^ 63 + kid)))) ∧
    (∀ f, t.launch c va q (src == 64) = .error (.fault f) →
      exec (.launchAcceptance c) s = .next ((t.metError f).launchAnswer src b ord false (failVal f.cause f.detail 0)))) ∧
  (∀ (s : State) (fn : Nat) (v : Word), fn < 17 →
    ((s.fn fn).busy = true → exec (.hlwGo fn v) s = .next (s.modFn fn fun f => { f with ovr := true })) ∧
    (∀ c, (s.fn fn).busy = false → v.toNat < 64 → s.boot.stage = 7 → (s.fn fn).bound = some c → (s.ctx c).st ≠ .free →
      (s.ctx c).st ≠ .destroyed →
      exec (.hlwGo fn v) s = .next ((s.modFn fn fun f => { f with busy := true, queue := v, go := some v }).modCtx c fun x =>
        { x with launchq := x.launchq ++ [(64 + fn, (s.fn fn).addr, v.toNat, 0, 0)] }))) ∧
  (∀ (s : State) (c k d : Nat) (x : Kernel) (n off : Nat) (r : Region),
    let e := x.hdr.deps[d]?.getD (0, 0)
    let va := r.base + BitVec.ofNat 64 off
    let v := va.toNat % 2 ^ 55
    kernelAt s c k x .pending → d < 4 → depUsed e = true → placeOf e.1 = some (.ext n off) → x.hdr.regionFor n = some r →
    mget none x.depFrm d = none → mget none x.depFrm (16 + d) = none → s.walkWaits c v = false →
    (∀ l, s.leafOf c v = some l → l.pte.st ≠ 1 → l.pte.r = true →
      exec (.dependenceTranslation c k d) s = .next (((s.walked c v).setA c l).modKernel c k fun y =>
        { y with depFrm := mset none y.depFrm d (some ((l.frame + (v / 65536 - l.vpn)) * 65536 + v % 65536)) })) ∧
    (s.walk c v = .absent → exec (.dependenceTranslation c k d) s = .next
      ((s.modKernel c k fun y => { y with depFrm := mset none y.depFrm (16 + d) (some 1) }).ctxFault c
        (kernRec (x.kid k) cFETCH_FAULT 3 0 va) (.kernel c k)))) ∧
  (∀ (s : State) (c q k : Nat) (x : Kernel), s.head c q = some (k, x) → s.headWait c k x = 0 →
    (x.aged = 0 → exec (.agingInterval c q) s = .next (s.modKernel c k fun x => { x with aged := s.cycle + 2 ^ 25 })) ∧
    ∀ n, x.aged ≠ 0 → n = (s.cycle + 2 ^ 25 - x.aged) / s.aging → n ≠ 0 →
      exec (.agingInterval c q) s = .next (s.modKernel c k fun x => { x with prio := min 7 (x.prio + n), aged := x.aged + n * s.aging })) ∧
  (∀ (s : State) (c q k : Nat) (x : Kernel),
    let t := (s.staleAll c).ageCtx c
    (t.ctx c).st = .running → ((t.kernelList c).countP fun e => e.2.st == .dispatching) < 4 → t.selection c = some (q, k, x) →
    exec (.kernelSelect c) s = .next ((t.modCtx c fun y => { y with rr := mset 63 y.rr x.prio q }).modKernel c k fun y =>
      { y with st := .dispatching, aged := 0, consumer := t.pairOf c x })) ∧
  (∀ (s : State) (c k : Nat) (x : Kernel), kernelAt s c k x .dispatching → x.stop = none → x.adding = false →
    (∀ r ∈ x.hdr.regions, s.regionWaits c r = false) →
    (∀ n fs t, s.transRegions c x.hdr.regions.zipIdx x.frames = (.done, n, fs, t) →
      (x.hdr.n ≠ 0 → exec (.regionTranslationEnd c k) s = .next
        ((t.modKernel c k fun x => { x with frames := fs }).modKernel c k fun x => { x with st := .running })) ∧
      (x.hdr.n = 0 → exec (.regionTranslationEnd c k) s = .next ((t.modKernel c k fun x => { x with frames := fs }).completion c k))) ∧
    (∀ d va n fs t, s.transRegions c x.hdr.regions.zipIdx x.frames = (.fault d va, n, fs, t) →
      exec (.regionTranslationEnd c k) s = .next ((t.modKernel c k fun x => { x with frames := fs, stop := some n }).ctxFault c
        (kernRec (x.kid k) cFETCH_FAULT d n (BitVec.signExtend 64 (BitVec.ofNat 55 va))) (.kernel c k)))) ∧
  (∀ (s : State) (c k : Nat) (x : Kernel), (kernelAt s c k x .running ∨ kernelAt s c k x .edge) → x.adding = false →
    x.ended = x.hdr.ntasks →
    (x.hdr.doneAmt = 0 → exec (.counterTreeComplete c k) s = .next (s.finish c k .done 0 0)) ∧
    (x.hdr.doneAmt ≠ 0 → exec (.counterTreeComplete c k) s = .next (s.completion c k))) ∧
  (∀ (s : State) (c k : Nat) (x : Kernel) (cause detail : Nat), s.kernel c k = some x → x.adding = true → x.addRes = some (cause, detail) →
    (cause = 0 → exec (.completionAddPerformed c k) s = .next (s.finish c k .done 0 0)) ∧
    (cause ≠ 0 → exec (.completionAddPerformed c k) s = .next (s.kernelFault c k cause detail 0 x.hdr.doneId)))

/-- Tasks (R49, R63, R270 to R283, R296 to R298). -/
def Obligations.TaskStepsComplete : Prop :=
  (∀ (s : State) (c k : Nat) (x : Kernel),
    (s.ctx c).st = .running → (s.ranked c).find? (·.1 == k) = some (k, x) →
    (∀ e ∈ (s.ranked c).takeWhile (·.1 != k), s.placement c e.1 e.2 [] = none) →
    (∀ on first u, on ≠ [] → s.placement c k x [] = some first → first.map (·.1) = on.map (·.1) →
      s.unitOf c k x (on.map (·.1)) = some u → s.admissible ⟨c, x.kid k, x, []⟩ u on = true →
      exec (.taskPlace c k on) s = .next (s.placeAll c k (x.kid k) on)) ∧
    (s.placement c k x [] = none → exec (.taskPlace c k []) s = .next (s.preemptFor c k x))) ∧
  (∀ (s : State) (b : Nat) (x : Bundle) (t t2 : State) (e : SpEntry),
    let u := s.focus b
    quietAt u → u.bank.preempt = true → u.bank.run ≠ .faulted → u.boundary = some (x, t) → t.safePoint x = .ok (e, t2) →
    exec (.preemptAtSafePoint b) s =
      .next (((t2.saveBank b (some x.spIndex) (some e) .none).afterSave t2.bank.id.ctx).focus s.cur)) ∧
  (∀ (s : State) (b since bound : Nat) (r : Running) (t : State) (e : SpEntry),
    let u := s.focus b
    quietAt u → u.bank.swait = .counter since bound → u.bank.run = .waiting → since + u.waitLim < u.cycle → u.bank.cur = some r →
    (∃ k ∈ u.ranked u.bank.id.ctx, u.placement u.bank.id.ctx k.1 k.2 [] = none ∧
      (u.placement u.bank.id.ctx k.1 k.2 (u.partBanks u.bank.id.ctx)).isSome = true) →
    u.safePoint r.b = .ok (e, t) →
    exec (.waitLimitSwapout b) s =
      .next (((t.saveBank b (some r.b.spIndex) (some e) (t.cwaitOf b)).afterSave t.bank.id.ctx).focus s.cur)) ∧
  (∀ (s : State) (b : Nat) (x : Kernel),
    let u := s.focus b
    u.bank.stop = false → u.myKernel = some x → u.bank.issued ≠ .faulted →
    (u.bank.run = .ending → (∃ t ∈ u.bank.streams, t.unb = none) →
      exec (.taskEnd b) s = .next (State.settleHost (u.unbindAll.focus s.cur))) ∧
    (u.bank.run = .ending → (∀ t ∈ u.bank.streams, t.unb ≠ none) → u.taskQuiet = true →
      ∃ t : State, exec (.taskEnd b) s = .next (State.settleHost (t.focus s.cur)) ∧ t.cur = b ∧ t.bank.run = .edge ∧ t.bank.cmds = [] ∧
        t.bank.tiles = u.bank.tiles ∧ t.bank.probes = u.bank.probes ∧ t.mem = s.mem) ∧
    (u.bank.run = .edge → u.edgeRow x.hdr = none → u.settled u.cur = true →
      exec (.taskEnd b) s = .next (State.settleHost ((u.endTask x).focus s.cur)))) ∧
  (∀ (s : State) (b : Nat),
    let u := s.focus b
    (u.bank.canStop = true → exec (.taskEnd b) s = .next (State.settleHost (u.stopBank.focus s.cur))) ∧
    (u.bank.canStop = false → u.bank.run = .dead → u.settled u.cur = true →
      let v := (u.dropTiles u.cur).freeBank u.cur
      exec (.taskEnd b) s = .next (State.settleHost
        ((if v.busyBanks.any (fun x => x.2.runs u.bank.id.ctx u.bank.id.kid) then v
          else v.modCtx u.bank.id.ctx fun x => { x with kernels := mset none x.kernels (goneKey u.bank.id.kid) none }).focus s.cur))))

/-- The synchronisation engines and the host (R259, R304 to R317, R324, R341). -/
def Obligations.CounterAndHostStepsComplete : Prop :=
  (∀ (s t : State) (die : Nat) (a : CtrAdd) (as : List CtrAdd), (s.die die).adds = a :: as →
    (s.modDie die fun d => { d with adds := as }).cross (a.src.origin die) die 4 = some t →
    let drop (x : State) : State := match a.src.die with
      | some d => x.ctrDrop d a.id
      | none => x
    let whole (x : State) : State := match a.src with
      | .done c k => x.completed c k
      | _ => x
    (t.addLate a = true → exec (.counterAdd die) s = .next (State.settleHost t)) ∧
    (∀ u, t.addLate a = false → t.ctrAdd a.id a.amount a.hint = .ok u →
      exec (.counterAdd die) s = .next (State.settleHost (whole ((drop u).addDone a)))) ∧
    (∀ f, t.addLate a = false → t.ctrAdd a.id a.amount a.hint = .error (.fault f) →
      exec (.counterAdd die) s = .next (State.settleHost (whole ((drop (t.metError f)).addAnswer a f.cause f.detail))))) ∧
  (∀ (s t u : State) (die : Nat) (w : Waiter) (ws : List Waiter) (v : Word), (s.die die).regs_ = w :: ws →
    (s.modDie die fun d => { d with regs_ := ws }).cross (if w.remote.isSome then 4 else dieOf w.bank) die 4 = some t →
    (w.remote = none → t.ctrSettled (dieOf w.bank) w.ctr = true) → t.ctrRead w.ctr = .ok (v, u) →
    (w.target.toNat ≤ v.toNat → exec (.waiterRegister die) s = .next (u.answerWaiter 0 0 v w)) ∧
    (v.toNat < w.target.toNat → w.remote = none →
      exec (.waiterRegister die) s = .next (u.modDie die fun d => { d with waiters := d.waiters ++ [w] }))) ∧
  (∀ (s : State) (die node tag at_ : Nat) (r : RemoteReq) (q : Asked),
    ((s.die die).resend.find? fun x => x.2.2.2 + 4096 ≤ s.cycle) = some (node, tag, r, at_) →
    (s.gate.asked.find? fun x => x.tag == tag) = some q →
    let t := s.modDie die fun d => { d with resend := d.resend.erase (node, tag, r, at_) }
    exec (.waiterResendTimer die) s = .next (t.emit die node (t.ctx (t.askerCtx q.who)).dom 4 (.request tag r))) ∧
  (∀ (s t : State) (b since bound : Nat) (id : CtrId) (v : Word),
    let u := s.focus b
    u.bank.swait = .counter since bound → u.cwaitCtr = some id → bound ≠ 0 → since + bound ≤ u.cycle → u.bank.run = .waiting →
    (∀ n w, id ≠ .remote n w) → u.ctrRead id = .ok (v, t) →
    exec (.cwaitBoundExpiry b) s = .next (((t.dropCwait t.cur).hand (.bank t.cur) ⟨0, 0, v, [], false⟩).focus s.cur)) ∧
  (∀ (s : State) (fn : Nat) (v : Word), fn < 17 →
    (∀ id, (s.fn fn).posted = [] → s.hostCtr fn (s.fn fn).hcaId true = .ok id → (∀ n p, id ≠ .remote n p) →
      s.dieFails sheepdog (s.ctrDie id) 4 = none → exec (.hcaAdd fn v) s = .next (State.settleHost (((s.modFn fn fun f => { f with hcaAmt := v }).modDie (s.ctrDie id) fun d =>
        { d with adds := d.adds ++ [⟨id, v, .host fn, (s.fn fn).hcaId, 0, 0, 0, false, (s.fn fn).bound.getD 0, none⟩] }).modFn fn fun f => { f with posted := [] }))) ∧
    ((s.fn fn).posted ≠ [] → exec (.hcaAdd fn v) s = .next (State.settleHost (s.modFn fn fun f =>
      { f with hcaAmt := v, posted := f.posted ++ [((s.fn fn).hcaId.toNat, [], some v)] }))) ∧
    (∀ id w u t, s.hostCtr fn (s.fn fn).hcaId false = .ok id → (∀ n p, id ≠ .remote n p) → s.round sheepdog (s.ctrDie id) 4 4 = .ok u →
      u.ctrRead id = .ok (w, t) →
      exec (.hcaVal fn) s = .next (t.hand (.host fn) ⟨0, 0, w, [], false⟩)) ∧
    (∀ f, s.hostCtr fn (s.fn fn).hcaId false = .error (.fault f) →
      exec (.hcaVal fn) s = .next (s.hand (.host fn) ⟨f.cause, f.detail, 0, [], false⟩))) ∧
  (∀ (s : State) (fn addr : Nat) (data : List Byte), fn < 17 → addr + data.length ≤ 2 ^ 48 →
    ((s.fn fn).posted ≠ [] → exec (.hostWrite fn addr data) s =
      .next (State.settleHost (s.modFn fn fun f => { f with posted := f.posted ++ [(addr, data, none)] }))) ∧
    ((s.fn fn).posted = [] → exec (.hostWrite fn addr data) s =
      .next (State.settleHost (s.hostPost fn (addr, data, none)))) ∧
    (∀ u t, (s.fn fn).posted = [] → (s.modFn fn fun f => { f with posted := f.posted ++ [(addr, data, none)] }).rounds sheepdog
        (s.homesOf ((List.range data.length).map (addr + ·))) 0 1 = .ok u → u.homeStore .bank (wholeBytes addr data) = .ok t →
      s.hostPost fn (addr, data, none) = t.modFn fn fun f => { f with posted := [] })) ∧
  (∀ (s : State) (fn addr len : Nat), fn < 17 → addr + len ≤ 2 ^ 48 →
    (∃ u, s.rounds sheepdog (s.homesOf ((List.range len).map (addr + ·))) 0 1 = .ok u) →
    (∀ i, i < len → s.prepHeld ((addr + i) / 64) = false ∧ s.lineWaits ((addr + i) / 64) = false) →
    ((∀ i, i < len → s.linePoison ((addr + i) / 64 * 64) = false) →
      ∃ t : State, exec (.hostRead fn addr len) s = .next (t.notify (.bytes ((List.range len).map fun i => s.byteAt (addr + i)))) ∧
        t.mem = s.mem ∧ t.bank = s.bank) ∧
    ((∃ i, i < len ∧ s.linePoison ((addr + i) / 64 * 64) = true) →
      ∃ t : State, exec (.hostRead fn addr len) s = .next (t.notify (.refused cMEMORY_ERROR 0)) ∧ t.mem = s.mem ∧ t.bank = s.bank))

namespace Sys2Proof.Claims

/-- The operation of that issue number in the focus bank's queues stands in a state. -/
def opIn (s : State) (ord : Nat) (o : EngOp) (st : OpState) : Prop := s.opOf s.cur ord = some o ∧ o.st = st

/-- A command that needs no lease (R195, R202). -/
def needsNoLease (c : MillCmd) : Bool := match c.instr with
  | .mlease _ | .mmode _ => true
  | _ => false

/-- The bank's first command, which may work now (R198, R199). -/
def working (s : State) (c : MillCmd) (cs : List MillCmd) : Prop :=
  s.bank.cmds = c :: cs ∧ s.inWindow s.cur = true ∧ s.bank.mheld = none

end Sys2Proof.Claims

/-- The copy engines' steps (R213 to R241). -/
def Obligations.EngineStepsComplete : Prop :=
  (∀ (s : State) (b ord : Nat) (o : EngOp),
    let u := s.focus b
    opIn u ord o .queued → depsReady o.deps = true →
    (depsFail o.deps = true → exec (.engineOpStart b ord) s = .next ((u.opFinish o (failVal cDEP_FAILED 0 0)).focus s.cur)) ∧
    (depsFail o.deps = false → u.engRunning b o.engine < 4 →
      (∀ c t, o.instr = .radv c → u.startRadv o = .ok t →
        exec (.engineOpStart b ord) s = .next ((t.opFinish o 0).focus s.cur)) ∧
      (∀ c p, o.instr = .cpy c → u.raceHolds o 0 false = false → u.raceHolds o 1 true = false → u.planCpy o true = .ok p →
        exec (.engineOpStart b ord) s = .next ((u.modOp b o.ord fun o => { o with
          st := .running, total := p.items, base := (u.raceCount p.src false, u.raceCount p.dst true), idx := [] }).focus s.cur)) ∧
      (∀ f, u.opStart o = .error (.fault f) →
        exec (.engineOpStart b ord) s =
          .next ((((u.metError f).opDoom o f.cause f.detail).opFinish o (failVal f.cause f.detail 0)).focus s.cur)))) ∧
  (∀ (s t v : State) (b ord : Nat) (o : EngOp) (c : COp) (p : Plan) (vals : List Nat),
    let u := s.focus b
    opIn u ord o .running → o.instr = .cpy c → o.next < o.total → o.fail = (0, 0) → o.wr = false →
    u.planCpy o false = .ok p → p.src.isRemote = false → p.dst.isRemote = false → u.readSpans p.src (p.reads o.next) = .ok (vals, t) →
    t.writeSpans (some o.ord) p.dst ((p.writes o.next).zip (p.conv o.next vals)) = .ok (false, v) →
    exec (.engineItem b ord) s = .next ((v.modOp v.cur o.ord fun o =>
      { o with next := o.next + 1, vals := [], sub := 0, wr := false, got := none }).focus s.cur)) ∧
  (∀ (s t : State) (b ord : Nat) (o : EngOp),
    let u := s.focus b
    opIn u ord o .running → o.total ≠ 0 → o.total ≤ o.next → u.unacked o.ord = false → u.opAdvance o = .ok t →
    exec (.engineOpComplete b ord) s = .next ((t.opFinish o 0).focus s.cur)) ∧
  (∀ (s : State) (b st : Nat) (t : Stream),
    let u := s.focus b
    ((u.bank.streams.filter fun t => t.num == st && !t.out) = [t] →
      exec (.streamFillItem b st) s = .next ((u.strmStep t false).focus s.cur)) ∧
    ((u.bank.streams.filter fun t => t.num == st && t.out) = [t] →
      exec (.streamDrainItem b st) s = .next ((u.strmStep t true).focus s.cur))) ∧
  (∀ (s t : State) (b row h sets : Nat) (f : Option Flt),
    let u := s.focus b
    let p := u.probe row
    p.fill = true → (∀ e ∈ u.bank.sq, p.since ≤ e.ord) → u.probeTile = some (h, sets) → u.probeFinish h row none = .ok (f, t) →
    (f = none → exec (.probeFillComplete b row) s = .next ((t.probeAnswer p.waits true (BitVec.ofNat 64 row)).focus s.cur)) ∧
    (∀ x, f = some x →
      exec (.probeFillComplete b row) s = .next ((t.probeAnswer p.waits false (failVal x.cause x.detail 0)).focus s.cur)))

/-- The Mill's steps (R191 to R211). -/
def Obligations.MillStepsComplete : Prop :=
  (∀ (s : State) (b : Nat) (c : MillCmd),
    let u := s.focus b
    let g := mgOf u.cur
    let m := (u.mg g).mill
    u.nextStart = some c →
    (depsFail c.deps = true →
      let counts := counted c.instr = true ∧ m.pair = false ∧ m.holder = some u.cur ∧ m.count < 64
      (counts → exec (.millCommandStart b) s = .next
        (((u.millWorks.modMill g fun m => { m with count := m.count + 1 }).cmdValue c (failVal cDEP_FAILED 0 0)).focus s.cur)) ∧
      (¬ counts → exec (.millCommandStart b) s = .next ((u.millWorks.cmdValue c (failVal cDEP_FAILED 0 0)).focus s.cur))) ∧
    (depsFail c.deps = false → u.bank.susp = none → m.pair = false → m.holder ≠ some u.cur → u.bank.lost = 0 → needsNoLease c = false →
      exec (.millCommandStart b) s = .next
        (((u.millWorks.upd fun b => { b with lost := 0 }).cmdValue c (failVal cLEASE_FAULT 1 0)).focus s.cur)) ∧
    (depsFail c.deps = false → u.bank.susp = none → m.pair = false → m.holder = some u.cur → m.count < 64 → m.loaded = true →
      let w := u.millWorks.modMill g fun m => { m with count := m.count + 1 }
      (∀ o, c.instr = .mflow o → m.open_ = false → exec (.millCommandStart b) s = .next
        (((w.modMillOf w.cur fun m => { m with flow := c.mod % 4 }).cmdValue c 0).focus s.cur)) ∧
      (∀ o, c.instr = .mskew o → m.open_ = false → exec (.millCommandStart b) s = .next
        (((w.modMillOf w.cur fun m => { m with sA := c.mod % 4, sB := c.mod / 4 % 4, skd := c.mod / 16 % 256 }).cmdValue c 0).focus s.cur)) ∧
      (∀ o, c.instr = .mclr o → exec (.millCommandStart b) s = .next ((w.startClr c).focus s.cur)) ∧
      (∀ o t, c.instr = .mfeed o → m.open_ = true → w.startFeed c = .ok t → exec (.millCommandStart b) s = .next (t.focus s.cur)))) ∧
  (∀ (s : State) (b : Nat) (c : MillCmd) (cs : List MillCmd),
    let u := s.focus b
    let m := u.millOf u.cur
    working u c cs →
    (∀ v, c.value = some v → exec (.millCommandComplete b) s = .next ((u.cmdEnd c v 0).focus s.cur)) ∧
    (c.value = none → c.started = true → c.waiting = false → c.recorded = false → m.bad = false → c.fail = (0, 0) →
      (∀ o, c.instr = .mrel o →
        ((u.mg (mgOf u.cur)).mill.holder = some u.cur →
          exec (.millCommandComplete b) s = .next (((u.cmdEnd c 0 0).leaseEnd (mgOf u.cur) 0).focus s.cur)) ∧
        ((u.mg (mgOf u.cur)).mill.holder ≠ some u.cur → exec (.millCommandComplete b) s = .next ((u.cmdEnd c 0 0).focus s.cur))) ∧
      (∀ o, c.instr = .mfeed o → c.full = true → exec (.millCommandComplete b) s = .next ((u.feedDone m c).focus s.cur)) ∧
      (∀ o, c.instr = .mdrain o → c.captured = false → m.drain = none →
        exec (.mdrainCapture b) s = .next (((u.modMillOf u.cur fun m =>
          { m with drain := some ((u.cur, c.ord), m.captured (c.mod / 2 ^ 12)) }).modCmd u.cur c.ord fun c =>
            { c with captured := true, dom := (m.domain, m.efr) }).focus s.cur)))) ∧
  (∀ (s : State) (mg h : Nat),
    let m := (s.mg mg).mill
    m.holder = some h → (s.getBank h).millBusy = false →
    (m.count = 64 → m.open_ = false → exec (.leaseCountLimit mg) s = .next (s.leaseEnd mg 3)) ∧
    (65536 ≤ m.idle + (s.cycle - m.mark) → exec (.leaseIdleLimit mg) s = .next (s.leaseEnd mg 6))) ∧
  (∀ (s : State) (mg : Nat), (s.mg mg).mill.pair = true → (s.mg mg).mill.window + 64 ≤ s.cycle →
    exec (.pairWindow mg) s = .next (s.modMill mg fun m => { m with window := m.window + 64, half := !m.half }))

/-- The commit protocol and requests of other devices (R352 to R363, R377, R379). -/
def Obligations.WeirStepsComplete : Prop :=
  (∀ (s : State) (die : Nat) (g : GroupName) (l : StagedLine), die < 4 → s.home l.addr = die → l.addr % 64 = 0 → l.addr < 2 ^ 48 →
    s.stagingHalted (s.frameOf l.addr).ctx = false →
    (s.weirOf die g = none → ((s.die die).weir.foldl (fun n w => n + w.lines.length) 0) < 262144 →
      exec (.weirStageLine die g l) s = .next (s.setWeir die g (some
        { name := g, called := 0, ctx := (s.frameOf l.addr).ctx, prepared := false, lines := [l], rsv := [], since := 0, queries := 0,
          recd := false }))) ∧
    (∀ w, s.weirOf die g = some w →
      (w.prepared = true → exec (.weirStageLine die g l) s = .next (s.notify (.refused cGROUP_FAULT 7))) ∧
      (w.prepared = false → (∃ x ∈ w.lines, x.addr = l.addr) → exec (.weirStageLine die g l) s =
        .next (s.setWeir die g (some { w with lines := w.lines.map fun x => if x.addr = l.addr then mergeLine x l else x }))))) ∧
  (∀ (s t : State) (die dom w n : Nat) (g : GroupName) (x : WeirGroup), s.takeMsg die asPrepare = some (dom, (g, w, n), t) →
    t.weirOf die g = some x → x.prepared = false →
    (∀ u, t.prepare die g w n = .ok u → exec (.weirPrepare die) s = .next (State.settleHost (u.sendCommit die dom g.node (.ready g w)))) ∧
    (x.lines.length ≠ n → exec (.weirPrepare die) s =
      .next ((t.setWeir die g none).sendCommit die dom g.node (.refusal g w cGROUP_FAULT 7))) ∧
    (x.lines.length = n → (∃ l ∈ x.lines, t.stagedPage l.addr = false) →
      (∀ y ∈ (t.die die).weir, y.name ≠ g → y.prepared = true → ∀ a ∈ y.lines, ∀ b ∈ x.lines, a.addr ≠ b.addr) →
      exec (.weirPrepare die) s = .next ((t.setWeir die g none).sendCommit die dom g.node (.refusal g w cGROUP_FAULT 8)))) ∧
  (∀ (s t : State) (die dom w : Nat) (g : GroupName), s.takeMsg die asCommit = some (dom, (g, w), t) → t.weirOf die g = none →
    exec (.weirCommitPacket die) s = .next (t.sendCommit die dom g.node (.published g w false))) ∧
  (∀ (s t : State) (die dom w : Nat) (g : GroupName) (x : WeirGroup), s.takeMsg die asCommit = some (dom, (g, w), t) →
    t.weirOf die g = some x → x.prepared = true → (∀ l ∈ x.lines, s.wpAt l.addr = false ∧ s.blockWaits (l.addr / 512) = false) →
    let ws := x.lines.flatMap lineWrites
    let held := (blocksOf ws).foldl (fun (u : State) b => u.dset (b * 512)) (t.setWeir die g none)
    exec (.weirCommitPacket die) s = .next (State.settleHost
      ((((held.publish x.rsv x.lines).unreserve (x.rsv.filter fun r => !(blocksOf ws).contains r.1)).heldSub x.rsv).sendCommit die dom g.node
        (.published g w (x.lines.any fun l => t.linePoison l.addr))))) ∧
  (∀ (s t : State) (die dom w : Nat) (g : GroupName) (x : WeirGroup), s.takeMsg die asDiscard = some (dom, (g, w), t) →
    t.weirOf die g = some x → exec (.weirDiscard die) s =
      .next (State.settleHost ((((t.setWeir die g none).unreserve x.rsv).heldSub x.rsv).sendCommit die dom g.node (.discarded g w)))) ∧
  (∀ (s t : State) (die dom i : Nat) (g : GroupName) (x : Group), t.groupAt die g = some (i, x) →
    (∀ w, s.takeMsg die asReady = some (dom, (g, w), t) → x.st = 2 →
      (x.ready.erase w ≠ [] → exec (.readyReport die) s = .next (t.modGroup die i fun y => { y with ready := x.ready.erase w })) ∧
      (x.ready.erase w = [] → exec (.readyReport die) s = .next ((x.weirs.map (·.1)).foldl
        (fun u n => u.sendCommit die (u.ctx x.ctx).dom n (.commit g n))
        (t.modGroup die i fun y => { y with st := 3, ready := [], report := x.weirs.map (·.1) })))) ∧
    (∀ c d, s.takeMsg die asRefusal = some (dom, (g, c, d), t) → x.st = 2 → exec (.weirRefusal die) s = .next (t.abortGroup die i c d)) ∧
    (∀ w p, s.takeMsg die asPublished = some (dom, (g, w, p), t) → x.st = 3 → x.report.erase w = [] →
      exec (.publicationReport die) s =
        .next (((t.reported (.commit g w)).modGroup die i fun y => { y with report := [], poison := y.poison || p, st := 4 }).settleGroup die i)) ∧
    (∀ w, s.takeMsg die asDiscarded = some (dom, (g, w), t) → x.st = 5 → exec (.discardReport die) s =
      .next (((t.reported (.discard g w)).modGroup die i fun y => { y with report := y.report.erase w }).settleGroup die i)) ∧
    (∀ w, s.takeMsg die asQuery = some (dom, (g, w), t) →
      (x.st = 3 ∨ x.st = 4 → exec (.groupQuery die) s = .next (t.sendCommit die dom w (.commit g w))) ∧
      (x.st = 5 → exec (.groupQuery die) s = .next (t.sendCommit die dom w (.discard g w))))) ∧
  (∀ (s : State) (die idx : Nat) (x : Group), (s.gent die idx).grp = some x → x.st = 2 → x.since + usCycles x.timeout ≤ s.cycle →
    exec (.prepareTimeout die idx) s = .next (s.abortGroup die idx cGROUP_FAULT 5)) ∧
  (∀ (s : State) (die : Nat) (g : GroupName) (w : WeirGroup), s.weirOf die g = some w → w.prepared = true → w.queries < 8 → w.recd = false →
    w.since + 4 * usCycles (s.weirTimeout g) ≤ s.cycle →
    let u := s.setWeir die g (some { w with since := s.cycle, queries := w.queries + 1 })
    exec (.weirQueryTimeout die g) s = .next (u.sendCommit die (u.ctx w.ctx).dom g.node (.query g w.called))) ∧
  (∀ (s t : State) (die tag : Nat) (p : Packet) (ps : List Packet) (r : RemoteReq), (s.die die).reqs = p :: ps → p.body = .request tag r →
    (s.modDie die fun d => { d with reqs := ps }).cross (s.fromDie p.src) die p.vc = some t →
    (∀ a u, t.serve die p tag r = .ok (some a, u) →
      exec (.remoteRequest die) s = .next (State.settleHost (u.reply die p.src p.dom p.vc tag a))) ∧
    (∀ f, t.serve die p tag r = .error (.fault f) →
      exec (.remoteRequest die) s = .next (State.settleHost ((t.metError f).reply die p.src p.dom p.vc tag ⟨f.cause, f.detail, 0, [], false⟩))))

/-- Links, their VCs and the gateway (R373, R374, R378, R382 to R390). -/
def Obligations.LinkStepsComplete : Prop :=
  (∀ (s : State) (p : Packet), devOf p.dst = s.fabric → devOf p.src ≠ s.fabric → (∀ v n, p.body ≠ .ack v n) →
    orderedVc p.vc = true → p.seq < 2 ^ 32 → s.gate.early = [] →
    let key := seqKey p.src p.dst p.vc
    let u := s.post (s.route p.dom (devOf p.src)).2 { dst := p.src, src := p.dst, dom := p.dom, vc := 1, seq := 0, body := .ack p.vc p.seq }
    (p.seq = mget 0 s.gate.seqIn key → exec (.fabricPacketReceive p) s = .next (State.settleHost
      (({ u with gate := { u.gate with early := [], seqIn := mset 0 u.gate.seqIn key ((p.seq + 1) % 2 ^ 32) } } : State).deliver p))) ∧
    (seqOld p.seq (mget 0 s.gate.seqIn key) = true → exec (.fabricPacketReceive p) s = .next (State.settleHost u))) ∧
  (∀ (s : State) (port ty : Nat) (p : Packet), ethPort port = true →
    (ty = s.ethType → exec (.ethernetFrameReceive port ty p) s = exec (.fabricPacketReceive p) s) ∧
    (ty ≠ s.ethType → exec (.ethernetFrameReceive port ty p) s = .next (s.modLink port fun l => { l with drops := l.drops + 1 }))) ∧
  (∀ (s : State) (ends : NodePair) (vc seq : Nat) (u : Unacked),
    (s.gate.unack.find? fun u => u.pkt.src == ends.src && u.pkt.dst == ends.dst && u.pkt.vc == vc && u.pkt.seq == seq) = some u →
    (s.cycle < u.at_ + 45000 → exec (.gatewayRetryTimeout ends vc seq) s = .next s) ∧
    (u.at_ + 45000 ≤ s.cycle → u.acked = false → u.tries < 8 → exec (.gatewayRetryTimeout ends vc seq) s =
      .next (({ s with gate := { s.gate with unack := s.gate.unack.map fun x =>
        if x = u then { x with tries := x.tries + 1, at_ := s.cycle } else x } } : State).post (s.route u.pkt.dom u.named).2 u.pkt))) ∧
  (∀ (s : State) (link counter : Nat) (w : VcWay) (tagOk : Bool), w.vc < 8 → ethPort link = false →
    let k := vcKey link w.vc w.way
    let x := (s.link link).vc k
    x.mode ≠ 0 → x.st < 2 →
    (tagOk = true → counter = x.rcnt → 10 ≤ link → exec (.flitGroupReceive link w counter tagOk) s =
      .next (s.modVc link k fun _ => x.accepted counter)) ∧
    (tagOk = true → counter = x.rcnt → link < 10 → exec (.flitGroupReceive link w counter tagOk) s =
      .next (s.modVc link k fun x => { x with bad := 0 })) ∧
    (tagOk = false ∨ counter ≠ x.rcnt → x.bad ≠ 7 → exec (.flitGroupReceive link w counter tagOk) s =
      .next (s.modVc link k fun x => { x with bad := x.bad + 1 })) ∧
    (tagOk = false ∨ counter ≠ x.rcnt → x.bad = 7 → exec (.flitGroupReceive link w counter tagOk) s =
      .next ((s.modVc link k fun x => { x with bad := 0 }).quarantine link k))) ∧
  (∀ (s : State) (link : Nat) (w : VcWay),
    let k := vcKey link w.vc w.way
    let x := (s.link link).vc k
    let t := x.since + 2250 * (s.link link).rkdl
    (w.vc < 8 → x.stop = true → t ≤ s.cycle → exec (.rekeyDeadline link w) s = .next (State.settleHost (s.quarantine link k))) ∧
    (s.cycle < t → exec (.rekeyDeadline link w) s = .next s)) ∧
  (∀ (s : State) (link n : Nat) (w : VcWay) (recv : Bool) (key : BitVec 256) (salt : BitVec 32),
    s.boot.stage ≠ 8 → w.vc < 8 → n ≤ 2 ^ 32 - 1 →
    let k := vcKey link w.vc w.way
    let x := (s.link link).vc k
    (n < (if recv then x.rcnt else x.cnt) → exec (.keyload link w recv key salt n) s = .next s.refuse) ∧
    (x.cnt = n → x.next = none → x.st < 2 → exec (.keyload link w false key salt n) s =
      .next (((s.modVc link k fun x => x.switch ⟨key, salt⟩).vcsUp link).postHeld)) ∧
    (x.rcnt = n → x.rnext = none → x.st < 2 → exec (.keyload link w true key salt n) s =
      .next (((s.modVc link k fun x => x.rswitch ⟨key, salt⟩).vcsUp link).postHeld)) ∧
    (x.cnt < n → x.next = none → x.st < 2 → exec (.keyload link w false key salt n) s =
      .next (s.modVc link k fun x => { x with next := some (⟨key, salt⟩, n), st := if x.st = 0 then 1 else x.st })) ∧
    (x.rcnt < n → x.rnext = none → x.st < 2 → exec (.keyload link w true key salt n) s =
      .next (s.modVc link k fun x => { x with rnext := some (⟨key, salt⟩, n), st := if x.st = 0 then 1 else x.st }))) ∧
  (∀ (s : State) (link : Nat) (w : VcWay),
    let ks := twins link (vcKey link w.vc w.way)
    ((∀ k ∈ ks, let x := (s.link link).vc k
      x.st = 2 ∧ x.next.isSome ∧ x.rnext.isSome) → exec (.vcreset link w) s = .next (ks.foldl (fun s k => s.modVc link k fun x =>
        { x with st := 0, key := x.next.map (·.1), rkey := x.rnext.map (·.1), next := none, rnext := none, cnt := 0, rcnt := 0,
                 stop := false, bad := 0 }) s).postHeld) ∧
    ((∃ k ∈ ks, let x := (s.link link).vc k
      x.st ≠ 2 ∨ x.next = none ∨ x.rnext = none) → exec (.vcreset link w) s = .next s.noRow)) ∧
  (∀ (s : State) (link : Nat) (v : Word), s.boot.stage ≠ 8 →
    let encl := bitAt v.toNat 16
    (131072 ≤ v.toNat ∨ (∃ n < 8, vcpMode v n = 3) ∨ (encl = true ∧ fabricPort link = false) ∨
      (∃ n < 8, vcpMode v n = 1 ∧ 10 ≤ link ∧ encl = false) → exec (.lnkVcpWrite link v) s = .next s.refuse) ∧
    (v.toNat < 131072 → (encl = true → fabricPort link = true) →
      (∀ n < 8, vcpMode v n ≠ 3 ∧ (vcpMode v n = 1 → link < 10 ∨ encl = true) ∧
        (vcpMode v n = ((s.link link).vc n).nmode.getD ((s.link link).vc n).mode ∨ s.vcBusy link n = false)) →
      let t := s.modLink link fun k => { k with encl := encl }
      exec (.lnkVcpWrite link v) s = .next ((vcNumbers.foldl (fun t n => (t.vcKeys link n).foldl (fun t k => t.modVc link k fun x =>
        x.setMode (vcpMode v n)) t) t).vcsUp link))) ∧
  (∀ (s : State) (link lanes : Nat), (s.link link).phys = 0 →
    exec (.linkTrainingEnd link .allLanes lanes) s =
      .next (((s.modLink link fun k => { k with phys := 1, lanes := linkWidth link }).vcsUp link).postHeld) ∧
    exec (.linkTrainingEnd link .reduced lanes) s =
      .next ((((s.modLink link fun k => { k with phys := 2, lanes := lanes }).linkEvt link 16).vcsUp link).postHeld) ∧
    exec (.linkTrainingEnd link .failed lanes) s = .next ((s.modLink link fun k => { k with phys := 3, lanes := 0 }).linkEvt link 17)) ∧
  (∀ (s : State) (link lanes : Nat),
    ((s.link link).phys = 1 → exec (.linkLaneLoss link lanes) s =
      .next ((s.modLink link fun k => { k with phys := 2, lanes := lanes }).linkEvt link 16)) ∧
    ((s.link link).phys = 2 → exec (.linkLanesRestored link) s =
      .next (s.modLink link fun k => { k with phys := 1, lanes := linkWidth link })) ∧
    ((s.link link).phys = 3 → s.boot.stage ≠ 8 → exec (.linkRetrain link) s = .next (s.modLink link fun k => { k with phys := 0 })) ∧
    ((s.link link).phys ≠ 3 → exec (.linkRetrain link) s = .next s.noRow) ∧
    ((s.link link).phys = 1 ∨ (s.link link).phys = 2 →
      let t := (s.modLink link fun k => { k with phys := 3, lanes := 0 }).linkEvt link 17
      let t := t.modLink link fun k => { k with vcs := k.vcs.filter (·.1 < 16) }
      let t := (vcNumbers.flatMap (t.vcKeys link)).foldl (fun t v => t.modVc link v fun x => { x with
        st := 3, key := none, rkey := none, next := none, rnext := none, stop := false, mode := x.nmode.getD x.mode, nmode := none }) t
      exec (.linkDown link) s = .next (State.settleHost (vcNumbers.foldl (fun t v => t.failVc link v 3) t)))) ∧
  (∀ (s : State) (port vc : Nat), fabricPort port = true ∨ ethPort port = true → vc < 8 →
    exec (.fabricVcPause port vc true) s = .next (s.modVc port vc fun x => { x with pause := true }) ∧
    exec (.fabricVcPause port vc false) s = .next (s.modVc port vc fun x => { x with pause := false }).postHeld) ∧
  (∀ (s : State) (c n : Nat) (v : Word), n < 16 → (s.ctx c).st ≠ .free → (s.ctx c).st ≠ .destroyed →
    (v = 0 → exec (.windowOpen c n v) s = .next (s.modCtx c fun x => { x with
      wins := mset Window.closed x.wins n { mget Window.closed (s.ctx c).wins n with len := 0, frames := [], waits := [] } })) ∧
    (2 ^ 44 ≤ v.toNat → exec (.windowOpen c n v) s = .next s.refuse) ∧
    (v ≠ 0 → v.toNat < 2 ^ 44 →
      let w := mget Window.closed (s.ctx c).wins n
      let r : Region := { base := w.base, len := v, access := (if w.r then 1 else 0) + (if w.w then 2 else 0), edge := 0, shared := false,
                          hint := false, fwdH := 0, fwdN := 0, ext := 0 }
      let a := w.base.toNat % 2 ^ 55
      let last := (a + v.toNat - 1) / 65536
      let pages := s.windowPages c r last (last + 1 - a / 65536) (a / 65536) [] []
      r.rangeOk = true → exec (.windowOpen c n v) s = .next (pages.2.2.modCtx c fun x => { x with
        wins := mset Window.closed x.wins n { w with len := v.toNat, frames := pages.1, waits := pages.2.1 } })))

namespace Sys2Proof.Claims

/-- A rank other than the member's own (R398, R399). -/
def otherRank (x : Coll) (q : Nat) : Prop := q < x.nmem ∧ q ≠ x.rank

/-- No command to a context is in progress and none waits (R409). -/
def idle (s : State) (c : Nat) : Prop := s.ctxBusy c = false ∧ (s.ctx c).cmds = []

end Sys2Proof.Claims

/-- Collectives, the life of a context, dispositions (R393 to R402, R409 to R417, R422). -/
def Obligations.ContextStepsComplete : Prop :=
  (∀ (s : State) (c e : Nat) (r : List Byte), c < 32 → e < 4096 → (s.ctx c).st ≠ .free →
    (s.coll c e).st = 0 → collOk r = true → (s.ctx c).colsets.any (·.1 == e) = false →
    (s.collCtrOk c (recWord r 0x28) = true ∧ s.collCtrOk c (recWord r 0x30) = true ∧ s.collCtrOk c (recWord r 0x38) = true) →
    let room : Prop := s.collUsed + s.collPending + collBuffer r ≤ 2 ^ 25
    let u := s.modCtx c fun x => { x with colsets := x.colsets ++ [(e, r)] }
    (room → (∀ g ∈ collRegions r, u.regionWaits c g = false) → ∀ (n : Nat) (fs : List FrameEnt) (t : State),
      (u.transRegions c (collRegions r).zipIdx [] = (.evicted, n, fs, t) → exec (.colset c e r) s = .next t) ∧
      ∀ ws, u.transRegions c (collRegions r).zipIdx [] = (.done, n, fs, t) → t.memberWords c e r fs = some ws →
        exec (.colset c e r) s = .next ((t.modCtx c fun x => { x with colsets := x.colsets.filter (·.1 != e) }).modColl c e fun _ =>
          { Coll.unloaded with st := 1, recd := r, frames := fs, members := ws })) ∧
    (¬ room → exec (.colset c e r) s = .next (s.notify (.refused cNOSLOT 0)))) ∧
  (∀ (s : State) (c e : Nat), let x := s.coll c e
    (x.st = 1 ∨ x.st = 4 → exec (.colclr c e) s = .next (s.modColl c e fun _ => Coll.unloaded)) ∧
    (x.st ≠ 1 ∧ x.st ≠ 4 → exec (.colclr c e) s = .next s.refuse) ∧
    (∀ q, otherRank x q →
      (∀ n d, 1 ≤ x.st → x.st ≤ 3 → mget none x.chans (64 * q + n % x.depth) = none →
        exec (.chunkLineReceive c e q n (x.r % 2 ^ 24) d) s = .next (State.settleHost ((s.modColl c e fun x =>
          { x with chans := mset none x.chans (64 * q + n % x.depth) (some (n, d)), since := s.cycle }).collGo c e))) ∧
      (∀ n d m, m ≠ x.r % 2 ^ 24 → exec (.chunkLineReceive c e q n m d) s = .next { s with colDrop := s.colDrop + 1 }) ∧
      (∀ n, x.st = 2 → ∃ t : State, exec (.releaseReport c e q ⟨n, x.r⟩) s = .next (State.settleHost (t.collGo c e)) ∧
        mget 0 (t.coll c e).released q = max (mget 0 x.released q) (n + 1) ∧ (t.coll c e).since = s.cycle ∧
        (t.coll c e).chans = x.chans ∧ t.mem = s.mem) ∧
      (∀ n, x.st = 3 → ∃ t : State, exec (.releaseReport c e q ⟨n, (x.r + 2 ^ 32 - 1) % 2 ^ 32⟩) s = .next (State.settleHost (t.collGo c e)) ∧
        t.coll c e = { x with since := s.cycle } ∧ t.mem = s.mem) ∧
      (∀ f, f.r ≠ x.firing → exec (.releaseReport c e q f) s = .next s) ∧
      (∀ r, x.st = 2 ∨ x.st = 3 → (q, r) ∉ x.finish → exec (.finishReport c e q r) s =
        .next (State.settleHost ((s.modColl c e fun x => { x with finish := x.finish ++ [(q, r)], since := s.cycle }).collGo c e))) ∧
      exec (.failureNotice c e q) s = .next (s.collFail c e cREMOTE_FAULT 7)) ∧
    (x.st = 2 ∨ x.st = 3 → x.read = x.steps → x.srcAdded = false → exec (.sourceReadComplete c e) s =
      .next (State.settleHost ((s.collAdd c e 0x28).modColl c e fun x => { x with srcAdded := true }))) ∧
    (x.st = 2 ∨ x.st = 3 → let y := s.ctx c
      let halts : Prop := y.st = .halting ∧ y.haltAt ≤ x.since
      (halts → y.haltAt + usCycles s.colTmo ≤ s.cycle → exec (.collectiveTimeout c e) s = .next (s.collFail c e cHALTED 0)) ∧
      (¬ halts → x.since + usCycles s.colTmo ≤ s.cycle → exec (.collectiveTimeout c e) s = .next (s.collFail c e cLINK_FAULT 4)) ∧
      (s.cycle < x.since + usCycles s.colTmo → s.cycle < y.haltAt + usCycles s.colTmo → exec (.collectiveTimeout c e) s = .next s))) ∧
  (∀ (s : State) (c : Nat), let x := s.ctx c
    let halted (y : Ctx) : Ctx :=
      { y with st := .halting, former := y.st, haltAt := s.cycle, held := y.clusters }
    (idle s c →
      (c < 32 → x.st = .free → s.boot.stage ≠ 8 → exec (.ctxCreate c) s =
        .next (s.modCtx c fun y => { Ctx.reset with st := .created, aliasNo := s.fabric, cmds := y.cmds })) ∧
      (x.st ≠ .free → s.boot.stage ≠ 8 → exec (.ctxCreate c) s = .next (s.notify (.refused cILLEGAL_OPERAND 0))) ∧
      (x.st = .created → x.wrote = 7 → exec (.ctxReady c) s = .next (s.modCtx c fun x => { x with st := .runnable })) ∧
      (∀ cl, x.st = .runnable → s.setFree c cl = true → exec (.place c cl) s =
        .next ((s.modCtx c fun x => { x with st := .running, clusters := cl }).recheck c)) ∧
      (x.st = .running → exec (.swapOut c) s =
        .next ((((s.pauseAging c).modCtx c fun x => { x with st := .preempted }).stopAll c).afterSave c)) ∧
      (∀ cl, x.st = .preempted → x.clusters = [] → s.setFree c cl = true → exec (.swapIn c cl) s =
        .next (((((((cl.map (· / 4)).eraseDups).foldl (fun s d => s.dropCtx d c) s).resumeAging c).modCtx c fun x =>
          { x with st := .running, clusters := cl }).recheck c).redeliver c)) ∧
      (∀ t, 100 ≤ t → t ≤ 100000 →
        (x.st = .running → exec (.contextHalt c t) s =
          .next (((s.pauseAging c).modCtx c fun y => { halted y with haltTmo := s.cycle + 2250 * t }).stopAll c)) ∧
        (x.st = .preempted → exec (.contextHalt c t) s =
          .next ((s.modCtx c fun y => { halted y with haltTmo := s.cycle + 2250 * t }).stopAll c))) ∧
      (∀ a u, x.st = .halted → let b := s.imageBytes c
        s.haul (s.imageWays c a b.length true) = some u →
        let t : State := { u with host := mputs 0 u.host a b }
        exec (.image c a true) s = .next (State.settleHost
          (({ t with images := t.images ++ [⟨b, (t.ctx c).imaged⟩] } : State).modCtx c fun x => { x with st := .imaged }))) ∧
      (∀ a, x.st = .halted → s.haul (s.imageWays c a (s.imageBytes c).length true) = none →
        exec (.image c a true) s = .next (s.modCtx c fun y => { y with cmds := y.cmds ++ [.image a true] })) ∧
      (x.st = .halted ∨ x.st = .imaged → (∀ k ∈ x.held, s.clusterTaken c k = false) → exec (.ctxContinue c) s =
        .next ((((((x.held.map (· / 4)).eraseDups).foldl (fun s d => s.dropCtx d c) s).resumeAging c).modCtx c fun y =>
          { y with st := .running, clusters := y.held }).resumeInPlace c)) ∧
      (∀ a h cl root fa, c < 32 → x.st = .free → s.boot.stage ≠ 8 →
        (rootOk root = false ∨ faOk fa = false → exec (.restore c a h cl root fa) s = .next s.refuse) ∧
        (rootOk root = true → faOk fa = true →
          (∀ r, s.restoreCheck c (s.imageAt a (leNat (s.imageAt (a + 0x10) 8 h)) h) cl = .error r →
            exec (.restore c a h cl root fa) s = .next (s.notify (.restore c r))) ∧
          (∀ y, s.restoreCheck c (s.imageAt a (leNat (s.imageAt (a + 0x10) 8 h)) h) cl = .ok y →
            ∃ z : Ctx, exec (.restore c a h cl root fa) s = .next (s.modCtx c fun _ => z) ∧ z.st = .resuming ∧ z.root = root ∧ z.fa = fa ∧
              z.fseq = 0 ∧ z.kernels = y.kernels ∧ z.colls = y.colls))) ∧
      (x.st = .created ∨ x.st = .runnable ∨ x.st = .preempted ∨ x.st = .halted ∨ x.st = .imaged ∨ x.st = .faulted →
        exec (.ctxDestroy c) s = .next (State.settleHost ((((s.abortKernels c 3).dropCached c 0 (2 ^ 39)).dropCounters c).modCtx c fun x =>
          { x with st := .destroyed, wins := [], colls := [], colsets := [] })))) ∧
    (¬ idle s c → let queue (k : CtxCmd) : Out := .next (s.modCtx c fun y => { y with cmds := y.cmds ++ [k] })
      exec (.ctxReady c) s = queue .ready ∧ exec (.swapOut c) s = queue .swapOut ∧ exec (.ctxContinue c) s = queue .resume ∧
      exec (.ctxDestroy c) s = queue .destroy ∧ (∀ cl, exec (.place c cl) s = queue (.place cl) ∧ exec (.swapIn c cl) s = queue (.swapIn cl)) ∧
      (∀ t, exec (.contextHalt c t) s = queue (.halt t)) ∧ (∀ a h, exec (.image c a h) s = queue (.image a h))) ∧
    (x.st = .halting → s.banksOf c = [] → s.addsDone c = true → (∀ g ∈ s.groupsOf c, g.2.2.st ≠ 1 ∧ g.2.2.st ≠ 6) →
      s.haltSettled c = true → exec (.haltSequenceComplete c) s =
        .next (((s.countersOut c).modCtx c fun x => { x with st := .halted, clusters := [] }).notify (.halt c 0 []))) ∧
    (x.st = .halting → x.haltTmo ≤ s.cycle → s.banksOf c ≠ [] → exec (.haltTimeout c) s =
      .next (((s.modCtx c fun y => { y with st := x.former }).haltUndone c).notify
        (.halt c 8 ((s.banksOf c).map coreOf).eraseDups))) ∧
    (x.st = .resuming → let loaded := x.colls.filter fun e => e.2.st != 0
      let t := (s.kernelList c).foldlM (fun (t : State) e => t.reframe c e.1) s
      let u := t.bind fun t => loaded.foldlM (fun (t : State) e => t.recoll c e.1) t
      (∀ v, u = some v → exec (.restoreLoadComplete c) s =
        .next ((v.modCtx c fun x => { x with st := .preempted }).notify (.restore c 0))) ∧
      (u = none → exec (.restoreLoadComplete c) s = .next s)) ∧
    (x.st = .destroyed → s.banksOf c = [] → s.groupsOf c = [] → s.addsDone c = true →
      (∀ d < 4, ∀ w ∈ (s.die d).weir, w.ctx ≠ c) → exec (.contextReleased c) s =
        .next (s.modCtx c fun y => { Ctx.reset with cmds := y.cmds })) ∧
    (idle s c → (x.st ≠ .created → exec (.ctxReady c) s = .next s.noRow) ∧ (∀ cl, x.st ≠ .runnable → exec (.place c cl) s = .next s.noRow) ∧
      (x.st ≠ .running → exec (.swapOut c) s = .next s.noRow) ∧
      (∀ cl, x.st ≠ .preempted → exec (.swapIn c cl) s = .next s.noRow) ∧
      (∀ t, x.st ≠ .running ∧ x.st ≠ .preempted → exec (.contextHalt c t) s = .next s.noRow) ∧
      (∀ a h, x.st ≠ .halted → exec (.image c a h) s = .next s.noRow) ∧
      (x.st ≠ .halted ∧ x.st ≠ .imaged → exec (.ctxContinue c) s = .next s.noRow) ∧
      (∀ a h cl root fa, x.st ≠ .free → s.boot.stage ≠ 8 → exec (.restore c a h cl root fa) s = .next s.noRow) ∧
      (x.st = .free ∨ x.st = .destroyed ∨ x.st = .running ∨ x.st = .halting ∨ x.st = .resuming →
        exec (.ctxDestroy c) s = .next s.noRow))) ∧
  (∀ (s : State) (c seq : Nat) (h : FaultHeld), s.recordAt (.ctx c) seq = some h → let t := s.unrecord (.ctx c) seq
    exec (.fdispResume (.ctx c) seq) s = .next (State.settleHost (t.dispose c h false)) ∧
    exec (.fdispRetry (.ctx c) seq) s = .next (State.settleHost (t.dispose c h true)) ∧
    exec (.fdispTerminateKernel (.ctx c) seq) s = .next (State.settleHost (t.killKernel c h)) ∧
    exec (.fdispTerminateContext (.ctx c) seq) s = .next (State.settleHost (t.terminateCtx c)) ∧
    (t.ctx c).faults = (s.ctx c).faults.filter (·.recd.seq != seq)) ∧
  (∀ (s : State) (a : Area) (seq : Nat), s.recordAt a seq = none →
    exec (.fdispResume a seq) s = .next s.refuse ∧ exec (.fdispRetry a seq) s = .next s.refuse ∧
    exec (.fdispTerminateKernel a seq) s = .next s.refuse ∧ exec (.fdispTerminateContext a seq) s = .next s.refuse) ∧
  (∀ (s : State) (seq : Nat) (h : FaultHeld), s.recordAt .dev seq = some h →
    exec (.fdispResume .dev seq) s = .next (s.unrecord .dev seq) ∧ exec (.fdispRetry .dev seq) s = .next s.refuse)

namespace Sys2Proof.Claims

/-- One register of each kind whose write is allowed, with the value written and the state that it gives (R297, R347, R378, R389, R401,
R406, R424, R437). -/
def writeGives (s : State) : MReg → Word → Option State
  | .ctxRoot c, v => if s.ctxOpen c = true ∧ v.toNat % 2 ^ 16 = 0 ∧ v.toNat < 2 ^ 48 then
      some (s.modCtx c fun x => { x with root := v, wrote := x.wrote ||| 1 }) else none
  | .dlogCap c, v => if s.ctxLive c = true ∧ 1 ≤ v.toNat ∧ v.toNat ≤ 2 ^ 24 then some (s.modCtx c fun x => { x with dlogCap := v.toNat })
      else none
  | .colTmo, v => if 100 ≤ v.toNat ∧ v.toNat ≤ 100000 then some { s with colTmo := v.toNat } else none
  | .agingInterval, v => if 2 ^ 12 ≤ v.toNat ∧ v.toNat ≤ 2 ^ 24 then some { s with aging := v.toNat } else none
  | .waitLimit, v => if 2 ^ 16 ≤ v.toNat ∧ v.toNat ≤ 2 ^ 30 then some { s with waitLim := v.toNat } else none
  | .preemptMargin, v => if v.toNat ≤ 7 then some { s with margin := v.toNat } else none
  | .lnkRkdl l, v => if 10 ≤ v.toNat ∧ v.toNat ≤ 10000 then some (s.modLink l fun k => { k with rkdl := v.toNat }) else none
  | .hcaId f, v => if f < 17 then some (s.modFn f fun x => { x with hcaId := v }) else none
  | _, _ => none

/-- Registers whose fields are all read-only (R7, R16). -/
def readOnly : MReg → Bool
  | .cmpFree _ | .cmpGen _ | .ctxFhead _ | .devFhead | .lnkStat _ | .lnkIvc _ _ | .memRswp _ | .hlwResult _ | .hcaStat _ |
    .hcaVal _ | .bootstat => true
  | _ => false

end Sys2Proof.Claims

/-- Lorso's registers, the memory controller, heat, the start sequence, attestation (R16, R28, R423 to R439). -/
def Obligations.DeviceStepsComplete : Prop :=
  (∀ (s : State) (r : MReg) (v : Word),
    (s.boot.stage = 8 → exec (.registerWrite r v) s = .next s.refuse) ∧
    (s.boot.stage ≠ 8 →
      (∀ t, writeGives s r v = some t → exec (.registerWrite r v) s = .next t) ∧
      (readOnly r = true → exec (.registerWrite r v) s = .next s.noRow) ∧
      (r = .colTmo → v.toNat < 100 ∨ 100000 < v.toNat → exec (.registerWrite r v) s = .next s.refuse))) ∧
  (∀ (s : State) (d : Nat) (v : Word), d < 4 → let t := (s.die d).test
    (s.boot.stage ≠ 8 → v.toNat < 2 ^ 16 → bitAt v.toNat 11 = true → t.st = 0 →
      ∃ u : State, exec (.memTestGo d v) s = .next u ∧ (u.die d).test =
        { unit := v.toNat % 128, bank := v.toNat / 128 % 16, st := 1, done := t.done && !bitAt v.toNat 15, row := 0 } ∧
        (u.die d).redir = (s.die d).redir ++ [((u.die d).test.bits, (s.die d).park.toNat)] ∧ u.mem = s.mem) ∧
    (bitAt v.toNat 11 = true → t.st ≠ 0 ∨ s.boot.stage = 8 → exec (.memTestGo d v) s = .next s.refuse) ∧
    (t.st = 1 → exec (.parkingComplete d) s = .next (s.modTest d fun t => { t with st := 2, row := 0 })) ∧
    (t.st = 2 → exec (.bankTestComplete d true) s = .next (s.modTest d fun t => { t with st := 3, row := 0 }) ∧
      exec (.bankTestComplete d false) s =
        .next ((s.modTest d fun t => { t with st := 4, done := true }).eventFault .dev d (testRec d t))) ∧
    (t.st = 3 → ∃ u : State, exec (.restoringComplete d) s = .next u ∧ (u.die d).test = { t with st := 0, done := true, row := 0 } ∧
      (u.die d).redir = (s.die d).redir.filter (·.1 != t.bits) ∧ u.mem = s.mem)) ∧
  (∀ (s : State) (d unit bank row : Nat), let b := unit + bank * 2 ^ 7
    let other := Config.rowChoice s.tick % 65536
    (2048 ≤ mget 0 (s.die d).acts (b * 65536 + row) → ∃ u : State, exec (.rowSwap d unit bank row) s = .next u ∧
      (u.die d).rswp = ((s.die d).rswp + 1) % 2 ^ 32 ∧ mget 0 (u.die d).acts (b * 65536 + other) = 0 ∧
      (u.die d).physRow b other = (s.die d).physRow b row ∧ u.mem = s.mem) ∧
    (mget 0 (s.die d).acts (b * 65536 + row) < 2048 → exec (.rowSwap d unit bank row) s = .next s) ∧
    (s.cycle < (s.die d).actsAt + 72000000 → exec (.refreshWindowEnd d) s = .next s) ∧
    ((s.die d).actsAt + 72000000 ≤ s.cycle →
      exec (.refreshWindowEnd d) s = .next (s.modDie d fun x => { x with acts := [], actsAt := s.cycle })) ∧
    (d < 4 → unit < 128 → bank < 16 → ∃ u : State, exec (.bankRefresh d unit bank) s = .next u ∧ (b, s.cycle + 788) ∈ (u.die d).refresh ∧
      u.mem = s.mem)) ∧
  (∀ (s : State) (d : Nat) (e : ErrorFound), d ≤ 4 → e.kind < 5 →
    let u := (e.far.map fun line => s.dropFar d fun l _ => l == line).getD s
    let n := min (mget 0 (u.die d).ras e.kind + 1) (2 ^ 32 - 1)
    let t := u.modDie d fun x => { x with ras := mset 0 x.ras e.kind n }
    (n ≤ mget rasUnset (u.die d).rasThr e.kind → exec (.correctedError d e) s = .next t) ∧
    (mget rasUnset (u.die d).rasThr e.kind < n →
      exec (.correctedError d e) s = .next ((t.modDie d fun x => { x with rasEvt := x.rasEvt ||| 2 ^ e.kind }).notify (.ras d e.kind)))) ∧
  (∀ (s : State) (d n : Nat),
    (d < 4 → n < 6 → s.boot.stage ≠ 8 → exec (.clockStepSet d n) s = .next (s.modDie d fun x => { x with step := n })) ∧
    (4 ≤ d ∨ 6 ≤ n ∨ s.boot.stage = 8 → exec (.clockStepSet d n) s = .next s.refuse) ∧
    (d ≤ 4 → exec (.thermalThrottle d) s = .next (s.modDie d fun x => { x with hot := true }) ∧
      exec (.thermalRecover d) s = .next (s.modDie d fun x => { x with hot := false })) ∧
    (d ≤ 4 → s.boot.ran = true → s.boot.stage ≠ 7 →
      exec (.thermalTrip d) s = .next ({ s with flash := s.flash.putReason 8 d } : State).start) ∧
    (d ≤ 4 → s.boot.ran = true → s.boot.stage = 7 → exec (.thermalTrip d) s =
      .next ({ s with flash := (s.flash.putCount (s.flash.copy.count + 1)).putReason 8 d } : State).start)) ∧
  (∀ (s : State),
    (∃ f, exec .pcieResetAssert s = .next ({ s with flash := f } : State).inReset.ticked ∧
      (s.boot.ran = false ∨ s.boot.stage ≠ 0 → f = s.flash) ∧ (f = s.flash ∨ f = s.flash.cutOff)) ∧
    (s.boot.ran = false → exec .pcieResetDeassert s = .next s.start) ∧
    (s.boot.ran = true → exec .bootstatRead s = .next (s.notify (.value s.boot.stat)) ∧
      (∀ r : StageResult, s.boot.stage < 7 → r.die ∈ stageDies s.boot.stage →
        (s.boot.stage ≠ 1 → r.ok = false →
          exec (.bootStageComplete r) s = .next (s.startFails (stageReason s.boot.stage) r.die)) ∧
        (s.boot.stage = 3 → r.ok = true → (s.regBist r.die r.faulty).noCore r.die = true →
          exec (.bootStageComplete r) s = .next (s.startFails 4 r.die)) ∧
        (s.boot.stage ≠ 3 → s.boot.stage = 1 ∨ r.ok = true →
          let ds := r.die :: s.boot.done.erase r.die
          let t : State := { s with boot := { s.boot with
            done := ds, ready := if s.boot.stage = 6 then s.boot.ready ||| 2 ^ r.die else s.boot.ready } }
          let next : State := { t with boot := { t.boot with stage := t.boot.stage + 1, done := [] } }
          ((∃ d ∈ stageDies s.boot.stage, d ∉ ds) → exec (.bootStageComplete r) s = .next t) ∧
          ((∀ d ∈ stageDies s.boot.stage, d ∈ ds) →
            (s.boot.stage = 1 → exec (.bootStageComplete r) s = .next t.fwVerify) ∧
            (s.boot.stage = 2 → exec (.bootStageComplete r) s =
              .next { t with boot := { t.boot with stage := 3, done := [], seed := sha3 (Config.pufResponse t.flash.helper) } }) ∧
            (s.boot.stage = 0 ∨ s.boot.stage = 4 → exec (.bootStageComplete r) s = .next next) ∧
            (s.boot.stage = 5 → exec (.bootStageComplete r) s = .next next.linksUp) ∧
            (s.boot.stage = 6 → exec (.bootStageComplete r) s = .next t.nowReady)))) ∧
      (s.boot.stage < 7 → 2250 * 60000000 ≤ s.cycle → exec .bootTimeout s = .next (s.startFails 7 0xFF)) ∧
      (s.boot.stage = 8 → exec .restart s = .next s.start) ∧ (s.boot.stage ≠ 8 → exec .restart s = .next s.refuse) ∧
      (∀ img, s.boot.stage = 8 →
        exec (.flashWr 0 img) s =
          .next (if s.flash.verifies img then { s with flash := { s.flash.putCount 0 with slotA := some img } } else s.refuse) ∧
        exec (.flashWr 1 img) s =
          .next (if s.flash.verifies img then { s with flash := { s.flash.putCount 0 with slotB := some img } } else s.refuse)) ∧
      (∀ n img, s.boot.stage ≠ 8 → exec (.flashWr n img) s = .next s.refuse))) ∧
  (∀ (s : State), s.boot.answers = true →
    (∃ t : State, exec .getVersion s = .next t ∧ t.spdm.ver = true ∧ t.spdm.caps = false ∧ t.spdm.alg = false) ∧
    (s.spdm.ver = true → ∃ t : State, exec .getCapabilities s = .next t ∧ t.spdm.caps = true) ∧
    (∀ r, s.spdm.caps = true → offersAlgs r = true → ∃ t : State, exec (.negotiateAlgorithms r) s = .next t ∧ t.spdm.alg = true) ∧
    (∀ r, s.spdm.caps = true → offersAlgs r = false → exec (.negotiateAlgorithms r) s = .next (s.spdmError 1)) ∧
    (s.spdm.alg = true →
      exec .getDigests s = .next (s.spdmSay (spdmHead 0x01 0 1 ++ sha3 s.flash.cert)) ∧
      (∀ off len, ∃ h, exec (.getCertificate off len) s = .next (s.spdmSay (h ++ (s.flash.cert.drop off).take len))) ∧
      (∀ nonce, ∃ m, exec (.challenge nonce) s = .next (s.spdmSay (m ++ Config.mldsaSign s.boot.seed (nonce ++ m)))) ∧
      (∀ (q : MeasRequest) v, 1 ≤ q.idx → q.idx ≤ 4 → s.measurement q.idx = some v →
        (q.sign = false → ∃ h e, exec (.getMeasurements q) s = .next (s.spdmSay (h ++ measBlock q.idx v ++ e))) ∧
        (q.sign = true → q.nonce.length = 32 → ∃ m h e, m = h ++ measBlock q.idx v ++ e ∧ ∃ p, exec (.getMeasurements q) s =
          .next (s.spdmSay (m ++ Config.mldsaSign s.boot.seed (p ++ q.nonce ++ m)))))) ∧
    (s.spdm.alg = false → exec .getDigests s = .next (s.spdmError 4)))

namespace Sys2Proof.Claims

/-- No operation of a bundle reads a pending token, for which R255 holds the loads of its bundle. -/
def noneReadsPending (u : State) (b : Bundle) : Prop :=
  ∀ j, some (SlotOp.op j) ∈ b.ops → ∀ x ∈ readsOf j, u.bank.regs.pending x = false

/-- The bank in focus stands before a bundle that it may issue: the bundle b at its program counter has been fetched, giving u, and
decodes, nothing holds it back, no operation of an earlier bundle is outstanding, and i is its first operation (R18, R52, R58, R63, R66,
R255, R340). -/
def beforeBundle (t u : State) (b : Bundle) (rest : List Byte) (i : Instr) : Prop :=
  t.bank.run = .ready ∧ (t.core (coreOf t.cur)).active = t.cur % 2 ∧ t.bank.cur = none ∧ t.givesWay = false ∧ t.bank.stop = false ∧
  t.bank.lag = [] ∧ u.bank.lag = [] ∧ t.bank.reissue = false ∧ (isLoad i = false ∨ noneReadsPending u b) ∧
  t.fetchBundle = .line u ∧
  decodeBundle (u.bank.code u.bank.at_ (headerLen (leNat (u.bank.code u.bank.at_ 4)))) = .ok (b, rest) ∧
  u.bank.badSticky b = false ∧ b.sticky = 0 ∧ firstOp b.ops = some i ∧ u.bank.dist < 4096 ∧
  (u.bank.preempt = false ∨ b.kind ≠ .safePoint)

/-- What the bank issues then: the registers of the fetched state, their view for this issue, the cycle counted; everything outside the
bank as after a cycle, with a YIELD that found no ready bank forgotten (R35, R53, R59, R134). -/
def issuesIn (u v : State) (b : Bundle) : Prop :=
  v = { (u.modCore (coreOf u.cur) fun c => { c with give := false }).passCycle with bank := v.bank } ∧ v.bank.regs = u.bank.regs ∧
  v.bank.view = u.bank.regs ∧ v.bank.pc = u.bank.pc ∧ v.bank.ctl = { u.bank.ctl with cycle := u.bank.ctl.cycle + 1 } ∧
  (∃ r, v.bank.cur = some r ∧ r.b = b ∧ r.rep = 0 ∧ r.addr = u.bank.pc)

end Sys2Proof.Claims

/-- Decoded words (R50, R51, R68 to R75). -/
def Obligations.DecodeWords : Prop :=
  decodeTableWord 64 0x010C108000000100 = some (.add ⟨3, 1, 2, 0⟩) ∧
  decodeTableWord 64 0x2817FFFE00000100 = some (.li ⟨5, 0x3FFFE⟩) ∧
  decodeTableWord 64 0x40042FFC00000100 = some (.beq ⟨1, 2, 0xFFC⟩) ∧
  decodeTableWord 128 0x2A1C0000123456789ABCDEF080000100 = some (.lil ⟨7, 0⟩ 0x123456789ABCDEF0) ∧
  decodeTableWord 96 0x004060411800410000000200 = some (.vadd ⟨0, 3, 4, 0x23, 0, 2, 0, 1, 0⟩) ∧
  decodeTableWord 96 0x10C03040281A000000000400 = some (.vfma ⟨1, 1, 0x104, 5, 6, 0x10, 0, 0, 0⟩) ∧
  decodeTableWord 96 0x400142780000870000000200 = some (.vld ⟨0, 10, 4, 0xF00, 0, 0, 0, 4, 7, 0⟩) ∧
  decodeTableWord 96 0x090430C00420C20100000800 = some (.mfeed ⟨1, 3, 3, 0, 1, 2, 3, 0x201⟩) ∧
  decodeTableWord 96 0x010800001462020400002000 = some (.cpy ⟨1, 2, 0, 0, 0, 5, 6, 8, 0x204⟩) ∧
  decodeTableWord 64 0x1F00000000000100 = none ∧ decodeTableWord 64 0x010C1080C0000100 = none ∧
  decodeTableWord 64 0x010C108100000100 = none

/-- Decoding undoes encoding (R50 to R52, R68 to R76). -/
def Obligations.DecodeEncode : Prop :=
  ∀ (i : Instr) (w : Nat), encode i = some w → WellFormed i = true →
    ∃ bs, encodeOne i = some bs ∧ decodeTableWord (8 * bs.length) (leNat bs) = some i ∧
      ∀ rest : List Byte, ∃ b : Bundle, decodeBundle (bs ++ rest) = .ok (b, rest) ∧ firstOp b.ops = some i ∧ b.len = bs.length ∧
        b.rpt = 0 ∧ b.sticky = 0 ∧ b.stepSet = 0 ∧ b.sync = false ∧
        b.ops = (List.range 6).map fun j => if j = slotOf i then some (SlotOp.op i) else none

/-- A step runs the decoded instruction (R18, R53). -/
def Obligations.StepRunsDecodedInstruction : Prop :=
  (∀ (s t u : State) (b : Bundle) (rest : List Byte) (i : Instr), s.cur < 512 →
    (s.agenda = [] ∧ s.lap < 256 ∧ t = { s with lap := s.lap + 1 }) ∨
      (∃ k as, s.agenda = .bank k :: as ∧ k < 512 ∧ t = ({ s with agenda := as } : State).focus k) →
    beforeBundle t u b rest i → ∃ v, issuesIn u v b ∧ step s = State.after i (exec i v)) ∧
  (∀ (i : Instr) (t : State),
    (t.bank.issued = .done → State.after i (.next t) = .next (t.opDone i)) ∧
    (t.bank.issued = .faulted → State.after i (.next t) = .next t) ∧
    (t.bank.issued = .stalled → t.mayPutAside = true → State.after i (.next t) = .next t.putAside) ∧
    (t.bank.issued = .stalled → t.mayPutAside = false → t.bank.late = none → State.after i (.next t) = t.idle)) ∧
  (∀ (s t : State) (i : Instr) (as : List Agent), s.cur < 512 → s.agenda = .event i :: as → encode i = none → WellFormed i = true →
    exec i ({ s with agenda := as } : State).beforeEvent = .next t → step s = .next t)

/-- Nothing refuses and nothing is stuck (R11, R16, R62). -/
def Obligations.EveryStepGoesOn : Prop :=
  (∀ (i : Instr) (s : State), ∃ t, exec i s = .next t) ∧
  (∀ s : State, s.cur < 512 → (∀ k as, s.agenda = .bank k :: as → k < 512) → goesOn s) ∧
  (∀ s : State, 512 ≤ s.cur → step s = .fault .noSuchBank)

/-- What reset leaves. -/
def Obligations.ResetState : Prop :=
  Memory.wf State.reset.mem ∧ (∀ a, State.reset.byteAt a = 0) ∧ (∀ x, State.reset.rx x = 0 ∧ State.reset.bank.regs.pending x = false) ∧
  State.reset.ctxs = [] ∧ State.reset.agenda = [] ∧ State.reset.outbox = [] ∧ State.reset.bank.run = .free ∧
  State.reset.aging = 2 ^ 20 ∧ State.reset.waitLim = 2 ^ 22 ∧ State.reset.margin = 0 ∧ State.reset.cgTmax = 10000 ∧
  State.reset.cgDef = 100 ∧ State.reset.colTmo = 10000 ∧ State.reset.ethType = 0x88B5 ∧ State.reset.boot.ran = false
end

