-- ==== Sys2Proof/Laws/Maps.lean ====
section
/-! SUPPORT. What a read of a table gives after a write, and that every write keeps the canonical form. -/

namespace Sys2Proof.Machine

variable {α : Type}

/-! ### Reads after writes -/

@[simp] theorem mget_nil (d : α) (k : Nat) : mget d [] k = d := rfl

theorem mget_merase (d : α) (m : Map α) (k j : Nat) : mget d (merase m k) j = if j = k then d else mget d m j := by
  induction m with
  | nil => simp [merase]
  | cons p m ih =>
    obtain ⟨a, x⟩ := p
    by_cases h : a = k
    · simp only [merase, if_pos h, ih, mget]
      by_cases hj : j = k
      · simp [hj]
      · simp only [hj, if_false]
        rw [if_neg (by omega)]
    · simp only [merase, if_neg h, mget, ih]
      by_cases hj : j = k
      · simp [hj, h]
      · simp [hj]

theorem mget_minsert (d : α) (m : Map α) (k j : Nat) (v : α) : mget d (minsert m k v) j = if j = k then v else mget d m j := by
  induction m with
  | nil => simp only [minsert, mget]; simp [eq_comm]
  | cons p m ih =>
    obtain ⟨a, x⟩ := p
    simp only [minsert]
    split
    · simp only [mget]; simp [eq_comm]
    · split
      · subst_vars; simp only [mget]
        by_cases hj : j = a
        · simp [hj]
        · rw [if_neg (by omega), if_neg hj, if_neg (by omega)]
      · rename_i h1 h2
        simp only [mget, ih]
        by_cases hj : j = k
        · simp [hj, h2]
        · simp [hj]

variable [DecidableEq α]

theorem mget_mset (d : α) (m : Map α) (k j : Nat) (v : α) : mget d (mset d m k v) j = if j = k then v else mget d m j := by
  unfold mset
  split
  · rename_i h; rw [mget_merase, h]
  · rw [mget_minsert]

@[simp] theorem mget_mset_same (d : α) (m : Map α) (k : Nat) (v : α) : mget d (mset d m k v) k = v := by simp [mget_mset]

theorem mget_mset_ne (d : α) (m : Map α) {k j : Nat} (v : α) (h : j ≠ k) : mget d (mset d m k v) j = mget d m j := by
  simp [mget_mset, h]

@[simp] theorem mget_mmod_same (d : α) (m : Map α) (k : Nat) (f : α → α) : mget d (mmod d m k f) k = f (mget d m k) := by
  simp [mmod]

theorem mget_mmod_ne (d : α) (m : Map α) {k j : Nat} (f : α → α) (h : j ≠ k) : mget d (mmod d m k f) j = mget d m j := by
  simp [mmod, mget_mset_ne d m _ h]

/-! ### The canonical form -/

theorem mwfAbove_mono {d : α} {b c : Nat} {m : Map α} (h : mwfAbove d b m = true) (hc : c ≤ b) : mwfAbove d c m = true := by
  cases m with
  | nil => rfl
  | cons p m =>
    obtain ⟨a, x⟩ := p
    simp only [mwfAbove, Bool.and_eq_true, decide_eq_true_eq] at h ⊢
    exact ⟨⟨by omega, h.1.2⟩, h.2⟩

theorem mwf_of_above {d : α} {b : Nat} {m : Map α} (h : mwfAbove d b m = true) : mwf d m = true := by
  cases m with
  | nil => rfl
  | cons p m =>
    obtain ⟨a, x⟩ := p
    simp only [mwfAbove, mwf, Bool.and_eq_true] at h ⊢
    exact ⟨h.1.2, h.2⟩

theorem mwfAbove_merase {d : α} (k : Nat) {b : Nat} {m : Map α} (h : mwfAbove d b m = true) : mwfAbove d b (merase m k) = true := by
  induction m generalizing b with
  | nil => rfl
  | cons p m ih =>
    obtain ⟨a, x⟩ := p
    simp only [mwfAbove, Bool.and_eq_true, decide_eq_true_eq] at h
    simp only [merase]
    split
    · exact ih (mwfAbove_mono h.2 (by omega))
    · simp only [mwfAbove, Bool.and_eq_true, decide_eq_true_eq]
      exact ⟨h.1, ih h.2⟩

theorem mwfAbove_minsert {d : α} {k : Nat} {v : α} (hv : v ≠ d) {b : Nat} {m : Map α} (hb : b < k) (h : mwfAbove d b m = true) :
    mwfAbove d b (minsert m k v) = true := by
  induction m generalizing b with
  | nil => simp [minsert, mwfAbove, hb, hv]
  | cons p m ih =>
    obtain ⟨a, x⟩ := p
    simp only [mwfAbove, Bool.and_eq_true, decide_eq_true_eq] at h
    simp only [minsert]
    split
    · rename_i h1
      simp only [mwfAbove, Bool.and_eq_true, decide_eq_true_eq]
      exact ⟨⟨hb, hv⟩, ⟨h1, h.1.2⟩, h.2⟩
    · split
      · rename_i h1 h2; subst h2
        simp only [mwfAbove, Bool.and_eq_true, decide_eq_true_eq]
        exact ⟨⟨hb, hv⟩, h.2⟩
      · rename_i h1 h2
        simp only [mwfAbove, Bool.and_eq_true, decide_eq_true_eq]
        exact ⟨h.1, ih (by omega) h.2⟩

theorem mwf_merase {d : α} (k : Nat) {m : Map α} (h : mwf d m = true) : mwf d (merase m k) = true := by
  cases m with
  | nil => rfl
  | cons p m =>
    obtain ⟨a, x⟩ := p
    simp only [mwf, Bool.and_eq_true, decide_eq_true_eq] at h
    simp only [merase]
    split
    · exact mwf_of_above (mwfAbove_merase k h.2)
    · simp only [mwf, Bool.and_eq_true, decide_eq_true_eq]
      exact ⟨h.1, mwfAbove_merase k h.2⟩

theorem mwf_minsert {d : α} (k : Nat) {v : α} (hv : v ≠ d) {m : Map α} (h : mwf d m = true) : mwf d (minsert m k v) = true := by
  cases m with
  | nil => simp [minsert, mwf, mwfAbove, hv]
  | cons p m =>
    obtain ⟨a, x⟩ := p
    simp only [mwf, Bool.and_eq_true, decide_eq_true_eq] at h
    simp only [minsert]
    split
    · rename_i h1
      simp only [mwf, mwfAbove, Bool.and_eq_true, decide_eq_true_eq]
      exact ⟨hv, ⟨h1, h.1⟩, h.2⟩
    · split
      · rename_i h1 h2; subst h2
        simp only [mwf, Bool.and_eq_true, decide_eq_true_eq]
        exact ⟨hv, h.2⟩
      · rename_i h1 h2
        simp only [mwf, Bool.and_eq_true, decide_eq_true_eq]
        exact ⟨h.1, mwfAbove_minsert hv (by omega) h.2⟩

/-- A write keeps the canonical form. -/
theorem mwf_mset {d : α} (k : Nat) (v : α) {m : Map α} (h : mwf d m = true) : mwf d (mset d m k v) = true := by
  unfold mset
  split
  · exact mwf_merase k h
  · rename_i hv; exact mwf_minsert k hv h

/-- Writes one after another keep it. -/
theorem mwf_mputs {d : α} (b : Nat) (vs : List α) {m : Map α} (h : mwf d m = true) : mwf d (mputs d m b vs) = true := by
  induction vs generalizing b m with
  | nil => exact h
  | cons v vs ih => exact ih (b + 1) (mwf_mset b v h)

theorem mwfAbove_filter {d : α} (p : Nat × α → Bool) {b : Nat} {m : Map α} (h : mwfAbove d b m = true) :
    mwfAbove d b (m.filter p) = true := by
  induction m generalizing b with
  | nil => rfl
  | cons q m ih =>
    obtain ⟨a, x⟩ := q
    simp only [mwfAbove, Bool.and_eq_true, decide_eq_true_eq] at h
    by_cases hp : p (a, x) = true
    · simp only [List.filter_cons, hp, if_true, mwfAbove, Bool.and_eq_true, decide_eq_true_eq]
      exact ⟨h.1, ih h.2⟩
    · simp only [List.filter_cons, hp]
      exact ih (mwfAbove_mono h.2 (by omega))

/-- Dropping entries keeps it. -/
theorem mwf_filter {d : α} (p : Nat × α → Bool) {m : Map α} (h : mwf d m = true) : mwf d (m.filter p) = true := by
  cases m with
  | nil => rfl
  | cons q m =>
    obtain ⟨a, x⟩ := q
    simp only [mwf, Bool.and_eq_true, decide_eq_true_eq] at h
    by_cases hp : p (a, x) = true
    · simp only [List.filter_cons, hp, if_true, mwf, Bool.and_eq_true, decide_eq_true_eq]
      exact ⟨h.1, mwfAbove_filter p h.2⟩
    · simp only [List.filter_cons, hp]
      exact mwf_of_above (mwfAbove_filter p h.2)

/-- A key at or below the bound of a table is not listed. -/
theorem mget_of_above {d : α} {b k : Nat} {m : Map α} (h : mwfAbove d b m = true) (hk : k ≤ b) : mget d m k = d := by
  induction m generalizing b with
  | nil => rfl
  | cons p m ih =>
    obtain ⟨a, x⟩ := p
    simp only [mwfAbove, Bool.and_eq_true, decide_eq_true_eq] at h
    simp only [mget]
    rw [if_neg (by omega)]
    exact ih h.2 (by omega)

theorem mwfAbove_ext {d : α} {b : Nat} {m n : Map α} (hm : mwfAbove d b m = true) (hn : mwfAbove d b n = true)
    (h : ∀ k, mget d m k = mget d n k) : m = n := by
  induction m generalizing b n with
  | nil =>
    cases n with
    | nil => rfl
    | cons q n =>
      obtain ⟨c, y⟩ := q
      simp only [mwfAbove, Bool.and_eq_true, decide_eq_true_eq] at hn
      have := h c
      simp only [mget, if_true] at this
      exact absurd this.symm hn.1.2
  | cons p m ih =>
    obtain ⟨a, x⟩ := p
    have hm0 := hm
    simp only [mwfAbove, Bool.and_eq_true, decide_eq_true_eq] at hm
    cases n with
    | nil =>
      have := h a
      simp only [mget, if_true] at this
      exact absurd this hm.1.2
    | cons q n =>
      obtain ⟨c, y⟩ := q
      have hn0 := hn
      simp only [mwfAbove, Bool.and_eq_true, decide_eq_true_eq] at hn
      rcases Nat.lt_trichotomy a c with hl | he | hl
      · have := h a
        simp only [mget, if_true] at this
        rw [if_neg (by omega), mget_of_above hn.2 (by omega)] at this
        exact absurd this hm.1.2
      · subst he
        have hx := h a
        simp only [mget, if_true] at hx
        subst hx
        have : m = n := by
          refine ih hm.2 hn.2 ?_
          intro k
          by_cases hk : a = k
          · subst hk; rw [mget_of_above hm.2 (Nat.le_refl _), mget_of_above hn.2 (Nat.le_refl _)]
          · have := h k
            simpa only [mget, if_neg hk] using this
        rw [this]
      · have := h c
        simp only [mget, if_true] at this
        rw [if_neg (by omega), mget_of_above hm.2 (by omega)] at this
        exact absurd this.symm hn.1.2

/-- Two canonical tables that read alike everywhere are the same data. -/
theorem mwf_ext {d : α} {m n : Map α} (hm : mwf d m = true) (hn : mwf d n = true) (h : ∀ k, mget d m k = mget d n k) : m = n := by
  cases m with
  | nil =>
    cases n with
    | nil => rfl
    | cons q n =>
      obtain ⟨c, y⟩ := q
      simp only [mwf, Bool.and_eq_true, decide_eq_true_eq] at hn
      have := h c
      simp only [mget, if_true] at this
      exact absurd this.symm hn.1
  | cons p m =>
    obtain ⟨a, x⟩ := p
    cases n with
    | nil =>
      simp only [mwf, Bool.and_eq_true, decide_eq_true_eq] at hm
      have := h a
      simp only [mget, if_true] at this
      exact absurd this hm.1
    | cons q n =>
      obtain ⟨c, y⟩ := q
      simp only [mwf, Bool.and_eq_true, decide_eq_true_eq] at hm hn
      rcases Nat.lt_trichotomy a c with hl | he | hl
      · have := h a
        simp only [mget, if_true] at this
        rw [if_neg (by omega), mget_of_above hn.2 (by omega)] at this
        exact absurd this hm.1
      · subst he
        have hx := h a
        simp only [mget, if_true] at hx
        subst hx
        have : m = n := by
          refine mwfAbove_ext hm.2 hn.2 ?_
          intro k
          by_cases hk : a = k
          · subst hk; rw [mget_of_above hm.2 (Nat.le_refl _), mget_of_above hn.2 (Nat.le_refl _)]
          · have := h k
            simpa only [mget, if_neg hk] using this
        rw [this]
      · have := h c
        simp only [mget, if_true] at this
        rw [if_neg (by omega), mget_of_above hm.2 (by omega)] at this
        exact absurd this.symm hn.1

end Sys2Proof.Machine
end

