-- ==== Sys2Proof/Laws/State.lean ====
section
/-! SUPPORT. One lemma for each field of State under each update: an update of one field leaves the others. -/

namespace Sys2Proof.Machine

/-! ### upd changes bank alone -/

@[simp] theorem State.upd_cur (s : State) (f : Bank → Bank) : (s.upd f).cur = s.cur := rfl
@[simp] theorem State.upd_parked (s : State) (f : Bank → Bank) : (s.upd f).parked = s.parked := rfl
@[simp] theorem State.upd_agenda (s : State) (f : Bank → Bank) : (s.upd f).agenda = s.agenda := rfl
@[simp] theorem State.upd_cores (s : State) (f : Bank → Bank) : (s.upd f).cores = s.cores := rfl
@[simp] theorem State.upd_mgs (s : State) (f : Bank → Bank) : (s.upd f).mgs = s.mgs := rfl
@[simp] theorem State.upd_dies (s : State) (f : Bank → Bank) : (s.upd f).dies = s.dies := rfl
@[simp] theorem State.upd_ctxs (s : State) (f : Bank → Bank) : (s.upd f).ctxs = s.ctxs := rfl
@[simp] theorem State.upd_mem (s : State) (f : Bank → Bank) : (s.upd f).mem = s.mem := rfl
@[simp] theorem State.upd_blocks (s : State) (f : Bank → Bank) : (s.upd f).blocks = s.blocks := rfl
@[simp] theorem State.upd_ecc (s : State) (f : Bank → Bank) : (s.upd f).ecc = s.ecc := rfl
@[simp] theorem State.upd_wbad (s : State) (f : Bank → Bank) : (s.upd f).wbad = s.wbad := rfl
@[simp] theorem State.upd_space (s : State) (f : Bank → Bank) : (s.upd f).space = s.space := rfl
@[simp] theorem State.upd_frames (s : State) (f : Bank → Bank) : (s.upd f).frames = s.frames := rfl
@[simp] theorem State.upd_host (s : State) (f : Bank → Bank) : (s.upd f).host = s.host := rfl
@[simp] theorem State.upd_evicted (s : State) (f : Bank → Bank) : (s.upd f).evicted = s.evicted := rfl
@[simp] theorem State.upd_wts (s : State) (f : Bank → Bank) : (s.upd f).wts = s.wts := rfl
@[simp] theorem State.upd_wtNext (s : State) (f : Bank → Bank) : (s.upd f).wtNext = s.wtNext := rfl
@[simp] theorem State.upd_fns (s : State) (f : Bank → Bank) : (s.upd f).fns = s.fns := rfl
@[simp] theorem State.upd_links (s : State) (f : Bank → Bank) : (s.upd f).links = s.links := rfl
@[simp] theorem State.upd_gate (s : State) (f : Bank → Bank) : (s.upd f).gate = s.gate := rfl
@[simp] theorem State.upd_outbox (s : State) (f : Bank → Bank) : (s.upd f).outbox = s.outbox := rfl
@[simp] theorem State.upd_notices (s : State) (f : Bank → Bank) : (s.upd f).notices = s.notices := rfl
@[simp] theorem State.upd_dev (s : State) (f : Bank → Bank) : (s.upd f).dev = s.dev := rfl
@[simp] theorem State.upd_boot (s : State) (f : Bank → Bank) : (s.upd f).boot = s.boot := rfl
@[simp] theorem State.upd_flash (s : State) (f : Bank → Bank) : (s.upd f).flash = s.flash := rfl
@[simp] theorem State.upd_spdm (s : State) (f : Bank → Bank) : (s.upd f).spdm = s.spdm := rfl
@[simp] theorem State.upd_images (s : State) (f : Bank → Bank) : (s.upd f).images = s.images := rfl
@[simp] theorem State.upd_fabric (s : State) (f : Bank → Bank) : (s.upd f).fabric = s.fabric := rfl
@[simp] theorem State.upd_homeM (s : State) (f : Bank → Bank) : (s.upd f).homeM = s.homeM := rfl
@[simp] theorem State.upd_time (s : State) (f : Bank → Bank) : (s.upd f).time = s.time := rfl
@[simp] theorem State.upd_cycle (s : State) (f : Bank → Bank) : (s.upd f).cycle = s.cycle := rfl
@[simp] theorem State.upd_margin (s : State) (f : Bank → Bank) : (s.upd f).margin = s.margin := rfl
@[simp] theorem State.upd_waitLim (s : State) (f : Bank → Bank) : (s.upd f).waitLim = s.waitLim := rfl
@[simp] theorem State.upd_aging (s : State) (f : Bank → Bank) : (s.upd f).aging = s.aging := rfl
@[simp] theorem State.upd_cgTmax (s : State) (f : Bank → Bank) : (s.upd f).cgTmax = s.cgTmax := rfl
@[simp] theorem State.upd_cgDef (s : State) (f : Bank → Bank) : (s.upd f).cgDef = s.cgDef := rfl
@[simp] theorem State.upd_colTmo (s : State) (f : Bank → Bank) : (s.upd f).colTmo = s.colTmo := rfl
@[simp] theorem State.upd_colDrop (s : State) (f : Bank → Bank) : (s.upd f).colDrop = s.colDrop := rfl
@[simp] theorem State.upd_ethType (s : State) (f : Bank → Bank) : (s.upd f).ethType = s.ethType := rfl
@[simp] theorem State.upd_tick (s : State) (f : Bank → Bank) : (s.upd f).tick = s.tick := rfl
@[simp] theorem State.upd_lap (s : State) (f : Bank → Bank) : (s.upd f).lap = s.lap := rfl

/-! ### modCore changes cores alone -/

@[simp] theorem State.modCore_bank (s : State) (c : Nat) (f : Core → Core) : (s.modCore c f).bank = s.bank := rfl
@[simp] theorem State.modCore_cur (s : State) (c : Nat) (f : Core → Core) : (s.modCore c f).cur = s.cur := rfl
@[simp] theorem State.modCore_parked (s : State) (c : Nat) (f : Core → Core) : (s.modCore c f).parked = s.parked := rfl
@[simp] theorem State.modCore_agenda (s : State) (c : Nat) (f : Core → Core) : (s.modCore c f).agenda = s.agenda := rfl
@[simp] theorem State.modCore_mgs (s : State) (c : Nat) (f : Core → Core) : (s.modCore c f).mgs = s.mgs := rfl
@[simp] theorem State.modCore_dies (s : State) (c : Nat) (f : Core → Core) : (s.modCore c f).dies = s.dies := rfl
@[simp] theorem State.modCore_ctxs (s : State) (c : Nat) (f : Core → Core) : (s.modCore c f).ctxs = s.ctxs := rfl
@[simp] theorem State.modCore_mem (s : State) (c : Nat) (f : Core → Core) : (s.modCore c f).mem = s.mem := rfl
@[simp] theorem State.modCore_blocks (s : State) (c : Nat) (f : Core → Core) : (s.modCore c f).blocks = s.blocks := rfl
@[simp] theorem State.modCore_ecc (s : State) (c : Nat) (f : Core → Core) : (s.modCore c f).ecc = s.ecc := rfl
@[simp] theorem State.modCore_wbad (s : State) (c : Nat) (f : Core → Core) : (s.modCore c f).wbad = s.wbad := rfl
@[simp] theorem State.modCore_space (s : State) (c : Nat) (f : Core → Core) : (s.modCore c f).space = s.space := rfl
@[simp] theorem State.modCore_frames (s : State) (c : Nat) (f : Core → Core) : (s.modCore c f).frames = s.frames := rfl
@[simp] theorem State.modCore_host (s : State) (c : Nat) (f : Core → Core) : (s.modCore c f).host = s.host := rfl
@[simp] theorem State.modCore_evicted (s : State) (c : Nat) (f : Core → Core) : (s.modCore c f).evicted = s.evicted := rfl
@[simp] theorem State.modCore_wts (s : State) (c : Nat) (f : Core → Core) : (s.modCore c f).wts = s.wts := rfl
@[simp] theorem State.modCore_wtNext (s : State) (c : Nat) (f : Core → Core) : (s.modCore c f).wtNext = s.wtNext := rfl
@[simp] theorem State.modCore_fns (s : State) (c : Nat) (f : Core → Core) : (s.modCore c f).fns = s.fns := rfl
@[simp] theorem State.modCore_links (s : State) (c : Nat) (f : Core → Core) : (s.modCore c f).links = s.links := rfl
@[simp] theorem State.modCore_gate (s : State) (c : Nat) (f : Core → Core) : (s.modCore c f).gate = s.gate := rfl
@[simp] theorem State.modCore_outbox (s : State) (c : Nat) (f : Core → Core) : (s.modCore c f).outbox = s.outbox := rfl
@[simp] theorem State.modCore_notices (s : State) (c : Nat) (f : Core → Core) : (s.modCore c f).notices = s.notices := rfl
@[simp] theorem State.modCore_dev (s : State) (c : Nat) (f : Core → Core) : (s.modCore c f).dev = s.dev := rfl
@[simp] theorem State.modCore_boot (s : State) (c : Nat) (f : Core → Core) : (s.modCore c f).boot = s.boot := rfl
@[simp] theorem State.modCore_flash (s : State) (c : Nat) (f : Core → Core) : (s.modCore c f).flash = s.flash := rfl
@[simp] theorem State.modCore_spdm (s : State) (c : Nat) (f : Core → Core) : (s.modCore c f).spdm = s.spdm := rfl
@[simp] theorem State.modCore_images (s : State) (c : Nat) (f : Core → Core) : (s.modCore c f).images = s.images := rfl
@[simp] theorem State.modCore_fabric (s : State) (c : Nat) (f : Core → Core) : (s.modCore c f).fabric = s.fabric := rfl
@[simp] theorem State.modCore_homeM (s : State) (c : Nat) (f : Core → Core) : (s.modCore c f).homeM = s.homeM := rfl
@[simp] theorem State.modCore_time (s : State) (c : Nat) (f : Core → Core) : (s.modCore c f).time = s.time := rfl
@[simp] theorem State.modCore_cycle (s : State) (c : Nat) (f : Core → Core) : (s.modCore c f).cycle = s.cycle := rfl
@[simp] theorem State.modCore_margin (s : State) (c : Nat) (f : Core → Core) : (s.modCore c f).margin = s.margin := rfl
@[simp] theorem State.modCore_waitLim (s : State) (c : Nat) (f : Core → Core) : (s.modCore c f).waitLim = s.waitLim := rfl
@[simp] theorem State.modCore_aging (s : State) (c : Nat) (f : Core → Core) : (s.modCore c f).aging = s.aging := rfl
@[simp] theorem State.modCore_cgTmax (s : State) (c : Nat) (f : Core → Core) : (s.modCore c f).cgTmax = s.cgTmax := rfl
@[simp] theorem State.modCore_cgDef (s : State) (c : Nat) (f : Core → Core) : (s.modCore c f).cgDef = s.cgDef := rfl
@[simp] theorem State.modCore_colTmo (s : State) (c : Nat) (f : Core → Core) : (s.modCore c f).colTmo = s.colTmo := rfl
@[simp] theorem State.modCore_colDrop (s : State) (c : Nat) (f : Core → Core) : (s.modCore c f).colDrop = s.colDrop := rfl
@[simp] theorem State.modCore_ethType (s : State) (c : Nat) (f : Core → Core) : (s.modCore c f).ethType = s.ethType := rfl
@[simp] theorem State.modCore_tick (s : State) (c : Nat) (f : Core → Core) : (s.modCore c f).tick = s.tick := rfl
@[simp] theorem State.modCore_lap (s : State) (c : Nat) (f : Core → Core) : (s.modCore c f).lap = s.lap := rfl

/-! ### modMg changes mgs alone -/

@[simp] theorem State.modMg_bank (s : State) (g : Nat) (f : MillGroup → MillGroup) : (s.modMg g f).bank = s.bank := rfl
@[simp] theorem State.modMg_cur (s : State) (g : Nat) (f : MillGroup → MillGroup) : (s.modMg g f).cur = s.cur := rfl
@[simp] theorem State.modMg_parked (s : State) (g : Nat) (f : MillGroup → MillGroup) : (s.modMg g f).parked = s.parked := rfl
@[simp] theorem State.modMg_agenda (s : State) (g : Nat) (f : MillGroup → MillGroup) : (s.modMg g f).agenda = s.agenda := rfl
@[simp] theorem State.modMg_cores (s : State) (g : Nat) (f : MillGroup → MillGroup) : (s.modMg g f).cores = s.cores := rfl
@[simp] theorem State.modMg_dies (s : State) (g : Nat) (f : MillGroup → MillGroup) : (s.modMg g f).dies = s.dies := rfl
@[simp] theorem State.modMg_ctxs (s : State) (g : Nat) (f : MillGroup → MillGroup) : (s.modMg g f).ctxs = s.ctxs := rfl
@[simp] theorem State.modMg_mem (s : State) (g : Nat) (f : MillGroup → MillGroup) : (s.modMg g f).mem = s.mem := rfl
@[simp] theorem State.modMg_blocks (s : State) (g : Nat) (f : MillGroup → MillGroup) : (s.modMg g f).blocks = s.blocks := rfl
@[simp] theorem State.modMg_ecc (s : State) (g : Nat) (f : MillGroup → MillGroup) : (s.modMg g f).ecc = s.ecc := rfl
@[simp] theorem State.modMg_wbad (s : State) (g : Nat) (f : MillGroup → MillGroup) : (s.modMg g f).wbad = s.wbad := rfl
@[simp] theorem State.modMg_space (s : State) (g : Nat) (f : MillGroup → MillGroup) : (s.modMg g f).space = s.space := rfl
@[simp] theorem State.modMg_frames (s : State) (g : Nat) (f : MillGroup → MillGroup) : (s.modMg g f).frames = s.frames := rfl
@[simp] theorem State.modMg_host (s : State) (g : Nat) (f : MillGroup → MillGroup) : (s.modMg g f).host = s.host := rfl
@[simp] theorem State.modMg_evicted (s : State) (g : Nat) (f : MillGroup → MillGroup) : (s.modMg g f).evicted = s.evicted := rfl
@[simp] theorem State.modMg_wts (s : State) (g : Nat) (f : MillGroup → MillGroup) : (s.modMg g f).wts = s.wts := rfl
@[simp] theorem State.modMg_wtNext (s : State) (g : Nat) (f : MillGroup → MillGroup) : (s.modMg g f).wtNext = s.wtNext := rfl
@[simp] theorem State.modMg_fns (s : State) (g : Nat) (f : MillGroup → MillGroup) : (s.modMg g f).fns = s.fns := rfl
@[simp] theorem State.modMg_links (s : State) (g : Nat) (f : MillGroup → MillGroup) : (s.modMg g f).links = s.links := rfl
@[simp] theorem State.modMg_gate (s : State) (g : Nat) (f : MillGroup → MillGroup) : (s.modMg g f).gate = s.gate := rfl
@[simp] theorem State.modMg_outbox (s : State) (g : Nat) (f : MillGroup → MillGroup) : (s.modMg g f).outbox = s.outbox := rfl
@[simp] theorem State.modMg_notices (s : State) (g : Nat) (f : MillGroup → MillGroup) : (s.modMg g f).notices = s.notices := rfl
@[simp] theorem State.modMg_dev (s : State) (g : Nat) (f : MillGroup → MillGroup) : (s.modMg g f).dev = s.dev := rfl
@[simp] theorem State.modMg_boot (s : State) (g : Nat) (f : MillGroup → MillGroup) : (s.modMg g f).boot = s.boot := rfl
@[simp] theorem State.modMg_flash (s : State) (g : Nat) (f : MillGroup → MillGroup) : (s.modMg g f).flash = s.flash := rfl
@[simp] theorem State.modMg_spdm (s : State) (g : Nat) (f : MillGroup → MillGroup) : (s.modMg g f).spdm = s.spdm := rfl
@[simp] theorem State.modMg_images (s : State) (g : Nat) (f : MillGroup → MillGroup) : (s.modMg g f).images = s.images := rfl
@[simp] theorem State.modMg_fabric (s : State) (g : Nat) (f : MillGroup → MillGroup) : (s.modMg g f).fabric = s.fabric := rfl
@[simp] theorem State.modMg_homeM (s : State) (g : Nat) (f : MillGroup → MillGroup) : (s.modMg g f).homeM = s.homeM := rfl
@[simp] theorem State.modMg_time (s : State) (g : Nat) (f : MillGroup → MillGroup) : (s.modMg g f).time = s.time := rfl
@[simp] theorem State.modMg_cycle (s : State) (g : Nat) (f : MillGroup → MillGroup) : (s.modMg g f).cycle = s.cycle := rfl
@[simp] theorem State.modMg_margin (s : State) (g : Nat) (f : MillGroup → MillGroup) : (s.modMg g f).margin = s.margin := rfl
@[simp] theorem State.modMg_waitLim (s : State) (g : Nat) (f : MillGroup → MillGroup) : (s.modMg g f).waitLim = s.waitLim := rfl
@[simp] theorem State.modMg_aging (s : State) (g : Nat) (f : MillGroup → MillGroup) : (s.modMg g f).aging = s.aging := rfl
@[simp] theorem State.modMg_cgTmax (s : State) (g : Nat) (f : MillGroup → MillGroup) : (s.modMg g f).cgTmax = s.cgTmax := rfl
@[simp] theorem State.modMg_cgDef (s : State) (g : Nat) (f : MillGroup → MillGroup) : (s.modMg g f).cgDef = s.cgDef := rfl
@[simp] theorem State.modMg_colTmo (s : State) (g : Nat) (f : MillGroup → MillGroup) : (s.modMg g f).colTmo = s.colTmo := rfl
@[simp] theorem State.modMg_colDrop (s : State) (g : Nat) (f : MillGroup → MillGroup) : (s.modMg g f).colDrop = s.colDrop := rfl
@[simp] theorem State.modMg_ethType (s : State) (g : Nat) (f : MillGroup → MillGroup) : (s.modMg g f).ethType = s.ethType := rfl
@[simp] theorem State.modMg_tick (s : State) (g : Nat) (f : MillGroup → MillGroup) : (s.modMg g f).tick = s.tick := rfl
@[simp] theorem State.modMg_lap (s : State) (g : Nat) (f : MillGroup → MillGroup) : (s.modMg g f).lap = s.lap := rfl

/-! ### modMill changes mgs alone -/

@[simp] theorem State.modMill_bank (s : State) (g : Nat) (f : Mill → Mill) : (s.modMill g f).bank = s.bank := rfl
@[simp] theorem State.modMill_cur (s : State) (g : Nat) (f : Mill → Mill) : (s.modMill g f).cur = s.cur := rfl
@[simp] theorem State.modMill_parked (s : State) (g : Nat) (f : Mill → Mill) : (s.modMill g f).parked = s.parked := rfl
@[simp] theorem State.modMill_agenda (s : State) (g : Nat) (f : Mill → Mill) : (s.modMill g f).agenda = s.agenda := rfl
@[simp] theorem State.modMill_cores (s : State) (g : Nat) (f : Mill → Mill) : (s.modMill g f).cores = s.cores := rfl
@[simp] theorem State.modMill_dies (s : State) (g : Nat) (f : Mill → Mill) : (s.modMill g f).dies = s.dies := rfl
@[simp] theorem State.modMill_ctxs (s : State) (g : Nat) (f : Mill → Mill) : (s.modMill g f).ctxs = s.ctxs := rfl
@[simp] theorem State.modMill_mem (s : State) (g : Nat) (f : Mill → Mill) : (s.modMill g f).mem = s.mem := rfl
@[simp] theorem State.modMill_blocks (s : State) (g : Nat) (f : Mill → Mill) : (s.modMill g f).blocks = s.blocks := rfl
@[simp] theorem State.modMill_ecc (s : State) (g : Nat) (f : Mill → Mill) : (s.modMill g f).ecc = s.ecc := rfl
@[simp] theorem State.modMill_wbad (s : State) (g : Nat) (f : Mill → Mill) : (s.modMill g f).wbad = s.wbad := rfl
@[simp] theorem State.modMill_space (s : State) (g : Nat) (f : Mill → Mill) : (s.modMill g f).space = s.space := rfl
@[simp] theorem State.modMill_frames (s : State) (g : Nat) (f : Mill → Mill) : (s.modMill g f).frames = s.frames := rfl
@[simp] theorem State.modMill_host (s : State) (g : Nat) (f : Mill → Mill) : (s.modMill g f).host = s.host := rfl
@[simp] theorem State.modMill_evicted (s : State) (g : Nat) (f : Mill → Mill) : (s.modMill g f).evicted = s.evicted := rfl
@[simp] theorem State.modMill_wts (s : State) (g : Nat) (f : Mill → Mill) : (s.modMill g f).wts = s.wts := rfl
@[simp] theorem State.modMill_wtNext (s : State) (g : Nat) (f : Mill → Mill) : (s.modMill g f).wtNext = s.wtNext := rfl
@[simp] theorem State.modMill_fns (s : State) (g : Nat) (f : Mill → Mill) : (s.modMill g f).fns = s.fns := rfl
@[simp] theorem State.modMill_links (s : State) (g : Nat) (f : Mill → Mill) : (s.modMill g f).links = s.links := rfl
@[simp] theorem State.modMill_gate (s : State) (g : Nat) (f : Mill → Mill) : (s.modMill g f).gate = s.gate := rfl
@[simp] theorem State.modMill_outbox (s : State) (g : Nat) (f : Mill → Mill) : (s.modMill g f).outbox = s.outbox := rfl
@[simp] theorem State.modMill_notices (s : State) (g : Nat) (f : Mill → Mill) : (s.modMill g f).notices = s.notices := rfl
@[simp] theorem State.modMill_dev (s : State) (g : Nat) (f : Mill → Mill) : (s.modMill g f).dev = s.dev := rfl
@[simp] theorem State.modMill_boot (s : State) (g : Nat) (f : Mill → Mill) : (s.modMill g f).boot = s.boot := rfl
@[simp] theorem State.modMill_flash (s : State) (g : Nat) (f : Mill → Mill) : (s.modMill g f).flash = s.flash := rfl
@[simp] theorem State.modMill_spdm (s : State) (g : Nat) (f : Mill → Mill) : (s.modMill g f).spdm = s.spdm := rfl
@[simp] theorem State.modMill_images (s : State) (g : Nat) (f : Mill → Mill) : (s.modMill g f).images = s.images := rfl
@[simp] theorem State.modMill_fabric (s : State) (g : Nat) (f : Mill → Mill) : (s.modMill g f).fabric = s.fabric := rfl
@[simp] theorem State.modMill_homeM (s : State) (g : Nat) (f : Mill → Mill) : (s.modMill g f).homeM = s.homeM := rfl
@[simp] theorem State.modMill_time (s : State) (g : Nat) (f : Mill → Mill) : (s.modMill g f).time = s.time := rfl
@[simp] theorem State.modMill_cycle (s : State) (g : Nat) (f : Mill → Mill) : (s.modMill g f).cycle = s.cycle := rfl
@[simp] theorem State.modMill_margin (s : State) (g : Nat) (f : Mill → Mill) : (s.modMill g f).margin = s.margin := rfl
@[simp] theorem State.modMill_waitLim (s : State) (g : Nat) (f : Mill → Mill) : (s.modMill g f).waitLim = s.waitLim := rfl
@[simp] theorem State.modMill_aging (s : State) (g : Nat) (f : Mill → Mill) : (s.modMill g f).aging = s.aging := rfl
@[simp] theorem State.modMill_cgTmax (s : State) (g : Nat) (f : Mill → Mill) : (s.modMill g f).cgTmax = s.cgTmax := rfl
@[simp] theorem State.modMill_cgDef (s : State) (g : Nat) (f : Mill → Mill) : (s.modMill g f).cgDef = s.cgDef := rfl
@[simp] theorem State.modMill_colTmo (s : State) (g : Nat) (f : Mill → Mill) : (s.modMill g f).colTmo = s.colTmo := rfl
@[simp] theorem State.modMill_colDrop (s : State) (g : Nat) (f : Mill → Mill) : (s.modMill g f).colDrop = s.colDrop := rfl
@[simp] theorem State.modMill_ethType (s : State) (g : Nat) (f : Mill → Mill) : (s.modMill g f).ethType = s.ethType := rfl
@[simp] theorem State.modMill_tick (s : State) (g : Nat) (f : Mill → Mill) : (s.modMill g f).tick = s.tick := rfl
@[simp] theorem State.modMill_lap (s : State) (g : Nat) (f : Mill → Mill) : (s.modMill g f).lap = s.lap := rfl

/-! ### modDie changes dies alone -/

@[simp] theorem State.modDie_bank (s : State) (d : Nat) (f : Die → Die) : (s.modDie d f).bank = s.bank := rfl
@[simp] theorem State.modDie_cur (s : State) (d : Nat) (f : Die → Die) : (s.modDie d f).cur = s.cur := rfl
@[simp] theorem State.modDie_parked (s : State) (d : Nat) (f : Die → Die) : (s.modDie d f).parked = s.parked := rfl
@[simp] theorem State.modDie_agenda (s : State) (d : Nat) (f : Die → Die) : (s.modDie d f).agenda = s.agenda := rfl
@[simp] theorem State.modDie_cores (s : State) (d : Nat) (f : Die → Die) : (s.modDie d f).cores = s.cores := rfl
@[simp] theorem State.modDie_mgs (s : State) (d : Nat) (f : Die → Die) : (s.modDie d f).mgs = s.mgs := rfl
@[simp] theorem State.modDie_ctxs (s : State) (d : Nat) (f : Die → Die) : (s.modDie d f).ctxs = s.ctxs := rfl
@[simp] theorem State.modDie_mem (s : State) (d : Nat) (f : Die → Die) : (s.modDie d f).mem = s.mem := rfl
@[simp] theorem State.modDie_blocks (s : State) (d : Nat) (f : Die → Die) : (s.modDie d f).blocks = s.blocks := rfl
@[simp] theorem State.modDie_ecc (s : State) (d : Nat) (f : Die → Die) : (s.modDie d f).ecc = s.ecc := rfl
@[simp] theorem State.modDie_wbad (s : State) (d : Nat) (f : Die → Die) : (s.modDie d f).wbad = s.wbad := rfl
@[simp] theorem State.modDie_space (s : State) (d : Nat) (f : Die → Die) : (s.modDie d f).space = s.space := rfl
@[simp] theorem State.modDie_frames (s : State) (d : Nat) (f : Die → Die) : (s.modDie d f).frames = s.frames := rfl
@[simp] theorem State.modDie_host (s : State) (d : Nat) (f : Die → Die) : (s.modDie d f).host = s.host := rfl
@[simp] theorem State.modDie_evicted (s : State) (d : Nat) (f : Die → Die) : (s.modDie d f).evicted = s.evicted := rfl
@[simp] theorem State.modDie_wts (s : State) (d : Nat) (f : Die → Die) : (s.modDie d f).wts = s.wts := rfl
@[simp] theorem State.modDie_wtNext (s : State) (d : Nat) (f : Die → Die) : (s.modDie d f).wtNext = s.wtNext := rfl
@[simp] theorem State.modDie_fns (s : State) (d : Nat) (f : Die → Die) : (s.modDie d f).fns = s.fns := rfl
@[simp] theorem State.modDie_links (s : State) (d : Nat) (f : Die → Die) : (s.modDie d f).links = s.links := rfl
@[simp] theorem State.modDie_gate (s : State) (d : Nat) (f : Die → Die) : (s.modDie d f).gate = s.gate := rfl
@[simp] theorem State.modDie_outbox (s : State) (d : Nat) (f : Die → Die) : (s.modDie d f).outbox = s.outbox := rfl
@[simp] theorem State.modDie_notices (s : State) (d : Nat) (f : Die → Die) : (s.modDie d f).notices = s.notices := rfl
@[simp] theorem State.modDie_dev (s : State) (d : Nat) (f : Die → Die) : (s.modDie d f).dev = s.dev := rfl
@[simp] theorem State.modDie_boot (s : State) (d : Nat) (f : Die → Die) : (s.modDie d f).boot = s.boot := rfl
@[simp] theorem State.modDie_flash (s : State) (d : Nat) (f : Die → Die) : (s.modDie d f).flash = s.flash := rfl
@[simp] theorem State.modDie_spdm (s : State) (d : Nat) (f : Die → Die) : (s.modDie d f).spdm = s.spdm := rfl
@[simp] theorem State.modDie_images (s : State) (d : Nat) (f : Die → Die) : (s.modDie d f).images = s.images := rfl
@[simp] theorem State.modDie_fabric (s : State) (d : Nat) (f : Die → Die) : (s.modDie d f).fabric = s.fabric := rfl
@[simp] theorem State.modDie_homeM (s : State) (d : Nat) (f : Die → Die) : (s.modDie d f).homeM = s.homeM := rfl
@[simp] theorem State.modDie_time (s : State) (d : Nat) (f : Die → Die) : (s.modDie d f).time = s.time := rfl
@[simp] theorem State.modDie_cycle (s : State) (d : Nat) (f : Die → Die) : (s.modDie d f).cycle = s.cycle := rfl
@[simp] theorem State.modDie_margin (s : State) (d : Nat) (f : Die → Die) : (s.modDie d f).margin = s.margin := rfl
@[simp] theorem State.modDie_waitLim (s : State) (d : Nat) (f : Die → Die) : (s.modDie d f).waitLim = s.waitLim := rfl
@[simp] theorem State.modDie_aging (s : State) (d : Nat) (f : Die → Die) : (s.modDie d f).aging = s.aging := rfl
@[simp] theorem State.modDie_cgTmax (s : State) (d : Nat) (f : Die → Die) : (s.modDie d f).cgTmax = s.cgTmax := rfl
@[simp] theorem State.modDie_cgDef (s : State) (d : Nat) (f : Die → Die) : (s.modDie d f).cgDef = s.cgDef := rfl
@[simp] theorem State.modDie_colTmo (s : State) (d : Nat) (f : Die → Die) : (s.modDie d f).colTmo = s.colTmo := rfl
@[simp] theorem State.modDie_colDrop (s : State) (d : Nat) (f : Die → Die) : (s.modDie d f).colDrop = s.colDrop := rfl
@[simp] theorem State.modDie_ethType (s : State) (d : Nat) (f : Die → Die) : (s.modDie d f).ethType = s.ethType := rfl
@[simp] theorem State.modDie_tick (s : State) (d : Nat) (f : Die → Die) : (s.modDie d f).tick = s.tick := rfl
@[simp] theorem State.modDie_lap (s : State) (d : Nat) (f : Die → Die) : (s.modDie d f).lap = s.lap := rfl

/-! ### modCtx changes ctxs alone -/

@[simp] theorem State.modCtx_bank (s : State) (c : Nat) (f : Ctx → Ctx) : (s.modCtx c f).bank = s.bank := rfl
@[simp] theorem State.modCtx_cur (s : State) (c : Nat) (f : Ctx → Ctx) : (s.modCtx c f).cur = s.cur := rfl
@[simp] theorem State.modCtx_parked (s : State) (c : Nat) (f : Ctx → Ctx) : (s.modCtx c f).parked = s.parked := rfl
@[simp] theorem State.modCtx_agenda (s : State) (c : Nat) (f : Ctx → Ctx) : (s.modCtx c f).agenda = s.agenda := rfl
@[simp] theorem State.modCtx_cores (s : State) (c : Nat) (f : Ctx → Ctx) : (s.modCtx c f).cores = s.cores := rfl
@[simp] theorem State.modCtx_mgs (s : State) (c : Nat) (f : Ctx → Ctx) : (s.modCtx c f).mgs = s.mgs := rfl
@[simp] theorem State.modCtx_dies (s : State) (c : Nat) (f : Ctx → Ctx) : (s.modCtx c f).dies = s.dies := rfl
@[simp] theorem State.modCtx_mem (s : State) (c : Nat) (f : Ctx → Ctx) : (s.modCtx c f).mem = s.mem := rfl
@[simp] theorem State.modCtx_blocks (s : State) (c : Nat) (f : Ctx → Ctx) : (s.modCtx c f).blocks = s.blocks := rfl
@[simp] theorem State.modCtx_ecc (s : State) (c : Nat) (f : Ctx → Ctx) : (s.modCtx c f).ecc = s.ecc := rfl
@[simp] theorem State.modCtx_wbad (s : State) (c : Nat) (f : Ctx → Ctx) : (s.modCtx c f).wbad = s.wbad := rfl
@[simp] theorem State.modCtx_space (s : State) (c : Nat) (f : Ctx → Ctx) : (s.modCtx c f).space = s.space := rfl
@[simp] theorem State.modCtx_frames (s : State) (c : Nat) (f : Ctx → Ctx) : (s.modCtx c f).frames = s.frames := rfl
@[simp] theorem State.modCtx_host (s : State) (c : Nat) (f : Ctx → Ctx) : (s.modCtx c f).host = s.host := rfl
@[simp] theorem State.modCtx_evicted (s : State) (c : Nat) (f : Ctx → Ctx) : (s.modCtx c f).evicted = s.evicted := rfl
@[simp] theorem State.modCtx_wts (s : State) (c : Nat) (f : Ctx → Ctx) : (s.modCtx c f).wts = s.wts := rfl
@[simp] theorem State.modCtx_wtNext (s : State) (c : Nat) (f : Ctx → Ctx) : (s.modCtx c f).wtNext = s.wtNext := rfl
@[simp] theorem State.modCtx_fns (s : State) (c : Nat) (f : Ctx → Ctx) : (s.modCtx c f).fns = s.fns := rfl
@[simp] theorem State.modCtx_links (s : State) (c : Nat) (f : Ctx → Ctx) : (s.modCtx c f).links = s.links := rfl
@[simp] theorem State.modCtx_gate (s : State) (c : Nat) (f : Ctx → Ctx) : (s.modCtx c f).gate = s.gate := rfl
@[simp] theorem State.modCtx_outbox (s : State) (c : Nat) (f : Ctx → Ctx) : (s.modCtx c f).outbox = s.outbox := rfl
@[simp] theorem State.modCtx_notices (s : State) (c : Nat) (f : Ctx → Ctx) : (s.modCtx c f).notices = s.notices := rfl
@[simp] theorem State.modCtx_dev (s : State) (c : Nat) (f : Ctx → Ctx) : (s.modCtx c f).dev = s.dev := rfl
@[simp] theorem State.modCtx_boot (s : State) (c : Nat) (f : Ctx → Ctx) : (s.modCtx c f).boot = s.boot := rfl
@[simp] theorem State.modCtx_flash (s : State) (c : Nat) (f : Ctx → Ctx) : (s.modCtx c f).flash = s.flash := rfl
@[simp] theorem State.modCtx_spdm (s : State) (c : Nat) (f : Ctx → Ctx) : (s.modCtx c f).spdm = s.spdm := rfl
@[simp] theorem State.modCtx_images (s : State) (c : Nat) (f : Ctx → Ctx) : (s.modCtx c f).images = s.images := rfl
@[simp] theorem State.modCtx_fabric (s : State) (c : Nat) (f : Ctx → Ctx) : (s.modCtx c f).fabric = s.fabric := rfl
@[simp] theorem State.modCtx_homeM (s : State) (c : Nat) (f : Ctx → Ctx) : (s.modCtx c f).homeM = s.homeM := rfl
@[simp] theorem State.modCtx_time (s : State) (c : Nat) (f : Ctx → Ctx) : (s.modCtx c f).time = s.time := rfl
@[simp] theorem State.modCtx_cycle (s : State) (c : Nat) (f : Ctx → Ctx) : (s.modCtx c f).cycle = s.cycle := rfl
@[simp] theorem State.modCtx_margin (s : State) (c : Nat) (f : Ctx → Ctx) : (s.modCtx c f).margin = s.margin := rfl
@[simp] theorem State.modCtx_waitLim (s : State) (c : Nat) (f : Ctx → Ctx) : (s.modCtx c f).waitLim = s.waitLim := rfl
@[simp] theorem State.modCtx_aging (s : State) (c : Nat) (f : Ctx → Ctx) : (s.modCtx c f).aging = s.aging := rfl
@[simp] theorem State.modCtx_cgTmax (s : State) (c : Nat) (f : Ctx → Ctx) : (s.modCtx c f).cgTmax = s.cgTmax := rfl
@[simp] theorem State.modCtx_cgDef (s : State) (c : Nat) (f : Ctx → Ctx) : (s.modCtx c f).cgDef = s.cgDef := rfl
@[simp] theorem State.modCtx_colTmo (s : State) (c : Nat) (f : Ctx → Ctx) : (s.modCtx c f).colTmo = s.colTmo := rfl
@[simp] theorem State.modCtx_colDrop (s : State) (c : Nat) (f : Ctx → Ctx) : (s.modCtx c f).colDrop = s.colDrop := rfl
@[simp] theorem State.modCtx_ethType (s : State) (c : Nat) (f : Ctx → Ctx) : (s.modCtx c f).ethType = s.ethType := rfl
@[simp] theorem State.modCtx_tick (s : State) (c : Nat) (f : Ctx → Ctx) : (s.modCtx c f).tick = s.tick := rfl
@[simp] theorem State.modCtx_lap (s : State) (c : Nat) (f : Ctx → Ctx) : (s.modCtx c f).lap = s.lap := rfl

/-! ### modKernel changes ctxs alone -/

@[simp] theorem State.modKernel_bank (s : State) (c k : Nat) (f : Kernel → Kernel) : (s.modKernel c k f).bank = s.bank := rfl
@[simp] theorem State.modKernel_cur (s : State) (c k : Nat) (f : Kernel → Kernel) : (s.modKernel c k f).cur = s.cur := rfl
@[simp] theorem State.modKernel_parked (s : State) (c k : Nat) (f : Kernel → Kernel) : (s.modKernel c k f).parked = s.parked := rfl
@[simp] theorem State.modKernel_agenda (s : State) (c k : Nat) (f : Kernel → Kernel) : (s.modKernel c k f).agenda = s.agenda := rfl
@[simp] theorem State.modKernel_cores (s : State) (c k : Nat) (f : Kernel → Kernel) : (s.modKernel c k f).cores = s.cores := rfl
@[simp] theorem State.modKernel_mgs (s : State) (c k : Nat) (f : Kernel → Kernel) : (s.modKernel c k f).mgs = s.mgs := rfl
@[simp] theorem State.modKernel_dies (s : State) (c k : Nat) (f : Kernel → Kernel) : (s.modKernel c k f).dies = s.dies := rfl
@[simp] theorem State.modKernel_mem (s : State) (c k : Nat) (f : Kernel → Kernel) : (s.modKernel c k f).mem = s.mem := rfl
@[simp] theorem State.modKernel_blocks (s : State) (c k : Nat) (f : Kernel → Kernel) : (s.modKernel c k f).blocks = s.blocks := rfl
@[simp] theorem State.modKernel_ecc (s : State) (c k : Nat) (f : Kernel → Kernel) : (s.modKernel c k f).ecc = s.ecc := rfl
@[simp] theorem State.modKernel_wbad (s : State) (c k : Nat) (f : Kernel → Kernel) : (s.modKernel c k f).wbad = s.wbad := rfl
@[simp] theorem State.modKernel_space (s : State) (c k : Nat) (f : Kernel → Kernel) : (s.modKernel c k f).space = s.space := rfl
@[simp] theorem State.modKernel_frames (s : State) (c k : Nat) (f : Kernel → Kernel) : (s.modKernel c k f).frames = s.frames := rfl
@[simp] theorem State.modKernel_host (s : State) (c k : Nat) (f : Kernel → Kernel) : (s.modKernel c k f).host = s.host := rfl
@[simp] theorem State.modKernel_evicted (s : State) (c k : Nat) (f : Kernel → Kernel) : (s.modKernel c k f).evicted = s.evicted := rfl
@[simp] theorem State.modKernel_wts (s : State) (c k : Nat) (f : Kernel → Kernel) : (s.modKernel c k f).wts = s.wts := rfl
@[simp] theorem State.modKernel_wtNext (s : State) (c k : Nat) (f : Kernel → Kernel) : (s.modKernel c k f).wtNext = s.wtNext := rfl
@[simp] theorem State.modKernel_fns (s : State) (c k : Nat) (f : Kernel → Kernel) : (s.modKernel c k f).fns = s.fns := rfl
@[simp] theorem State.modKernel_links (s : State) (c k : Nat) (f : Kernel → Kernel) : (s.modKernel c k f).links = s.links := rfl
@[simp] theorem State.modKernel_gate (s : State) (c k : Nat) (f : Kernel → Kernel) : (s.modKernel c k f).gate = s.gate := rfl
@[simp] theorem State.modKernel_outbox (s : State) (c k : Nat) (f : Kernel → Kernel) : (s.modKernel c k f).outbox = s.outbox := rfl
@[simp] theorem State.modKernel_notices (s : State) (c k : Nat) (f : Kernel → Kernel) : (s.modKernel c k f).notices = s.notices := rfl
@[simp] theorem State.modKernel_dev (s : State) (c k : Nat) (f : Kernel → Kernel) : (s.modKernel c k f).dev = s.dev := rfl
@[simp] theorem State.modKernel_boot (s : State) (c k : Nat) (f : Kernel → Kernel) : (s.modKernel c k f).boot = s.boot := rfl
@[simp] theorem State.modKernel_flash (s : State) (c k : Nat) (f : Kernel → Kernel) : (s.modKernel c k f).flash = s.flash := rfl
@[simp] theorem State.modKernel_spdm (s : State) (c k : Nat) (f : Kernel → Kernel) : (s.modKernel c k f).spdm = s.spdm := rfl
@[simp] theorem State.modKernel_images (s : State) (c k : Nat) (f : Kernel → Kernel) : (s.modKernel c k f).images = s.images := rfl
@[simp] theorem State.modKernel_fabric (s : State) (c k : Nat) (f : Kernel → Kernel) : (s.modKernel c k f).fabric = s.fabric := rfl
@[simp] theorem State.modKernel_homeM (s : State) (c k : Nat) (f : Kernel → Kernel) : (s.modKernel c k f).homeM = s.homeM := rfl
@[simp] theorem State.modKernel_time (s : State) (c k : Nat) (f : Kernel → Kernel) : (s.modKernel c k f).time = s.time := rfl
@[simp] theorem State.modKernel_cycle (s : State) (c k : Nat) (f : Kernel → Kernel) : (s.modKernel c k f).cycle = s.cycle := rfl
@[simp] theorem State.modKernel_margin (s : State) (c k : Nat) (f : Kernel → Kernel) : (s.modKernel c k f).margin = s.margin := rfl
@[simp] theorem State.modKernel_waitLim (s : State) (c k : Nat) (f : Kernel → Kernel) : (s.modKernel c k f).waitLim = s.waitLim := rfl
@[simp] theorem State.modKernel_aging (s : State) (c k : Nat) (f : Kernel → Kernel) : (s.modKernel c k f).aging = s.aging := rfl
@[simp] theorem State.modKernel_cgTmax (s : State) (c k : Nat) (f : Kernel → Kernel) : (s.modKernel c k f).cgTmax = s.cgTmax := rfl
@[simp] theorem State.modKernel_cgDef (s : State) (c k : Nat) (f : Kernel → Kernel) : (s.modKernel c k f).cgDef = s.cgDef := rfl
@[simp] theorem State.modKernel_colTmo (s : State) (c k : Nat) (f : Kernel → Kernel) : (s.modKernel c k f).colTmo = s.colTmo := rfl
@[simp] theorem State.modKernel_colDrop (s : State) (c k : Nat) (f : Kernel → Kernel) : (s.modKernel c k f).colDrop = s.colDrop := rfl
@[simp] theorem State.modKernel_ethType (s : State) (c k : Nat) (f : Kernel → Kernel) : (s.modKernel c k f).ethType = s.ethType := rfl
@[simp] theorem State.modKernel_tick (s : State) (c k : Nat) (f : Kernel → Kernel) : (s.modKernel c k f).tick = s.tick := rfl
@[simp] theorem State.modKernel_lap (s : State) (c k : Nat) (f : Kernel → Kernel) : (s.modKernel c k f).lap = s.lap := rfl

/-! ### modLink changes links alone -/

@[simp] theorem State.modLink_bank (s : State) (l : Nat) (f : Link → Link) : (s.modLink l f).bank = s.bank := rfl
@[simp] theorem State.modLink_cur (s : State) (l : Nat) (f : Link → Link) : (s.modLink l f).cur = s.cur := rfl
@[simp] theorem State.modLink_parked (s : State) (l : Nat) (f : Link → Link) : (s.modLink l f).parked = s.parked := rfl
@[simp] theorem State.modLink_agenda (s : State) (l : Nat) (f : Link → Link) : (s.modLink l f).agenda = s.agenda := rfl
@[simp] theorem State.modLink_cores (s : State) (l : Nat) (f : Link → Link) : (s.modLink l f).cores = s.cores := rfl
@[simp] theorem State.modLink_mgs (s : State) (l : Nat) (f : Link → Link) : (s.modLink l f).mgs = s.mgs := rfl
@[simp] theorem State.modLink_dies (s : State) (l : Nat) (f : Link → Link) : (s.modLink l f).dies = s.dies := rfl
@[simp] theorem State.modLink_ctxs (s : State) (l : Nat) (f : Link → Link) : (s.modLink l f).ctxs = s.ctxs := rfl
@[simp] theorem State.modLink_mem (s : State) (l : Nat) (f : Link → Link) : (s.modLink l f).mem = s.mem := rfl
@[simp] theorem State.modLink_blocks (s : State) (l : Nat) (f : Link → Link) : (s.modLink l f).blocks = s.blocks := rfl
@[simp] theorem State.modLink_ecc (s : State) (l : Nat) (f : Link → Link) : (s.modLink l f).ecc = s.ecc := rfl
@[simp] theorem State.modLink_wbad (s : State) (l : Nat) (f : Link → Link) : (s.modLink l f).wbad = s.wbad := rfl
@[simp] theorem State.modLink_space (s : State) (l : Nat) (f : Link → Link) : (s.modLink l f).space = s.space := rfl
@[simp] theorem State.modLink_frames (s : State) (l : Nat) (f : Link → Link) : (s.modLink l f).frames = s.frames := rfl
@[simp] theorem State.modLink_host (s : State) (l : Nat) (f : Link → Link) : (s.modLink l f).host = s.host := rfl
@[simp] theorem State.modLink_evicted (s : State) (l : Nat) (f : Link → Link) : (s.modLink l f).evicted = s.evicted := rfl
@[simp] theorem State.modLink_wts (s : State) (l : Nat) (f : Link → Link) : (s.modLink l f).wts = s.wts := rfl
@[simp] theorem State.modLink_wtNext (s : State) (l : Nat) (f : Link → Link) : (s.modLink l f).wtNext = s.wtNext := rfl
@[simp] theorem State.modLink_fns (s : State) (l : Nat) (f : Link → Link) : (s.modLink l f).fns = s.fns := rfl
@[simp] theorem State.modLink_gate (s : State) (l : Nat) (f : Link → Link) : (s.modLink l f).gate = s.gate := rfl
@[simp] theorem State.modLink_outbox (s : State) (l : Nat) (f : Link → Link) : (s.modLink l f).outbox = s.outbox := rfl
@[simp] theorem State.modLink_notices (s : State) (l : Nat) (f : Link → Link) : (s.modLink l f).notices = s.notices := rfl
@[simp] theorem State.modLink_dev (s : State) (l : Nat) (f : Link → Link) : (s.modLink l f).dev = s.dev := rfl
@[simp] theorem State.modLink_boot (s : State) (l : Nat) (f : Link → Link) : (s.modLink l f).boot = s.boot := rfl
@[simp] theorem State.modLink_flash (s : State) (l : Nat) (f : Link → Link) : (s.modLink l f).flash = s.flash := rfl
@[simp] theorem State.modLink_spdm (s : State) (l : Nat) (f : Link → Link) : (s.modLink l f).spdm = s.spdm := rfl
@[simp] theorem State.modLink_images (s : State) (l : Nat) (f : Link → Link) : (s.modLink l f).images = s.images := rfl
@[simp] theorem State.modLink_fabric (s : State) (l : Nat) (f : Link → Link) : (s.modLink l f).fabric = s.fabric := rfl
@[simp] theorem State.modLink_homeM (s : State) (l : Nat) (f : Link → Link) : (s.modLink l f).homeM = s.homeM := rfl
@[simp] theorem State.modLink_time (s : State) (l : Nat) (f : Link → Link) : (s.modLink l f).time = s.time := rfl
@[simp] theorem State.modLink_cycle (s : State) (l : Nat) (f : Link → Link) : (s.modLink l f).cycle = s.cycle := rfl
@[simp] theorem State.modLink_margin (s : State) (l : Nat) (f : Link → Link) : (s.modLink l f).margin = s.margin := rfl
@[simp] theorem State.modLink_waitLim (s : State) (l : Nat) (f : Link → Link) : (s.modLink l f).waitLim = s.waitLim := rfl
@[simp] theorem State.modLink_aging (s : State) (l : Nat) (f : Link → Link) : (s.modLink l f).aging = s.aging := rfl
@[simp] theorem State.modLink_cgTmax (s : State) (l : Nat) (f : Link → Link) : (s.modLink l f).cgTmax = s.cgTmax := rfl
@[simp] theorem State.modLink_cgDef (s : State) (l : Nat) (f : Link → Link) : (s.modLink l f).cgDef = s.cgDef := rfl
@[simp] theorem State.modLink_colTmo (s : State) (l : Nat) (f : Link → Link) : (s.modLink l f).colTmo = s.colTmo := rfl
@[simp] theorem State.modLink_colDrop (s : State) (l : Nat) (f : Link → Link) : (s.modLink l f).colDrop = s.colDrop := rfl
@[simp] theorem State.modLink_ethType (s : State) (l : Nat) (f : Link → Link) : (s.modLink l f).ethType = s.ethType := rfl
@[simp] theorem State.modLink_tick (s : State) (l : Nat) (f : Link → Link) : (s.modLink l f).tick = s.tick := rfl
@[simp] theorem State.modLink_lap (s : State) (l : Nat) (f : Link → Link) : (s.modLink l f).lap = s.lap := rfl

/-! ### modFn changes fns alone -/

@[simp] theorem State.modFn_bank (s : State) (n : Nat) (f : HostFn → HostFn) : (s.modFn n f).bank = s.bank := rfl
@[simp] theorem State.modFn_cur (s : State) (n : Nat) (f : HostFn → HostFn) : (s.modFn n f).cur = s.cur := rfl
@[simp] theorem State.modFn_parked (s : State) (n : Nat) (f : HostFn → HostFn) : (s.modFn n f).parked = s.parked := rfl
@[simp] theorem State.modFn_agenda (s : State) (n : Nat) (f : HostFn → HostFn) : (s.modFn n f).agenda = s.agenda := rfl
@[simp] theorem State.modFn_cores (s : State) (n : Nat) (f : HostFn → HostFn) : (s.modFn n f).cores = s.cores := rfl
@[simp] theorem State.modFn_mgs (s : State) (n : Nat) (f : HostFn → HostFn) : (s.modFn n f).mgs = s.mgs := rfl
@[simp] theorem State.modFn_dies (s : State) (n : Nat) (f : HostFn → HostFn) : (s.modFn n f).dies = s.dies := rfl
@[simp] theorem State.modFn_ctxs (s : State) (n : Nat) (f : HostFn → HostFn) : (s.modFn n f).ctxs = s.ctxs := rfl
@[simp] theorem State.modFn_mem (s : State) (n : Nat) (f : HostFn → HostFn) : (s.modFn n f).mem = s.mem := rfl
@[simp] theorem State.modFn_blocks (s : State) (n : Nat) (f : HostFn → HostFn) : (s.modFn n f).blocks = s.blocks := rfl
@[simp] theorem State.modFn_ecc (s : State) (n : Nat) (f : HostFn → HostFn) : (s.modFn n f).ecc = s.ecc := rfl
@[simp] theorem State.modFn_wbad (s : State) (n : Nat) (f : HostFn → HostFn) : (s.modFn n f).wbad = s.wbad := rfl
@[simp] theorem State.modFn_space (s : State) (n : Nat) (f : HostFn → HostFn) : (s.modFn n f).space = s.space := rfl
@[simp] theorem State.modFn_frames (s : State) (n : Nat) (f : HostFn → HostFn) : (s.modFn n f).frames = s.frames := rfl
@[simp] theorem State.modFn_host (s : State) (n : Nat) (f : HostFn → HostFn) : (s.modFn n f).host = s.host := rfl
@[simp] theorem State.modFn_evicted (s : State) (n : Nat) (f : HostFn → HostFn) : (s.modFn n f).evicted = s.evicted := rfl
@[simp] theorem State.modFn_wts (s : State) (n : Nat) (f : HostFn → HostFn) : (s.modFn n f).wts = s.wts := rfl
@[simp] theorem State.modFn_wtNext (s : State) (n : Nat) (f : HostFn → HostFn) : (s.modFn n f).wtNext = s.wtNext := rfl
@[simp] theorem State.modFn_links (s : State) (n : Nat) (f : HostFn → HostFn) : (s.modFn n f).links = s.links := rfl
@[simp] theorem State.modFn_gate (s : State) (n : Nat) (f : HostFn → HostFn) : (s.modFn n f).gate = s.gate := rfl
@[simp] theorem State.modFn_outbox (s : State) (n : Nat) (f : HostFn → HostFn) : (s.modFn n f).outbox = s.outbox := rfl
@[simp] theorem State.modFn_notices (s : State) (n : Nat) (f : HostFn → HostFn) : (s.modFn n f).notices = s.notices := rfl
@[simp] theorem State.modFn_dev (s : State) (n : Nat) (f : HostFn → HostFn) : (s.modFn n f).dev = s.dev := rfl
@[simp] theorem State.modFn_boot (s : State) (n : Nat) (f : HostFn → HostFn) : (s.modFn n f).boot = s.boot := rfl
@[simp] theorem State.modFn_flash (s : State) (n : Nat) (f : HostFn → HostFn) : (s.modFn n f).flash = s.flash := rfl
@[simp] theorem State.modFn_spdm (s : State) (n : Nat) (f : HostFn → HostFn) : (s.modFn n f).spdm = s.spdm := rfl
@[simp] theorem State.modFn_images (s : State) (n : Nat) (f : HostFn → HostFn) : (s.modFn n f).images = s.images := rfl
@[simp] theorem State.modFn_fabric (s : State) (n : Nat) (f : HostFn → HostFn) : (s.modFn n f).fabric = s.fabric := rfl
@[simp] theorem State.modFn_homeM (s : State) (n : Nat) (f : HostFn → HostFn) : (s.modFn n f).homeM = s.homeM := rfl
@[simp] theorem State.modFn_time (s : State) (n : Nat) (f : HostFn → HostFn) : (s.modFn n f).time = s.time := rfl
@[simp] theorem State.modFn_cycle (s : State) (n : Nat) (f : HostFn → HostFn) : (s.modFn n f).cycle = s.cycle := rfl
@[simp] theorem State.modFn_margin (s : State) (n : Nat) (f : HostFn → HostFn) : (s.modFn n f).margin = s.margin := rfl
@[simp] theorem State.modFn_waitLim (s : State) (n : Nat) (f : HostFn → HostFn) : (s.modFn n f).waitLim = s.waitLim := rfl
@[simp] theorem State.modFn_aging (s : State) (n : Nat) (f : HostFn → HostFn) : (s.modFn n f).aging = s.aging := rfl
@[simp] theorem State.modFn_cgTmax (s : State) (n : Nat) (f : HostFn → HostFn) : (s.modFn n f).cgTmax = s.cgTmax := rfl
@[simp] theorem State.modFn_cgDef (s : State) (n : Nat) (f : HostFn → HostFn) : (s.modFn n f).cgDef = s.cgDef := rfl
@[simp] theorem State.modFn_colTmo (s : State) (n : Nat) (f : HostFn → HostFn) : (s.modFn n f).colTmo = s.colTmo := rfl
@[simp] theorem State.modFn_colDrop (s : State) (n : Nat) (f : HostFn → HostFn) : (s.modFn n f).colDrop = s.colDrop := rfl
@[simp] theorem State.modFn_ethType (s : State) (n : Nat) (f : HostFn → HostFn) : (s.modFn n f).ethType = s.ethType := rfl
@[simp] theorem State.modFn_tick (s : State) (n : Nat) (f : HostFn → HostFn) : (s.modFn n f).tick = s.tick := rfl
@[simp] theorem State.modFn_lap (s : State) (n : Nat) (f : HostFn → HostFn) : (s.modFn n f).lap = s.lap := rfl

/-! ### notify changes notices alone -/

@[simp] theorem State.notify_bank (s : State) (n : Notice) : (s.notify n).bank = s.bank := rfl
@[simp] theorem State.notify_cur (s : State) (n : Notice) : (s.notify n).cur = s.cur := rfl
@[simp] theorem State.notify_parked (s : State) (n : Notice) : (s.notify n).parked = s.parked := rfl
@[simp] theorem State.notify_agenda (s : State) (n : Notice) : (s.notify n).agenda = s.agenda := rfl
@[simp] theorem State.notify_cores (s : State) (n : Notice) : (s.notify n).cores = s.cores := rfl
@[simp] theorem State.notify_mgs (s : State) (n : Notice) : (s.notify n).mgs = s.mgs := rfl
@[simp] theorem State.notify_dies (s : State) (n : Notice) : (s.notify n).dies = s.dies := rfl
@[simp] theorem State.notify_ctxs (s : State) (n : Notice) : (s.notify n).ctxs = s.ctxs := rfl
@[simp] theorem State.notify_mem (s : State) (n : Notice) : (s.notify n).mem = s.mem := rfl
@[simp] theorem State.notify_blocks (s : State) (n : Notice) : (s.notify n).blocks = s.blocks := rfl
@[simp] theorem State.notify_ecc (s : State) (n : Notice) : (s.notify n).ecc = s.ecc := rfl
@[simp] theorem State.notify_wbad (s : State) (n : Notice) : (s.notify n).wbad = s.wbad := rfl
@[simp] theorem State.notify_space (s : State) (n : Notice) : (s.notify n).space = s.space := rfl
@[simp] theorem State.notify_frames (s : State) (n : Notice) : (s.notify n).frames = s.frames := rfl
@[simp] theorem State.notify_host (s : State) (n : Notice) : (s.notify n).host = s.host := rfl
@[simp] theorem State.notify_evicted (s : State) (n : Notice) : (s.notify n).evicted = s.evicted := rfl
@[simp] theorem State.notify_wts (s : State) (n : Notice) : (s.notify n).wts = s.wts := rfl
@[simp] theorem State.notify_wtNext (s : State) (n : Notice) : (s.notify n).wtNext = s.wtNext := rfl
@[simp] theorem State.notify_fns (s : State) (n : Notice) : (s.notify n).fns = s.fns := rfl
@[simp] theorem State.notify_links (s : State) (n : Notice) : (s.notify n).links = s.links := rfl
@[simp] theorem State.notify_gate (s : State) (n : Notice) : (s.notify n).gate = s.gate := rfl
@[simp] theorem State.notify_outbox (s : State) (n : Notice) : (s.notify n).outbox = s.outbox := rfl
@[simp] theorem State.notify_dev (s : State) (n : Notice) : (s.notify n).dev = s.dev := rfl
@[simp] theorem State.notify_boot (s : State) (n : Notice) : (s.notify n).boot = s.boot := rfl
@[simp] theorem State.notify_flash (s : State) (n : Notice) : (s.notify n).flash = s.flash := rfl
@[simp] theorem State.notify_spdm (s : State) (n : Notice) : (s.notify n).spdm = s.spdm := rfl
@[simp] theorem State.notify_images (s : State) (n : Notice) : (s.notify n).images = s.images := rfl
@[simp] theorem State.notify_fabric (s : State) (n : Notice) : (s.notify n).fabric = s.fabric := rfl
@[simp] theorem State.notify_homeM (s : State) (n : Notice) : (s.notify n).homeM = s.homeM := rfl
@[simp] theorem State.notify_time (s : State) (n : Notice) : (s.notify n).time = s.time := rfl
@[simp] theorem State.notify_cycle (s : State) (n : Notice) : (s.notify n).cycle = s.cycle := rfl
@[simp] theorem State.notify_margin (s : State) (n : Notice) : (s.notify n).margin = s.margin := rfl
@[simp] theorem State.notify_waitLim (s : State) (n : Notice) : (s.notify n).waitLim = s.waitLim := rfl
@[simp] theorem State.notify_aging (s : State) (n : Notice) : (s.notify n).aging = s.aging := rfl
@[simp] theorem State.notify_cgTmax (s : State) (n : Notice) : (s.notify n).cgTmax = s.cgTmax := rfl
@[simp] theorem State.notify_cgDef (s : State) (n : Notice) : (s.notify n).cgDef = s.cgDef := rfl
@[simp] theorem State.notify_colTmo (s : State) (n : Notice) : (s.notify n).colTmo = s.colTmo := rfl
@[simp] theorem State.notify_colDrop (s : State) (n : Notice) : (s.notify n).colDrop = s.colDrop := rfl
@[simp] theorem State.notify_ethType (s : State) (n : Notice) : (s.notify n).ethType = s.ethType := rfl
@[simp] theorem State.notify_tick (s : State) (n : Notice) : (s.notify n).tick = s.tick := rfl
@[simp] theorem State.notify_lap (s : State) (n : Notice) : (s.notify n).lap = s.lap := rfl

/-! ### ticked changes tick alone -/

@[simp] theorem State.ticked_bank (s : State) : (s.ticked).bank = s.bank := rfl
@[simp] theorem State.ticked_cur (s : State) : (s.ticked).cur = s.cur := rfl
@[simp] theorem State.ticked_parked (s : State) : (s.ticked).parked = s.parked := rfl
@[simp] theorem State.ticked_agenda (s : State) : (s.ticked).agenda = s.agenda := rfl
@[simp] theorem State.ticked_cores (s : State) : (s.ticked).cores = s.cores := rfl
@[simp] theorem State.ticked_mgs (s : State) : (s.ticked).mgs = s.mgs := rfl
@[simp] theorem State.ticked_dies (s : State) : (s.ticked).dies = s.dies := rfl
@[simp] theorem State.ticked_ctxs (s : State) : (s.ticked).ctxs = s.ctxs := rfl
@[simp] theorem State.ticked_mem (s : State) : (s.ticked).mem = s.mem := rfl
@[simp] theorem State.ticked_blocks (s : State) : (s.ticked).blocks = s.blocks := rfl
@[simp] theorem State.ticked_ecc (s : State) : (s.ticked).ecc = s.ecc := rfl
@[simp] theorem State.ticked_wbad (s : State) : (s.ticked).wbad = s.wbad := rfl
@[simp] theorem State.ticked_space (s : State) : (s.ticked).space = s.space := rfl
@[simp] theorem State.ticked_frames (s : State) : (s.ticked).frames = s.frames := rfl
@[simp] theorem State.ticked_host (s : State) : (s.ticked).host = s.host := rfl
@[simp] theorem State.ticked_evicted (s : State) : (s.ticked).evicted = s.evicted := rfl
@[simp] theorem State.ticked_wts (s : State) : (s.ticked).wts = s.wts := rfl
@[simp] theorem State.ticked_wtNext (s : State) : (s.ticked).wtNext = s.wtNext := rfl
@[simp] theorem State.ticked_fns (s : State) : (s.ticked).fns = s.fns := rfl
@[simp] theorem State.ticked_links (s : State) : (s.ticked).links = s.links := rfl
@[simp] theorem State.ticked_gate (s : State) : (s.ticked).gate = s.gate := rfl
@[simp] theorem State.ticked_outbox (s : State) : (s.ticked).outbox = s.outbox := rfl
@[simp] theorem State.ticked_notices (s : State) : (s.ticked).notices = s.notices := rfl
@[simp] theorem State.ticked_dev (s : State) : (s.ticked).dev = s.dev := rfl
@[simp] theorem State.ticked_boot (s : State) : (s.ticked).boot = s.boot := rfl
@[simp] theorem State.ticked_flash (s : State) : (s.ticked).flash = s.flash := rfl
@[simp] theorem State.ticked_spdm (s : State) : (s.ticked).spdm = s.spdm := rfl
@[simp] theorem State.ticked_images (s : State) : (s.ticked).images = s.images := rfl
@[simp] theorem State.ticked_fabric (s : State) : (s.ticked).fabric = s.fabric := rfl
@[simp] theorem State.ticked_homeM (s : State) : (s.ticked).homeM = s.homeM := rfl
@[simp] theorem State.ticked_time (s : State) : (s.ticked).time = s.time := rfl
@[simp] theorem State.ticked_cycle (s : State) : (s.ticked).cycle = s.cycle := rfl
@[simp] theorem State.ticked_margin (s : State) : (s.ticked).margin = s.margin := rfl
@[simp] theorem State.ticked_waitLim (s : State) : (s.ticked).waitLim = s.waitLim := rfl
@[simp] theorem State.ticked_aging (s : State) : (s.ticked).aging = s.aging := rfl
@[simp] theorem State.ticked_cgTmax (s : State) : (s.ticked).cgTmax = s.cgTmax := rfl
@[simp] theorem State.ticked_cgDef (s : State) : (s.ticked).cgDef = s.cgDef := rfl
@[simp] theorem State.ticked_colTmo (s : State) : (s.ticked).colTmo = s.colTmo := rfl
@[simp] theorem State.ticked_colDrop (s : State) : (s.ticked).colDrop = s.colDrop := rfl
@[simp] theorem State.ticked_ethType (s : State) : (s.ticked).ethType = s.ethType := rfl
@[simp] theorem State.ticked_lap (s : State) : (s.ticked).lap = s.lap := rfl

@[simp] theorem State.upd_bank (s : State) (f : Bank → Bank) : (s.upd f).bank = f s.bank := rfl
@[simp] theorem State.ticked_tick (s : State) : s.ticked.tick = s.tick + 1 := rfl
@[simp] theorem State.notify_notices (s : State) (n : Notice) : (s.notify n).notices = s.notices ++ [n] := rfl

/-! ### What each update gives where it was made, and elsewhere -/

@[simp] theorem State.modCore_core_same (s : State) (c : Nat) (f : Core → Core) : (s.modCore c f).core c = f (s.core c) := mget_mmod_same _ _ _ _
theorem State.modCore_core_ne (s : State) {c j : Nat} (f : Core → Core) (h : j ≠ c) : (s.modCore c f).core j = s.core j := mget_mmod_ne _ _ _ h
@[simp] theorem State.modMg_mg_same (s : State) (g : Nat) (f : MillGroup → MillGroup) : (s.modMg g f).mg g = f (s.mg g) := mget_mmod_same _ _ _ _
theorem State.modMg_mg_ne (s : State) {g j : Nat} (f : MillGroup → MillGroup) (h : j ≠ g) : (s.modMg g f).mg j = s.mg j := mget_mmod_ne _ _ _ h
@[simp] theorem State.modDie_die_same (s : State) (d : Nat) (f : Die → Die) : (s.modDie d f).die d = f (s.die d) := mget_mmod_same _ _ _ _
theorem State.modDie_die_ne (s : State) {d j : Nat} (f : Die → Die) (h : j ≠ d) : (s.modDie d f).die j = s.die j := mget_mmod_ne _ _ _ h
@[simp] theorem State.modCtx_ctx_same (s : State) (c : Nat) (f : Ctx → Ctx) : (s.modCtx c f).ctx c = f (s.ctx c) := mget_mmod_same _ _ _ _
theorem State.modCtx_ctx_ne (s : State) {c j : Nat} (f : Ctx → Ctx) (h : j ≠ c) : (s.modCtx c f).ctx j = s.ctx j := mget_mmod_ne _ _ _ h
@[simp] theorem State.modLink_link_same (s : State) (l : Nat) (f : Link → Link) : (s.modLink l f).link l = f (s.link l) := mget_mmod_same _ _ _ _
theorem State.modLink_link_ne (s : State) {l j : Nat} (f : Link → Link) (h : j ≠ l) : (s.modLink l f).link j = s.link j := mget_mmod_ne _ _ _ h
@[simp] theorem State.modFn_fn_same (s : State) (n : Nat) (f : HostFn → HostFn) : (s.modFn n f).fn n = f (s.fn n) := mget_mmod_same _ _ _ _
theorem State.modFn_fn_ne (s : State) {n j : Nat} (f : HostFn → HostFn) (h : j ≠ n) : (s.modFn n f).fn j = s.fn j := mget_mmod_ne _ _ _ h

end Sys2Proof.Machine
end

