-- ==== Sys2Proof/Laws/Ops.lean ====
section
/-! SUPPORT. What the shared operations can do, each said once: the issue's reads and writes, the answer of a meaning, the focus,
the canonical form of memory under everything that writes it. -/

namespace Sys2Proof.Machine

/-- A number's little-endian bytes read back (R4). -/
theorem leNat_leBytes : ∀ n w : Nat, leNat (leBytes n w) = w % 256 ^ n
  | 0, w => by simp [leBytes, leNat, Nat.mod_one]
  | n + 1, w => by
    have h : w % 256 + 256 * (w / 256 % 256 ^ n) = w % 256 ^ (n + 1) := by rw [Nat.pow_succ', Nat.mod_mul]
    rw [leBytes, leNat, leNat_leBytes n, BitVec.toNat_ofNat]
    exact h

@[simp] theorem leBytes_length : ∀ n w : Nat, (leBytes n w).length = n
  | 0, _ => rfl
  | n + 1, w => by rw [leBytes, List.length_cons, leBytes_length n]

/-! ### The answer of a meaning -/

/-- A meaning over a computation that completes. -/
@[simp] theorem run_ok (s t : State) : run s (.ok t) = .next (t.upd fun b => { b with issued := .done }) := rfl

/-- A computation that stops at once takes the fault. -/
theorem run_fault (s : State) {f : Flt} (h : f.late = false) : run s (.error (.fault f)) = .next (s.takeFault f) := by
  simp [run, h]

/-- A read that meets an uncorrectable error leaves the operation in its queue and is kept until the bundle ends. -/
theorem run_late (s : State) {f : Flt} (h : f.late = true) :
    ∃ b, b.issued = .late ∧ b.late.isSome = true ∧ run s (.error (.fault f)) = .next (s.upd fun _ => b) := by
  refine ⟨_, ?_, ?_, by simp only [run, h, if_true]; rfl⟩
  · rfl
  · change (if s.bank.lateFirst then s.bank.late else some _).isSome = true
    split
    · rename_i hl
      unfold Bank.lateFirst at hl
      cases hb : s.bank.late <;> simp_all
    · rfl

/-- A computation that waits leaves the operation queued. -/
@[simp] theorem run_stall (s : State) : run s (.error .stall) = .next (s.upd fun b => { b with issued := .stalled }) := rfl

/-- A meaning always answers a next state. -/
theorem run_next (s : State) (r : M State) : ∃ t, run s r = .next t := by
  unfold run
  split
  · exact ⟨_, rfl⟩
  · split <;> exact ⟨_, rfl⟩
  · exact ⟨_, rfl⟩

/-- A meaning that may ask a home always answers a next state. -/
theorem runW_next (s : State) (r : M (Bool × State)) : ∃ t, runW s r = .next t := by
  unfold runW
  split
  · exact ⟨_, rfl⟩
  · exact run_next _ _
  · exact run_next _ _

/-! ### Reads and writes of an issue -/

@[simp] theorem rx_zero (s : State) : s.rx 0 = 0 := rfl

@[simp] theorem setX_zero (s : State) (v : Word) : s.setX 0 v = s := rfl

/-- A write names the bank alone. -/
theorem setX_eq (s : State) (a : XReg) (v : Word) : ∃ k, s.setX a v = s.upd fun _ => k := by
  unfold State.setX
  split
  · exact ⟨s.bank, rfl⟩
  · exact ⟨_, rfl⟩

/-- The register written holds the value and has nothing pending. -/
theorem setX_x (s : State) {a : XReg} (v : Word) (h : a ≠ 0) :
    mget 0 (s.setX a v).bank.regs.x a.toNat = v ∧ (s.setX a v).bank.regs.pending a = false := by
  unfold State.setX
  rw [if_neg h]
  simp [Regs.pending, Tok.idle]

/-- Another register is as it was. -/
theorem setX_x_ne (s : State) {a b : XReg} (v : Word) (h : b ≠ a) :
    mget 0 (s.setX a v).bank.regs.x b.toNat = mget 0 s.bank.regs.x b.toNat := by
  unfold State.setX
  split
  · rfl
  · exact mget_mset_ne _ _ _ fun e => h (BitVec.eq_of_toNat_eq e)

/-- Sources that nothing holds back, and a destination that is not pending, let the operation go on. -/
theorem operands_ok {s : State} {srcs : List XReg} {dst : XReg}
    (h : ∀ a ∈ srcs, s.bank.view.pending a = false ∧ (a = 0 ∨ s.poisoned a.toNat = false)) (hd : s.bank.regs.pending dst = false) :
    s.operands srcs dst = .ok () := by
  have h1 : srcs.any s.bank.view.pending = false := by
    simp only [List.any_eq_false]; intro a ha; simp [(h a ha).1]
  have h2 : srcs.find? (fun a => a != 0 && s.poisoned a.toNat) = none := by
    simp only [List.find?_eq_none]; intro a ha
    rcases (h a ha).2 with e | e <;> simp [e]
  unfold State.operands
  rw [h1, hd, h2]; rfl

/-- A pending source or destination makes the operation wait. -/
theorem operands_stall {s : State} {srcs : List XReg} {dst : XReg}
    (h : (∃ a ∈ srcs, s.bank.view.pending a = true) ∨ s.bank.regs.pending dst = true) : s.operands srcs dst = .error .stall := by
  have : (srcs.any s.bank.view.pending || s.bank.regs.pending dst) = true := by
    rcases h with ⟨a, ha, hp⟩ | h
    · simp only [Bool.or_eq_true, List.any_eq_true]; exact .inl ⟨a, ha, hp⟩
    · simp [h]
  simp [State.operands, this, stall]

/-- What operands can do: go on, wait, or stop late at a poisoned source. -/
theorem operands_cases (s : State) (srcs : List XReg) (dst : XReg) :
    s.operands srcs dst = .ok () ∨ s.operands srcs dst = .error .stall ∨
    ∃ a ∈ srcs, a ≠ 0 ∧ s.poisoned a.toNat = true ∧ s.operands srcs dst = raiseLate 4 a.toNat := by
  unfold State.operands
  split
  · exact .inr (.inl rfl)
  · split
    · rename_i a h
      have h2 := List.find?_some h
      simp only [Bool.and_eq_true, bne_iff_ne, ne_eq] at h2
      exact .inr (.inr ⟨a, List.mem_of_find?_eq_some h, h2.1, h2.2, rfl⟩)
    · exact .inl rfl

/-- A scalar operation whose operands are readable writes the value of its computation. -/
theorem scalar_ok {s : State} {srcs : List XReg} {xd : XReg} {v : Word}
    (h : ∀ a ∈ srcs, s.bank.view.pending a = false ∧ (a = 0 ∨ s.poisoned a.toNat = false)) (hd : s.bank.regs.pending xd = false) :
    scalar s srcs xd (.ok v) = .next ((s.setX xd v).upd fun b => { b with issued := .done }) := by
  simp [scalar, operands_ok h hd, bind, Except.bind, pure, Except.pure]

/-- What a condition of a computation can do. -/
theorem need_cases (c : Bool) (cause detail : Nat) :
    (c = true ∧ need c cause detail = .ok ()) ∨ (c = false ∧ need c cause detail = raise cause detail) := by
  cases c <;> simp [need]

/-- A computation made of two goes on from the first when it completes. -/
theorem bind_ok {α β : Type} {x : M α} {f : α → M β} {r : β} : (x >>= f) = .ok r ↔ ∃ a, x = .ok a ∧ f a = .ok r := by
  cases x <;> simp [bind, Except.bind]

/-! ### Tokens -/

@[simp] theorem mark_zero (r : Regs) (n : Nat) (fresh : Bool) : r.mark 0 n fresh = r := rfl

@[simp] theorem mark_x (r : Regs) (k : XReg) (n : Nat) (fresh : Bool) : (r.mark k n fresh).x = r.x := by
  unfold Regs.mark; split <;> rfl

@[simp] theorem mark_v (r : Regs) (k : XReg) (n : Nat) (fresh : Bool) : (r.mark k n fresh).v = r.v := by
  unfold Regs.mark; split <;> rfl

@[simp] theorem mark_p (r : Regs) (k : XReg) (n : Nat) (fresh : Bool) : (r.mark k n fresh).p = r.p := by
  unfold Regs.mark; split <;> rfl

/-- The register named is pending. -/
theorem mark_pending (r : Regs) {k : XReg} (n : Nat) (fresh : Bool) (h : k ≠ 0) : (r.mark k n fresh).pending k = true := by
  unfold Regs.mark Regs.pending
  rw [if_neg h]
  have h' : ¬ k = 0#6 := h
  simp [h']

/-- Another is as it was. -/
theorem mark_pending_ne (r : Regs) {k j : XReg} (n : Nat) (fresh : Bool) (h : j ≠ k) : (r.mark k n fresh).pending j = r.pending j := by
  unfold Regs.mark Regs.pending
  split
  · rfl
  · have : j.toNat ≠ k.toNat := fun e => h (BitVec.eq_of_toNat_eq e)
    simp [mget_mset_ne _ _ _ this]

/-! ### The focus -/

@[simp] theorem focus_cur (s : State) (b : Nat) : (s.focus b).cur = b := by
  unfold State.focus; split
  · rename_i h; exact h.symm
  · rfl

@[simp] theorem focus_self (s : State) : s.focus s.cur = s := by simp [State.focus]

/-- The bank in focus is the bank of that number. -/
theorem focus_bank (s : State) (b : Nat) : (s.focus b).bank = s.getBank b := by
  unfold State.focus State.getBank
  split <;> rfl

@[simp] theorem onBank_self (s : State) (f : State → State) (h : (f s).cur = s.cur) : s.onBank s.cur f = f s := by
  unfold State.onBank
  rw [focus_self, ← h, focus_self]

@[simp] theorem focus_mem (s : State) (b : Nat) : (s.focus b).mem = s.mem := by unfold State.focus; split <;> rfl
@[simp] theorem focus_dies (s : State) (b : Nat) : (s.focus b).dies = s.dies := by unfold State.focus; split <;> rfl
@[simp] theorem focus_ctxs (s : State) (b : Nat) : (s.focus b).ctxs = s.ctxs := by unfold State.focus; split <;> rfl
@[simp] theorem focus_cores (s : State) (b : Nat) : (s.focus b).cores = s.cores := by unfold State.focus; split <;> rfl
@[simp] theorem focus_mgs (s : State) (b : Nat) : (s.focus b).mgs = s.mgs := by unfold State.focus; split <;> rfl
@[simp] theorem focus_cycle (s : State) (b : Nat) : (s.focus b).cycle = s.cycle := by unfold State.focus; split <;> rfl
@[simp] theorem focus_agenda (s : State) (b : Nat) : (s.focus b).agenda = s.agenda := by unfold State.focus; split <;> rfl
@[simp] theorem focus_blocks (s : State) (b : Nat) : (s.focus b).blocks = s.blocks := by unfold State.focus; split <;> rfl
@[simp] theorem focus_gate (s : State) (b : Nat) : (s.focus b).gate = s.gate := by unfold State.focus; split <;> rfl
@[simp] theorem focus_links (s : State) (b : Nat) : (s.focus b).links = s.links := by unfold State.focus; split <;> rfl
@[simp] theorem focus_fns (s : State) (b : Nat) : (s.focus b).fns = s.fns := by unfold State.focus; split <;> rfl

theorem getBank_setBank_same (s : State) (b : Nat) (k : Bank) : (s.setBank b k).getBank b = k := by
  unfold State.setBank State.getBank
  split
  · rename_i h; simp [h]
  · rename_i h; simp [h]

theorem getBank_setBank_ne (s : State) {b c : Nat} (k : Bank) (h : c ≠ b) : (s.setBank b k).getBank c = s.getBank c := by
  unfold State.setBank State.getBank
  split
  · rename_i hb
    have : c ≠ s.cur := by omega
    simp [this]
  · simp [mget_mset_ne _ _ _ h]

theorem getBank_modBank_same (s : State) (b : Nat) (f : Bank → Bank) : (s.modBank b f).getBank b = f (s.getBank b) :=
  getBank_setBank_same _ _ _

theorem getBank_modBank_ne (s : State) {b c : Nat} (f : Bank → Bank) (h : c ≠ b) : (s.modBank b f).getBank c = s.getBank c :=
  getBank_setBank_ne _ _ h

/-! ### Memory -/

/-- A masked byte: the byte read back, and every other byte. -/
theorem mergeByte_byteAt (s : State) (w : AWrite) (a : Nat) : (s.mergeByte w).byteAt a =
    if a = w.1 then (s.byteAt a &&& ~~~w.2.2) ||| (w.2.1 &&& w.2.2) else s.byteAt a := by
  unfold State.mergeByte State.byteAt
  simp only [mget_mset]
  split
  · rename_i h; subst h; rfl
  · rfl

theorem mergeByte_wf (s : State) (w : AWrite) (h : mwf 0 s.mem = true) : mwf 0 (s.mergeByte w).mem = true := mwf_mset _ _ h

/-- Sectors granted anew change no byte. -/
theorem regrant_mem (s t : State) (blk n : Nat) (raw : Bool) (p : BitVec 8) (rsv : Nat) (h : s.regrant blk n raw p rsv = some t) :
    t.mem = s.mem := by
  unfold State.regrant at h
  obtain ⟨x, -, rfl⟩ := Option.map_eq_some_iff.mp h
  rfl

@[simp] theorem resize_mem (s : State) (blk n : Nat) (raw : Bool) (p : BitVec 8) (rsv : Nat) : (s.resize blk n raw p rsv).mem = s.mem := by
  unfold State.resize
  cases h : s.regrant blk n raw p rsv with
  | none => rfl
  | some t => exact regrant_mem s t _ _ _ _ _ h

theorem merge_wf (ws : List AWrite) (s : State) (h : mwf 0 s.mem = true) : mwf 0 (ws.foldl State.mergeByte s).mem = true := by
  induction ws generalizing s with
  | nil => exact h
  | cons w ws ih => exact ih _ (mergeByte_wf s w h)

theorem foldl_mem {β : Type} (f : State → β → State) (hf : ∀ s x, (f s x).mem = s.mem) (l : List β) (s : State) :
    (l.foldl f s).mem = s.mem := by
  induction l generalizing s with
  | nil => rfl
  | cons x l ih => rw [List.foldl_cons, ih, hf]

theorem foldlM_mem {β : Type} (f : State → β → Option State) (hf : ∀ s x t, f s x = some t → t.mem = s.mem) (l : List β) (s t : State)
    (h : l.foldlM f s = some t) : t.mem = s.mem := by
  induction l generalizing s with
  | nil => simp only [List.foldlM_nil, Option.pure_def, Option.some.injEq] at h; rw [h]
  | cons x l ih =>
    rw [List.foldlM_cons] at h
    obtain ⟨u, hu, h⟩ := Option.bind_eq_some_iff.mp h
    rw [ih u h, hf s x u hu]

/-- Writes performed at their homes leave in memory exactly the merged bytes. -/
theorem homeWrite_mem (s t : State) (lv : Level) (rsv : List (Nat × Nat)) (ws : List AWrite) (hint : Bool)
    (h : s.homeWrite lv rsv ws hint = some t) : t.mem = (ws.foldl State.mergeByte s).mem := by
  unfold State.homeWrite at h
  simp only at h
  split at h
  · refine foldlM_mem _ (fun s x t h => ?_) _ _ _ h
    obtain ⟨u, hu, rfl⟩ := Option.map_eq_some_iff.mp h
    exact (State.modDie_mem _ _ _).trans (regrant_mem _ _ _ _ _ _ _ hu)
  · cases h

theorem homeWrite_wf (s t : State) (lv : Level) (rsv : List (Nat × Nat)) (ws : List AWrite) (hint : Bool) (hw : mwf 0 s.mem = true)
    (h : s.homeWrite lv rsv ws hint = some t) : mwf 0 t.mem = true := by
  rw [homeWrite_mem s t lv rsv ws hint h]
  exact merge_wf ws s hw

/-- The device's own writes keep the canonical form. -/
theorem poke_wf (s : State) (a : Nat) (bs : List Byte) (hw : mwf 0 s.mem = true) : mwf 0 (s.poke a bs).mem = true := by
  unfold State.poke
  split
  · rename_i t h; exact homeWrite_wf s t _ _ _ _ hw h
  · exact mwf_mputs _ _ hw

end Sys2Proof.Machine
end

