-- ==== Sys2Proof/Laws/Memory.lean ====
section
/-! SUPPORT. Every operation that writes memory keeps its canonical form: these and mergeByte, homeWrite and poke of Ops.lean
are all the places where a byte of memory changes. -/

namespace Sys2Proof.Machine

/-- What walks go on seeing changes no byte. -/
@[simp] theorem tablesKept_mem (s t : State) (ws : List AWrite) : (s.tablesKept t ws).mem = t.mem := by
  unfold State.tablesKept
  refine foldl_mem _ (fun t x => ?_) _ _
  dsimp only
  refine foldl_mem _ (fun t a => ?_) _ _
  rfl

/-- Writes by anyone but the device itself leave in memory exactly the merged bytes. -/
theorem softWrite_mem (s t : State) (lv : Level) (rsv : List (Nat × Nat)) (ws : List AWrite) (hint : Bool)
    (h : s.softWrite lv rsv ws hint = some t) : t.mem = (ws.foldl State.mergeByte s).mem := by
  unfold State.softWrite at h
  obtain ⟨u, hu, rfl⟩ := Option.map_eq_some_iff.mp h
  rw [tablesKept_mem]
  exact homeWrite_mem s u lv rsv ws hint hu

theorem softWrite_wf (s t : State) (lv : Level) (rsv : List (Nat × Nat)) (ws : List AWrite) (hint : Bool) (hw : mwf 0 s.mem = true)
    (h : s.softWrite lv rsv ws hint = some t) : mwf 0 t.mem = true := by
  rw [softWrite_mem s t lv rsv ws hint h]
  exact merge_wf ws s hw

theorem homeForce_wf (s : State) (rsv : List (Nat × Nat)) (ws : List AWrite) (hint : Bool) (h : mwf 0 s.mem = true) :
    mwf 0 (s.homeForce rsv ws hint).mem = true := by
  unfold State.homeForce
  split
  · rename_i t ht; exact softWrite_wf s t _ _ _ _ h ht
  · exact merge_wf ws s h

theorem ite_wf {p : Prop} [Decidable p] {a b : State} (ha : mwf 0 a.mem = true) (hb : mwf 0 b.mem = true) :
    mwf 0 (if p then a else b).mem = true := by
  split
  · exact ha
  · exact hb

theorem dlogAppend_wf (s : State) (c va code : Nat) (h : mwf 0 s.mem = true) : mwf 0 (s.dlogAppend c va code).mem = true := by
  unfold State.dlogAppend
  refine ite_wf h (ite_wf h ?_)
  rw [State.modCtx_mem]
  exact poke_wf _ _ _ h

/-- A table entry written where walks see it. -/
theorem pokePte_wf (s : State) (c a : Nat) (w : Word) (h : mwf 0 s.mem = true) : mwf 0 (s.pokePte c a w).mem = true := by
  unfold State.pokePte
  exact ite_wf h (poke_wf _ _ _ h)

@[simp] theorem mapFrames_mem (s : State) (c : Nat) (f : FrameEnt → FrameEnt) : (s.mapFrames c f).mem = s.mem := rfl

/-- A D-set may write a page table entry and the dirty log. -/
theorem dset_wf (s : State) (a : Nat) (h : mwf 0 s.mem = true) : mwf 0 (s.dset a).mem = true := by
  unfold State.dset
  refine ite_wf h ?_
  simp only [mapFrames_mem]
  split
  · refine ite_wf (ite_wf h (pokePte_wf _ _ _ _ h)) (dlogAppend_wf _ _ _ _ (ite_wf h (pokePte_wf _ _ _ _ h)))
  · exact h

theorem dsets_wf (bs : List Nat) (s : State) (h : mwf 0 s.mem = true) :
    mwf 0 (bs.foldl (fun (t : State) b => t.dset (b * 512)) s).mem = true := by
  induction bs generalizing s with
  | nil => exact h
  | cons b bs ih => exact ih _ (dset_wf s _ h)

/-- Writes at their homes. -/
theorem homeStore_wf (s t : State) (lv : Level) (ws : List AWrite) (hint : Bool) (h : mwf 0 s.mem = true)
    (ht : s.homeStore lv ws hint = .ok t) : mwf 0 t.mem = true := by
  unfold State.homeStore at ht
  split at ht
  · cases ht
  · split at ht
    · cases ht
    · rename_i u hu
      simp only [Except.ok.injEq] at ht
      subst ht
      exact dsets_wf _ _ (softWrite_wf s u _ _ _ _ h hu)

/-- A write that enters a die's view. -/
theorem enterView_wf (s t : State) (d bank : Nat) (op : Option Nat) (rsv : List (Nat × Nat)) (ws : List AWrite) (hint : Bool)
    (vc : Nat) (h : mwf 0 s.mem = true) (ht : s.enterView d bank op rsv ws hint vc = some t) : mwf 0 t.mem = true := by
  unfold State.enterView at ht
  simp only [bind, Option.bind, pure] at ht
  have hf : ∀ (f : State → Nat → State), (∀ u x, (f u x).mem = u.mem) → ∀ u : State, mwf 0 u.mem = true →
      mwf 0 ([0, 1, 2, 3].foldl f u).mem = true := by
    intro f hf u hu
    rw [foldl_mem f hf]
    exact hu
  split at ht
  · simp only [Option.some.injEq] at ht
    rw [← ht]
    refine hf _ ?_ _ h
    intro u x
    split <;> rfl
  · split at ht
    · cases ht
    · rename_i u hu
      simp only [Option.some.injEq] at ht
      rw [← ht]
      refine hf _ ?_ _ (softWrite_wf s u _ _ _ _ h hu)
      intro u x
      split <;> rfl

/-- Frames given back read zero. -/
theorem freeFrames_wf (s : State) (frame n : Nat) (h : mwf 0 s.mem = true) : mwf 0 (s.freeFrames frame n).mem = true := by
  unfold State.freeFrames
  simp only
  apply mwf_filter
  rw [foldl_mem]
  · exact h
  · intro s x; simp

theorem withFetchWord_wf (s : State) (nbits w : Nat) (h : mwf 0 s.mem = true) : mwf 0 (s.withFetchWord nbits w).mem = true :=
  mwf_mputs _ _ (mwf_mputs _ _ (mwf_mputs _ _ (mwf_mputs _ _ h)))

end Sys2Proof.Machine
end

