-- ==== Sys2Proof/Laws/PerInstr.lean ====
section
/-! SUPPORT. The family Width: every slot word fits the width of its slot, and the slot is one of the six (R50, R51). -/

namespace Sys2Proof.Laws.Width

/-- A word that encodes an instruction has the bits of its slot, and the slot is one of a bundle's six. -/
def Statement (i : Instr) : Prop := ∀ w, encode i = some w → slotOf i < 6 ∧ w < 2 ^ (if slotOf i = 0 then 32 else 64)

/-- A device step has no word. -/
theorem of_none {i : Instr} (h : encode i = none) : Statement i := by
  intro w hw
  rw [h] at hw
  cases hw

/-- An S-slot word. -/
theorem of_s {i : Instr} {w : Nat} (h : encode i = some w) (hs : slotOf i = 0) (hw : w < 2 ^ 32) : Statement i := by
  intro v hv
  rw [h] at hv
  cases hv
  rw [hs]
  exact ⟨by decide, hw⟩

/-- A word of another slot. -/
theorem of_w {i : Instr} {w k n : Nat} (h : encode i = some w) (hs : slotOf i = k + n) (hk : 1 ≤ k) (hn : k + n < 6) (hw : w < 2 ^ 64) :
    Statement i := by
  intro v hv
  rw [h] at hv
  cases hv
  rw [hs, if_neg (by omega)]
  exact ⟨hn, hw⟩

theorem of_sr {i : Instr} {o : SrOp} {c : Nat} (h : encode i = some (encSr c o)) (hs : slotOf i = 0) (hc : c < 256) : Statement i := by
  refine of_s h hs ?_
  unfold encSr
  have := o.xd.isLt
  have := o.xa.isLt
  have := o.xb.isLt
  have := o.fn.isLt
  omega

theorem of_si {i : Instr} {o : SiOp} {c : Nat} (h : encode i = some (encSi c o)) (hs : slotOf i = 0) (hc : c < 256) : Statement i := by
  refine of_s h hs ?_
  unfold encSi
  have := o.xd.isLt
  have := o.xa.isLt
  have := o.imm.isLt
  omega

theorem of_sl {i : Instr} {o : SlOp} {c : Nat} (h : encode i = some (encSl c o)) (hs : slotOf i = 0) (hc : c < 256) : Statement i := by
  refine of_s h hs ?_
  unfold encSl
  have := o.xd.isLt
  have := o.imm.isLt
  omega

theorem of_sb {i : Instr} {o : SbOp} {c : Nat} (h : encode i = some (encSb c o)) (hs : slotOf i = 0) (hc : c < 256) : Statement i := by
  refine of_s h hs ?_
  unfold encSb
  have := o.xa.isLt
  have := o.xb.isLt
  have := o.off.isLt
  omega

theorem of_sj {i : Instr} {o : SjOp} {c : Nat} (h : encode i = some (encSj c o)) (hs : slotOf i = 0) (hc : c < 256) : Statement i := by
  refine of_s h hs ?_
  unfold encSj
  have := o.xl.isLt
  have := o.off.isLt
  omega

theorem of_sg {i : Instr} {o : SgOp} {c : Nat} (h : encode i = some (encSg c o)) (hs : slotOf i = 0) (hc : c < 256) : Statement i := by
  refine of_s h hs ?_
  unfold encSg
  have := o.xd.isLt
  have := o.xb.isLt
  have := o.pg.isLt
  have := o.pol.isLt
  have := o.fn.isLt
  omega

theorem of_sk {i : Instr} {o : SkOp} {c : Nat} (h : encode i = some (encSk c o)) (hs : slotOf i = 0) (hc : c < 256) : Statement i := by
  refine of_s h hs ?_
  unfold encSk
  have := o.x.isLt
  have := o.g.isLt
  have := o.pol.isLt
  have := o.pg.isLt
  have := o.off.isLt
  omega

theorem of_vr {i : Instr} {o : VrOp} {c : Nat} (h : encode i = some (encVr c o)) (hs : slotOf i = 1 + o.sl.toNat) (hc : c < 1024) : Statement i := by
  have hl := o.sl.isLt
  refine of_w h hs (by decide) (by omega) ?_
  unfold encVr
  have := o.vd.isLt
  have := o.va.isLt
  have := o.vb.isLt
  have := o.vc.isLt
  have := o.fmt.isLt
  have := o.rnd.isLt
  have := o.sm.isLt
  have := o.fn.isLt
  omega

theorem of_vg {i : Instr} {o : VgOp} {c : Nat} (h : encode i = some (encVg c o)) (hs : slotOf i = 1 + o.sl.toNat) (hc : c < 1024) : Statement i := by
  have hl := o.sl.isLt
  refine of_w h hs (by decide) (by omega) ?_
  unfold encVg
  have := o.vd.isLt
  have := o.va.isLt
  have := o.vb.isLt
  have := o.pg.isLt
  have := o.pol.isLt
  have := o.guard.isLt
  have := o.fmt.isLt
  have := o.rnd.isLt
  have := o.sm.isLt
  have := o.fn.isLt
  omega

theorem of_vm {i : Instr} {o : VmOp} {c : Nat} (h : encode i = some (encVm c o)) (hs : slotOf i = 1 + o.sl.toNat) (hc : c < 1024) : Statement i := by
  have hl := o.sl.isLt
  refine of_w h hs (by decide) (by omega) ?_
  unfold encVm
  have := o.v.isLt
  have := o.xp.isLt
  have := o.off.isLt
  have := o.pg.isLt
  have := o.pol.isLt
  have := o.guard.isLt
  have := o.fmt.isLt
  have := o.cnt.isLt
  have := o.fn.isLt
  omega

theorem of_vx {i : Instr} {o : VxOp} {c : Nat} (h : encode i = some (encVx c o)) (hs : slotOf i = 1 + o.sl.toNat) (hc : c < 1024) : Statement i := by
  have hl := o.sl.isLt
  refine of_w h hs (by decide) (by omega) ?_
  unfold encVx
  have := o.vd.isLt
  have := o.xa.isLt
  have := o.va.isLt
  have := o.imm.isLt
  omega

theorem of_vk {i : Instr} {o : VkOp} {c : Nat} (h : encode i = some (encVk c o)) (hs : slotOf i = 1 + o.sl.toNat) (hc : c < 1024) : Statement i := by
  have hl := o.sl.isLt
  refine of_w h hs (by decide) (by omega) ?_
  unfold encVk
  have := o.v.isLt
  have := o.off.isLt
  have := o.z.isLt
  have := o.pg.isLt
  have := o.pol.isLt
  have := o.guard.isLt
  have := o.fmt.isLt
  have := o.cnt.isLt
  have := o.fn.isLt
  omega

theorem of_m {i : Instr} {o : MOp} {c : Nat} (h : encode i = some (encM c o)) (hs : slotOf i = 3 + 0) (hc : c < 256) : Statement i := by
  refine of_w h hs (by decide) (by decide) ?_
  unfold encM
  have := o.kd.isLt
  have := o.k1.isLt
  have := o.k2.isLt
  have := o.k3.isLt
  have := o.xa.isLt
  have := o.xb.isLt
  have := o.xc.isLt
  have := o.mod.isLt
  omega

theorem of_c {i : Instr} {o : COp} {c : Nat} (h : encode i = some (encC c o)) (hs : slotOf i = 4 + o.sl.toNat) (hc : c < 256) : Statement i := by
  have hl := o.sl.isLt
  refine of_w h hs (by decide) (by omega) ?_
  unfold encC
  have := o.kd.isLt
  have := o.k1.isLt
  have := o.k2.isLt
  have := o.k3.isLt
  have := o.xs.isLt
  have := o.xt.isLt
  have := o.xn.isLt
  have := o.mod.isLt
  omega

/-! ### One lemma for each constructor -/

theorem add (o : SrOp) : Statement (.add o) := of_sr rfl rfl (by decide)
theorem sub (o : SrOp) : Statement (.sub o) := of_sr rfl rfl (by decide)
theorem mul (o : SrOp) : Statement (.mul o) := of_sr rfl rfl (by decide)
theorem mulh (o : SrOp) : Statement (.mulh o) := of_sr rfl rfl (by decide)
theorem mulhn (o : SrOp) : Statement (.mulhn o) := of_sr rfl rfl (by decide)
theorem div (o : SrOp) : Statement (.div o) := of_sr rfl rfl (by decide)
theorem divn (o : SrOp) : Statement (.divn o) := of_sr rfl rfl (by decide)
theorem rem (o : SrOp) : Statement (.rem o) := of_sr rfl rfl (by decide)
theorem remn (o : SrOp) : Statement (.remn o) := of_sr rfl rfl (by decide)
theorem and (o : SrOp) : Statement (.and o) := of_sr rfl rfl (by decide)
theorem or (o : SrOp) : Statement (.or o) := of_sr rfl rfl (by decide)
theorem xor (o : SrOp) : Statement (.xor o) := of_sr rfl rfl (by decide)
theorem sll (o : SrOp) : Statement (.sll o) := of_sr rfl rfl (by decide)
theorem srl (o : SrOp) : Statement (.srl o) := of_sr rfl rfl (by decide)
theorem sra (o : SrOp) : Statement (.sra o) := of_sr rfl rfl (by decide)
theorem slt (o : SrOp) : Statement (.slt o) := of_sr rfl rfl (by decide)
theorem sltn (o : SrOp) : Statement (.sltn o) := of_sr rfl rfl (by decide)
theorem min (o : SrOp) : Statement (.min o) := of_sr rfl rfl (by decide)
theorem max (o : SrOp) : Statement (.max o) := of_sr rfl rfl (by decide)
theorem minn (o : SrOp) : Statement (.minn o) := of_sr rfl rfl (by decide)
theorem maxn (o : SrOp) : Statement (.maxn o) := of_sr rfl rfl (by decide)
theorem clz (o : SrOp) : Statement (.clz o) := of_sr rfl rfl (by decide)
theorem ctz (o : SrOp) : Statement (.ctz o) := of_sr rfl rfl (by decide)
theorem popc (o : SrOp) : Statement (.popc o) := of_sr rfl rfl (by decide)
theorem addi (o : SiOp) : Statement (.addi o) := of_si rfl rfl (by decide)
theorem andi (o : SiOp) : Statement (.andi o) := of_si rfl rfl (by decide)
theorem ori (o : SiOp) : Statement (.ori o) := of_si rfl rfl (by decide)
theorem xori (o : SiOp) : Statement (.xori o) := of_si rfl rfl (by decide)
theorem slli (o : SiOp) : Statement (.slli o) := of_si rfl rfl (by decide)
theorem srli (o : SiOp) : Statement (.srli o) := of_si rfl rfl (by decide)
theorem srai (o : SiOp) : Statement (.srai o) := of_si rfl rfl (by decide)
theorem slti (o : SiOp) : Statement (.slti o) := of_si rfl rfl (by decide)
theorem li (o : SlOp) : Statement (.li o) := of_sl rfl rfl (by decide)
theorem lih (o : SlOp) : Statement (.lih o) := of_sl rfl rfl (by decide)
theorem lil (o : SlOp) (imm64 : Word) : Statement (.lil o imm64) := of_sl rfl rfl (by decide)
theorem plx (o : SrOp) : Statement (.plx o) := of_sr rfl rfl (by decide)
theorem plt (o : SrOp) : Statement (.plt o) := of_sr rfl rfl (by decide)
theorem pltPeer (o : SrOp) : Statement (.pltPeer o) := of_sr rfl rfl (by decide)
theorem plr (o : SrOp) : Statement (.plr o) := of_sr rfl rfl (by decide)
theorem padd (o : SrOp) : Statement (.padd o) := of_sr rfl rfl (by decide)
theorem xlook (o : SrOp) : Statement (.xlook o) := of_sr rfl rfl (by decide)
theorem xlookW (o : SrOp) : Statement (.xlookW o) := of_sr rfl rfl (by decide)
theorem widf (o : SiOp) : Statement (.widf o) := of_si rfl rfl (by decide)
theorem talloc (o : SrOp) : Statement (.talloc o) := of_sr rfl rfl (by decide)
theorem tallocHandle (o : SrOp) : Statement (.tallocHandle o) := of_sr rfl rfl (by decide)
theorem tfree (o : SrOp) : Statement (.tfree o) := of_sr rfl rfl (by decide)
theorem tshape (o : SrOp) : Statement (.tshape o) := of_sr rfl rfl (by decide)
theorem tqry (o : SrOp) : Statement (.tqry o) := of_sr rfl rfl (by decide)
theorem beq (o : SbOp) : Statement (.beq o) := of_sb rfl rfl (by decide)
theorem bne (o : SbOp) : Statement (.bne o) := of_sb rfl rfl (by decide)
theorem blt (o : SbOp) : Statement (.blt o) := of_sb rfl rfl (by decide)
theorem bge (o : SbOp) : Statement (.bge o) := of_sb rfl rfl (by decide)
theorem bltn (o : SbOp) : Statement (.bltn o) := of_sb rfl rfl (by decide)
theorem bgen (o : SbOp) : Statement (.bgen o) := of_sb rfl rfl (by decide)
theorem bany (o : SbOp) : Statement (.bany o) := of_sb rfl rfl (by decide)
theorem ball (o : SbOp) : Statement (.ball o) := of_sb rfl rfl (by decide)
theorem bnone (o : SbOp) : Statement (.bnone o) := of_sb rfl rfl (by decide)
theorem j (o : SjOp) : Statement (.j o) := of_sj rfl rfl (by decide)
theorem call (o : SjOp) : Statement (.call o) := of_sj rfl rfl (by decide)
theorem ret (o : SrOp) : Statement (.ret o) := of_sr rfl rfl (by decide)
theorem loopb (o : SjOp) : Statement (.loopb o) := of_sj rfl rfl (by decide)
theorem probe (o : SbOp) : Statement (.probe o) := of_sb rfl rfl (by decide)
theorem kld (o : SkOp) : Statement (.kld o) := of_sk rfl rfl (by decide)
theorem kst (o : SkOp) : Statement (.kst o) := of_sk rfl rfl (by decide)
theorem crr (o : SiOp) : Statement (.crr o) := of_si rfl rfl (by decide)
theorem crw (o : SiOp) : Statement (.crw o) := of_si rfl rfl (by decide)
theorem crs (o : SiOp) : Statement (.crs o) := of_si rfl rfl (by decide)
theorem crc (o : SiOp) : Statement (.crc o) := of_si rfl rfl (by decide)
theorem fence (o : SiOp) : Statement (.fence o) := of_si rfl rfl (by decide)
theorem mark (o : SrOp) : Statement (.mark o) := of_sr rfl rfl (by decide)
theorem trap (o : SiOp) : Statement (.trap o) := of_si rfl rfl (by decide)
theorem brk (o : SiOp) : Statement (.brk o) := of_si rfl rfl (by decide)
theorem halt (o : SrOp) : Statement (.halt o) := of_sr rfl rfl (by decide)
theorem yieldS (o : SrOp) : Statement (.yieldS o) := of_sr rfl rfl (by decide)
theorem calloc (o : SrOp) : Statement (.calloc o) := of_sr rfl rfl (by decide)
theorem callocDie (o : SrOp) : Statement (.callocDie o) := of_sr rfl rfl (by decide)
theorem cfree (o : SrOp) : Statement (.cfree o) := of_sr rfl rfl (by decide)
theorem cadd (o : SgOp) : Statement (.cadd o) := of_sg rfl rfl (by decide)
theorem cwait (o : SrOp) : Statement (.cwait o) := of_sr rfl rfl (by decide)
theorem crd (o : SrOp) : Statement (.crd o) := of_sr rfl rfl (by decide)
theorem atom (o : SgOp) : Statement (.atom o) := of_sg rfl rfl (by decide)
theorem launch (o : SrOp) : Statement (.launch o) := of_sr rfl rfl (by decide)
theorem kstat (o : SrOp) : Statement (.kstat o) := of_sr rfl rfl (by decide)
theorem qctlQuery (o : SrOp) : Statement (.qctlQuery o) := of_sr rfl rfl (by decide)
theorem qctlSetmode (o : SrOp) : Statement (.qctlSetmode o) := of_sr rfl rfl (by decide)
theorem qctlDrain (o : SrOp) : Statement (.qctlDrain o) := of_sr rfl rfl (by decide)
theorem qctlHalt (o : SrOp) : Statement (.qctlHalt o) := of_sr rfl rfl (by decide)
theorem qctlResume (o : SrOp) : Statement (.qctlResume o) := of_sr rfl rfl (by decide)
theorem qctlAbort (o : SrOp) : Statement (.qctlAbort o) := of_sr rfl rfl (by decide)
theorem qctlReset (o : SrOp) : Statement (.qctlReset o) := of_sr rfl rfl (by decide)
theorem gopen (o : SrOp) : Statement (.gopen o) := of_sr rfl rfl (by decide)
theorem gcommit (o : SrOp) : Statement (.gcommit o) := of_sr rfl rfl (by decide)
theorem gabort (o : SrOp) : Statement (.gabort o) := of_sr rfl rfl (by decide)
theorem gstat (o : SrOp) : Statement (.gstat o) := of_sr rfl rfl (by decide)
theorem colrdy (o : SrOp) : Statement (.colrdy o) := of_sr rfl rfl (by decide)
theorem vadd (o : VrOp) : Statement (.vadd o) := of_vr rfl rfl (by decide)
theorem vsub (o : VrOp) : Statement (.vsub o) := of_vr rfl rfl (by decide)
theorem vadds (o : VrOp) : Statement (.vadds o) := of_vr rfl rfl (by decide)
theorem vsubs (o : VrOp) : Statement (.vsubs o) := of_vr rfl rfl (by decide)
theorem vmul (o : VrOp) : Statement (.vmul o) := of_vr rfl rfl (by decide)
theorem vmulh (o : VrOp) : Statement (.vmulh o) := of_vr rfl rfl (by decide)
theorem vmad (o : VrOp) : Statement (.vmad o) := of_vr rfl rfl (by decide)
theorem vabsd (o : VrOp) : Statement (.vabsd o) := of_vr rfl rfl (by decide)
theorem vmin (o : VrOp) : Statement (.vmin o) := of_vr rfl rfl (by decide)
theorem vmax (o : VrOp) : Statement (.vmax o) := of_vr rfl rfl (by decide)
theorem vand (o : VrOp) : Statement (.vand o) := of_vr rfl rfl (by decide)
theorem vor (o : VrOp) : Statement (.vor o) := of_vr rfl rfl (by decide)
theorem vxor (o : VrOp) : Statement (.vxor o) := of_vr rfl rfl (by decide)
theorem vbit (o : VrOp) : Statement (.vbit o) := of_vr rfl rfl (by decide)
theorem vshl (o : VrOp) : Statement (.vshl o) := of_vr rfl rfl (by decide)
theorem vshr (o : VrOp) : Statement (.vshr o) := of_vr rfl rfl (by decide)
theorem vcmp (o : VrOp) : Statement (.vcmp o) := of_vr rfl rfl (by decide)
theorem vsel (o : VgOp) : Statement (.vsel o) := of_vg rfl rfl (by decide)
theorem vfadd (o : VrOp) : Statement (.vfadd o) := of_vr rfl rfl (by decide)
theorem vfsub (o : VrOp) : Statement (.vfsub o) := of_vr rfl rfl (by decide)
theorem vfmul (o : VrOp) : Statement (.vfmul o) := of_vr rfl rfl (by decide)
theorem vfma (o : VrOp) : Statement (.vfma o) := of_vr rfl rfl (by decide)
theorem vfmin (o : VrOp) : Statement (.vfmin o) := of_vr rfl rfl (by decide)
theorem vfmax (o : VrOp) : Statement (.vfmax o) := of_vr rfl rfl (by decide)
theorem vfcmp (o : VrOp) : Statement (.vfcmp o) := of_vr rfl rfl (by decide)
theorem vfrcp (o : VrOp) : Statement (.vfrcp o) := of_vr rfl rfl (by decide)
theorem vfrsq (o : VrOp) : Statement (.vfrsq o) := of_vr rfl rfl (by decide)
theorem vfexp2 (o : VrOp) : Statement (.vfexp2 o) := of_vr rfl rfl (by decide)
theorem vflog2 (o : VrOp) : Statement (.vflog2 o) := of_vr rfl rfl (by decide)
theorem vfsgn (o : VrOp) : Statement (.vfsgn o) := of_vr rfl rfl (by decide)
theorem vcvt (o : VrOp) : Statement (.vcvt o) := of_vr rfl rfl (by decide)
theorem vtag (o : VrOp) : Statement (.vtag o) := of_vr rfl rfl (by decide)
theorem vbfpq (o : VrOp) : Statement (.vbfpq o) := of_vr rfl rfl (by decide)
theorem vbfpd (o : VrOp) : Statement (.vbfpd o) := of_vr rfl rfl (by decide)
theorem vplane (o : VrOp) : Statement (.vplane o) := of_vr rfl rfl (by decide)
theorem vunpl (o : VrOp) : Statement (.vunpl o) := of_vr rfl rfl (by decide)
theorem vokey (o : VrOp) : Statement (.vokey o) := of_vr rfl rfl (by decide)
theorem vpadd (o : VrOp) : Statement (.vpadd o) := of_vr rfl rfl (by decide)
theorem vpdot (o : VrOp) : Statement (.vpdot o) := of_vr rfl rfl (by decide)
theorem vpshl (o : VrOp) : Statement (.vpshl o) := of_vr rfl rfl (by decide)
theorem vred (o : VrOp) : Statement (.vred o) := of_vr rfl rfl (by decide)
theorem vscan (o : VrOp) : Statement (.vscan o) := of_vr rfl rfl (by decide)
theorem vperm (o : VrOp) : Statement (.vperm o) := of_vr rfl rfl (by decide)
theorem vslide (o : VxOp) : Statement (.vslide o) := of_vx rfl rfl (by decide)
theorem vbcast (o : VxOp) : Statement (.vbcast o) := of_vx rfl rfl (by decide)
theorem vbcastElement (o : VxOp) : Statement (.vbcastElement o) := of_vx rfl rfl (by decide)
theorem viota (o : VxOp) : Statement (.viota o) := of_vx rfl rfl (by decide)
theorem vextr (o : VxOp) : Statement (.vextr o) := of_vx rfl rfl (by decide)
theorem vins (o : VxOp) : Statement (.vins o) := of_vx rfl rfl (by decide)
theorem vmov (o : VrOp) : Statement (.vmov o) := of_vr rfl rfl (by decide)
theorem vld (o : VmOp) : Statement (.vld o) := of_vm rfl rfl (by decide)
theorem vst (o : VmOp) : Statement (.vst o) := of_vm rfl rfl (by decide)
theorem vlde (o : VmOp) : Statement (.vlde o) := of_vm rfl rfl (by decide)
theorem vste (o : VmOp) : Statement (.vste o) := of_vm rfl rfl (by decide)
theorem vgth (o : VxOp) : Statement (.vgth o) := of_vx rfl rfl (by decide)
theorem vsct (o : VxOp) : Statement (.vsct o) := of_vx rfl rfl (by decide)
theorem vldm (o : VmOp) : Statement (.vldm o) := of_vm rfl rfl (by decide)
theorem vstm (o : VmOp) : Statement (.vstm o) := of_vm rfl rfl (by decide)
theorem vkld (o : VkOp) : Statement (.vkld o) := of_vk rfl rfl (by decide)
theorem vkst (o : VkOp) : Statement (.vkst o) := of_vk rfl rfl (by decide)
theorem pand (o : VrOp) : Statement (.pand o) := of_vr rfl rfl (by decide)
theorem por (o : VrOp) : Statement (.por o) := of_vr rfl rfl (by decide)
theorem pxor (o : VrOp) : Statement (.pxor o) := of_vr rfl rfl (by decide)
theorem pnot (o : VrOp) : Statement (.pnot o) := of_vr rfl rfl (by decide)
theorem pcnt (o : VrOp) : Statement (.pcnt o) := of_vr rfl rfl (by decide)
theorem pfirst (o : VrOp) : Statement (.pfirst o) := of_vr rfl rfl (by decide)
theorem pset (o : VrOp) : Statement (.pset o) := of_vr rfl rfl (by decide)
theorem pmov (o : VrOp) : Statement (.pmov o) := of_vr rfl rfl (by decide)
theorem lsclr (o : VrOp) : Statement (.lsclr o) := of_vr rfl rfl (by decide)
theorem lsins (o : VrOp) : Statement (.lsins o) := of_vr rfl rfl (by decide)
theorem lsrd (o : VrOp) : Statement (.lsrd o) := of_vr rfl rfl (by decide)
theorem vhist (o : VrOp) : Statement (.vhist o) := of_vr rfl rfl (by decide)
theorem mlease (o : MOp) : Statement (.mlease o) := of_m rfl rfl (by decide)
theorem mrel (o : MOp) : Statement (.mrel o) := of_m rfl rfl (by decide)
theorem mmode (o : MOp) : Statement (.mmode o) := of_m rfl rfl (by decide)
theorem mloadp (o : MOp) : Statement (.mloadp o) := of_m rfl rfl (by decide)
theorem mflow (o : MOp) : Statement (.mflow o) := of_m rfl rfl (by decide)
theorem mskew (o : MOp) : Statement (.mskew o) := of_m rfl rfl (by decide)
theorem mclr (o : MOp) : Statement (.mclr o) := of_m rfl rfl (by decide)
theorem mpre (o : MOp) : Statement (.mpre o) := of_m rfl rfl (by decide)
theorem mfeed (o : MOp) : Statement (.mfeed o) := of_m rfl rfl (by decide)
theorem mfeedr (o : MOp) : Statement (.mfeedr o) := of_m rfl rfl (by decide)
theorem mdrain (o : MOp) : Statement (.mdrain o) := of_m rfl rfl (by decide)
theorem mstat (o : MOp) : Statement (.mstat o) := of_m rfl rfl (by decide)
theorem mresume (o : MOp) : Statement (.mresume o) := of_m rfl rfl (by decide)
theorem cpy (o : COp) : Statement (.cpy o) := of_c rfl rfl (by decide)
theorem cpyt (o : COp) : Statement (.cpyt o) := of_c rfl rfl (by decide)
theorem cpys (o : COp) : Statement (.cpys o) := of_c rfl rfl (by decide)
theorem gth (o : COp) : Statement (.gth o) := of_c rfl rfl (by decide)
theorem sct (o : COp) : Statement (.sct o) := of_c rfl rfl (by decide)
theorem cpyg (o : COp) : Statement (.cpyg o) := of_c rfl rfl (by decide)
theorem sbind (o : COp) : Statement (.sbind o) := of_c rfl rfl (by decide)
theorem sunb (o : COp) : Statement (.sunb o) := of_c rfl rfl (by decide)
theorem radv (o : COp) : Statement (.radv o) := of_c rfl rfl (by decide)
theorem pfill (o : COp) : Statement (.pfill o) := of_c rfl rfl (by decide)
theorem pwb (o : COp) : Statement (.pwb o) := of_c rfl rfl (by decide)
theorem pinv (o : COp) : Statement (.pinv o) := of_c rfl rfl (by decide)
theorem cxadd (o : COp) : Statement (.cxadd o) := of_c rfl rfl (by decide)
theorem cwaite (o : COp) : Statement (.cwaite o) := of_c rfl rfl (by decide)
theorem fetchLine (b va : Nat) : Statement (.fetchLine b va) := of_none rfl
theorem bundleDispatch (b : Nat) : Statement (.bundleDispatch b) := of_none rfl
theorem stickyIssue (b slot : Nat) : Statement (.stickyIssue b slot) := of_none rfl
theorem cwaitSwitchCount (b : Nat) : Statement (.cwaitSwitchCount b) := of_none rfl
theorem mleaseSwitchCount (b : Nat) : Statement (.mleaseSwitchCount b) := of_none rfl
theorem bankHandover (core : Nat) : Statement (.bankHandover core) := of_none rfl
theorem preemptAtSafePoint (b : Nat) : Statement (.preemptAtSafePoint b) := of_none rfl
theorem pendingEventRecordWrite (area : Area) (die : Nat) : Statement (.pendingEventRecordWrite area die) := of_none rfl
theorem loadDataReturn (die line : Nat) : Statement (.loadDataReturn die line) := of_none rfl
theorem storePerform (b : Nat) : Statement (.storePerform b) := of_none rfl
theorem sectorReservationRequest (b : Nat) : Statement (.sectorReservationRequest b) := of_none rfl
theorem writeThroughArrival (src home : Nat) : Statement (.writeThroughArrival src home) := of_none rfl
theorem writeThroughAck (src home : Nat) : Statement (.writeThroughAck src home) := of_none rfl
theorem farCacheAgeExpiry (die line : Nat) : Statement (.farCacheAgeExpiry die line) := of_none rfl
theorem blockWrite (lv : Level) (addr : Nat) (data : List Byte) : Statement (.blockWrite lv addr data) := of_none rfl
theorem retrieverRun (die : Nat) : Statement (.retrieverRun die) := of_none rfl
theorem resampleInterval (die : Nat) : Statement (.resampleInterval die) := of_none rfl
theorem learningPhaseEnd (die : Nat) : Statement (.learningPhaseEnd die) := of_none rfl
theorem tableWaitExpiry (die : Nat) : Statement (.tableWaitExpiry die) := of_none rfl
theorem cmpWatermarkWrite (die : Nat) (w : Watermark) (v : Nat) : Statement (.cmpWatermarkWrite die w v) := of_none rfl
theorem dirtyDSet (ctx va : Nat) : Statement (.dirtyDSet ctx va) := of_none rfl
theorem pteWrite (ctx va : Nat) (entry : Word) : Statement (.pteWrite ctx va entry) := of_none rfl
theorem invalidationCommand (ctx va : Nat) : Statement (.invalidationCommand ctx va) := of_none rfl
theorem pageEvict (ctx va : Nat) (slot : EvictSlot) : Statement (.pageEvict ctx va slot) := of_none rfl
theorem pageReturn (ctx va frame : Nat) : Statement (.pageReturn ctx va frame) := of_none rfl
theorem migrate (ctx va frame : Nat) : Statement (.migrate ctx va frame) := of_none rfl
theorem migrationCopyComplete (ctx va : Nat) : Statement (.migrationCopyComplete ctx va) := of_none rfl
theorem migrationInvalidateComplete (ctx va : Nat) : Statement (.migrationInvalidateComplete ctx va) := of_none rfl
theorem migrationCancel (ctx va : Nat) : Statement (.migrationCancel ctx va) := of_none rfl
theorem split (ctx va table : Nat) (r w wp : Option Bool) : Statement (.split ctx va table r w wp) := of_none rfl
theorem splitComplete (ctx va : Nat) : Statement (.splitComplete ctx va) := of_none rfl
theorem launchAcceptance (ctx : Nat) : Statement (.launchAcceptance ctx) := of_none rfl
theorem hlwGo (fn : Nat) (v : Word) : Statement (.hlwGo fn v) := of_none rfl
theorem dependenceTranslation (ctx k d : Nat) : Statement (.dependenceTranslation ctx k d) := of_none rfl
theorem agingInterval (ctx q : Nat) : Statement (.agingInterval ctx q) := of_none rfl
theorem kernelSelect (ctx : Nat) : Statement (.kernelSelect ctx) := of_none rfl
theorem regionTranslationEnd (ctx k : Nat) : Statement (.regionTranslationEnd ctx k) := of_none rfl
theorem taskPlace (ctx k : Nat) (on : List (Nat × Nat)) : Statement (.taskPlace ctx k on) := of_none rfl
theorem waitLimitSwapout (b : Nat) : Statement (.waitLimitSwapout b) := of_none rfl
theorem taskEnd (b : Nat) : Statement (.taskEnd b) := of_none rfl
theorem counterTreeComplete (ctx k : Nat) : Statement (.counterTreeComplete ctx k) := of_none rfl
theorem completionAddPerformed (ctx k : Nat) : Statement (.completionAddPerformed ctx k) := of_none rfl
theorem counterAdd (die : Nat) : Statement (.counterAdd die) := of_none rfl
theorem waiterRegister (die : Nat) : Statement (.waiterRegister die) := of_none rfl
theorem waiterResendTimer (die : Nat) : Statement (.waiterResendTimer die) := of_none rfl
theorem cwaitBoundExpiry (b : Nat) : Statement (.cwaitBoundExpiry b) := of_none rfl
theorem hcaAdd (fn : Nat) (v : Word) : Statement (.hcaAdd fn v) := of_none rfl
theorem hcaVal (fn : Nat) : Statement (.hcaVal fn) := of_none rfl
theorem hostWrite (fn addr : Nat) (data : List Byte) : Statement (.hostWrite fn addr data) := of_none rfl
theorem hostRead (fn addr len : Nat) : Statement (.hostRead fn addr len) := of_none rfl
theorem engineOpStart (b op : Nat) : Statement (.engineOpStart b op) := of_none rfl
theorem engineItem (b op : Nat) : Statement (.engineItem b op) := of_none rfl
theorem engineOpComplete (b op : Nat) : Statement (.engineOpComplete b op) := of_none rfl
theorem streamFillItem (b st : Nat) : Statement (.streamFillItem b st) := of_none rfl
theorem streamDrainItem (b st : Nat) : Statement (.streamDrainItem b st) := of_none rfl
theorem probeFillComplete (b row : Nat) : Statement (.probeFillComplete b row) := of_none rfl
theorem millCommandStart (b : Nat) : Statement (.millCommandStart b) := of_none rfl
theorem millCommandComplete (b : Nat) : Statement (.millCommandComplete b) := of_none rfl
theorem mdrainCapture (b : Nat) : Statement (.mdrainCapture b) := of_none rfl
theorem leaseCountLimit (mg : Nat) : Statement (.leaseCountLimit mg) := of_none rfl
theorem leaseIdleLimit (mg : Nat) : Statement (.leaseIdleLimit mg) := of_none rfl
theorem pairWindow (mg : Nat) : Statement (.pairWindow mg) := of_none rfl
theorem weirStageLine (die : Nat) (g : GroupName) (l : StagedLine) : Statement (.weirStageLine die g l) := of_none rfl
theorem weirPrepare (die : Nat) : Statement (.weirPrepare die) := of_none rfl
theorem readyReport (die : Nat) : Statement (.readyReport die) := of_none rfl
theorem weirRefusal (die : Nat) : Statement (.weirRefusal die) := of_none rfl
theorem weirCommitPacket (die : Nat) : Statement (.weirCommitPacket die) := of_none rfl
theorem weirDiscard (die : Nat) : Statement (.weirDiscard die) := of_none rfl
theorem publicationReport (die : Nat) : Statement (.publicationReport die) := of_none rfl
theorem discardReport (die : Nat) : Statement (.discardReport die) := of_none rfl
theorem prepareTimeout (die idx : Nat) : Statement (.prepareTimeout die idx) := of_none rfl
theorem weirQueryTimeout (die : Nat) (g : GroupName) : Statement (.weirQueryTimeout die g) := of_none rfl
theorem groupQuery (die : Nat) : Statement (.groupQuery die) := of_none rfl
theorem remoteRequest (die : Nat) : Statement (.remoteRequest die) := of_none rfl
theorem fabricPacketReceive (p : Packet) : Statement (.fabricPacketReceive p) := of_none rfl
theorem ethernetFrameReceive (port etherType : Nat) (p : Packet) : Statement (.ethernetFrameReceive port etherType p) := of_none rfl
theorem gatewayRetryTimeout (dst : NodePair) (vc seq : Nat) : Statement (.gatewayRetryTimeout dst vc seq) := of_none rfl
theorem flitGroupReceive (link : Nat) (vc : VcWay) (counter : Nat) (tagOk : Bool) : Statement (.flitGroupReceive link vc counter tagOk) := of_none rfl
theorem rekeyDeadline (link : Nat) (vc : VcWay) : Statement (.rekeyDeadline link vc) := of_none rfl
theorem keyload (link : Nat) (vc : VcWay) (recv : Bool) (key : BitVec 256) (salt : BitVec 32) (s : Nat) : Statement (.keyload link vc recv key salt s) := of_none rfl
theorem vcreset (link : Nat) (vc : VcWay) : Statement (.vcreset link vc) := of_none rfl
theorem lnkVcpWrite (link : Nat) (v : Word) : Statement (.lnkVcpWrite link v) := of_none rfl
theorem linkTrainingEnd (link : Nat) (r : Training) (lanes : Nat) : Statement (.linkTrainingEnd link r lanes) := of_none rfl
theorem linkLaneLoss (link lanes : Nat) : Statement (.linkLaneLoss link lanes) := of_none rfl
theorem linkLanesRestored (link : Nat) : Statement (.linkLanesRestored link) := of_none rfl
theorem linkDown (link : Nat) : Statement (.linkDown link) := of_none rfl
theorem linkRetrain (link : Nat) : Statement (.linkRetrain link) := of_none rfl
theorem windowOpen (ctx n : Nat) (v : Word) : Statement (.windowOpen ctx n v) := of_none rfl
theorem colset (ctx entry : Nat) (r : List Byte) : Statement (.colset ctx entry r) := of_none rfl
theorem colclr (ctx entry : Nat) : Statement (.colclr ctx entry) := of_none rfl
theorem chunkLineReceive (ctx entry rank step seq : Nat) (data : List Byte) : Statement (.chunkLineReceive ctx entry rank step seq data) := of_none rfl
theorem releaseReport (ctx entry rank : Nat) (step : FiringStep) : Statement (.releaseReport ctx entry rank step) := of_none rfl
theorem sourceReadComplete (ctx entry : Nat) : Statement (.sourceReadComplete ctx entry) := of_none rfl
theorem finishReport (ctx entry rank r : Nat) : Statement (.finishReport ctx entry rank r) := of_none rfl
theorem failureNotice (ctx entry rank : Nat) : Statement (.failureNotice ctx entry rank) := of_none rfl
theorem collectiveTimeout (ctx entry : Nat) : Statement (.collectiveTimeout ctx entry) := of_none rfl
theorem ctxCreate (c : Nat) : Statement (.ctxCreate c) := of_none rfl
theorem ctxReady (c : Nat) : Statement (.ctxReady c) := of_none rfl
theorem place (c : Nat) (clusters : List Nat) : Statement (.place c clusters) := of_none rfl
theorem swapOut (c : Nat) : Statement (.swapOut c) := of_none rfl
theorem swapIn (c : Nat) (clusters : List Nat) : Statement (.swapIn c clusters) := of_none rfl
theorem contextHalt (c timeout : Nat) : Statement (.contextHalt c timeout) := of_none rfl
theorem haltSequenceComplete (c : Nat) : Statement (.haltSequenceComplete c) := of_none rfl
theorem haltTimeout (c : Nat) : Statement (.haltTimeout c) := of_none rfl
theorem image (c addr : Nat) (host : Bool) : Statement (.image c addr host) := of_none rfl
theorem ctxContinue (c : Nat) : Statement (.ctxContinue c) := of_none rfl
theorem restore (c addr : Nat) (host : Bool) (clusters : List Nat) (root fa : Word) : Statement (.restore c addr host clusters root fa) := of_none rfl
theorem restoreLoadComplete (c : Nat) : Statement (.restoreLoadComplete c) := of_none rfl
theorem ctxDestroy (c : Nat) : Statement (.ctxDestroy c) := of_none rfl
theorem contextReleased (c : Nat) : Statement (.contextReleased c) := of_none rfl
theorem fdispResume (area : Area) (seq : Nat) : Statement (.fdispResume area seq) := of_none rfl
theorem fdispRetry (area : Area) (seq : Nat) : Statement (.fdispRetry area seq) := of_none rfl
theorem fdispTerminateKernel (area : Area) (seq : Nat) : Statement (.fdispTerminateKernel area seq) := of_none rfl
theorem fdispTerminateContext (area : Area) (seq : Nat) : Statement (.fdispTerminateContext area seq) := of_none rfl
theorem memTestGo (die : Nat) (v : Word) : Statement (.memTestGo die v) := of_none rfl
theorem parkingComplete (die : Nat) : Statement (.parkingComplete die) := of_none rfl
theorem bankTestComplete (die : Nat) (pass : Bool) : Statement (.bankTestComplete die pass) := of_none rfl
theorem restoringComplete (die : Nat) : Statement (.restoringComplete die) := of_none rfl
theorem rowSwap (die unit bank row : Nat) : Statement (.rowSwap die unit bank row) := of_none rfl
theorem refreshWindowEnd (die : Nat) : Statement (.refreshWindowEnd die) := of_none rfl
theorem pcieResetDeassert : Statement (.pcieResetDeassert) := of_none rfl
theorem bootStageComplete (r : StageResult) : Statement (.bootStageComplete r) := of_none rfl
theorem bootTimeout : Statement (.bootTimeout) := of_none rfl
theorem bootstatRead : Statement (.bootstatRead) := of_none rfl
theorem flashWr (slot : Nat) (img : FlashSlot) : Statement (.flashWr slot img) := of_none rfl
theorem restart : Statement (.restart) := of_none rfl
theorem getVersion : Statement (.getVersion) := of_none rfl
theorem getCapabilities : Statement (.getCapabilities) := of_none rfl
theorem negotiateAlgorithms (req : List Byte) : Statement (.negotiateAlgorithms req) := of_none rfl
theorem getDigests : Statement (.getDigests) := of_none rfl
theorem getCertificate (off len : Nat) : Statement (.getCertificate off len) := of_none rfl
theorem challenge (nonce : List Byte) : Statement (.challenge nonce) := of_none rfl
theorem getMeasurements (idx : MeasRequest) : Statement (.getMeasurements idx) := of_none rfl
theorem correctedError (die : Nat) (k : ErrorFound) : Statement (.correctedError die k) := of_none rfl
theorem clockStepSet (die step : Nat) : Statement (.clockStepSet die step) := of_none rfl
theorem thermalThrottle (die : Nat) : Statement (.thermalThrottle die) := of_none rfl
theorem thermalRecover (die : Nat) : Statement (.thermalRecover die) := of_none rfl
theorem thermalTrip (die : Nat) : Statement (.thermalTrip die) := of_none rfl
theorem registerWrite (r : MReg) (v : Word) : Statement (.registerWrite r v) := of_none rfl
theorem pcieResetAssert : Statement (.pcieResetAssert) := of_none rfl
theorem fabricVcPause (port vc : Nat) (raised : Bool) : Statement (.fabricVcPause port vc raised) := of_none rfl
theorem bankRefresh (die unit bank : Nat) : Statement (.bankRefresh die unit bank) := of_none rfl
theorem dirtyRoundStart (ctx : Nat) : Statement (.dirtyRoundStart ctx) := of_none rfl

end Sys2Proof.Laws.Width
end

