-- ==== Sys2Proof/Tests/Slice0.lean ====
section
/-! SUPPORT. The model's own tests: words written out from the encodings of R70 to R75 and what the decoder reads from them, ill-formed
terms that WellFormed refuses, single steps with values worked out by hand from the rules, and for every statement that has
hypotheses a concrete state and operands that meet them (witness_ and the statement's name). -/

namespace Sys2Proof.Tests
open Sys2Proof Sys2Proof.Machine Sys2Proof.Claims
set_option Elab.async false

/-- Whether a computation answers. -/
def answers {ε α : Type} (m : Except ε α) : Bool :=
  match m with
  | .ok _ => true
  | .error _ => false

theorem answers_ok {ε α : Type} {m : Except ε α} (h : answers m = true) : ∃ x, m = .ok x := by
  cases m with
  | ok x => exact ⟨x, rfl⟩
  | error e => simp [answers] at h

/-- A computation answers, and its answer passes a check. -/
def okAnd {ε α : Type} (m : Except ε α) (d : α → Bool) : Bool :=
  match m with
  | .ok x => d x
  | .error _ => false

theorem okAnd_ex {ε α : Type} {m : Except ε α} {d : α → Bool} {P : α → Prop} (h : okAnd m d = true) (hd : ∀ a, d a = true → P a) :
    ∃ a, m = .ok a ∧ P a := by
  cases m with
  | ok x => exact ⟨x, rfl, hd x h⟩
  | error e => simp [okAnd] at h

theorem okAnd_eq {ε α : Type} [DecidableEq α] {m : Except ε α} {x : α} (h : okAnd m (fun y => decide (y = x)) = true) : m = .ok x := by
  obtain ⟨y, hm, rfl⟩ := okAnd_ex h fun y h => of_decide_eq_true h
  exact hm

theorem answers_step {ε α β : Type} {m : Except ε α} {f : α → Except ε β} (a : α) (h : m = .ok a) (hf : answers (f a) = true) :
    answers (m >>= f) = true := by
  subst h; exact hf

/-- Every row of a list of words, in bits, reads as the instruction beside it. -/
def readsAll (l : List (Nat × Nat × Instr)) : Bool := l.all fun r => decodeTableWord r.1 r.2.1 == some r.2.2

/-- Every term of a list is refused by the check. -/
def refusesAll (l : List Instr) : Bool := l.all fun i => !WellFormed i

/-- The bytes of a number are rejected as a bundle with that name. -/
def rejects (n w : Nat) (e : DecodeError) : Bool :=
  match decodeBundle (leBytes n w) with
  | .ok _ => false
  | .error x => x == e

/-! ### Words written out from the encodings -/

theorem test_decode_sr1 : readsAll
    [ (64, 0x10D1A8000000100, .add ⟨3, 0x11, 0x2a, 0⟩),
      (64, 0x20D1A8000000100, .sub ⟨3, 0x11, 0x2a, 0⟩),
      (64, 0x30D1A8000000100, .mul ⟨3, 0x11, 0x2a, 0⟩),
      (64, 0x40D1A8000000100, .mulh ⟨3, 0x11, 0x2a, 0⟩),
      (64, 0x50D1A8000000100, .mulhn ⟨3, 0x11, 0x2a, 0⟩),
      (64, 0x60D1A8000000100, .div ⟨3, 0x11, 0x2a, 0⟩),
      (64, 0x70D1A8000000100, .divn ⟨3, 0x11, 0x2a, 0⟩),
      (64, 0x80D1A8000000100, .rem ⟨3, 0x11, 0x2a, 0⟩),
      (64, 0x90D1A8000000100, .remn ⟨3, 0x11, 0x2a, 0⟩),
      (64, 0xA0D1A8000000100, .and ⟨3, 0x11, 0x2a, 0⟩) ] = true := by decide

theorem test_decode_sr2 : readsAll
    [ (64, 0xB0D1A8000000100, .or ⟨3, 0x11, 0x2a, 0⟩),
      (64, 0xC0D1A8000000100, .xor ⟨3, 0x11, 0x2a, 0⟩),
      (64, 0xD0D1A8000000100, .sll ⟨3, 0x11, 0x2a, 0⟩),
      (64, 0xE0D1A8000000100, .srl ⟨3, 0x11, 0x2a, 0⟩),
      (64, 0xF0D1A8000000100, .sra ⟨3, 0x11, 0x2a, 0⟩),
      (64, 0x100D1A8000000100, .slt ⟨3, 0x11, 0x2a, 0⟩),
      (64, 0x110D1A8000000100, .sltn ⟨3, 0x11, 0x2a, 0⟩),
      (64, 0x120D1A8000000100, .min ⟨3, 0x11, 0x2a, 0⟩),
      (64, 0x130D1A8000000100, .max ⟨3, 0x11, 0x2a, 0⟩),
      (64, 0x140D1A8000000100, .minn ⟨3, 0x11, 0x2a, 0⟩) ] = true := by decide

theorem test_decode_sr3 : readsAll
    [ (64, 0x150D1A8000000100, .maxn ⟨3, 0x11, 0x2a, 0⟩),
      (64, 0x160D100000000100, .clz ⟨3, 0x11, 0, 0⟩),
      (64, 0x170D100000000100, .ctz ⟨3, 0x11, 0, 0⟩),
      (64, 0x180D100000000100, .popc ⟨3, 0x11, 0, 0⟩),
      (64, 0x300D1A8900000100, .plx ⟨3, 0x11, 0x2a, 9⟩),
      (64, 0x310D1A8000000100, .plt ⟨3, 0x11, 0x2a, 0⟩),
      (64, 0x320D1A8500000100, .plr ⟨3, 0x11, 0x2a, 5⟩),
      (64, 0x330D1A8000000100, .padd ⟨3, 0x11, 0x2a, 0⟩),
      (64, 0x340D100000000100, .xlook ⟨3, 0x11, 0, 0⟩),
      (64, 0x360D100000000100, .talloc ⟨3, 0x11, 0, 0⟩) ] = true := by decide

theorem test_decode_sr4 : readsAll
    [ (64, 0x3701100000000100, .tfree ⟨0, 0x11, 0, 0⟩),
      (64, 0x38011A8000000100, .tshape ⟨0, 0x11, 0x2a, 0⟩),
      (64, 0x390D100600000100, .tqry ⟨3, 0x11, 0, 6⟩),
      (64, 0x4B01100000000100, .ret ⟨0, 0x11, 0, 0⟩),
      (64, 0x570C000000000100, .mark ⟨3, 0, 0, 0⟩),
      (64, 0x5A00000100000100, .halt ⟨0, 0, 0, 1⟩),
      (64, 0x5B00000000000100, .yieldS ⟨0, 0, 0, 0⟩),
      (64, 0x600D100000000100, .calloc ⟨3, 0x11, 0, 0⟩),
      (64, 0x6101100000000100, .cfree ⟨0, 0x11, 0, 0⟩),
      (96, 0x630D1A820000000040000100, .cwait ⟨3, 0x11, 0x2a, 2⟩) ] = true := by decide

theorem test_decode_sr5 : readsAll
    [ (64, 0x640D100000000100, .crd ⟨3, 0x11, 0, 0⟩),
      (64, 0x700D1A8000000100, .launch ⟨3, 0x11, 0x2a, 0⟩),
      (64, 0x710D100000000100, .kstat ⟨3, 0x11, 0, 0⟩),
      (64, 0x720D1A8000000100, .qctlQuery ⟨3, 0x11, 0x2a, 0⟩),
      (64, 0x730D100700000100, .gopen ⟨3, 0x11, 0, 7⟩),
      (64, 0x740D100000000100, .gcommit ⟨3, 0x11, 0, 0⟩),
      (64, 0x750D100000000100, .gabort ⟨3, 0x11, 0, 0⟩),
      (64, 0x760D100000000100, .gstat ⟨3, 0x11, 0, 0⟩),
      (64, 0x770D100000000100, .colrdy ⟨3, 0x11, 0, 0⟩),
      (64, 0x310D1AA900000100, .pltPeer ⟨3, 0x11, 0x2a, 0x29⟩) ] = true := by decide

theorem test_decode_sr6 : readsAll
    [ (64, 0x340D100100000100, .xlookW ⟨3, 0x11, 0, 1⟩),
      (64, 0x360D1A8100000100, .tallocHandle ⟨3, 0x11, 0x2a, 1⟩),
      (64, 0x600D1A8100000100, .callocDie ⟨3, 0x11, 0x2a, 1⟩),
      (64, 0x720D1A8100000100, .qctlSetmode ⟨3, 0x11, 0x2a, 1⟩),
      (64, 0x720D1A8200000100, .qctlDrain ⟨3, 0x11, 0x2a, 2⟩),
      (64, 0x720D1A8300000100, .qctlHalt ⟨3, 0x11, 0x2a, 3⟩),
      (64, 0x720D1A8400000100, .qctlResume ⟨3, 0x11, 0x2a, 4⟩),
      (64, 0x720D1A8500000100, .qctlAbort ⟨3, 0x11, 0x2a, 5⟩),
      (64, 0x720D1A8600000100, .qctlReset ⟨3, 0x11, 0x2a, 6⟩) ] = true := by decide

theorem test_decode_si1 : readsAll
    [ (64, 0x20161ABC00000100, .addi ⟨5, 0x21, 0xabc⟩),
      (64, 0x21161ABC00000100, .andi ⟨5, 0x21, 0xabc⟩),
      (64, 0x22161ABC00000100, .ori ⟨5, 0x21, 0xabc⟩),
      (64, 0x23161ABC00000100, .xori ⟨5, 0x21, 0xabc⟩),
      (64, 0x24161ABC00000100, .slli ⟨5, 0x21, 0xabc⟩),
      (64, 0x25161ABC00000100, .srli ⟨5, 0x21, 0xabc⟩),
      (64, 0x26161ABC00000100, .srai ⟨5, 0x21, 0xabc⟩),
      (64, 0x27161ABC00000100, .slti ⟨5, 0x21, 0xabc⟩),
      (64, 0x3516100600000100, .widf ⟨5, 0x21, 6⟩),
      (64, 0x5214010300000100, .crr ⟨5, 0, 0x103⟩) ] = true := by decide

theorem test_decode_si2 : readsAll
    [ (64, 0x53161ABC00000100, .crw ⟨5, 0x21, 0xabc⟩),
      (64, 0x54161ABC00000100, .crs ⟨5, 0x21, 0xabc⟩),
      (64, 0x55161ABC00000100, .crc ⟨5, 0x21, 0xabc⟩),
      (64, 0x5600003200000100, .fence ⟨0, 0, 0x32⟩),
      (64, 0x58021ABC00000100, .trap ⟨0, 0x21, 0xabc⟩),
      (64, 0x59000ABC00000100, .brk ⟨0, 0, 0xabc⟩) ] = true := by decide

theorem test_decode_sl : readsAll
    [ (64, 0x28FABCDE00000100, .li ⟨0x3e, 0x2bcde⟩),
      (64, 0x29FABCDE00000100, .lih ⟨0x3e, 0x2bcde⟩),
      (128, 0x2AF800000123456789ABCDEF80000100, .lil ⟨0x3e, 0⟩ 0x0123456789ABCDEF) ] = true := by decide

theorem test_decode_sb : readsAll
    [ (64, 0x402ECF2300000100, .beq ⟨0xb, 0x2c, 0xf23⟩),
      (64, 0x412ECF2300000100, .bne ⟨0xb, 0x2c, 0xf23⟩),
      (64, 0x422ECF2300000100, .blt ⟨0xb, 0x2c, 0xf23⟩),
      (64, 0x432ECF2300000100, .bge ⟨0xb, 0x2c, 0xf23⟩),
      (64, 0x442ECF2300000100, .bltn ⟨0xb, 0x2c, 0xf23⟩),
      (64, 0x452ECF2300000100, .bgen ⟨0xb, 0x2c, 0xf23⟩),
      (64, 0x4682CF2300000100, .bany ⟨0x20, 0x2c, 0xf23⟩),
      (64, 0x4782CF2300000100, .ball ⟨0x20, 0x2c, 0xf23⟩),
      (64, 0x4882CF2300000100, .bnone ⟨0x20, 0x2c, 0xf23⟩),
      (64, 0x4D2ECF2300000100, .probe ⟨0xb, 0x2c, 0xf23⟩) ] = true := by decide

theorem test_decode_sj : readsAll
    [ (64, 0x4902BCDE00000100, .j ⟨0, 0x2bcde⟩),
      (64, 0x4A7EBCDE00000100, .call ⟨0x1f, 0x2bcde⟩),
      (64, 0x4C02BCDE00000100, .loopb ⟨0, 0x2bcde⟩) ] = true := by decide

theorem test_decode_sk : readsAll
    [ (64, 0x5054135700000100, .kld ⟨0x15, 0, 0, 0, 0x1357⟩),
      (64, 0x5157D35700000100, .kst ⟨0x15, 1, 1, 6, 0x1357⟩) ] = true := by decide

theorem test_decode_sg : readsAll
    [ (64, 0x620D126500000100, .cadd ⟨3, 0x11, 9, 1, 5⟩),
      (64, 0x650D127500000100, .atom ⟨3, 0x11, 9, 1, 0x15⟩) ] = true := by decide

theorem test_decode_vr1 : readsAll
    [ (96, 0x646A5F8001A30000000200, .vadd ⟨0, 0x123, 0xa5, 0x1f0, 0, 0xd, 0, 3, 0⟩),
      (96, 0xA46A5F8001A30000000400, .vsub ⟨1, 0x123, 0xa5, 0x1f0, 0, 0xd, 0, 3, 0⟩),
      (96, 0xE46A5F8001A30000000200, .vadds ⟨0, 0x123, 0xa5, 0x1f0, 0, 0xd, 0, 3, 0⟩),
      (96, 0x1246A5F8001A30000000400, .vsubs ⟨1, 0x123, 0xa5, 0x1f0, 0, 0xd, 0, 3, 0⟩),
      (96, 0x1646A5F8001A30000000200, .vmul ⟨0, 0x123, 0xa5, 0x1f0, 0, 0xd, 0, 3, 0⟩),
      (96, 0x1A46A5F8001B60000000400, .vmulh ⟨1, 0x123, 0xa5, 0x1f0, 0, 0xd, 5, 2, 0⟩),
      (96, 0x1E46A5F81DDA30000000200, .vmad ⟨0, 0x123, 0xa5, 0x1f0, 0x77, 0xd, 0, 3, 0⟩),
      (96, 0x2246A5F8001A30000000400, .vabsd ⟨1, 0x123, 0xa5, 0x1f0, 0, 0xd, 0, 3, 0⟩),
      (96, 0x2646A5F8001A00000000200, .vmin ⟨0, 0x123, 0xa5, 0x1f0, 0, 0xd, 0, 0, 0⟩),
      (96, 0x2A46A5F8001A00000000400, .vmax ⟨1, 0x123, 0xa5, 0x1f0, 0, 0xd, 0, 0, 0⟩) ] = true := by decide

theorem test_decode_vr2 : readsAll
    [ (96, 0x2E46A5F8000000000000200, .vand ⟨0, 0x123, 0xa5, 0x1f0, 0, 0, 0, 0, 0⟩),
      (96, 0x3246A5F8000000000000400, .vor ⟨1, 0x123, 0xa5, 0x1f0, 0, 0, 0, 0, 0⟩),
      (96, 0x3646A5F8000000000000200, .vxor ⟨0, 0x123, 0xa5, 0x1f0, 0, 0, 0, 0, 0⟩),
      (96, 0x3A46A500001A39C00000400, .vshl ⟨1, 0x123, 0xa5, 0, 0, 0xd, 0, 3, 0x9c⟩),
      (96, 0x3E46A5F8001B40000000200, .vshr ⟨0, 0x123, 0xa5, 0x1f0, 0, 0xd, 5, 0, 0⟩),
      (96, 0x4056A5F8001A00300000400, .vcmp ⟨1, 0x2b, 0xa5, 0x1f0, 0, 0xd, 0, 0, 3⟩),
      (96, 0x4A46A5F81DC000000000400, .vbit ⟨1, 0x123, 0xa5, 0x1f0, 0x77, 0, 0, 0, 0⟩),
      (96, 0x10246A5F8001B40000000200, .vfadd ⟨0, 0x123, 0xa5, 0x1f0, 0, 0xd, 5, 0, 0⟩),
      (96, 0x10646A5F8001B40000000400, .vfsub ⟨1, 0x123, 0xa5, 0x1f0, 0, 0xd, 5, 0, 0⟩),
      (96, 0x10A46A5F8001B40000000200, .vfmul ⟨0, 0x123, 0xa5, 0x1f0, 0, 0xd, 5, 0, 0⟩) ] = true := by decide

theorem test_decode_vr3 : readsAll
    [ (96, 0x10E46A5F81DDB40000000400, .vfma ⟨1, 0x123, 0xa5, 0x1f0, 0x77, 0xd, 5, 0, 0⟩),
      (96, 0x11246A5F8001A00000000200, .vfmin ⟨0, 0x123, 0xa5, 0x1f0, 0, 0xd, 0, 0, 0⟩),
      (96, 0x11646A5F8001A00000000400, .vfmax ⟨1, 0x123, 0xa5, 0x1f0, 0, 0xd, 0, 0, 0⟩),
      (96, 0x11856A5F8001A00500000200, .vfcmp ⟨0, 0x2b, 0xa5, 0x1f0, 0, 0xd, 0, 0, 5⟩),
      (96, 0x11E46A500001B40000000400, .vfrcp ⟨1, 0x123, 0xa5, 0, 0, 0xd, 5, 0, 0⟩),
      (96, 0x12246A500001B40000000200, .vfrsq ⟨0, 0x123, 0xa5, 0, 0, 0xd, 5, 0, 0⟩),
      (96, 0x12646A500001B40000000400, .vfexp2 ⟨1, 0x123, 0xa5, 0, 0, 0xd, 5, 0, 0⟩),
      (96, 0x12A46A500001B40000000200, .vflog2 ⟨0, 0x123, 0xa5, 0, 0, 0xd, 5, 0, 0⟩),
      (96, 0x12E46A5F8001A00200000400, .vfsgn ⟨1, 0x123, 0xa5, 0x1f0, 0, 0xd, 0, 0, 2⟩),
      (96, 0x20246A500001B70C00000200, .vcvt ⟨0, 0x123, 0xa5, 0, 0, 0xd, 5, 3, 0xc⟩) ] = true := by decide

theorem test_decode_vr4 : readsAll
    [ (96, 0x20646A500001A00000000400, .vtag ⟨1, 0x123, 0xa5, 0, 0, 0xd, 0, 0, 0⟩),
      (96, 0x20A46A5000ADA01500000200, .vbfpq ⟨0, 0x123, 0xa5, 0, 0x2b, 0xd, 0, 0, 0x15⟩),
      (96, 0x20E46A500001A00900000400, .vbfpd ⟨1, 0x123, 0xa5, 0, 0, 0xd, 0, 0, 9⟩),
      (96, 0x21246A500000003300000200, .vplane ⟨0, 0x123, 0xa5, 0, 0, 0, 0, 0, 0x33⟩),
      (96, 0x21646A500000003300000400, .vunpl ⟨1, 0x123, 0xa5, 0, 0, 0, 0, 0, 0x33⟩),
      (96, 0x21A46A500001A00100000200, .vokey ⟨0, 0x123, 0xa5, 0, 0, 0xd, 0, 0, 1⟩),
      (96, 0x28246A5F8000033300000400, .vpadd ⟨1, 0x123, 0xa5, 0x1f0, 0, 0, 0, 3, 0x33⟩),
      (96, 0x28646A5F8000030000000200, .vpdot ⟨0, 0x123, 0xa5, 0x1f0, 0, 0, 0, 3, 0⟩),
      (96, 0x28A46A500000030B00000400, .vpshl ⟨1, 0x123, 0xa5, 0, 0, 0, 0, 3, 0xb⟩),
      (96, 0x30246A5000ADB48800000200, .vred ⟨0, 0x123, 0xa5, 0, 0x2b, 0xd, 5, 0, 0x88⟩) ] = true := by decide

theorem test_decode_vr5 : readsAll
    [ (96, 0x30646A500001A30000000400, .vscan ⟨1, 0x123, 0xa5, 0, 0, 0xd, 0, 3, 0⟩),
      (96, 0x30A46A5F81DDA00100000200, .vperm ⟨0, 0x123, 0xa5, 0x1f0, 0x77, 0xd, 0, 0, 1⟩),
      (96, 0x32246A500000001D00000200, .vmov ⟨0, 0x123, 0xa5, 0, 0, 0, 0, 0, 0x1d⟩),
      (96, 0x50056151F000000000000400, .pand ⟨1, 0x2b, 0x15, 0x3e, 0, 0, 0, 0, 0⟩),
      (96, 0x50456151F000000000000200, .por ⟨0, 0x2b, 0x15, 0x3e, 0, 0, 0, 0, 0⟩),
      (96, 0x50856151F000000000000400, .pxor ⟨1, 0x2b, 0x15, 0x3e, 0, 0, 0, 0, 0⟩),
      (96, 0x50C561500000000000000200, .pnot ⟨0, 0x2b, 0x15, 0, 0, 0, 0, 0, 0⟩),
      (96, 0x510561500001A00000000400, .pcnt ⟨1, 0x2b, 0x15, 0, 0, 0xd, 0, 0, 0⟩),
      (96, 0x514561500001A00000000200, .pfirst ⟨0, 0x2b, 0x15, 0, 0, 0xd, 0, 0, 0⟩),
      (96, 0x518560000001A09C00000400, .pset ⟨1, 0x2b, 0, 0, 0, 0xd, 0, 0, 0x9c⟩) ] = true := by decide

theorem test_decode_vr6 : readsAll
    [ (96, 0x51C561500000000000000200, .pmov ⟨0, 0x2b, 0x15, 0, 0, 0, 0, 0, 0⟩),
      (96, 0x600000000001A19C00000200, .lsclr ⟨0, 0, 0, 0, 0, 0xd, 0, 1, 0x9c⟩),
      (96, 0x60400A5F80ADA00100000200, .lsins ⟨0, 0, 0xa5, 0x1f0, 0x2b, 0xd, 0, 0, 1⟩),
      (96, 0x60A460000000001D00000200, .lsrd ⟨0, 0x123, 0, 0, 0, 0, 0, 0, 0x1d⟩),
      (96, 0x60E46A5000ADA19C00000200, .vhist ⟨0, 0x123, 0xa5, 0, 0x2b, 0xd, 0, 1, 0x9c⟩) ] = true := by decide

theorem test_decode_vg : readsAll
    [ (96, 0x4646A5F8135A00000000200, .vsel ⟨0, 0x123, 0xa5, 0x1f0, 9, 1, 1, 0xd, 0, 0, 0⟩) ] = true := by decide

theorem test_decode_vx : readsAll
    [ (96, 0x30E470A96B00BEEF00000400, .vslide ⟨1, 0x123, 0x21, 0xa5, 0x2b00beef⟩),
      (96, 0x312470802A00000000000200, .vbcast ⟨0, 0x123, 0x21, 0, 0x2a000000⟩),
      (96, 0x316470802A00BEEF00000400, .viota ⟨1, 0x123, 0x21, 0, 0x2a00beef⟩),
      (96, 0x318010A96A00BEEF00000200, .vextr ⟨0, 0, 0x21, 0xa5, 0x2a00beef⟩),
      (96, 0x31E470802A00BEEF00000400, .vins ⟨1, 0x123, 0x21, 0, 0x2a00beef⟩),
      (96, 0x412470A94003A00000000400, .vgth ⟨1, 0x123, 0x21, 0xa5, 0x3a000⟩),
      (96, 0x416470A94135A00000000200, .vsct ⟨0, 0x123, 0x21, 0xa5, 0x135a000⟩),
      (96, 0x312470A96B00BEEF00000200, .vbcastElement ⟨0, 0x123, 0x21, 0xa5, 0x2b00beef⟩) ] = true := by decide

theorem test_decode_vm : readsAll
    [ (96, 0x401870F91801BB0000000400, .vld ⟨1, 0xc3, 0x21, 0xf23, 0, 0, 0, 0xd, 0x1b, 0⟩),
      (96, 0x405870F91935BB0000000200, .vst ⟨0, 0xc3, 0x21, 0xf23, 9, 1, 1, 0xd, 0x1b, 0⟩),
      (96, 0x409870F91801A0A700000400, .vlde ⟨1, 0xc3, 0x21, 0xf23, 0, 0, 0, 0xd, 0, 0xa7⟩),
      (96, 0x40D870F91935A0A700000200, .vste ⟨0, 0xc3, 0x21, 0xf23, 9, 1, 1, 0xd, 0, 0xa7⟩),
      (96, 0x419870F91801BB0000000400, .vldm ⟨1, 0xc3, 0x21, 0xf23, 0, 0, 0, 0xd, 0x1b, 0⟩),
      (96, 0x41D870F91801BB0000000200, .vstm ⟨0, 0xc3, 0x21, 0xf23, 0, 0, 0, 0xd, 0x1b, 0⟩) ] = true := by decide

theorem test_decode_vk : readsAll
    [ (96, 0x421877DDE001BB0000000400, .vkld ⟨1, 0xc3, 0xbeef, 0, 0, 0, 0, 0xd, 0x1b, 0⟩),
      (96, 0x425877DDE135BB0000000200, .vkst ⟨0, 0xc3, 0xbeef, 0, 9, 1, 1, 0xd, 0x1b, 0⟩) ] = true := by decide

theorem test_decode_m1 : readsAll
    [ (96, 0x108D6230000000000000800, .mlease ⟨2, 0xd, 0x18, 0x23, 0, 0, 0, 0⟩),
      (96, 0x208D6230000000000000800, .mrel ⟨2, 0xd, 0x18, 0x23, 0, 0, 0, 0⟩),
      (96, 0x308D6230000000100000800, .mmode ⟨2, 0xd, 0x18, 0x23, 0, 0, 0, 1⟩),
      (96, 0x408D623BB90000900000800, .mloadp ⟨2, 0xd, 0x18, 0x23, 0x2e, 0x39, 0, 9⟩),
      (96, 0x508D6230000000200000800, .mflow ⟨2, 0xd, 0x18, 0x23, 0, 0, 0, 2⟩),
      (96, 0x608D62300000A5600000800, .mskew ⟨2, 0xd, 0x18, 0x23, 0, 0, 0, 0xa56⟩),
      (96, 0x708D623B800000C00000800, .mclr ⟨2, 0xd, 0x18, 0x23, 0x2e, 0, 0, 0xc⟩),
      (96, 0x808D623B800000100000800, .mpre ⟨2, 0xd, 0x18, 0x23, 0x2e, 0, 0, 1⟩),
      (96, 0x908D623BB9F2ABC00000800, .mfeed ⟨2, 0xd, 0x18, 0x23, 0x2e, 0x39, 0x3c, 0x2abc⟩),
      (96, 0xA08D623BB9F1ABC00000800, .mfeedr ⟨2, 0xd, 0x18, 0x23, 0x2e, 0x39, 0x3c, 0x1abc⟩) ] = true := by decide

theorem test_decode_m2 : readsAll
    [ (96, 0xB08D623BB90280000000800, .mdrain ⟨2, 0xd, 0x18, 0x23, 0x2e, 0x39, 0, 0x2800⟩),
      (96, 0xC08D6230000000000000800, .mstat ⟨2, 0xd, 0x18, 0x23, 0, 0, 0, 0⟩),
      (96, 0xD08D6230000000000000800, .mresume ⟨2, 0xd, 0x18, 0x23, 0, 0, 0, 0⟩) ] = true := by decide

theorem test_decode_c1 : readsAll
    [ (96, 0x108D623BB9F2A5400001000, .cpy ⟨0, 2, 0xd, 0x18, 0x23, 0x2e, 0x39, 0x3c, 0x2a54⟩),
      (96, 0x208D623BB9F2A4000002000, .cpyt ⟨1, 2, 0xd, 0x18, 0x23, 0x2e, 0x39, 0x3c, 0x2a40⟩),
      (96, 0x308D623BB9F000000001000, .cpys ⟨0, 2, 0xd, 0x18, 0x23, 0x2e, 0x39, 0x3c, 0⟩),
      (96, 0x408D623BB9F2A5600002000, .gth ⟨1, 2, 0xd, 0x18, 0x23, 0x2e, 0x39, 0x3c, 0x2a56⟩),
      (96, 0x508D623BB9F2A5600001000, .sct ⟨0, 2, 0xd, 0x18, 0x23, 0x2e, 0x39, 0x3c, 0x2a56⟩),
      (96, 0x608D623BB9F2A5800002000, .cpyg ⟨1, 2, 0xd, 0x18, 0x23, 0x2e, 0x39, 0x3c, 0x2a58⟩),
      (96, 0x708D623B800000B00001000, .sbind ⟨0, 2, 0xd, 0x18, 0x23, 0x2e, 0, 0, 0xb⟩),
      (96, 0x808D6230000000B00002000, .sunb ⟨1, 2, 0xd, 0x18, 0x23, 0, 0, 0, 0xb⟩),
      (96, 0x908D623B80F000100001000, .radv ⟨0, 2, 0xd, 0x18, 0x23, 0x2e, 0, 0x3c, 1⟩),
      (96, 0xA08D623B80F000000002000, .pfill ⟨1, 2, 0xd, 0x18, 0x23, 0x2e, 0, 0x3c, 0⟩) ] = true := by decide

theorem test_decode_c2 : readsAll
    [ (96, 0xB08D6230000000100001000, .pwb ⟨0, 2, 0xd, 0x18, 0x23, 0, 0, 0, 1⟩),
      (96, 0xC08D623B80F000200002000, .pinv ⟨1, 2, 0xd, 0x18, 0x23, 0x2e, 0, 0x3c, 2⟩),
      (96, 0xD08D623B80F000000001000, .cxadd ⟨0, 2, 0xd, 0x18, 0x23, 0x2e, 0, 0x3c, 0⟩),
      (96, 0xE08D623B80F000400002000, .cwaite ⟨1, 2, 0xd, 0x18, 0x23, 0x2e, 0, 0x3c, 4⟩) ] = true := by decide

/-! ### Ill-formed terms: fields that a form does not use -/

theorem test_wf_sr1 : refusesAll
    [ .add ⟨3, 0x11, 0x2a, 1⟩,
      .sub ⟨3, 0x11, 0x2a, 1⟩,
      .mul ⟨3, 0x11, 0x2a, 1⟩,
      .mulh ⟨3, 0x11, 0x2a, 1⟩,
      .mulhn ⟨3, 0x11, 0x2a, 1⟩,
      .div ⟨3, 0x11, 0x2a, 1⟩,
      .divn ⟨3, 0x11, 0x2a, 1⟩,
      .rem ⟨3, 0x11, 0x2a, 1⟩,
      .remn ⟨3, 0x11, 0x2a, 1⟩,
      .and ⟨3, 0x11, 0x2a, 1⟩,
      .or ⟨3, 0x11, 0x2a, 1⟩,
      .xor ⟨3, 0x11, 0x2a, 1⟩,
      .sll ⟨3, 0x11, 0x2a, 1⟩,
      .srl ⟨3, 0x11, 0x2a, 1⟩,
      .sra ⟨3, 0x11, 0x2a, 1⟩,
      .slt ⟨3, 0x11, 0x2a, 1⟩,
      .sltn ⟨3, 0x11, 0x2a, 1⟩,
      .min ⟨3, 0x11, 0x2a, 1⟩,
      .max ⟨3, 0x11, 0x2a, 1⟩,
      .minn ⟨3, 0x11, 0x2a, 1⟩,
      .maxn ⟨3, 0x11, 0x2a, 1⟩,
      .clz ⟨3, 0x11, 1, 0⟩,
      .clz ⟨3, 0x11, 0, 1⟩,
      .ctz ⟨3, 0x11, 1, 0⟩ ] = true := by decide

theorem test_wf_sr2 : refusesAll
    [ .ctz ⟨3, 0x11, 0, 1⟩,
      .popc ⟨3, 0x11, 1, 0⟩,
      .popc ⟨3, 0x11, 0, 1⟩,
      .plt ⟨3, 0x11, 0x2a, 1⟩,
      .padd ⟨3, 0x11, 0x2a, 1⟩,
      .xlook ⟨3, 0x11, 1, 0⟩,
      .xlook ⟨3, 0x11, 0, 1⟩,
      .talloc ⟨3, 0x11, 1, 0⟩,
      .talloc ⟨3, 0x11, 0, 1⟩,
      .tfree ⟨1, 0x11, 0, 0⟩,
      .tfree ⟨0, 0x11, 1, 0⟩,
      .tfree ⟨0, 0x11, 0, 1⟩,
      .tshape ⟨1, 0x11, 0x2a, 0⟩,
      .tshape ⟨0, 0x11, 0x2a, 1⟩,
      .tqry ⟨3, 0x11, 1, 6⟩,
      .ret ⟨1, 0x11, 0, 0⟩,
      .ret ⟨0, 0x11, 1, 0⟩,
      .ret ⟨0, 0x11, 0, 1⟩,
      .mark ⟨3, 1, 0, 0⟩,
      .mark ⟨3, 0, 1, 0⟩,
      .mark ⟨3, 0, 0, 1⟩,
      .halt ⟨1, 0, 0, 1⟩,
      .halt ⟨0, 1, 0, 1⟩,
      .halt ⟨0, 0, 1, 1⟩ ] = true := by decide

theorem test_wf_sr3 : refusesAll
    [ .yieldS ⟨1, 0, 0, 0⟩,
      .yieldS ⟨0, 1, 0, 0⟩,
      .yieldS ⟨0, 0, 1, 0⟩,
      .calloc ⟨3, 0x11, 1, 0⟩,
      .calloc ⟨3, 0x11, 0, 1⟩,
      .cfree ⟨1, 0x11, 0, 0⟩,
      .cfree ⟨0, 0x11, 1, 0⟩,
      .cfree ⟨0, 0x11, 0, 1⟩,
      .crd ⟨3, 0x11, 1, 0⟩,
      .crd ⟨3, 0x11, 0, 1⟩,
      .launch ⟨3, 0x11, 0x2a, 1⟩,
      .kstat ⟨3, 0x11, 1, 0⟩,
      .kstat ⟨3, 0x11, 0, 1⟩,
      .gopen ⟨3, 0x11, 1, 7⟩,
      .gcommit ⟨3, 0x11, 1, 0⟩,
      .gcommit ⟨3, 0x11, 0, 1⟩,
      .gabort ⟨3, 0x11, 1, 0⟩,
      .gabort ⟨3, 0x11, 0, 1⟩,
      .gstat ⟨3, 0x11, 1, 0⟩,
      .gstat ⟨3, 0x11, 0, 1⟩,
      .colrdy ⟨3, 0x11, 1, 0⟩,
      .colrdy ⟨3, 0x11, 0, 1⟩,
      .xlookW ⟨3, 0x11, 1, 1⟩ ] = true := by decide

theorem test_wf_si : refusesAll
    [ .crr ⟨5, 1, 0x103⟩,
      .fence ⟨1, 0, 0x32⟩,
      .fence ⟨0, 1, 0x32⟩,
      .trap ⟨1, 0x21, 0xabc⟩,
      .brk ⟨1, 0, 0xabc⟩,
      .brk ⟨0, 1, 0xabc⟩ ] = true := by decide

theorem test_wf_sl : refusesAll
    [ .lil ⟨0x3e, 1⟩ 0x0123456789ABCDEF ] = true := by decide

theorem test_wf_sj : refusesAll
    [ .j ⟨1, 0x2bcde⟩,
      .loopb ⟨1, 0x2bcde⟩ ] = true := by decide

theorem test_wf_sk : refusesAll
    [ .kld ⟨0x15, 1, 0, 0, 0x1357⟩,
      .kld ⟨0x15, 0, 1, 0, 0x1357⟩,
      .kld ⟨0x15, 0, 0, 1, 0x1357⟩ ] = true := by decide

theorem test_wf_vr1 : refusesAll
    [ .vadd ⟨0, 0x123, 0xa5, 0x1f0, 1, 0xd, 0, 3, 0⟩,
      .vadd ⟨0, 0x123, 0xa5, 0x1f0, 0, 0xd, 1, 3, 0⟩,
      .vadd ⟨0, 0x123, 0xa5, 0x1f0, 0, 0xd, 0, 3, 1⟩,
      .vsub ⟨1, 0x123, 0xa5, 0x1f0, 1, 0xd, 0, 3, 0⟩,
      .vsub ⟨1, 0x123, 0xa5, 0x1f0, 0, 0xd, 1, 3, 0⟩,
      .vsub ⟨1, 0x123, 0xa5, 0x1f0, 0, 0xd, 0, 3, 1⟩,
      .vadds ⟨0, 0x123, 0xa5, 0x1f0, 1, 0xd, 0, 3, 0⟩,
      .vadds ⟨0, 0x123, 0xa5, 0x1f0, 0, 0xd, 1, 3, 0⟩,
      .vadds ⟨0, 0x123, 0xa5, 0x1f0, 0, 0xd, 0, 3, 1⟩,
      .vsubs ⟨1, 0x123, 0xa5, 0x1f0, 1, 0xd, 0, 3, 0⟩,
      .vsubs ⟨1, 0x123, 0xa5, 0x1f0, 0, 0xd, 1, 3, 0⟩,
      .vsubs ⟨1, 0x123, 0xa5, 0x1f0, 0, 0xd, 0, 3, 1⟩,
      .vmul ⟨0, 0x123, 0xa5, 0x1f0, 1, 0xd, 0, 3, 0⟩,
      .vmul ⟨0, 0x123, 0xa5, 0x1f0, 0, 0xd, 1, 3, 0⟩,
      .vmul ⟨0, 0x123, 0xa5, 0x1f0, 0, 0xd, 0, 3, 1⟩,
      .vmulh ⟨1, 0x123, 0xa5, 0x1f0, 1, 0xd, 5, 2, 0⟩,
      .vmulh ⟨1, 0x123, 0xa5, 0x1f0, 0, 0xd, 5, 2, 1⟩,
      .vmad ⟨0, 0x123, 0xa5, 0x1f0, 0x77, 0xd, 1, 3, 0⟩,
      .vmad ⟨0, 0x123, 0xa5, 0x1f0, 0x77, 0xd, 0, 3, 1⟩,
      .vabsd ⟨1, 0x123, 0xa5, 0x1f0, 1, 0xd, 0, 3, 0⟩,
      .vabsd ⟨1, 0x123, 0xa5, 0x1f0, 0, 0xd, 1, 3, 0⟩,
      .vabsd ⟨1, 0x123, 0xa5, 0x1f0, 0, 0xd, 0, 3, 1⟩,
      .vmin ⟨0, 0x123, 0xa5, 0x1f0, 1, 0xd, 0, 0, 0⟩,
      .vmin ⟨0, 0x123, 0xa5, 0x1f0, 0, 0xd, 1, 0, 0⟩ ] = true := by decide

theorem test_wf_vr2 : refusesAll
    [ .vmin ⟨0, 0x123, 0xa5, 0x1f0, 0, 0xd, 0, 1, 0⟩,
      .vmax ⟨1, 0x123, 0xa5, 0x1f0, 1, 0xd, 0, 0, 0⟩,
      .vmax ⟨1, 0x123, 0xa5, 0x1f0, 0, 0xd, 1, 0, 0⟩,
      .vmax ⟨1, 0x123, 0xa5, 0x1f0, 0, 0xd, 0, 1, 0⟩,
      .vand ⟨0, 0x123, 0xa5, 0x1f0, 1, 0, 0, 0, 0⟩,
      .vand ⟨0, 0x123, 0xa5, 0x1f0, 0, 1, 0, 0, 0⟩,
      .vand ⟨0, 0x123, 0xa5, 0x1f0, 0, 0, 1, 0, 0⟩,
      .vor ⟨1, 0x123, 0xa5, 0x1f0, 1, 0, 0, 0, 0⟩,
      .vor ⟨1, 0x123, 0xa5, 0x1f0, 0, 1, 0, 0, 0⟩,
      .vor ⟨1, 0x123, 0xa5, 0x1f0, 0, 0, 1, 0, 0⟩,
      .vxor ⟨0, 0x123, 0xa5, 0x1f0, 1, 0, 0, 0, 0⟩,
      .vxor ⟨0, 0x123, 0xa5, 0x1f0, 0, 1, 0, 0, 0⟩,
      .vxor ⟨0, 0x123, 0xa5, 0x1f0, 0, 0, 1, 0, 0⟩,
      .vshl ⟨1, 0x123, 0xa5, 1, 0, 0xd, 0, 3, 0x9c⟩,
      .vshl ⟨1, 0x123, 0xa5, 0, 1, 0xd, 0, 3, 0x9c⟩,
      .vshl ⟨1, 0x123, 0xa5, 0, 0, 0xd, 1, 3, 0x9c⟩,
      .vshr ⟨0, 0x123, 0xa5, 0x1f0, 1, 0xd, 5, 0, 0⟩,
      .vshr ⟨0, 0x123, 0xa5, 0x1f0, 0, 0xd, 5, 1, 0⟩,
      .vcmp ⟨1, 0x2b, 0xa5, 0x1f0, 1, 0xd, 0, 0, 3⟩,
      .vcmp ⟨1, 0x2b, 0xa5, 0x1f0, 0, 0xd, 1, 0, 3⟩,
      .vcmp ⟨1, 0x2b, 0xa5, 0x1f0, 0, 0xd, 0, 1, 3⟩,
      .vbit ⟨1, 0x123, 0xa5, 0x1f0, 0x77, 1, 0, 0, 0⟩,
      .vbit ⟨1, 0x123, 0xa5, 0x1f0, 0x77, 0, 1, 0, 0⟩,
      .vbit ⟨1, 0x123, 0xa5, 0x1f0, 0x77, 0, 0, 1, 0⟩ ] = true := by decide

theorem test_wf_vr3 : refusesAll
    [ .vfadd ⟨0, 0x123, 0xa5, 0x1f0, 1, 0xd, 5, 0, 0⟩,
      .vfadd ⟨0, 0x123, 0xa5, 0x1f0, 0, 0xd, 5, 1, 0⟩,
      .vfadd ⟨0, 0x123, 0xa5, 0x1f0, 0, 0xd, 5, 0, 1⟩,
      .vfsub ⟨1, 0x123, 0xa5, 0x1f0, 1, 0xd, 5, 0, 0⟩,
      .vfsub ⟨1, 0x123, 0xa5, 0x1f0, 0, 0xd, 5, 1, 0⟩,
      .vfsub ⟨1, 0x123, 0xa5, 0x1f0, 0, 0xd, 5, 0, 1⟩,
      .vfmul ⟨0, 0x123, 0xa5, 0x1f0, 1, 0xd, 5, 0, 0⟩,
      .vfmul ⟨0, 0x123, 0xa5, 0x1f0, 0, 0xd, 5, 1, 0⟩,
      .vfmul ⟨0, 0x123, 0xa5, 0x1f0, 0, 0xd, 5, 0, 1⟩,
      .vfma ⟨1, 0x123, 0xa5, 0x1f0, 0x77, 0xd, 5, 1, 0⟩,
      .vfma ⟨1, 0x123, 0xa5, 0x1f0, 0x77, 0xd, 5, 0, 1⟩,
      .vfmin ⟨0, 0x123, 0xa5, 0x1f0, 1, 0xd, 0, 0, 0⟩,
      .vfmin ⟨0, 0x123, 0xa5, 0x1f0, 0, 0xd, 1, 0, 0⟩,
      .vfmin ⟨0, 0x123, 0xa5, 0x1f0, 0, 0xd, 0, 1, 0⟩,
      .vfmax ⟨1, 0x123, 0xa5, 0x1f0, 1, 0xd, 0, 0, 0⟩,
      .vfmax ⟨1, 0x123, 0xa5, 0x1f0, 0, 0xd, 1, 0, 0⟩,
      .vfmax ⟨1, 0x123, 0xa5, 0x1f0, 0, 0xd, 0, 1, 0⟩,
      .vfcmp ⟨0, 0x2b, 0xa5, 0x1f0, 1, 0xd, 0, 0, 5⟩,
      .vfcmp ⟨0, 0x2b, 0xa5, 0x1f0, 0, 0xd, 1, 0, 5⟩,
      .vfcmp ⟨0, 0x2b, 0xa5, 0x1f0, 0, 0xd, 0, 1, 5⟩,
      .vfrcp ⟨1, 0x123, 0xa5, 1, 0, 0xd, 5, 0, 0⟩,
      .vfrcp ⟨1, 0x123, 0xa5, 0, 1, 0xd, 5, 0, 0⟩,
      .vfrcp ⟨1, 0x123, 0xa5, 0, 0, 0xd, 5, 1, 0⟩,
      .vfrsq ⟨0, 0x123, 0xa5, 1, 0, 0xd, 5, 0, 0⟩ ] = true := by decide

theorem test_wf_vr4 : refusesAll
    [ .vfrsq ⟨0, 0x123, 0xa5, 0, 1, 0xd, 5, 0, 0⟩,
      .vfrsq ⟨0, 0x123, 0xa5, 0, 0, 0xd, 5, 1, 0⟩,
      .vfexp2 ⟨1, 0x123, 0xa5, 1, 0, 0xd, 5, 0, 0⟩,
      .vfexp2 ⟨1, 0x123, 0xa5, 0, 1, 0xd, 5, 0, 0⟩,
      .vfexp2 ⟨1, 0x123, 0xa5, 0, 0, 0xd, 5, 1, 0⟩,
      .vflog2 ⟨0, 0x123, 0xa5, 1, 0, 0xd, 5, 0, 0⟩,
      .vflog2 ⟨0, 0x123, 0xa5, 0, 1, 0xd, 5, 0, 0⟩,
      .vflog2 ⟨0, 0x123, 0xa5, 0, 0, 0xd, 5, 1, 0⟩,
      .vfsgn ⟨1, 0x123, 0xa5, 0x1f0, 1, 0xd, 0, 0, 2⟩,
      .vfsgn ⟨1, 0x123, 0xa5, 0x1f0, 0, 0xd, 1, 0, 2⟩,
      .vfsgn ⟨1, 0x123, 0xa5, 0x1f0, 0, 0xd, 0, 1, 2⟩,
      .vcvt ⟨0, 0x123, 0xa5, 1, 0, 0xd, 5, 3, 0xc⟩,
      .vcvt ⟨0, 0x123, 0xa5, 0, 1, 0xd, 5, 3, 0xc⟩,
      .vtag ⟨1, 0x123, 0xa5, 1, 0, 0xd, 0, 0, 0⟩,
      .vtag ⟨1, 0x123, 0xa5, 0, 1, 0xd, 0, 0, 0⟩,
      .vtag ⟨1, 0x123, 0xa5, 0, 0, 0xd, 1, 0, 0⟩,
      .vbfpq ⟨0, 0x123, 0xa5, 1, 0x2b, 0xd, 0, 0, 0x15⟩,
      .vbfpq ⟨0, 0x123, 0xa5, 0, 0x2b, 0xd, 1, 0, 0x15⟩,
      .vbfpq ⟨0, 0x123, 0xa5, 0, 0x2b, 0xd, 0, 1, 0x15⟩,
      .vbfpd ⟨1, 0x123, 0xa5, 1, 0, 0xd, 0, 0, 9⟩,
      .vbfpd ⟨1, 0x123, 0xa5, 0, 1, 0xd, 0, 0, 9⟩,
      .vbfpd ⟨1, 0x123, 0xa5, 0, 0, 0xd, 1, 0, 9⟩,
      .vplane ⟨0, 0x123, 0xa5, 1, 0, 0, 0, 0, 0x33⟩,
      .vplane ⟨0, 0x123, 0xa5, 0, 1, 0, 0, 0, 0x33⟩ ] = true := by decide

theorem test_wf_vr5 : refusesAll
    [ .vplane ⟨0, 0x123, 0xa5, 0, 0, 1, 0, 0, 0x33⟩,
      .vunpl ⟨1, 0x123, 0xa5, 1, 0, 0, 0, 0, 0x33⟩,
      .vunpl ⟨1, 0x123, 0xa5, 0, 1, 0, 0, 0, 0x33⟩,
      .vunpl ⟨1, 0x123, 0xa5, 0, 0, 1, 0, 0, 0x33⟩,
      .vokey ⟨0, 0x123, 0xa5, 1, 0, 0xd, 0, 0, 1⟩,
      .vokey ⟨0, 0x123, 0xa5, 0, 1, 0xd, 0, 0, 1⟩,
      .vokey ⟨0, 0x123, 0xa5, 0, 0, 0xd, 1, 0, 1⟩,
      .vpadd ⟨1, 0x123, 0xa5, 0x1f0, 1, 0, 0, 3, 0x33⟩,
      .vpadd ⟨1, 0x123, 0xa5, 0x1f0, 0, 1, 0, 3, 0x33⟩,
      .vpadd ⟨1, 0x123, 0xa5, 0x1f0, 0, 0, 1, 3, 0x33⟩,
      .vpdot ⟨0, 0x123, 0xa5, 0x1f0, 1, 0, 0, 3, 0⟩,
      .vpdot ⟨0, 0x123, 0xa5, 0x1f0, 0, 1, 0, 3, 0⟩,
      .vpdot ⟨0, 0x123, 0xa5, 0x1f0, 0, 0, 1, 3, 0⟩,
      .vpshl ⟨1, 0x123, 0xa5, 1, 0, 0, 0, 3, 0xb⟩,
      .vpshl ⟨1, 0x123, 0xa5, 0, 1, 0, 0, 3, 0xb⟩,
      .vpshl ⟨1, 0x123, 0xa5, 0, 0, 1, 0, 3, 0xb⟩,
      .vred ⟨0, 0x123, 0xa5, 1, 0x2b, 0xd, 5, 0, 0x88⟩,
      .vred ⟨0, 0x123, 0xa5, 0, 0x2b, 0xd, 5, 1, 0x88⟩,
      .vscan ⟨1, 0x123, 0xa5, 1, 0, 0xd, 0, 3, 0⟩,
      .vscan ⟨1, 0x123, 0xa5, 0, 1, 0xd, 0, 3, 0⟩,
      .vscan ⟨1, 0x123, 0xa5, 0, 0, 0xd, 1, 3, 0⟩,
      .vperm ⟨0, 0x123, 0xa5, 0x1f0, 0x77, 0xd, 1, 0, 1⟩,
      .vperm ⟨0, 0x123, 0xa5, 0x1f0, 0x77, 0xd, 0, 1, 1⟩,
      .vmov ⟨0, 0x123, 0xa5, 1, 0, 0, 0, 0, 0x1d⟩ ] = true := by decide

theorem test_wf_vr6 : refusesAll
    [ .vmov ⟨0, 0x123, 0xa5, 0, 1, 0, 0, 0, 0x1d⟩,
      .vmov ⟨0, 0x123, 0xa5, 0, 0, 1, 0, 0, 0x1d⟩,
      .pand ⟨1, 0x2b, 0x15, 0x3e, 1, 0, 0, 0, 0⟩,
      .pand ⟨1, 0x2b, 0x15, 0x3e, 0, 1, 0, 0, 0⟩,
      .pand ⟨1, 0x2b, 0x15, 0x3e, 0, 0, 1, 0, 0⟩,
      .por ⟨0, 0x2b, 0x15, 0x3e, 1, 0, 0, 0, 0⟩,
      .por ⟨0, 0x2b, 0x15, 0x3e, 0, 1, 0, 0, 0⟩,
      .por ⟨0, 0x2b, 0x15, 0x3e, 0, 0, 1, 0, 0⟩,
      .pxor ⟨1, 0x2b, 0x15, 0x3e, 1, 0, 0, 0, 0⟩,
      .pxor ⟨1, 0x2b, 0x15, 0x3e, 0, 1, 0, 0, 0⟩,
      .pxor ⟨1, 0x2b, 0x15, 0x3e, 0, 0, 1, 0, 0⟩,
      .pnot ⟨0, 0x2b, 0x15, 1, 0, 0, 0, 0, 0⟩,
      .pnot ⟨0, 0x2b, 0x15, 0, 1, 0, 0, 0, 0⟩,
      .pnot ⟨0, 0x2b, 0x15, 0, 0, 1, 0, 0, 0⟩,
      .pcnt ⟨1, 0x2b, 0x15, 1, 0, 0xd, 0, 0, 0⟩,
      .pcnt ⟨1, 0x2b, 0x15, 0, 1, 0xd, 0, 0, 0⟩,
      .pcnt ⟨1, 0x2b, 0x15, 0, 0, 0xd, 1, 0, 0⟩,
      .pfirst ⟨0, 0x2b, 0x15, 1, 0, 0xd, 0, 0, 0⟩,
      .pfirst ⟨0, 0x2b, 0x15, 0, 1, 0xd, 0, 0, 0⟩,
      .pfirst ⟨0, 0x2b, 0x15, 0, 0, 0xd, 1, 0, 0⟩,
      .pset ⟨1, 0x2b, 1, 0, 0, 0xd, 0, 0, 0x9c⟩,
      .pset ⟨1, 0x2b, 0, 1, 0, 0xd, 0, 0, 0x9c⟩,
      .pset ⟨1, 0x2b, 0, 0, 1, 0xd, 0, 0, 0x9c⟩,
      .pmov ⟨0, 0x2b, 0x15, 1, 0, 0, 0, 0, 0⟩ ] = true := by decide

theorem test_wf_vr7 : refusesAll
    [ .pmov ⟨0, 0x2b, 0x15, 0, 1, 0, 0, 0, 0⟩,
      .pmov ⟨0, 0x2b, 0x15, 0, 0, 1, 0, 0, 0⟩,
      .lsclr ⟨0, 1, 0, 0, 0, 0xd, 0, 1, 0x9c⟩,
      .lsclr ⟨0, 0, 1, 0, 0, 0xd, 0, 1, 0x9c⟩,
      .lsclr ⟨0, 0, 0, 1, 0, 0xd, 0, 1, 0x9c⟩,
      .lsins ⟨0, 1, 0xa5, 0x1f0, 0x2b, 0xd, 0, 0, 1⟩,
      .lsins ⟨0, 0, 0xa5, 0x1f0, 0x2b, 0xd, 1, 0, 1⟩,
      .lsins ⟨0, 0, 0xa5, 0x1f0, 0x2b, 0xd, 0, 1, 1⟩,
      .lsrd ⟨0, 0x123, 1, 0, 0, 0, 0, 0, 0x1d⟩,
      .lsrd ⟨0, 0x123, 0, 1, 0, 0, 0, 0, 0x1d⟩,
      .lsrd ⟨0, 0x123, 0, 0, 1, 0, 0, 0, 0x1d⟩,
      .vhist ⟨0, 0x123, 0xa5, 1, 0x2b, 0xd, 0, 1, 0x9c⟩,
      .vhist ⟨0, 0x123, 0xa5, 0, 0x2b, 0xd, 1, 1, 0x9c⟩ ] = true := by decide

theorem test_wf_vg : refusesAll
    [ .vsel ⟨0, 0x123, 0xa5, 0x1f0, 9, 1, 1, 0xd, 1, 0, 0⟩,
      .vsel ⟨0, 0x123, 0xa5, 0x1f0, 9, 1, 1, 0xd, 0, 1, 0⟩,
      .vsel ⟨0, 0x123, 0xa5, 0x1f0, 9, 1, 1, 0xd, 0, 0, 1⟩ ] = true := by decide

theorem test_wf_vx : refusesAll
    [ .vbcast ⟨0, 0x123, 0x21, 1, 0x2a000000⟩,
      .viota ⟨1, 0x123, 0x21, 1, 0x2a00beef⟩,
      .vextr ⟨0, 1, 0x21, 0xa5, 0x2a00beef⟩,
      .vins ⟨1, 0x123, 0x21, 1, 0x2a00beef⟩ ] = true := by decide

theorem test_wf_vm : refusesAll
    [ .vld ⟨1, 0xc3, 0x21, 0xf23, 1, 0, 0, 0xd, 0x1b, 0⟩,
      .vld ⟨1, 0xc3, 0x21, 0xf23, 0, 1, 0, 0xd, 0x1b, 0⟩,
      .vld ⟨1, 0xc3, 0x21, 0xf23, 0, 0, 1, 0xd, 0x1b, 0⟩,
      .vst ⟨0, 0xc3, 0x21, 0xf23, 9, 1, 1, 0xd, 0x1b, 1⟩,
      .vlde ⟨1, 0xc3, 0x21, 0xf23, 1, 0, 0, 0xd, 0, 0xa7⟩,
      .vlde ⟨1, 0xc3, 0x21, 0xf23, 0, 1, 0, 0xd, 0, 0xa7⟩,
      .vlde ⟨1, 0xc3, 0x21, 0xf23, 0, 0, 1, 0xd, 0, 0xa7⟩,
      .vste ⟨0, 0xc3, 0x21, 0xf23, 9, 1, 1, 0xd, 1, 0xa7⟩,
      .vldm ⟨1, 0xc3, 0x21, 0xf23, 1, 0, 0, 0xd, 0x1b, 0⟩,
      .vldm ⟨1, 0xc3, 0x21, 0xf23, 0, 1, 0, 0xd, 0x1b, 0⟩,
      .vldm ⟨1, 0xc3, 0x21, 0xf23, 0, 0, 1, 0xd, 0x1b, 0⟩,
      .vstm ⟨0, 0xc3, 0x21, 0xf23, 1, 0, 0, 0xd, 0x1b, 0⟩,
      .vstm ⟨0, 0xc3, 0x21, 0xf23, 0, 1, 0, 0xd, 0x1b, 0⟩,
      .vstm ⟨0, 0xc3, 0x21, 0xf23, 0, 0, 1, 0xd, 0x1b, 0⟩ ] = true := by decide

theorem test_wf_vk : refusesAll
    [ .vkld ⟨1, 0xc3, 0xbeef, 1, 0, 0, 0, 0xd, 0x1b, 0⟩,
      .vkld ⟨1, 0xc3, 0xbeef, 0, 1, 0, 0, 0xd, 0x1b, 0⟩,
      .vkld ⟨1, 0xc3, 0xbeef, 0, 0, 1, 0, 0xd, 0x1b, 0⟩,
      .vkst ⟨0, 0xc3, 0xbeef, 1, 9, 1, 1, 0xd, 0x1b, 0⟩,
      .vkst ⟨0, 0xc3, 0xbeef, 0, 9, 1, 1, 0xd, 0x1b, 1⟩ ] = true := by decide

theorem test_wf_m1 : refusesAll
    [ .mlease ⟨2, 0xd, 0x18, 0x23, 1, 0, 0, 0⟩,
      .mlease ⟨2, 0xd, 0x18, 0x23, 0, 1, 0, 0⟩,
      .mlease ⟨2, 0xd, 0x18, 0x23, 0, 0, 1, 0⟩,
      .mrel ⟨2, 0xd, 0x18, 0x23, 1, 0, 0, 0⟩,
      .mrel ⟨2, 0xd, 0x18, 0x23, 0, 1, 0, 0⟩,
      .mrel ⟨2, 0xd, 0x18, 0x23, 0, 0, 1, 0⟩,
      .mmode ⟨2, 0xd, 0x18, 0x23, 1, 0, 0, 1⟩,
      .mmode ⟨2, 0xd, 0x18, 0x23, 0, 1, 0, 1⟩,
      .mmode ⟨2, 0xd, 0x18, 0x23, 0, 0, 1, 1⟩,
      .mloadp ⟨2, 0xd, 0x18, 0x23, 0x2e, 0x39, 1, 9⟩,
      .mflow ⟨2, 0xd, 0x18, 0x23, 1, 0, 0, 2⟩,
      .mflow ⟨2, 0xd, 0x18, 0x23, 0, 1, 0, 2⟩,
      .mflow ⟨2, 0xd, 0x18, 0x23, 0, 0, 1, 2⟩,
      .mskew ⟨2, 0xd, 0x18, 0x23, 1, 0, 0, 0xa56⟩,
      .mskew ⟨2, 0xd, 0x18, 0x23, 0, 1, 0, 0xa56⟩,
      .mskew ⟨2, 0xd, 0x18, 0x23, 0, 0, 1, 0xa56⟩,
      .mclr ⟨2, 0xd, 0x18, 0x23, 0x2e, 1, 0, 0xc⟩,
      .mclr ⟨2, 0xd, 0x18, 0x23, 0x2e, 0, 1, 0xc⟩,
      .mpre ⟨2, 0xd, 0x18, 0x23, 0x2e, 1, 0, 1⟩,
      .mpre ⟨2, 0xd, 0x18, 0x23, 0x2e, 0, 1, 1⟩,
      .mdrain ⟨2, 0xd, 0x18, 0x23, 0x2e, 0x39, 1, 0x2800⟩,
      .mstat ⟨2, 0xd, 0x18, 0x23, 1, 0, 0, 0⟩,
      .mstat ⟨2, 0xd, 0x18, 0x23, 0, 1, 0, 0⟩,
      .mstat ⟨2, 0xd, 0x18, 0x23, 0, 0, 1, 0⟩ ] = true := by decide

theorem test_wf_m2 : refusesAll
    [ .mresume ⟨2, 0xd, 0x18, 0x23, 1, 0, 0, 0⟩,
      .mresume ⟨2, 0xd, 0x18, 0x23, 0, 1, 0, 0⟩,
      .mresume ⟨2, 0xd, 0x18, 0x23, 0, 0, 1, 0⟩ ] = true := by decide

theorem test_wf_c : refusesAll
    [ .cpys ⟨0, 2, 0xd, 0x18, 0x23, 0x2e, 0x39, 0x3c, 1⟩,
      .sbind ⟨0, 2, 0xd, 0x18, 0x23, 0x2e, 1, 0, 0xb⟩,
      .sbind ⟨0, 2, 0xd, 0x18, 0x23, 0x2e, 0, 1, 0xb⟩,
      .sunb ⟨1, 2, 0xd, 0x18, 0x23, 1, 0, 0, 0xb⟩,
      .sunb ⟨1, 2, 0xd, 0x18, 0x23, 0, 1, 0, 0xb⟩,
      .sunb ⟨1, 2, 0xd, 0x18, 0x23, 0, 0, 1, 0xb⟩,
      .radv ⟨0, 2, 0xd, 0x18, 0x23, 0x2e, 1, 0x3c, 1⟩,
      .pfill ⟨1, 2, 0xd, 0x18, 0x23, 0x2e, 1, 0x3c, 0⟩,
      .pfill ⟨1, 2, 0xd, 0x18, 0x23, 0x2e, 0, 0x3c, 1⟩,
      .pwb ⟨0, 2, 0xd, 0x18, 0x23, 1, 0, 0, 1⟩,
      .pwb ⟨0, 2, 0xd, 0x18, 0x23, 0, 1, 0, 1⟩,
      .pwb ⟨0, 2, 0xd, 0x18, 0x23, 0, 0, 1, 1⟩,
      .pinv ⟨1, 2, 0xd, 0x18, 0x23, 0x2e, 1, 0x3c, 2⟩,
      .cxadd ⟨0, 2, 0xd, 0x18, 0x23, 0x2e, 1, 0x3c, 0⟩,
      .cxadd ⟨0, 2, 0xd, 0x18, 0x23, 0x2e, 0, 0x3c, 1⟩,
      .cwaite ⟨1, 2, 0xd, 0x18, 0x23, 0x2e, 1, 0x3c, 4⟩ ] = true := by decide

/-! ### Ill-formed terms: fields of which only some values are allowed, and devices' units that do not exist -/

theorem test_wf_ranges_s : refusesAll
    [ .plx ⟨3, 17, 42, 16⟩, .plr ⟨3, 17, 42, 63⟩, .pltPeer ⟨3, 17, 42, 31⟩, .pltPeer ⟨3, 17, 42, 48⟩, .xlookW ⟨3, 17, 1, 1⟩, .xlookW ⟨3, 17, 0, 0⟩,
      .widf ⟨3, 17, 8⟩, .tallocHandle ⟨3, 17, 42, 2⟩, .callocDie ⟨3, 17, 42, 0⟩, .bany ⟨1, 42, 5⟩, .ball ⟨8, 42, 5⟩, .bnone ⟨4, 42, 5⟩,
      .lil ⟨3, 1⟩ 0, .kld ⟨3, 1, 0, 0, 5⟩, .kld ⟨3, 0, 1, 0, 5⟩, .kld ⟨3, 0, 0, 1, 5⟩, .kst ⟨3, 0, 1, 0, 5⟩, .kst ⟨3, 0, 0, 7, 5⟩,
      .crr ⟨3, 1, 5⟩, .fence ⟨0, 0, 8⟩, .fence ⟨0, 0, 0x800⟩, .trap ⟨1, 17, 0⟩, .brk ⟨0, 17, 0⟩, .cadd ⟨3, 17, 1, 0, 8⟩, .cadd ⟨3, 17, 0, 1, 0⟩,
      .atom ⟨3, 17, 0, 1, 0⟩, .qctlQuery ⟨3, 17, 42, 1⟩, .qctlSetmode ⟨3, 17, 42, 0⟩, .qctlDrain ⟨3, 17, 42, 3⟩, .qctlHalt ⟨3, 17, 42, 4⟩,
      .qctlResume ⟨3, 17, 42, 5⟩, .qctlAbort ⟨3, 17, 42, 6⟩, .qctlReset ⟨3, 17, 42, 7⟩ ] = true := by decide

theorem test_wf_ranges_v : refusesAll
    [ .vmulh ⟨0, 3, 17, 42, 0, 5, 0, 1, 0⟩, .vmulh ⟨0, 3, 17, 42, 0, 5, 1, 0, 0⟩, .vshl ⟨0, 3, 17, 42, 0, 5, 0, 0, 0x80⟩, .vshr ⟨0, 3, 17, 0, 0, 5, 0, 0, 0xC0⟩,
      .vcmp ⟨0, 64, 17, 42, 0, 5, 0, 0, 0⟩, .vsel ⟨0, 3, 17, 42, 0, 0, 3, 5, 0, 0, 0⟩, .vsel ⟨0, 3, 17, 42, 1, 0, 0, 5, 0, 0, 0⟩,
      .vsel ⟨0, 3, 17, 42, 1, 0, 2, 5, 0, 0, 0⟩, .vfsgn ⟨0, 3, 17, 0, 0, 9, 0, 0, 5⟩, .vfsgn ⟨0, 3, 17, 42, 0, 9, 0, 0, 3⟩, .vcvt ⟨0, 3, 17, 0, 0, 5, 0, 0, 16⟩,
      .vbfpq ⟨0, 3, 17, 0, 1, 9, 0, 0, 0⟩, .vbfpd ⟨0, 3, 17, 0, 0, 9, 0, 0, 16⟩, .vpshl ⟨0, 3, 17, 0, 0, 0, 0, 1, 16⟩, .vred ⟨0, 3, 17, 0, 0, 5, 0, 0, 7⟩,
      .vred ⟨0, 3, 17, 0, 64, 5, 0, 0, 0x80⟩, .vred ⟨0, 3, 17, 0, 0, 5, 0, 1, 1⟩, .vscan ⟨0, 3, 17, 0, 0, 9, 1, 0, 9⟩, .vperm ⟨0, 3, 17, 42, 0, 5, 0, 0, 2⟩,
      .vperm ⟨0, 3, 17, 42, 5, 5, 0, 0, 0⟩, .vslide ⟨0, 3, 17, 42, 0x10000⟩, .vbcast ⟨0, 3, 17, 0, 0x1000000⟩, .vbcastElement ⟨0, 3, 17, 42, 0⟩,
      .viota ⟨0, 3, 17, 1, 0⟩, .vextr ⟨0, 3, 17, 42, 0⟩, .vmov ⟨0, 3, 17, 0, 0, 0, 0, 0, 32⟩ ] = true := by decide

theorem test_wf_ranges_v2 : refusesAll
    [ .vld ⟨0, 3, 17, 0, 1, 0, 0, 9, 0, 0⟩, .vld ⟨0, 3, 17, 0, 0, 0, 1, 9, 0, 0⟩, .vst ⟨0, 3, 17, 0, 1, 0, 0, 9, 0, 0⟩, .vst ⟨0, 3, 17, 0, 0, 0, 3, 9, 0, 0⟩,
      .vlde ⟨0, 3, 17, 0, 0, 0, 0, 9, 1, 0⟩, .vste ⟨0, 3, 17, 0, 0, 1, 0, 9, 0, 0⟩, .vldm ⟨0, 3, 17, 0, 0, 0, 0, 9, 0, 1⟩, .vstm ⟨0, 3, 17, 0, 0, 0, 1, 9, 0, 0⟩,
      .vgth ⟨0, 3, 17, 42, 0x40000⟩, .vsct ⟨0, 3, 17, 42, 0x8000000⟩, .vsct ⟨0, 3, 17, 42, 0xC0000⟩, .vkld ⟨0, 3, 5, 1, 0, 0, 0, 9, 0, 0⟩,
      .vkst ⟨0, 3, 5, 2, 0, 0, 0, 9, 0, 0⟩, .pand ⟨0, 64, 1, 2, 0, 0, 0, 0, 0⟩, .por ⟨0, 1, 64, 2, 0, 0, 0, 0, 0⟩, .pxor ⟨0, 1, 2, 64, 0, 0, 0, 0, 0⟩,
      .pnot ⟨0, 1, 64, 0, 0, 0, 0, 0, 0⟩, .pcnt ⟨0, 64, 1, 0, 0, 5, 0, 0, 0⟩, .pset ⟨0, 1, 0, 0, 0, 5, 0, 2, 0⟩, .pset ⟨0, 1, 0, 0, 0, 0, 0, 1, 1⟩,
      .lsclr ⟨1, 0, 0, 0, 0, 5, 0, 0, 3⟩, .lsins ⟨1, 0, 1, 2, 0, 5, 0, 0, 0⟩, .lsins ⟨0, 0, 1, 2, 5, 5, 0, 0, 0⟩, .lsrd ⟨1, 3, 0, 0, 0, 0, 0, 0, 0⟩,
      .lsrd ⟨0, 3, 0, 0, 0, 0, 0, 0, 32⟩, .vhist ⟨1, 3, 17, 0, 0, 5, 0, 0, 0⟩, .vhist ⟨0, 3, 17, 0, 5, 5, 0, 0, 0⟩ ] = true := by decide

theorem test_wf_ranges_mc : refusesAll
    [ .mmode ⟨2, 0, 0, 0, 0, 0, 0, 2⟩, .mloadp ⟨2, 0, 0, 0, 1, 2, 0, 16⟩, .mflow ⟨2, 0, 0, 0, 0, 0, 0, 4⟩, .mskew ⟨2, 0, 0, 0, 0, 0, 0, 0x1000⟩,
      .mclr ⟨2, 0, 0, 0, 0, 0, 0, 5⟩, .mclr ⟨2, 0, 0, 0, 1, 0, 0, 3⟩, .mpre ⟨2, 0, 0, 0, 1, 0, 0, 2⟩, .mfeed ⟨2, 0, 0, 0, 1, 2, 3, 0x1000⟩,
      .mfeedr ⟨2, 0, 0, 0, 1, 2, 3, 0x2000⟩, .mdrain ⟨2, 0, 0, 0, 1, 2, 0, 1⟩, .cpy ⟨0, 2, 0, 0, 0, 1, 2, 3, 1⟩, .cpyt ⟨0, 2, 0, 0, 0, 1, 2, 3, 0x20⟩,
      .gth ⟨0, 2, 0, 0, 0, 1, 2, 3, 1⟩, .sct ⟨0, 2, 0, 0, 0, 1, 2, 3, 1⟩, .cpyg ⟨0, 2, 0, 0, 0, 1, 2, 3, 4⟩, .sbind ⟨0, 2, 0, 0, 0, 1, 0, 0, 16⟩,
      .sunb ⟨0, 2, 0, 0, 0, 0, 0, 0, 16⟩, .radv ⟨0, 2, 0, 0, 0, 1, 0, 3, 2⟩, .pwb ⟨0, 2, 0, 0, 0, 1, 0, 0, 1⟩, .pwb ⟨0, 2, 0, 0, 0, 0, 0, 0, 2⟩,
      .pinv ⟨0, 2, 0, 0, 0, 0, 0, 1, 1⟩, .pinv ⟨0, 2, 0, 0, 0, 1, 0, 1, 4⟩, .cwaite ⟨0, 2, 0, 0, 0, 1, 0, 3, 8⟩ ] = true := by decide

theorem test_wf_units : refusesAll
    [ .bundleDispatch 512, .stickyIssue 0 6, .streamFillItem 0 16, .bankHandover 256, .pendingEventRecordWrite (.ctx 32) 0, .pendingEventRecordWrite .dev 5,
      .counterAdd 4, .correctedError 5 ⟨0, none⟩, .correctedError 0 ⟨5, none⟩, .clockStepSet 0 6, .clockStepSet 5 0, .thermalTrip 5, .writeThroughArrival 0 4,
      .writeThroughAck 4 0, .kernelSelect 32, .agingInterval 0 64, .colset 0 4096 [], .colclr 32 0, .hcaVal 17, .pairWindow 64, .rekeyDeadline 10 ⟨0, 0⟩,
      .rekeyDeadline 36 ⟨0, 0⟩, .vcreset 0 ⟨8, 0⟩, .vcreset 0 ⟨0, 2048⟩, .gatewayRetryTimeout ⟨8, 0⟩ 8 0, .fabricVcPause 15 0 true, .fabricVcPause 36 0 true, .lnkVcpWrite 15 0,
      .fdispResume (.ctx 32) 0, .fabricPacketReceive { dst := 0, src := 8, dom := 0, vc := 8, seq := 0, body := .ack 0 0 },
      .ethernetFrameReceive 31 0 { dst := 0, src := 8, dom := 0, vc := 1, seq := 0, body := .ack 0 0 } ] = true := by decide

/-! ### Bundles rejected, by name (R50 to R52, R66, R72, R74) -/

theorem test_reject_truncated : rejects 3 0x000100 .truncated = true ∧ rejects 4 0x00000100 .truncated = true := by decide
theorem test_reject_reservedKind : rejects 8 0x010C1080C0000100 .reservedKind = true := by decide
theorem test_reject_reservedHeader : rejects 8 0x010C108010000100 .reservedHeader = true ∧ rejects 8 0x010C108000000101 .reservedHeader = true := by decide
theorem test_reject_reservedSafePoint : rejects 12 0x010C10800000000140000100 .reservedSafePoint = true := by decide
theorem test_reject_stickyPresent : rejects 12 0x004060411800410000008200 .stickyPresent = true := by decide
theorem test_reject_stickyScalar : rejects 8 0x010C108000004100 .stickyScalar = true := by decide
theorem test_reject_unassignedOpcode : rejects 8 0x1F00000000000100 .unassignedOpcode = true := by decide
theorem test_reject_unusedField : rejects 8 0x010C108100000100 .unusedField = true := by decide
theorem test_reject_transferRepeat : rejects 8 0x40042FFC00100100 .transferRepeat = true := by decide
theorem test_reject_lilMismatch : rejects 8 0x2A1C000000000100 .lilMismatch = true ∧ rejects 16 0x010C1080000000000000000080000100 .lilMismatch = true := by
  decide
theorem test_reject_cwaitMismatch : rejects 8 0x630D1A8200000100 .cwaitMismatch = true := by decide
theorem test_reject_vZeroOnly : (encode (.lsrd ⟨0, 3, 0, 0, 0, 0, 0, 0, 1⟩)).map (fun w => rejects 12 (0x400 + 2 ^ 32 * w) .vZeroOnly) = some true := by
  decide

/-! ### Witnesses: scalar operations, places, tiles, transfers of control -/

/-- The reset state with scalar registers x. -/
def withX (x : Map Word) : State :=
  State.reset.upd fun b => { b with run := .ready, regs := { b.regs with x := x }, view := { b.view with x := x } }

/-- x1 is the most negative number, x2 is -1, x3 is 2^57 - 1, x4 is 1, x5 is 2^32 - 1. -/
def wX : State := withX [(1, 0x8000000000000000), (2, 0xFFFFFFFFFFFFFFFF), (3, 0x1FFFFFFFFFFFFFF), (4, 1), (5, 0xFFFFFFFF)]

/-- The same with an operation outstanding on register 1. -/
def wPend : State := wX.upd fun b =>
  { b with regs := { b.regs with tok := [(1, ⟨[0], none, 0⟩)] }, view := { b.view with tok := [(1, ⟨[0], none, 0⟩)] } }

theorem witness_IntegerOperationsComplete :
    srResult (.div ⟨3, 1, 2, 0⟩) (wX.rx 1) (wX.rx 2) = some (⟨3, 1, 2, 0⟩, 0x8000000000000000) ∧ Readable wX [1, 2] 3 ∧
    srResult (.remn ⟨0, 1, 0, 0⟩) (wX.rx 1) (wX.rx 0) = some (⟨0, 1, 0, 0⟩, 0x8000000000000000) ∧ Readable wX [1, 0] 0 := by
  unfold Readable; decide

theorem witness_ImmediateOperationsComplete :
    siResult (.srai ⟨3, 1, 63⟩) (wX.rx 1) = some (⟨3, 1, 63⟩, 0xFFFFFFFFFFFFFFFF) ∧ Readable wX [1] 3 ∧
    immShiftOp (.slli ⟨3, 1, 64⟩) = some ⟨3, 1, 64⟩ ∧ 64 ≤ (64 : BitVec 12).toNat ∧ Readable wX [] 3 ∧ Readable wX [3] 3 ∧
    wPend.bank.view.pending 1 = true := by
  unfold Readable; decide

theorem witness_BitCountsComplete : Readable wX [0] 3 ∧ Readable wX [2] 0 := by unfold Readable; decide

theorem witness_ScalarRegisterWrite : (63 : XReg) ≠ 0 ∧ (1 : XReg) ≠ 63 := by decide

theorem witness_PendingOperandStalls :
    srResult (.add ⟨3, 1, 2, 0⟩) (wPend.rx 1) (wPend.rx 2) = some (⟨3, 1, 2, 0⟩, 0x7FFFFFFFFFFFFFFF) ∧
    wPend.bank.view.pending 1 = true ∧
    srResult (.add ⟨1, 2, 4, 0⟩) (wPend.rx 2) (wPend.rx 4) = some (⟨1, 2, 4, 0⟩, 0) ∧ wPend.bank.regs.pending 1 = true := by
  decide

theorem witness_PlaceBuildersComplete :
    Readable wX [3, 0] 6 ∧ (wX.rx 3).toNat + (wX.rx 0).toNat < 2 ^ 57 ∧
    Readable wX [3, 4] 6 ∧ 2 ^ 57 ≤ (wX.rx 3).toNat + (wX.rx 4).toNat ∧
    Readable wX [4, 5] 6 ∧ (wX.rx 4).toNat < 2 ^ 8 ∧ (wX.rx 5).toNat < 2 ^ 32 ∧
    ¬ ((wX.rx 4).toNat < 2 ^ 8 ∧ (wX.rx 3).toNat < 2 ^ 32) ∧ 32 ≤ (47 : BitVec 8).toNat ∧ (47 : BitVec 8).toNat < 48 ∧
    (wX.rx 4).toNat < 2 ^ 13 ∧ (wX.rx 5).toNat < 2 ^ 44 ∧ ¬ ((wX.rx 5).toNat < 2 ^ 13 ∧ (wX.rx 5).toNat < 2 ^ 44) := by
  unfold Readable; decide

theorem witness_PaddMovesPlaces :
    Readable wX [3, 2] 6 ∧ movedPlace (wX.rx 3) (wX.rx 2) = some 0x1FFFFFFFFFFFFFE ∧
    Readable wX [3, 4] 6 ∧ movedPlace (wX.rx 3) (wX.rx 4) = none := by
  unfold Readable; decide

/-- Extent 15 holds the 64 bytes at 256 and permits reads only; x1 is the last address of it, x2 the first after it, x3 is not canonical. -/
def wExt : State := (withX [(1, 319), (2, 320), (3, 0x0040000000000000)]).upd fun b => { b with exts := [(15, ⟨256, 64, 1⟩)] }

/-- A kernel with index widths 3, 4, 57 and three of 0, in slot 0 of context 0; the bank runs its task. -/
def wKernel : Kernel :=
  { gen := 0, st := .running,
    hdr := { sys := false, overlap := false, shared := false, prio := 0, entry := 0, sptab := 0, widths := [3, 4, 57, 0, 0, 0],
             binds := [], n := 1, vregs := 32, kennel := 0, tile := 0, mill := false, deps := [], doneId := 0, doneAmt := 0,
             args := [], regions := [] },
    queue := 0, order := 0, cause := 0, detail := 0, prio := 0, aged := 0, frames := [], depFrm := [], stop := none, next := 1,
    placed := [(0, some 0)], halted := 0, ended := 0, adding := false, addRes := none, fwds := [], consumer := none, pred := none }

/-- Context 0 RUNNING with that kernel. -/
def wRun (x : Map Word) : State := { withX x with ctxs := [(0, { Ctx.reset with st := .running, kernels := [(0, some wKernel)] })] }

theorem witness_LookupsComplete :
    Readable wExt [1] 4 ∧ Readable wExt [2] 4 ∧ Readable wExt [3] 4 ∧ canonical (wExt.rx 1) = true ∧
    holdsAddr wExt 15 (wExt.rx 1) false ∧ (∀ m, m < 15 → ¬ holdsAddr wExt m (wExt.rx 1) false) ∧
    canonical (wExt.rx 2) = true ∧ (∀ n, n < 16 → ¬ holdsAddr wExt n (wExt.rx 2) false) ∧
    (∀ n, n < 16 → ¬ holdsAddr wExt n (wExt.rx 1) true) ∧ canonical (wExt.rx 3) = false ∧
    Readable (wRun [(1, 77)]) [1] 2 ∧ (wRun [(1, 77)]).myKernel = some wKernel ∧ wKernel.hdr.widths[5]? = some 0 ∧
    (5 : BitVec 12).toNat < 6 ∧ 6 ≤ (6 : BitVec 12).toNat := by
  unfold Readable holdsAddr; and_intros <;> decide

/-- A plain level-1 tile of 4 rows by 128 FP32 columns, and the same as a race of two slots (R37): one granule each. -/
def wPlain : Word := 0x000400804C000000
def wRace : Word := 0x000400804D010000
def wShape : Shape := shapeRaw wPlain

/-- x1 is the plain shape word, x2 the race's, x3 a reserved format, x4 the last handle, x5 one more, x6 the value 1. Tiles as given. -/
def wTiles (bound : Nat) (ts : Map (Option Tile)) : State :=
  (withX [(1, wPlain), (2, wRace), (3, 0x0004008090000000), (4, 255), (5, 256), (6, 1)]).upd fun b =>
    { b with id := { b.id with tileBound := bound }, tiles := ts }

/-- Tile 255 is a plain one, tile 254 a race locked by stream 16. -/
def wTwo : State :=
  wTiles 2 [(254, some { freshTile wRace 1 with head := 1, tail := 0xFFFFFFFF, lock := some 16 }), (255, some (freshTile wPlain 1))]

/-- Every handle is ALLOCATED. -/
def wFull : State := wTiles 512 ((List.range 256).map fun h => (h, some (freshTile wPlain 1)))

/-- Handles 0 to 254 are ALLOCATED: only 255 is FREE. -/
def wLast : State := wTiles 256 ((List.range 255).map fun h => (h, some (freshTile wPlain 1)))

theorem witness_TileManagementCompletes :
    (Readable wLast [1] 7 ∧ shapeOf (wLast.rx 1) = some wShape ∧ wLast.tile 255 = none ∧ (∀ k, k < 255 → wLast.tile k ≠ none) ∧
      canAllocate wLast wShape) ∧
    (Readable wLast [1, 4] 7 ∧ (wLast.rx 4).toNat < 256 ∧ wLast.tile (wLast.rx 4).toNat = none) ∧
    (Readable wTwo [4] 0 ∧ Idle wTwo (wTwo.rx 4).toNat (freshTile wPlain 1)) ∧
    (Readable wTwo [4, 2] 0 ∧ shapeOf (wTwo.rx 2) = some (shapeRaw wRace) ∧ (shapeRaw wRace).level = wShape.level ∧
      (shapeRaw wRace).granules ≤ 1) := by
  unfold Readable canAllocate Idle Unused InUse; and_intros <;> decide +kernel

theorem witness_TileManagementFaults :
    (Readable wTwo [3] 7 ∧ shapeOf (wTwo.rx 3) = none) ∧
    (Readable wFull [1] 7 ∧ shapeOf (wFull.rx 1) = some wShape ∧ (∀ h, h < 256 → wFull.tile h ≠ none)) ∧
    (Readable wTwo [1] 7 ∧ wTwo.tile 0 = none ∧ wTwo.bank.id.tileBound < wTwo.bank.granules + wShape.granules) ∧
    (let s := (wTiles 2 []).modCore 0 fun c => { c with pool1 := 0 }
     Readable s [1] 7 ∧ s.tile 255 = none ∧ s.bank.granules + wShape.granules ≤ s.bank.id.tileBound ∧
       s.pool wShape.level < wShape.granules) ∧
    (Readable wTwo [1, 4] 7 ∧ (wTwo.rx 4).toNat < 256 ∧ wTwo.tile (wTwo.rx 4).toNat ≠ none) ∧
    (Readable wTwo [6] 0 ∧ wTwo.tile (wTwo.rx 6).toNat = none) ∧
    (wTwo.tile 254).map (·.lock) = some (some 16) ∧
    (Readable wTwo [6, 1] 0 ∧ shapeOf (wTwo.rx 1) = some wShape) ∧
    (Readable wTwo [1, 6] 7 ∧ (wTwo.rx 6).toNat < 256 ∧ wTwo.tile (wTwo.rx 6).toNat = none) ∧
    (Readable wTwo [3, 4] 7 ∧ Readable wTwo [4, 3] 0) ∧
    (let s := (wTiles 2 []).modCore 0 fun c => { c with pool1 := 0 }
     Readable s [1, 6] 7 ∧ s.tile (s.rx 6).toNat = none) ∧
    (let s := wTiles 2 [(255, some (freshTile wPlain 0))]
     Readable s [4, 1] 0 ∧ Idle s (s.rx 4).toNat (freshTile wPlain 0) ∧ wShape.level = (shapeRaw wPlain).level ∧ 0 < wShape.granules) ∧
    (let s := wTiles 2 [(255, some (freshTile (wPlain ^^^ 0x4000000) 1))]
     Readable s [4, 1] 0 ∧ Idle s (s.rx 4).toNat (freshTile (wPlain ^^^ 0x4000000) 1) ∧
       wShape.level ≠ (shapeRaw (wPlain ^^^ 0x4000000)).level) := by
  unfold Readable Idle Unused InUse; and_intros <;> decide +kernel

theorem witness_TileQueriesComplete :
    (Readable wTwo [6] 7 ∧ (wTwo.rx 6).toNat < 2 ∧ wTwo.tile (wTwo.rx 6).toNat = none) ∧
    (Readable wTwo [4] 7 ∧ (wTwo.rx 4).toNat < 256 ∧ wTwo.tile (wTwo.rx 4).toNat = some (freshTile wPlain 1) ∧
      (shapeRaw wPlain).race = false ∧ (shapeRaw wRace).race = true) ∧
    (Readable wTwo [5] 7 ∧ 256 ≤ (wTwo.rx 5).toNat) ∧ 5 ≤ (5 : BitVec 6).toNat := by
  unfold Readable; and_intros <;> decide +kernel

/-- x1 is -1 and x2 is 0; x3 is a multiple of 4, x4 not, x5 is the largest canonical address. Predicate register 1 holds one bit, the
last of the 256. -/
def wBranch : State :=
  (withX [(1, 0xFFFFFFFFFFFFFFFF), (3, 64), (4, 66), (5, 0x003FFFFFFFFFFFFF)]).upd fun b =>
    { b with pc := 128, view := { b.view with p := [(1, BitVec.ofNat 256 (2 ^ 255))] } }

/-- The same at an address from which a branch forward is not canonical. -/
def wEdge : State := wBranch.upd fun b => { b with pc := 0x003FFFFFFFFFFFC0 }

theorem witness_BranchesComplete :
    (compareBranch (.blt ⟨1, 2, 0x800⟩) (wBranch.rx 1) (wBranch.rx 2) = some (⟨1, 2, 0x800⟩, true) ∧ Readable wBranch [1, 2] 0 ∧
      canonical (away wBranch (-32)) = true) ∧
    compareBranch (.bltn ⟨1, 2, 16⟩) (wBranch.rx 1) (wBranch.rx 2) = some (⟨1, 2, 16⟩, false) ∧
    (compareBranch (.bne ⟨1, 2, 2047⟩) (wEdge.rx 1) (wEdge.rx 2) = some (⟨1, 2, 2047⟩, true) ∧ Readable wEdge [1, 2] 0 ∧
      canonical (away wEdge 2047) = false) ∧
    (predicateBranch (.bany ⟨0, 1, 0⟩) (mget 0 wBranch.bank.view.p (wBranch.pkey 1)) = some (⟨0, 1, 0⟩, true) ∧
      predicateBranch (.bany ⟨16, 1, 0⟩) (mget 0 wBranch.bank.view.p (wBranch.pkey 1)) = some (⟨16, 1, 0⟩, false) ∧
      wBranch.poisoned (512 + wBranch.pkey 1) = false) ∧
    (predicateBranch (.bany ⟨0, 1, 2047⟩) (mget 0 wEdge.bank.view.p (wEdge.pkey 1)) = some (⟨0, 1, 2047⟩, true) ∧
      wEdge.poisoned (512 + wEdge.pkey 1) = false) := by
  unfold Readable; and_intros <;> decide +kernel

theorem witness_TransfersComplete :
    canonical (away wBranch (-32)) = true ∧ canonical (away wEdge 15) = true ∧ Readable wBranch [] 63 ∧
    (Readable wBranch [3] 0 ∧ canonical (wBranch.rx 3) = true ∧ (wBranch.rx 3).toNat % 4 = 0) ∧
    (Readable wBranch [4] 0 ∧ canonical (wBranch.rx 4) = true ∧ (wBranch.rx 4).toNat % 4 ≠ 0) := by
  unfold Readable; decide

theorem witness_ControlRegisterReads :
    Readable wTwo [] 7 ∧ (0x22F, (0 : Word)) ∈ crTable wTwo ∧ (0x14 : BitVec 12).toNat = 0x010 + 4 ∧ (0x17D : BitVec 12).toNat = 0x100 + 8 * 15 + 5 ∧
    0x230 ≤ (0xFFF : BitVec 12).toNat := by
  unfold Readable; decide

/-- x1 holds the value given. -/
def wOne (v : Word) : State := withX [(1, v)]

theorem witness_ControlRegisterWrites :
    (crNew (.crw ⟨2, 1, 0x000⟩) 0 ((wOne 5).rx 1) = some (⟨2, 1, 0x000⟩, 5) ∧ Readable (wOne 5) [1] 2) ∧
    (crNew (.crs ⟨2, 1, 0x001⟩) 0 ((wOne 63).rx 1) = some (⟨2, 1, 0x001⟩, 63) ∧ Readable (wOne 63) [1] 2) ∧
    (crNew (.crw ⟨2, 1, 0x002⟩) 0x9E3779B9 ((wOne 0xFFFFFFFF).rx 1) = some (⟨2, 1, 0x002⟩, 0xFFFFFFFF) ∧
      ((wOne 0xFFFFFFFF).rx 1).toNat < 2 ^ 32) ∧
    ((wOne 47).bank.ctl.rotV = 0 ∧ ((wOne 47).rx 1).toNat < (wOne 47).rotM ∧ ((wOne 47).rx 1).toNat < 48 ∧ Readable (wOne 47) [1] 2) ∧
    (((wOne (BitVec.ofInt 64 (-256))).rx 1).toNat % 256 = 0 ∧ (0x17D : BitVec 12).toNat % 8 < 6 ∧ (0x17D : BitVec 12).toNat < 0x180) ∧
    (((wOne 0x1847FFFE).rx 1) &&& ~~~0x1C7FFFFF = 0 ∧ bitsOf ((wOne 0x1847FFFE).rx 1).toNat 28 26 = 6) ∧
    (crNew (.crc ⟨2, 1, 0x002⟩) 0x9E3779B9 ((wOne 0xFFFFFFFF).rx 1) = some (⟨2, 1, 0x002⟩, 0)) ∧
    (crNew (.crw ⟨2, 1, 0x000⟩) 0 ((wOne 6).rx 1) = some (⟨2, 1, 0x000⟩, 6)) ∧ 48 ≤ ((wOne 48).rx 1).toNat := by
  unfold Readable; decide

theorem witness_KennelOrderAndEndComplete :
    (Readable wTwo [] 7 ∧ ∀ k, k < 8 → mget false wTwo.bank.kpoison ((8 * (8191 : BitVec 13).toNat + k) % 65536) = false) ∧
    (Readable wTwo [1] 0 ∧ wTwo.poisoned (512 + (7 : BitVec 3).toNat) = false) ∧
    (4 < (5 : BitVec 12).toNat % 8 ∧ (0x2 : BitVec 12).toNat / 16 % 4 = 0 ∧ wTwo.bank.heldBack = false ∧
      (0x34 : BitVec 12).toNat % 8 = 4 ∧ (0x34 : BitVec 12).toNat / 16 % 4 = 3) ∧
    (1 : BitVec 6).toNat < 2 ∧ 2 ≤ (2 : BitVec 6).toNat ∧ (wTwo.getBank (otherBank wTwo.cur)).run ≠ .ready ∧
    ((wTwo.setBank 1 { Bank.reset with run := .ready }).getBank (otherBank wTwo.cur)).run = .ready := by
  unfold Readable; and_intros <;> decide

/-- A context with a fault area of one record or more. -/
def wArea : State := { wOne 7 with ctxs := [(0, { Ctx.reset with st := .running, fa := 0x0001000000001000 })] }

theorem witness_TrapsTakeTheirFault :
    Readable wArea [1] 0 ∧ (255 : BitVec 12).toNat ≤ 255 ∧ (wArea.ctx wArea.bank.id.ctx).faults.length < faCap (wArea.ctx 0).fa ∧
    255 < (256 : BitVec 12).toNat := by
  unfold Readable; decide

/-! ### Witnesses: the vector slots -/

/-- Vector registers: v1 and v2 I32 with the largest number and 1 in element 0; v3 and v4 FP32 with 1.0 and 2.0; v6 and v7 a BFP pair; v8
PACKED; v9 IDX zeros; v10 N32; v16 to v31 planes. The EFR of slot V0 has width 8 and BFP mantissas of 8 bits. x1 is 1. Predicate register 1 governs
everything. -/
def wVregs : Map VReg :=
  [(1, ⟨0x7FFFFFFF, tI32⟩), (2, ⟨1, tI32⟩), (3, ⟨0x3F800000, tFP32⟩), (4, ⟨0x40000000, tFP32⟩), (6, ⟨1, tBFP⟩), (7, ⟨127, tBFP⟩),
   (8, ⟨0xFF, tPACKED⟩), (9, ⟨0, tIDX⟩), (10, ⟨5, tN32⟩)] ++ (List.range 16).map fun k => (16 + k, ⟨1, tPLANE⟩)

def wV : State :=
  (withX [(1, 1)]).upd fun b =>
    { b with regs := { b.regs with v := wVregs, p := [(1, BitVec.allOnes 256)] },
             view := { b.view with v := wVregs, p := [(1, BitVec.allOnes 256)] },
             ctl := { b.ctl with efr := [(0, 0x1800000E)] } }

/-- Register n of those. -/
def wReg (n : Nat) : VReg := mget VReg.zero wVregs n

theorem witness_IntegersArePlaced : (1 : Nat) ≤ 1 ∧ (-2 : Int) < -2 ^ (2 - 1) + 1 ∧ (2 ^ (8 - 1) - 1 : Int) < 128 ∧ (-129 : Int) < -2 ^ (8 - 1) := by
  decide

theorem witness_IntegerVectorOperationsComplete :
    let o : VrOp := ⟨0, 5, 1, 2, 0, 5, 0, 1, 0⟩
    let e := wV.efr 1
    (∀ x y z, ∃ r, vecIntOp (.vadd o) (ikindOf tI32 e) x y z = some (o, false, true, r)) ∧ o.sm.toNat < 2 ∧
    wV.vsrc 1 1 = .ok (wReg 1, wV) ∧ (wReg 1).tag = tI32 ∧ wV.vsrc 1 2 = .ok (wReg 2, wV) ∧ (wReg 2).tag = tI32 ∧
    ∃ rs t, (triples tI32 e (wReg 1) (wReg 2) VReg.zero).map
        (fun x => (vecIntOp (.vadd o) (ikindOf tI32 e) x.1 x.2.1 x.2.2).map (·.2.2.2)) = rs.map some ∧
      (wV.addFlags (allFlags rs)).vdst 1 5 (vpack tI32 e (rs.map (·.1))) = .ok t :=
  ⟨fun _ _ _ => ⟨_, rfl⟩, by decide, rfl, rfl, rfl, rfl,
    (triples tI32 (wV.efr 1) (wReg 1) (wReg 2) VReg.zero).map fun x => placeInt (x.1 + x.2.1) (ikindOf tI32 (wV.efr 1)) true, _,
    by rw [List.map_map]; rfl, rfl⟩

/-- Register 5 takes any value from slot V0, flags and the state of RS.SEED updated or not. -/
def takesAny (s : State) : Prop :=
  (∀ v, ∃ t, s.vdst 1 5 v = .ok t) ∧ (∀ fl v, ∃ t, (s.addFlags fl).vdst 1 5 v = .ok t) ∧ ∀ r v, ∃ t, (s.rounded r).vdst 1 5 v = .ok t

theorem wV_takesAny : takesAny wV := ⟨fun _ => ⟨_, rfl⟩, fun _ _ => ⟨_, rfl⟩, fun _ _ => ⟨_, rfl⟩⟩

theorem witness_ShiftsAndProductsComplete :
    (wV.vsrc 1 1 = .ok (wReg 1, wV) ∧ (wReg 1).tag = tI32 ∧ wV.vsrc 1 2 = .ok (wReg 2, wV) ∧ (wReg 2).tag = tI32 ∧ isInt tI32 = true ∧
      isSigned tI32 = true ∧ wV.rmCode 5 = .ok 5 ∧ wV.rmCode 6 = .ok 0 ∧ takesAny wV) ∧
    (∃ xs, wV.vshift ⟨0, 5, 1, 0, 0, 5, 0, 0, 0x9F⟩ = .ok (xs, wV) ∧ xs.head? = some (0x7FFFFFFF, 31)) :=
  ⟨⟨rfl, rfl, rfl, rfl, rfl, rfl, rfl, rfl, wV_takesAny⟩, _, rfl, by decide +kernel⟩

theorem witness_ComparesAndBitwiseComplete :
    (isInt tI32 = true ∧ (5 : BitVec 8).toNat < 6 ∧ wV.vsrc 1 1 = .ok (wReg 1, wV) ∧ (wReg 1).tag = tI32 ∧
      wV.vsrc 1 2 = .ok (wReg 2, wV) ∧ (wReg 2).tag = tI32) ∧
    (sizedFmt tI32 = true ∧ tI32 ≠ tRAW ∧ wV.pget 1 = .ok (BitVec.allOnes 256) ∧ takesAny wV) ∧
    wV.vsrc 1 3 = .ok (wReg 3, wV) :=
  ⟨⟨rfl, by decide, rfl, rfl, rfl, rfl⟩, ⟨rfl, by decide, rfl, wV_takesAny⟩, rfl⟩

theorem witness_FloatVectorOperationsComplete :
    isFp3 tFP32 = true ∧ (∀ r x y z, vecFpOp (.vfma ⟨0, 5, 3, 4, 3, 9, 5, 0, 0⟩) (fpFmt tFP32) r x y z =
        some (⟨0, 5, 3, 4, 3, 9, 5, 0, 0⟩, 3, true, fpDone (fpFmt tFP32) r (fvFma r x y z))) ∧
    (∀ r x y z, vecFpOp (.vfmin ⟨0, 5, 3, 4, 0, 9, 0, 0, 0⟩) (fpFmt tFP32) r x y z =
        some (⟨0, 5, 3, 4, 0, 9, 0, 0, 0⟩, 2, false, fpPack (fpFmt tFP32) r (fvMinMax false x y))) ∧
    wV.rmCode 5 = .ok 5 ∧ wV.vsrc 1 3 = .ok (wReg 3, wV) ∧ (wReg 3).tag = tFP32 ∧ wV.vsrc 1 4 = .ok (wReg 4, wV) ∧
    (wReg 4).tag = tFP32 ∧ takesAny wV :=
  ⟨rfl, fun _ _ _ _ => rfl, fun _ _ _ _ => rfl, rfl, rfl, rfl, rfl, rfl, wV_takesAny⟩

theorem witness_FloatComparesAndSignsComplete :
    isFp3 tFP32 = true ∧ (7 : BitVec 8).toNat < 8 ∧ (4 : BitVec 8).toNat < 5 ∧ wV.vsrc 1 3 = .ok (wReg 3, wV) ∧ (wReg 3).tag = tFP32 ∧
    wV.vsrc 1 4 = .ok (wReg 4, wV) ∧ (wReg 4).tag = tFP32 ∧ takesAny wV :=
  ⟨rfl, by decide, by decide, rfl, rfl, rfl, rfl, wV_takesAny⟩

theorem witness_FloatSpecialOperands : isFp3 tBF16 = true ∧ (1 : Nat) ≠ 0 := by decide

theorem witness_ConversionsComplete :
    (cvtFmt tI8 = true ∧ cvtFmt (wReg 1).tag = true ∧ wV.rmCode 0 = .ok 0 ∧ wV.vsrc 1 1 = .ok (wReg 1, wV) ∧
      nElems tI32 (wV.efr 1) < nElems tI8 (wV.efr 1) ∧
      ((3 : BitVec 8).toNat % 16 + 1) * min (nElems tI32 (wV.efr 1)) (nElems tI8 (wV.efr 1)) ≤
        max (nElems tI32 (wV.efr 1)) (nElems tI8 (wV.efr 1)) ∧
      (∀ r, ∃ old, (wV.rounded r).vold 1 5 = .ok (old, wV.rounded r)) ∧ takesAny wV) ∧
    (cvtFmt tI64 = true ∧ nElems tI64 (wV.efr 1) ≤ nElems tI32 (wV.efr 1) ∧
      ((1 : BitVec 8).toNat % 16 + 1) * min (nElems tI32 (wV.efr 1)) (nElems tI64 (wV.efr 1)) ≤
        max (nElems tI32 (wV.efr 1)) (nElems tI64 (wV.efr 1))) ∧
    (wV.vnumber 1 6 % 2 = 0 ∧ wV.vsrcs 1 6 2 = .ok ([wReg 6, wReg 7], wV) ∧ (wReg 6).tag = tBFP ∧ (wReg 7).tag = tBFP ∧
      (wV.efr 1).bfpw = 8 ∧ (∀ fl vs, ∃ t, (wV.addFlags fl).vdsts 1 6 [vs, vs] = .ok t) ∧
      ∃ old, wV.volds 1 6 2 = .ok (old, wV)) ∧
    ((3 : BitVec 8).toNat % 16 + 1) * (nElems tFP32 (wV.efr 1) / 32) ≤ 64 / 8 ∧ wV.vmask true 1 = .ok (fun i b => governs (BitVec.allOnes 256) 0 i b) ∧
    wV.vsrc 1 3 = .ok (wReg 3, wV) ∧ (wReg 3).tag = tFP32 :=
  ⟨⟨rfl, rfl, rfl, rfl, by decide, by decide, fun _ => ⟨_, rfl⟩, wV_takesAny⟩, ⟨rfl, by decide, by decide⟩,
    ⟨rfl, rfl, rfl, rfl, rfl, fun _ _ => ⟨_, rfl⟩, _, rfl⟩, by decide, rfl, rfl, rfl⟩

theorem witness_KeysOrderElements :
    (1 : Nat) ≤ 1 ∧ isInt tN8 = true ∧ (255 : Nat) < 2 ^ 8 ∧ isFp tFP16 = true ∧ fvNan (fpDecode (fpFmt tFP16) 0x7C01) = true := by decide

theorem witness_PlaneOperationsComplete :
    (wV.efr 1).width = 8 ∧ (7 : BitVec 8).toNat < (2048 + 2048 / 8 - 1) / (2048 / 8) ∧ wV.vsrc 1 8 = .ok (wReg 8, wV) ∧
    (wReg 8).tag = tPACKED ∧ (∃ old, wV.volds 1 16 8 = .ok (old, wV)) ∧
    (∃ vs, wV.vsrcs 1 24 8 = .ok (vs, wV) ∧ ∀ v ∈ vs, v.tag = tPLANE) ∧
    (∀ a b c d e f g h fl, ∃ t, (wV.addFlags fl).vdsts 1 16 [a, b, c, d, e, f, g, h] = .ok t) ∧ takesAny wV :=
  ⟨rfl, by decide, rfl, rfl, ⟨_, rfl⟩, ⟨_, rfl, by decide +kernel⟩, fun _ _ _ _ _ _ _ _ _ => ⟨_, rfl⟩, wV_takesAny⟩

theorem witness_TreesAndPermutesComplete :
    (∃ op, treeOf ((0x80 : BitVec 8).toNat % 128) tI32 false = some op) ∧ wV.rmCode 0 = .ok 0 ∧
    wV.vmask true 1 = .ok (fun i b => governs (BitVec.allOnes 256) 0 i b) ∧ wV.vsrc 1 1 = .ok (wReg 1, wV) ∧ (wReg 1).tag = tI32 ∧
    wV.vsrc 1 2 = .ok (wReg 2, wV) ∧ sizedFmt tI32 = true ∧ takesAny wV ∧
    (∃ vs t, wV.vsrcs 1 32 32 = .ok (vs, wV) ∧ wV.vdsts 1 0 vs = .ok t) :=
  ⟨⟨_, rfl⟩, rfl, rfl, rfl, rfl, rfl, rfl, wV_takesAny, _, _, rfl, rfl⟩

theorem witness_LaneMovesComplete :
    let o : VxOp := ⟨0, 5, 1, 1, 0x0A00003F⟩
    vxFmt o = tI32 ∧ vxImm o = 63 ∧ sizedFmt (vxFmt o) = true ∧ vxImm o < nElems (vxFmt o) (wV.efr 1) ∧ wV.bank.regs.pending o.xa = false ∧
    wV.vsrc 1 o.va = .ok (wReg 1, wV) ∧ wV.scap 1 o.xa = .ok 1 ∧ isInt (vxFmt o) = true ∧ (∃ old, wV.vold 1 o.vd = .ok (old, wV)) ∧
    takesAny wV :=
  ⟨rfl, rfl, rfl, by decide, rfl, rfl, rfl, rfl, ⟨_, rfl⟩, wV_takesAny⟩

theorem witness_PredicateOperationsComplete :
    wV.pget 1 = .ok (BitVec.allOnes 256) ∧ wV.pget 63 = .ok 0 ∧ fmtBits tI8 = some 8 ∧ fmtBits tI64 = some 64 ∧ (7 : Nat) ≠ wV.pkey 1 :=
  ⟨rfl, rfl, rfl, rfl, by decide⟩

/-- The list unit configured for I32 with four entries, one of them filled. -/
def wList : State := wV.upd fun b => { b with slist := ⟨4, tI32, false, [⟨7, 3⟩]⟩ }

theorem witness_SortedListAndHistogramComplete :
    (listFmt tI32 = true ∧ (1 : BitVec 2).toNat < 2) ∧
    (wList.bank.slist.cap ≠ 0 ∧ wList.bank.slist.fmt = tI32 ∧ wList.vmask true 1 = .ok (fun i b => governs (BitVec.allOnes 256) 0 i b) ∧
      wList.vsrc 1 1 = .ok (wReg 1, wList) ∧ (wReg 1).tag = tI32 ∧ wList.vsrcs 1 9 1 = .ok ([wReg 9], wList) ∧ (wReg 9).tag = tIDX) ∧
    ((7 : BitVec 8).toNat / 2 % 16 * 64 < 256 ∧ takesAny wList) ∧
    (isInt tN32 = true ∧ isSigned tN32 = false ∧ fmtBits tN32 = some 32 ∧ (0x1F : BitVec 8).toNat % 64 < 32 ∧
      wList.vsrc 1 10 = .ok (wReg 10, wList) ∧ (wReg 10).tag = tN32 ∧ wList.vold 1 10 = .ok (wReg 10, wList)) :=
  ⟨⟨rfl, by decide⟩, ⟨by decide, rfl, rfl, rfl, rfl, rfl, rfl⟩,
    ⟨by decide, fun _ => ⟨_, rfl⟩, fun _ _ => ⟨_, rfl⟩, fun _ _ => ⟨_, rfl⟩⟩, rfl, rfl, rfl, by decide, rfl, rfl, rfl⟩

/-- Stream register 15 bound for input to the race 254, pattern of 128 elements: two vectors, none used. -/
def wStrm : Stream :=
  { num := 15, since := 0, untl := none, recd := List.replicate 8 0 ++ [128, 0, 0, 0, 0, 0, 0, 0] ++ ((List.replicate 3 [1, 0, 0, 0, 0, 0, 0, 0]).flatten), bias := [],
    efr := 0, out := false, race := 254, next := 0, used := 0, ord := 0, kd := 1, fail := none, unb := none, bundle := 0, wid := 0,
    waitd := none, got := none, vals := [], inb := [], outb := [], failed := false, engine := 0, tokDone := false, deps := [],
    udeps := [], err := (0, 0), uengine := 0, begun := true, ubegun := false, more := [] }

/-- That stream over a race of FP32 with the counts given. -/
def wPop (head tail : Nat) : State :=
  wV.upd fun b => { b with streams := [wStrm], tiles := [(254, some { freshTile wRace 1 with head := head, tail := tail, lock := some 16 })] }

/-- The same stream for output. -/
def wPush (head tail : Nat) : State := (wPop head tail).upd fun b => { b with streams := [{ wStrm with out := true }] }

theorem witness_VectorOperandForms :
    (wV.adv 1).reg = 0 ∧ (63 : VFld).toNat < 64 ∧ (319 : VFld).toNat < wV.bank.id.capVr ∧ wV.bank.id.capVr ≤ (320 : VFld).toNat ∧
    isStream 63 = false ∧ wV.vkeys 1 63 1 = .ok [63] ∧ wV.poisoned (64 + 63) = false ∧ isStream 335 = true ∧
    (wPop 0 0xFFFFFFFF).bank.streamOf ((335 : VFld).toNat - 320) = some wStrm ∧
    ((wPop 0 0xFFFFFFFF).tile 254).map (fun t => (t.filled, decide (wStrm.used < wStrm.total t))) = some (1, true) ∧
    ((wPop 7 7).tile 254).map (fun t => (t.filled, decide (wStrm.used < wStrm.total t))) = some (0, true) ∧
    ((wPop 0 0xFFFFFFFF).tile 254).map (fun t => t.bad (t.tail % 4 * (8 * 512)) 2048) = some false ∧
    ((wPush 0 0xFFFFFFFF).tile 254).map (fun t => (t.free, decide (wStrm.used < wStrm.total t))) = some (1, true) ∧
    ((wPush 2 0).tile 254).map (fun t => (t.free, (shapeRaw t.shape).fmt)) = some (0, tFP32) ∧
    (wPush 2 0).bank.streamOf ((335 : VFld).toNat - 320) = some { wStrm with out := true } ∧ (wReg 3).tag = tFP32 ∧ (wReg 1).tag ≠ tFP32 := by
  and_intros <;> first | rfl | decide +kernel

/-! ### Witnesses: memory accesses -/

/-- The bank of wV with extent 0 over the page at virtual address 0, mapped to frame 10 of expanded memory, read and write; every
line has its home on die 0. Tile 255 is a
plain FP32 tile. x1 is the place of extent 0 at offset 0, x2 the place of the tile at row 3, column 64, x3 that of extent 0 at its last 256 bytes. -/
def wMem : State :=
  let s := wRun [(2, 0x3FE0000300400000), (3, 65280)]
  { s with
    homeM := [(0, 0x400000000000), (1, 0x800000000000)],
    ctxs := [(0, { Ctx.reset with st := .running, kernels := [(0, some { wKernel with frames := [⟨0, 0, 1, 10, false, false, false⟩] })] })],
    bank := { s.bank with
      regs := { s.bank.regs with v := wVregs }, view := { s.bank.view with v := wVregs, p := [(1, 1)] },
      exts := [(0, ⟨0, 65536, 3⟩)], tiles := [(255, some (freshTile wPlain 1))] } }

theorem witness_VectorLoadsComplete :
    (wMem.memFmt 1 tFP32 = .ok 32 ∧ wMem.scap 1 2 = .ok 0x3FE0000300400000 ∧
      ∃ p, wMem.tilePos 1 0x3FE0000300400000 0 tFP32 32 1 = .ok p ∧
        ∃ us, (List.range 1).mapM (fun j => wMem.loadTile p.h p.tile (p.base j) (Nat.log2 (p.sh.liveMask p.bit 2048) + 1)) = .ok us ∧
          ∃ t, wMem.vdsts 1 5 (us.flatMap fun u => regsOf tFP32 32 (u &&& p.sh.liveMask p.bit 2048)) = .ok t) ∧
    (wMem.scap 1 3 = .ok 65280 ∧ startsAt wMem 1 65280 0 tFP32 32 0 65280 ∧ inExtent wMem 0 (unitOffs tFP32 32 65280 1) false ∧
      ∃ r : Nat × State, wMem.loadUnit 0 (unitOffs tFP32 32 65280 1) = .ok r ∧ ∃ t, r.2.vdsts 1 5 (regsOf tFP32 32 r.1) = .ok t) ∧
    (isStream 5 = false ∧ wMem.vkeys 1 5 1 = .ok [5] ∧ wMem.bank.part = 0 ∧
      inExtent wMem 0 ((List.range (1 / 1 * 256)).map fun (j : Nat) => 65280 + (j : Int)) false ∧
      (wMem.vldmGo 1 5 tFP32 32 1 0 65280 0 1).2.isNone = true) ∧
    (let o : VxOp := ⟨0, 5, 3, 9, 0x12000⟩
     gthFmt o = tFP32 ∧ ∃ r : List Nat × State, wMem.gthIdx o tFP32 32 = .ok r ∧
       ∃ es, r.1.mapM (r.2.elemAt 1 65280 tFP32 32 false) = .ok es ∧
       ∃ q : List Nat × State, es.foldlM (fun (r : List Nat × State) e => match e with
          | .ext n off => (r.2.loadUnit n ((List.range (32 / 8)).map fun (j : Nat) => off + (j : Int))).map fun (q : Nat × State) => (r.1 ++ [q.1], q.2)
          | .tile h v bit => (r.2.loadTile h v bit 32).map fun (u : Nat) => (r.1 ++ [u], r.2)) ([], r.2) = .ok q ∧
       ∃ t, q.2.vdst 1 5 ⟨BitVec.ofNat 2048 (packed 32 q.1), tFP32⟩ = .ok t) ∧
    ((∀ k, k < 256 * 1 → mget false wMem.bank.kpoison ((65535 + k) % 65536) = false) ∧ ∀ v, ∃ t, wMem.vdsts 1 5 [v] = .ok t) := by
  refine ⟨⟨rfl, rfl, okAnd_ex ?_ fun p h => okAnd_ex h fun us h => answers_ok h⟩,
    ⟨rfl, ⟨65280, rfl, rfl⟩, ?_, okAnd_ex ?_ fun r h => answers_ok h⟩, ⟨rfl, rfl, rfl, ?_, ?_⟩,
    ⟨rfl, okAnd_ex ?_ fun r h => okAnd_ex h fun es h => okAnd_ex h fun q h => answers_ok h⟩, fun k _ => rfl, fun v => ⟨_, rfl⟩⟩
  all_goals first | (unfold inExtent; decide +kernel) | decide +kernel

theorem witness_VectorStoresComplete :
    (wMem.memFmt 1 tFP32 = .ok 32 ∧ wMem.vguard 0 0 0 = .ok none ∧ wMem.vguard 1 1 0 = .ok (some (1, 0)) ∧ wMem.vguard 3 5 0 = .ok (some (0, 0)) ∧
      unitMask tFP32 32 (some (0, 0)) = 0 ∧ unitMask tFP32 32 (some (1, 0)) = 0xFFFFFFFF ∧ wMem.scap 1 2 = .ok 0x3FE0000300400000 ∧
      wMem.vsrcs 1 3 1 = .ok ([wReg 3], wMem) ∧ ∃ p, wMem.tilePos 1 0x3FE0000300400000 0 tFP32 32 1 = .ok p) ∧
    (wMem.scap 1 3 = .ok 65280 ∧ startsAt wMem 1 65280 63 tFP32 32 0 65532 ∧ unitMask tFP32 32 (some (1, 0)) ≠ 0 ∧
      (∃ ws, wMem.unitWrites 0 (unitOffs tFP32 32 65532 (-1)) 0x3F800000 (unitMask tFP32 32 (some (1, 0))) = .ok ws ∧
        ws = (List.range 4).map fun k => ⟨.mem (10 * 65536 + 65532 + k), BitVec.ofNat 8 (0x3F800000 / 2 ^ (8 * k)), 0xFF⟩)) ∧
    (startsAt wMem 1 65280 0 tFP32 32 0 65280 ∧
      inExtent wMem 0 ((List.range (1 / 1 * 256)).map fun (j : Nat) => 65280 + (j : Int)) true ∧
      ∃ t, (chunks 1 1 [wReg 3]).zipIdx.foldlM (fun (s : State) x =>
        (s.unitWrites 0 (unitOffs tFP32 32 (65280 + x.2 * (256 : Nat)) 1) (unitOf tFP32 32 x.1) (unitMask tFP32 32 none)).map fun ws =>
          s.pushUnit ws x.2 (extPlace 0 (65280 + x.2 * (256 : Nat)))) wMem = .ok t) ∧
    (let o : VxOp := ⟨0, 3, 3, 9, 0x252000⟩
     gthFmt o = tFP32 ∧ bitsOf o.imm.toNat 19 18 = 1 ∧ bitsOf o.imm.toNat 26 21 = 1 ∧ ∃ r : List Nat × State, wMem.gthIdx o tFP32 32 = .ok r ∧
       ∃ v : VReg × State, r.2.vsrc 1 3 = .ok v ∧
       ∃ es, (((r.1.zip (elems v.1.bits.toNat 32 r.1.length)).zipIdx.filter fun x => governs 1 0 x.2 32).mapM fun x =>
         (v.2.elemAt 1 65280 tFP32 32 true x.1.1).map fun e => (x.2, x.1.2, e)) = .ok es ∧
       ∃ t, es.foldlM (fun (s : State) x => s.putElem 32 x) v.2 = .ok t) ∧
    (65280 + 256 * 1 ≤ 65536 ∧ (fun k => (⟨.mem k, 1, 0xFF⟩ : BWrite)) 5 ∈ [(⟨.mem 5, 1, 0xFF⟩ : BWrite)]) := by
  refine ⟨⟨rfl, rfl, rfl, rfl, ?_, ?_, rfl, rfl, answers_ok ?_⟩, ⟨rfl, ⟨65280, rfl, rfl⟩, ?_, okAnd_ex ?_ fun ws h => of_decide_eq_true h⟩,
    ⟨⟨65280, rfl, rfl⟩, ?_, answers_ok ?_⟩,
    ⟨rfl, rfl, rfl, okAnd_ex ?_ fun r h => okAnd_ex h fun v h => okAnd_ex h fun es h => answers_ok h⟩, by decide, by decide⟩
  all_goals first | (unfold inExtent; decide +kernel) | decide +kernel

/-! ### Witnesses: counters, kernels, queues and groups from the S slot -/

/-- wMem on the last bank of the device, whose context has tables of two counters on die 3: the first one live, with value 5, generation 0xFFFE.
x1 is its place, x2 the value 5, x3 the last aligned word of extent 0, x4 the value 6, x6 the value 3, x7 an unaligned place, x8 the place of the second
counter. -/
def wCtr (ents : Map CtrEnt) : State :=
  let s := wMem
  let x : Map Word := [(1, 0xA003FFFE00000000), (2, 5), (3, 65528), (4, 6), (6, 3), (7, 65529), (8, 0xA003000000000001), (9, 4)]
  { s with
    cur := 511, dies := [(3, { Die.reset with ctrLog := [(0, 1)] })],
    homeM := [(0, 0x400000000000), (1, 0x800000000000)],
    ctxs := [(0, { Ctx.reset with st := .running, ctrs := ents,
                                  kernels := [(0, some { wKernel with frames := [⟨0, 0, 1, 10, false, false, false⟩] })] })],
    bank := { s.bank with regs := { s.bank.regs with x := x }, view := { s.bank.view with x := x, p := [(1, 1)] } } }

/-- The first counter live, the second one FREE; and both live. -/
def wOneFree : State := wCtr [(ctrKey 3 0, ⟨1, 0xFFFE, 5, 0⟩)]
def wNoFree : State := wCtr [(ctrKey 3 0, ⟨1, 0xFFFE, 5, 0⟩), (ctrKey 3 1, ⟨1, 0, 0, 0⟩)]

theorem firstFree_last : firstFree wOneFree 0 3 (ctrKey 3 1) := by
  refine ⟨by decide, by decide, by decide, by decide, fun j h1 h2 => ?_⟩
  have : j = ctrKey 3 0 := by unfold ctrKey at *; omega
  subst this; decide

theorem witness_CounterAllocationCompletes :
    (Readable wOneFree [2] 0 ∧ dieOf wOneFree.cur = 3 ∧ firstFree wOneFree 0 3 (ctrKey 3 1) ∧ (wOneFree.die 3).slots < 65536) ∧
    (Readable wNoFree [2] 63 ∧ mwf CtrEnt.free (wNoFree.ctx 0).ctrs = true ∧
      ∀ j, ctrKey 3 0 ≤ j → j < ctrKey 3 (wNoFree.ctrSize 0 3) → (wNoFree.ctrEnt 0 j).st ≠ 0) ∧
    (Readable wOneFree [2, 6] 0 ∧ (wOneFree.rx 6).toNat < 4 ∧ wOneFree.reachDie 3 = .ok wOneFree) ∧ 4 ≤ (wOneFree.rx 9).toNat ∧
    (Readable wOneFree [1] 0 ∧ placeOf (wOneFree.rx 1) = some (.ctr 3 0xFFFE 0) ∧ wOneFree.bank.swait = .none ∧
      wOneFree.ownNode 0 3 = true ∧ wOneFree.ctrBehind (.slot 0 (ctrKey 3 0) 0xFFFE) = false ∧ 0 < wOneFree.ctrSize 0 (dieOfNode 3) ∧
      (wOneFree.ctrEnt 0 (ctrKey 3 0)).gen = 0xFFFE ∧ (wOneFree.ctrEnt 0 (ctrKey 3 0)).st = 1 ∧
      ∀ e ∈ wOneFree.kernelList 0, e.2.st ≠ .pending) := by
  refine ⟨⟨by unfold Readable; decide, by decide, firstFree_last, by decide⟩, ⟨by unfold Readable; decide, by decide, fun j h1 h2 => ?_⟩,
    ⟨by unfold Readable; decide, by decide, rfl⟩, by decide, by unfold Readable; decide, by decide, by decide, by decide, by decide, by decide,
    by decide, by decide, by decide⟩
  have h : wNoFree.ctrSize 0 3 = 2 := by decide
  rw [h] at h2
  have : j = ctrKey 3 0 ∨ j = ctrKey 3 1 := by unfold ctrKey at *; omega
  rcases this with rfl | rfl <;> decide

theorem witness_CounterUseCompletes :
    (Readable wOneFree [1, 2] 0 ∧ (4 : BitVec 5).toNat < 5 ∧ wOneFree.sgGuard ⟨1, 2, 0, 0, 4⟩ = .ok true ∧
      wOneFree.bankCtr (wOneFree.rx 1) true = .ok (.slot 0 (ctrKey 3 0) 0xFFFE) ∧ wOneFree.sgGuard ⟨1, 2, 2, 0, 4⟩ = .ok false) ∧
    (wOneFree.bank.swait = .none ∧ wOneFree.bankCtr (wOneFree.rx 1) false = .ok (.slot 0 (ctrKey 3 0) 0xFFFE) ∧ wOneFree.drained = true ∧
      wOneFree.ctrSettled 3 (.slot 0 (ctrKey 3 0) 0xFFFE) = true ∧ wOneFree.ctrBehind (.slot 0 (ctrKey 3 0) 0xFFFE) = false ∧ wOneFree.bank.heldBack = false ∧
      wOneFree.reachDie (wOneFree.ctrDie (.slot 0 (ctrKey 3 0) 0xFFFE)) = .ok wOneFree ∧
      (∃ t, wOneFree.ctrRead (.slot 0 (ctrKey 3 0) 0xFFFE) = .ok (5, t)) ∧ Readable wOneFree [1, 2] 0 ∧
      (wOneFree.rx 2).toNat ≤ (5 : Word).toNat ∧ (5 : Word).toNat < (wOneFree.rx 4).toNat) ∧
    (Readable wOneFree [3, 2] 2 ∧ wOneFree.sgGuard ⟨2, 3, 0, 0, 0x0F⟩ = .ok true ∧ placeOf (wOneFree.rx 3) = some (.ext 0 65528) ∧ 65528 % 8 = 0 ∧
      (wOneFree.ext 0).permits 65528 8 false = true ∧ (wOneFree.ext 0).permits 65528 8 true = true ∧
      (wOneFree.extAddr 0 65528).toOption = some 720888) ∧
    (let s := { wOneFree with cur := 0, parked := [] }
     s.reachVc (s.home 720888) 0 = .ok s ∧ s.drained = true ∧ s.lineSettled 0 720888 = true ∧
       (∃ r : Word × Bool × State, s.atomAt 720888 8 7 false 5 5 false = .ok r ∧ r.2.1 = false) ∧
       ∃ r : Word × Bool × State, ({ s with wbad := [1407] } : State).atomAt 720888 8 7 false 5 5 false = .ok r ∧ r.2.1 = true) ∧
    placeOf (wOneFree.rx 7) = some (.ext 0 65529) ∧ 65529 % 8 ≠ 0 := by
  refine ⟨⟨?_, ?_, rfl, rfl, rfl⟩, ⟨?_, rfl, ?_, ?_, ?_, ?_, rfl, ⟨_, rfl⟩, ?_, ?_, ?_⟩, ⟨?_, rfl, ?_, ?_, ?_, ?_, ?_⟩,
    ⟨?_, ?_, ?_, okAnd_ex (d := fun r => !r.2.1) ?_ fun r h => by simpa using h, okAnd_ex (d := fun r => r.2.1) ?_ fun r h => h⟩, ?_, ?_⟩
  all_goals first | decide +kernel | (unfold Readable; decide +kernel) | (apply okAnd_eq; decide +kernel)

/-- Two kernels in the context of the bank, the last slot FAULTED with cause 0x0E and detail 2; x1 names it, x2 the free slot 1, x3 a malformed id, x4 the
largest entry number and x5 one more, x6 the largest queue number. -/
def wKer (sys : Bool) : State :=
  let s := withX [(1, 4095), (2, 1), (3, 0x1000), (4, 4095), (5, 4096), (6, 63), (7, 1)]
  { s with
    ctxs := [(0, { Ctx.reset with st := .running,
                                  kernels := [(0, some wKernel), (4095, some { wKernel with st := .faulted, cause := 14, detail := 2, ended := 1 })] })],
    bank := { s.bank with id := { s.bank.id with sys := sys } } }

theorem witness_LaunchAndQueueControlComplete :
    Readable (wKer false) [1, 2] 8 ∧ ((wKer false).rx 4).toNat < 2 ^ 12 ∧ 2 ^ 12 ≤ ((wKer false).rx 5).toNat ∧
    qctlOp (.qctlSetmode ⟨8, 6, 7, 1⟩) = some (⟨8, 6, 7, 1⟩, 1) ∧ (wKer false).bank.id.sys = false ∧ (wKer true).bank.id.sys = true ∧
    Readable (wKer true) [6, 7] 8 ∧ ((wKer true).rx 6).toNat < 64 ∧ ((wKer true).rx 7).toNat < 2 ∧
    qctlOp (.qctlReset ⟨8, 6, 0, 6⟩) = some (⟨8, 6, 0, 6⟩, 6) ∧ (wKer true).rx 0 = 0 ∧
    ((wKer false).rx 3).toNat % 2 ^ 63 / 2 ^ 12 % 2 ^ 4 ≠ 0 ∧ (wKer false).kernel 0 (((wKer false).rx 2).toNat % 2 ^ 63 % 4096) = none ∧
    ((wKer false).kernel 0 4095).map (fun k => (k.gen, k.st, k.ended)) = some (0, .faulted, 1) ∧
    ((wKer false).kernel 0 0).map (fun k => (k.gen, k.st, k.ended)) = some (0, .running, 0) := by
  unfold Readable; and_intros <;> decide

/-- An OPEN group in the last entry of the group unit of die 0, bound to slot 63 of the bank. -/
def wGroup : Group :=
  { st := 1, bank := 0, ctx := 0, bind := 63, cause := 0, detail := 0, weirs := [(0, 2)], ready := [], report := [], poison := false,
    timeout := 100, since := 0, halted := false, auto := false }

/-- x1 is its handle, x2 the handle of another binding, x3 no handle, x4 the shortest timeout, x5 the limit. -/
def wGrp : State :=
  let s := withX [(1, 0x80000007E0000FFF), (2, 0x8000000000000FFF), (3, 7), (4, 10), (5, 10000)]
  { s with
    dies := [(0, { Die.reset with groups := [(4095, ⟨0, some wGroup⟩)] })],
    bank := { s.bank with gbinds := [(63, some ⟨4095, 0, false⟩)] } }

/-- The same with that group in some state, its weirs as given, and the binding marked or not. -/
def wGrpAs (st : Nat) (ws : List (Nat × Nat)) (marked : Bool) : State :=
  { wGrp with dies := [(0, { Die.reset with groups := [(4095, ⟨15, some { wGroup with st := st, weirs := ws }⟩)] })],
              bank := { wGrp.bank with gbinds := [(63, some ⟨65535, 0, marked⟩)],
                                       regs := { wGrp.bank.regs with x := [(1, 0x80000007E000FFFF)] },
                                       view := { wGrp.bank.view with x := [(1, 0x80000007E000FFFF)] } } }

/-- A group unit without a free entry. -/
def wGrpFull : State := { wGrp with dies := [(0, { Die.reset with groups := (List.range' 0 4096).map fun i => (i, ⟨0, some wGroup⟩) })] }

theorem mget_run (e : GEntry) : ∀ n k i, k ≤ i → i < k + n → mget GEntry.free ((List.range' k n).map fun j => (j, e)) i = e
  | 0, k, i, h1, h2 => by omega
  | n + 1, k, i, h1, h2 => by
    simp only [List.range'_succ, List.map_cons, mget]
    by_cases h : k = i
    · simp [h]
    · rw [if_neg h]; exact mget_run e n (k + 1) i (by omega) (by omega)

theorem wGrpFull_full : wGrpFull.freeGents (dieOf wGrpFull.cur) = [] := by
  simp only [State.freeGents, List.filter_eq_nil_iff, List.mem_range]
  intro i h
  have : wGrpFull.gent (dieOf wGrpFull.cur) i = ⟨0, some wGroup⟩ := mget_run _ 4096 0 i (by omega) (by omega)
  simp [this]

theorem witness_CommitGroupInstructionsComplete_ends :
    (let s := wGrpAs 1 [] false
     Readable s [1] 6 ∧ handleFields (s.rx 1) = some (65535, 0, 63) ∧ mget none s.bank.gbinds 63 = some ⟨65535, 0, false⟩ ∧
       s.boundGroup ⟨65535, 0, false⟩ = some (0, 4095, { wGroup with weirs := [] }) ∧ wGroup.st = 1 ∧ wGroup.report = [] ∧
       wGroup.poison = false ∧ wGroup.halted = false ∧ wGroup.bind = 63 ∧ wGroup.ctx = s.bank.id.ctx ∧
       0 = (s.ctx s.bank.id.ctx).aliasNo * 4 + 0 ∧ s.bank.gpend = [] ∧ s.bank.cpygBefore 63 s.bank.ord = false) ∧
    (mget none (wGrpAs 1 [] true).bank.gbinds 63 = some ⟨65535, 0, true⟩ ∧ (wGrpAs 1 [] true).boundGroup ⟨65535, 0, true⟩ = none) ∧
    (({ wGrpAs 1 [] false with dies := [] } : State).boundGroup ⟨65535, 0, false⟩ = none) ∧
    ((wGrpAs 1 ((List.range 65).map fun k => (k, 2 ^ 27)) false).boundGroup ⟨65535, 0, false⟩).map (fun x => x.2.2.weirs.length) = some 65 := by
  unfold Readable; and_intros <;> decide +kernel

theorem witness_CommitGroupInstructionsComplete :
    (Readable wGrp [4] 6 ∧ 10 ≤ (wGrp.rx 4).toNat ∧ (wGrp.rx 5).toNat ≤ wGrp.cgTmax ∧ mget none wGrp.bank.gbinds (63 : BitVec 6).toNat ≠ none ∧
      mget none wGrp.bank.gbinds (0 : BitVec 6).toNat = none ∧ wGrp.freeGents (dieOf wGrp.cur) ≠ []) ∧
    (Readable wGrp [1] 6 ∧ handleFields (wGrp.rx 3) = none ∧ handleFields (wGrp.rx 2) = some (4095, 0, 0) ∧
      mget none wGrp.bank.gbinds 0 = none ∧ handleFields (wGrp.rx 1) = some (4095, 0, 63) ∧
      mget none wGrp.bank.gbinds 63 = some ⟨4095, 0, false⟩ ∧ wGrp.boundGroup ⟨4095, 0, false⟩ = some (0, 4095, wGroup)) := by
  unfold Readable; and_intros <;> decide +kernel

/-! ### Witnesses: issues of the M and C slots -/

/-- A Mill command that waits for its turn, with the operand values given. -/
def wCmd (i : Instr) (a b : Word) : MillCmd :=
  { ord := 3, kd := 9, instr := i, caps := [(0, a), (1, b)], adv := Adv.zero, deps := [], efr := 0, bundle := 0, wid := 0, started := false,
    waiting := false, captured := false, k0 := 0, base := (0, 0), aRows := [], bRows := [], full := false, tag := none, rows := [],
    dom := (0, 0), fed := 0, stat := 0, late := 0, value := none, fail := (0, 0), recorded := false }

/-- An engine operation that waits for its turn, with the operand values given. -/
def wOp (i : Instr) (a b c : Word) : EngOp :=
  { ord := 4, engine := 0, instr := i, caps := [(0, a), (1, b), (2, c)], adv := Adv.zero, deps := [], efr := 0, bundle := 0, wid := 0, recs := [],
    idx := [], next := 0, total := 0, got := none, vals := [], sub := 0, wr := false, base := (0, 0), fail := (0, 0), st := .queued }

/-- wMem at the given privilege in a kernel with a Mill, n commands in the queue. -/
def wMill (sys mill : Bool) (n : Nat) : State :=
  wMem.upd fun b => { b with id := { b.id with sys := sys, mill := mill }, cmds := List.replicate n (wCmd (.mrel ⟨9, 0, 0, 0, 0, 0, 0, 0⟩) 0 0) }

/-- A place of an extent under no advance stays where it is, and so does one of a tile. -/
theorem stepsExt {s : State} {slot f w : Nat} {x : Word} {n off : Nat} (h : placeOf x = some (.ext n off)) (ha : s.adv slot = Adv.zero) :
    stepsInRange s slot f w x := by
  unfold stepsInRange; rw [h, ha]; exact .inl rfl

theorem stepsOwn {s : State} {slot f w : Nat} {x : Word} {t r c : Nat} (h : placeOf x = some (.own t r c)) (hr : r < 65536)
    (hc : c < 65536) (ha : s.adv slot = Adv.zero) : stepsInRange s slot f w x := by
  unfold stepsInRange; rw [h, ha]; simp only [rowColIn]; exact ⟨by omega, by omega, by omega, by omega, fun _ _ => ⟨.inl trivial, .inl trivial⟩⟩

theorem witness_MillIssuesComplete :
    (mopOf (.mmode ⟨8, 0, 0, 0, 0, 0, 0, 1⟩) = some ⟨8, 0, 0, 0, 0, 0, 0, 1⟩ ∧ (wMill true true 7).bank.id.mill = true ∧
      millLegal (wMill true true 7) (.mmode ⟨8, 0, 0, 0, 0, 0, 0, 1⟩) = true ∧ (wMill true true 7).bank.cmds.length < 8 ∧
      Takes (wMill true true 7) 3 [0, 0, 0] 8 ∧ tokensSound (wMill true true 7) [0, 0, 2]) ∧
    (let s := wMill false true 0
     millPlaces (.mfeed ⟨8, 0, 0, 0, 3, 2, 4, 0⟩) = [(3, true), (2, true)] ∧ Takes s 3 [3, 2, 4] 8 ∧
      placeOf (capOf s 3 3) = some (.ext 0 65280) ∧ stepsInRange s 3 (domFmt s.domainAhead.domain) s.domainAhead.width (capOf s 3 3) ∧
      stepsInRange s 3 (domFmt s.domainAhead.domain) s.domainAhead.width (capOf s 3 2)) ∧
    8 ≤ (wMill false true 8).bank.cmds.length ∧ (wMill false false 0).bank.id.mill = false ∧
    millLegal (wMill false true 0) (.mmode ⟨8, 0, 0, 0, 0, 0, 0, 1⟩) = false := by
  unfold Takes tokensSound
  and_intros <;> first
    | exact stepsExt (n := 0) (off := 65280) (by decide) (by decide)
    | exact stepsOwn (t := 255) (r := 3) (c := 64) (by decide) (by decide) (by decide) (by decide)
    | decide
    | (intro _; decide)

/-- A pattern record: base place extent 0 offset 0, 64 elements one apart, FP32, the race named, input, no stages (R229). -/
def wRec (race : Byte) : List Byte :=
  List.replicate 8 0 ++ [64, 0, 0, 0, 1, 0, 0, 0] ++ (List.replicate 3 [1, 0, 0, 0, 0, 0, 0, 0]).flatten ++ [9, race, 0, 0] ++ List.replicate 20 0

/-- wMem with two CPYS records at kennel offsets 0 and 64 and an SBIND record for race 254 at 128, which is the highest aligned one in use. x4 is the
pair of offsets, x5 is 128; the operations and streams of the bank as given. -/
def wEng (ops : List EngOp) (ss : List Stream) : State :=
  wMem.upd fun b => { b with
    view := { b.view with x := [(2, 0x3FE0000300400000), (3, 65280), (4, 0x400000), (5, 128)] },
    regs := { b.regs with x := [(2, 0x3FE0000300400000), (3, 65280), (4, 0x400000), (5, 128)] },
    kview := mputs 0 [] 0 (wRec 0 ++ wRec 0 ++ wRec 254), tiles := [(254, some (freshTile 0x000400404D030000 1)), (255, some (freshTile wPlain 1))],
    ops := ops, streams := ss }

theorem witness_EngineIssuesComplete :
    (copyForm (.cpy ⟨0, 8, 0, 0, 0, 3, 2, 0, 0x1200⟩) = some (⟨0, 8, 0, 0, 0, 3, 2, 0, 0x1200⟩, tFP32, true) ∧
      engineReady (wEng [] []) ⟨0, 8, 0, 0, 0, 3, 2, 0, 0x1200⟩ ∧
      stepsInRange (wEng [] []) 4 tFP32 32 (capOf (wEng [] []) 4 3) ∧ stepsInRange (wEng [] []) 4 tFP32 32 (capOf (wEng [] []) 4 2)) ∧
    (copyForm (.cpy ⟨0, 8, 0, 0, 0, 3, 2, 0, 0x2400⟩) = some (⟨0, 8, 0, 0, 0, 3, 2, 0, 0x2400⟩, 18, false)) ∧
    16 ≤ (wEng (List.replicate 16 (wOp (.cpy ⟨0, 8, 0, 0, 0, 3, 2, 0, 0x1200⟩) 0 0 0)) []).bank.engLoad 0 ∧
    (otherForm (.cwaite ⟨0, 8, 0, 0, 0, 3, 2, 0, 4⟩) = some (⟨0, 8, 0, 0, 0, 3, 2, 0, 4⟩, true) ∧
      engineReady (wEng [] []) ⟨0, 8, 0, 0, 0, 3, 2, 0, 4⟩ ∧
      otherForm (.cwaite ⟨0, 8, 0, 0, 0, 3, 2, 0, 5⟩) = some (⟨0, 8, 0, 0, 0, 3, 2, 0, 5⟩, false)) ∧
    (engineReady (wEng [] []) ⟨0, 8, 0, 0, 0, 3, 3, 4, 0⟩ ∧ capOf (wEng [] []) 4 4 = 0x400000 ∧
      (wEng [] []).kennelBytes 0 64 = .ok (wRec 0) ∧ (wEng [] []).kennelBytes 64 64 = .ok (wRec 0) ∧
      cpysOk ((wEng [] []).efr 4) (patOf (wRec 0)) (patOf (wRec 0)) = true ∧ (wEng [] []).biases (patOf (wRec 0)) = .ok [] ∧
      stepsInRange (wEng [] []) 4 tFP32 32 (capOf (wEng [] []) 4 3)) := by
  unfold engineReady Takes tokensSound
  and_intros <;> first
    | exact stepsExt (n := 0) (off := 65280) (by decide +kernel) (by decide +kernel)
    | exact stepsOwn (t := 255) (r := 3) (c := 64) (by decide +kernel) (by decide +kernel) (by decide +kernel) (by decide +kernel)
    | decide +kernel | (intro _; decide +kernel) | (apply okAnd_eq; decide +kernel) | rfl

/-- The probe cache on tile 253, 8 ways of one set, one or all of its entries as given. -/
def wPrb (ps : Map Probe) : State :=
  wMem.upd fun b => { b with
    ctl := { b.ctl with pcfg := 0x1FD }, tiles := [(253, some (freshTile 0x0008040010000000 2))], probes := ps }

/-- A valid entry for the last block of extent 0, and one whose fill is pending. -/
def wHit : Probe := { Probe.none with valid := true, blk := ⟨63, 0, 0, 1024⟩ }
def wFill (tag : Nat) : Probe := { Probe.none with fill := true, blk := ⟨tag, 0, 0, 1024⟩ }

theorem witness_StreamsAndProbesComplete :
    (engineReady (wEng [] [wStrm]) ⟨0, 8, 0, 0, 0, 5, 0, 0, 15⟩ ∧ capOf (wEng [] [wStrm]) 4 5 = 128 ∧
      (wEng [] [wStrm]).bank.streamOf 15 ≠ none) ∧
    (engineReady (wEng [] []) ⟨0, 8, 0, 0, 0, 5, 0, 0, 15⟩ ∧ (wEng [] []).bank.streamOf 15 = none ∧
      (wEng [] []).kennelBytes 128 64 = .ok (wRec 254) ∧ (wEng [] []).tile 254 = some (freshTile 0x000400404D030000 1) ∧
      (wEng [] []).sbindOk ((wEng [] []).efr 4) (patOf (wRec 254)) (freshTile 0x000400404D030000 1) = .ok () ∧
      (wEng [] []).biases (patOf (wRec 254)) = .ok []) ∧
    ((wEng [] [wStrm]).bank.streamOf 15 = some wStrm ∧ wStrm.unb = none ∧
      let x := { wStrm with untl := some 0, unb := some (9, 1) }
      (wEng [] [x]).bank.streamOf 15 = some x ∧ x.unb ≠ none) ∧
    (wEng [] []).bank.streamOf 15 = none ∧
    (Readable (wPrb []) [3] 8 ∧ (wPrb []).probeTile = some (253, 1) ∧ placeOf ((wPrb []).rx 3) = some (.ext 0 65280) ∧
      ((wPrb []).ext 0).permits 65280 1 false = true ∧ (wPrb []).extVa 0 65280 / 1024 = 63 ∧
      (wPrb [(7, wHit)]).probeWay 0 63 = some 7 ∧ ((wPrb [(7, wHit)]).probe 7).fill = false ∧
      (wPrb [(7, wFill 63)]).probeWay 0 63 = some 7 ∧ ((wPrb [(7, wFill 63)]).probe 7).fill = true ∧
      (wPrb ((List.range 8).map fun k => (k, wFill k))).probeWay 0 63 = none ∧
      (wPrb ((List.range 8).map fun k => (k, wFill k))).probeVictim 0 = none ∧
      (wPrb []).probeWay 0 63 = none ∧ (wPrb []).probeVictim 0 = some 0 ∧ canonical (away (wPrb []) 4) = true) ∧
    (wMem.probeTile = none ∧ Readable wMem [3] 8) := by
  unfold engineReady Takes tokensSound Readable
  and_intros <;> first | decide +kernel | (intro _; decide +kernel) | (apply okAnd_eq; decide +kernel) | rfl

/-! ### Witnesses: the sequencer and the taking of faults -/

/-- The bundle of one ADD stands at the program counter, not yet fetched; the same with its line fetched and these bytes. -/
def wNext : State := State.reset.withFetchWord 64 0x10D1A8000000100
def wLine (w : Nat) : State := wNext.upd fun b => { b with fetched := [(0, some (BitVec.ofNat 512 w))] }

/-- A bundle of a TRAP under way whose slot V0 is sticky: its cursor holds a VADD. -/
def wSticky : State :=
  wNext.upd fun b => { b with
    cursors := [(1, { Cursor.empty with op := some (.op (.vadd ⟨0, 3, 1, 2, 0, 5, 0, 0, 0⟩)) })],
    cur := some { addr := 0, steps := List.replicate 6 0, rep := 0, begun := true, todo := [1], ready := false, npc := none, halt := none,
                  b := { kind := .standard, sync := false, rpt := 0, sticky := 2, stepSet := 0, spIndex := 0, imm64 := 0,
                         ops := List.replicate 6 none, len := 4 } } }

/-- The core holds a translation of page 0 to a ZERO page. -/
def wZero : State := wNext.modCore 0 fun k => { k with itc := [(0, 0x819)] }

/-- A bank that waits in CWAIT since cycle 0; one whose ADD of this bundle waits for an MLEASE. -/
def wWaits (run : BankRun) (cycle : Nat) : State :=
  { wNext.upd fun b => { b with run := run, swait := .counter 0 5 } with cycle := cycle }
def wLease (age cycle : Nat) : State :=
  { wNext.upd fun b => { b with
      issued := .stalled, waitAge := age, cmds := [{ wCmd (.mlease ⟨9, 0, 0, 0, 0, 0, 0, 0⟩) 0 0 with waiting := true }],
      cur := some { addr := 0, steps := [], rep := 0, begun := true, todo := [0], ready := false, npc := none, halt := none,
                    b := { kind := .standard, sync := false, rpt := 0, sticky := 0, stepSet := 0, spIndex := 0, imm64 := 0,
                           ops := [some (.op (.add ⟨3, 9, 0, 0⟩))], len := 8 } } } with cycle := cycle }

theorem witness_SequencerStepsComplete :
    (atBundle (wNext.focus 0).bank ∧ wantedLine (wNext.focus 0).bank = 0 ∧ mget none (wNext.focus 0).bank.fetched 0 = none ∧
      ((wZero.focus 0).itcFill 0).1.toOption = some 0x819 ∧ (pteOf 0x819).st = 2 ∧
      ((wNext.focus 0).itcFill 0).1.toOption = some 0x40019 ∧ (pteOf 0x40019).st ≠ 2 ∧
      okAnd (((wNext.focus 0).itcFill 0).2.viewBytes 0 0 ((List.range 64).map (leafFrame (pteOf 0x40019) 0 * 65536 + ·)))
        (fun r => decide (r.1.take 8 = leBytes 8 0x10D1A8000000100)) = true ∧
      ((((State.reset.upd fun b => { b with run := .ready }).focus 0).itcFill 0).1.toOption = none)) ∧
    (mget 0 (wZero.core 0).itc (itcKey 0 0) ≠ 0 ∧ (wNext.focus 0).walkWaits 0 0 = false ∧
      ((State.reset.upd fun b => { b with run := .ready }).focus 0).walkWaits 0 0 = false) ∧
    (canDispatch ((wLine 0x10D1A8000000100).focus 0) ∧
      okAnd (decodeBundle (nextBytes ((wLine 0x10D1A8000000100).focus 0).bank))
        (fun r => !((wLine 0x10D1A8000000100).focus 0).bank.badSticky r.1 && !((wLine 0x10D1A8000000100).focus 0).bank.atBoundary r.1) = true) ∧
    (let s := (wLine 0x10D1A800000000040000100).upd fun b => { b with preempt := true }
     canDispatch (s.focus 0) ∧ okAnd (decodeBundle (nextBytes (s.focus 0).bank))
       (fun r => !(s.focus 0).bank.badSticky r.1 && (s.focus 0).bank.atBoundary r.1) = true) ∧
    (canDispatch ((wLine 0xC0000000).focus 0) ∧ answers (decodeBundle (nextBytes ((wLine 0xC0000000).focus 0).bank)) = false ∧
      canDispatch ((wLine 0x8000).focus 0) ∧
      okAnd (decodeBundle (nextBytes ((wLine 0x8000).focus 0).bank)) (fun r => ((wLine 0x8000).focus 0).bank.badSticky r.1) = true) ∧
    (let u := wSticky.focus 0
     u.bank.run = .ready ∧ (u.core (coreOf u.cur)).active = u.cur % 2 ∧
       u.bank.cur.map (fun r => (r.begun, r.todo, r.ready, r.b.ops[1]?.getD none, r.b.sticky.getLsbD 1)) = some (true, [1], false, none, true) ∧
       u.bank.reissue = false ∧ u.bank.lag = [] ∧ isLoad (.vadd ⟨0, 3, 1, 2, 0, 5, 0, 0, 0⟩) = false ∧
       (mget Cursor.empty u.bank.cursors 1).op = some (.op (.vadd ⟨0, 3, 1, 2, 0, 5, 0, 0, 0⟩))) ∧
    (((wWaits .waiting 256).getBank 0).swait = .counter 0 5 ∧ ((wWaits .waiting 256).getBank 0).run = .waiting ∧
      0 + 256 ≤ (wWaits .waiting 256).cycle) ∧
    (((wLease 0 0).getBank 0).readsLease = true ∧ ((wLease 0 0).getBank 0).waitAge = 0 ∧ ((wLease 1 256).getBank 0).readsLease = true ∧
      ((wLease 1 256).getBank 0).waitAge ≠ 0 ∧ ((wLease 1 256).getBank 0).waitAge + 255 ≤ (wLease 1 256).cycle) ∧
    (let s := (State.reset.setBank 1 { Bank.reset with run := .ready })
     (s.getBank (otherBank 0)).run = .ready ∧ (s.getBank 0).run ∉ [BankRun.ready, .waiting, .faulted]) ∧
    (let s := (wWaits .waiting 0).setBank 1 { Bank.reset with run := .ready }
     (s.getBank (otherBank 0)).run = .ready ∧ (s.getBank 0).run = .waiting ∧ ((s.upd fun b => { b with wish := true }).getBank 0).wish = true) ∧
    (let s := (wNext.setBank 1 { Bank.reset with run := .ready }).modCore 0 fun c => { c with give := true }
     (s.getBank (otherBank 0)).run = .ready ∧ (s.getBank 0).run = .ready ∧ (s.core 0).give = true ∧ (s.getBank 0).cur = none) ∧
    (let s := (wLease 1 256).setBank 1 { Bank.reset with run := .ready }
     (s.getBank (otherBank 0)).run = .ready ∧ (s.getBank 0).run = .ready ∧ (s.getBank 0).readsLease = true) ∧
    (let s := (wWaits .faulted 0).setBank 1 { Bank.reset with run := .ready }
     (s.getBank (otherBank 0)).run = .ready ∧ (s.getBank 0).run = .faulted ∧ s.recordWaits 0 = false) := by
  unfold canDispatch atBundle; and_intros <;> decide +kernel

/-- A record, and it with a bank that waits for a slot of the area of context 0, whose capacity is 1; the device's area alike. -/
def wRecd : FaultRec := { FaultRec.blank with cause := 7, detail := 1 }
def wAreas (ctxWait devWait : List FaultHeld) (pend : Map (List FaultRec)) : State :=
  { wNext with
    ctxs := [(0, { Ctx.reset with st := .running, fa := 0x0001000000050000, waitq := ctxWait, pend := pend })],
    dev := { fa := 0x0001000000060000, seq := 0, lost := 0, faults := [], waitq := devWait, pend := [] } }

theorem witness_SequencerStepsComplete_records :
    (((wAreas [⟨wRecd, .bank 0⟩] [] []).ctx 0).faults.length < faCap ((wAreas [⟨wRecd, .bank 0⟩] [] []).ctx 0).fa ∧
      ((wAreas [⟨wRecd, .bank 0⟩] [] []).ctx 0).waitq = [⟨wRecd, .bank 0⟩]) ∧
    (((wAreas [] [] [(3, [wRecd])]).ctx 0).waitq = [] ∧ mget [] ((wAreas [] [] [(3, [wRecd])]).ctx 0).pend 3 = [wRecd]) ∧
    ((wAreas [] [⟨wRecd, .event⟩] []).dev.faults.length < faCap (wAreas [] [⟨wRecd, .event⟩] []).dev.fa ∧
      (wAreas [] [⟨wRecd, .event⟩] []).dev.waitq = [⟨wRecd, .event⟩]) := by decide

theorem witness_FaultsAreTaken :
    ((wAreas [] [] []).ctx 0).faults.length < faCap ((wAreas [] [] []).ctx 0).fa ∧ Memory.wf (wAreas [] [] []).mem ∧
    ((wAreas [] [] []).ctx 0).waitq = [] ∧ (wAreas [] [] []).bank.lateFirst = false ∧
    ¬ ((wNext.ctx 0).faults.length < faCap (wNext.ctx 0).fa) ∧ wNext.bank.lateFirst = false ∧
    (wNext.upd fun b => { b with slot := 5, late := some (0, 0, { wRecd with slot := 0 }) }).bank.lateFirst = true := by decide

/-! ### Witnesses: memory system, compression, pages -/

/-- Every link of the device UP with its VCs UP. -/
def upLinks : Map Link :=
  (List.range 36).map fun l => (l, { Link.reset with phys := 1, lanes := 8, vcs := (List.range 16).map fun v => (v, { Vc.reset with st := 0 }) })

/-- wNext with the links UP, its frame 5 not compressible, n free sectors on every die, tile 255 and the store-queue entries given. Address
0x50000 has its home on die 0, 0x50200 on die 1. -/
def wSq (n : Nat) (ks : List SqKind) : State :=
  { wNext.upd fun b => { b with
      tiles := [(255, some (freshTile wPlain 1))], sq := ks.map fun k => ⟨0, 0, k, 0, 1, 0, 0, 0, 0, false⟩ } with
    links := upLinks, frames := [(5, { Frame.none with comp := false })],
    dies := (List.range 4).map fun d => (d, { Die.reset with cmp := { Cmp.reset with runs := [(0, n)], free := n } }) }

/-- A byte of memory, and a byte of tile 255. -/
def wByte (a : Nat) : BWrite := ⟨.mem a, 1, 0xFF⟩
def wTByte : BWrite := ⟨.tile 255 511, 1, 0xFF⟩

theorem witness_StoresAndFillsPerform :
    ((3 : Nat) < 4 ∧ (wSq 0 []).home (0x50200 / 64 * 64) ≠ 3 ∧ (wSq 0 []).farLine 3 (0x50200 / 64) = none ∧
      (wSq 0 []).wts.any (fun w => w.src == 3 && w.ws.any fun x => x.1 / 64 == 0x1408) = false ∧ (wSq 0 []).prepHeld 0x1408 = false ∧
      (wSq 0 []).lineWaits 0x1408 = false ∧ answers ((wSq 0 []).round 3 ((wSq 0 []).home (0x1408 * 64)) 0 1) = true ∧
      (wSq 0 []).linePoison (0x1408 * 64) = false) ∧
    (let e : SqEntry := ⟨0, 0, .store [wTByte] [] false, 0, 1, 0, 0, 0, 0, false⟩
     headEntry ((wSq 0 [e.kind]).focus 0) e ∧ ((wSq 0 [e.kind]).focus 0).bank.issueOver e = true ∧ memWrites [wTByte] = []) ∧
    (let u := (wSq (2 ^ 31) [.store [wByte 0x50000] [] false]).focus 0
     headEntry u ⟨0, 0, .store [wByte 0x50000] [] false, 0, 1, 0, 0, 0, 0, false⟩ ∧ memWrites [wByte 0x50000] ≠ [] ∧ unheld u (memWrites [wByte 0x50000]) ∧
       u.ungranted (memWrites [wByte 0x50000]) [] = [] ∧ u.storeLink (memWrites [wByte 0x50000]) = none ∧
       (u.enterView (dieOf u.cur) u.cur none [] (memWrites [wByte 0x50000])).isSome = true ∧ u.writePoison (memWrites [wByte 0x50000]) = false) ∧
    (let u := (wSq 0 [.store [wByte 0x50000] [] false]).focus 0
     unheld u (memWrites [wByte 0x50000]) ∧ u.ungranted (memWrites [wByte 0x50000]) [] = [] ∧ u.storeLink (memWrites [wByte 0x50000]) = none ∧
       u.enterView (dieOf u.cur) u.cur none [] (memWrites [wByte 0x50000]) = none ∧ u.bank.run ≠ .faulted) ∧
    (let u := (wSq 0 [.fence 3 3 0]).focus 0
     headEntry u ⟨0, 0, .fence 3 3 0, 0, 1, 0, 0, 0, 0, false⟩ ∧ u.fenceMet 3 3 0 = true ∧ u.fenceMet 0 1 0 = true ∧ u.addsMade = true ∧ u.earlierDone 3 = true) ∧
    (let u := State.focus { wCtr [(ctrKey 3 0, ⟨1, 0xFFFE, 5, 0⟩)] with links := upLinks } 511
     u.earlierDone 4 = true ∧ u.bankCtr 0xA003FFFE00000000 true = .ok (.slot 0 (ctrKey 3 0) 0xFFFE)) := by
  unfold unheld headEntry; and_intros <;> first | decide +kernel | exact okAnd_eq (by decide +kernel)

theorem witness_StoresAndFillsPerform_later :
    (let u := (wSq (2 ^ 31) [.store [wByte 0x50200] [] false]).focus 0
     headEntry u ⟨0, 0, .store [wByte 0x50200] [] false, 0, 1, 0, 0, 0, 0, false⟩ ∧ u.ungranted (memWrites [wByte 0x50200]) [] = [(0x50200 / 512, 8)] ∧
       okAnd (u.round (dieOf u.cur) (u.home (0x50200 / 512 * 512)) 0 1) (fun t => (t.reserve .bank [(0x50200 / 512, 8)]).isSome) = true) ∧
    (let w : WThru := ⟨0, 0, 1, [(0x50200, 1, 0xFF)], [(0x50200 / 512, 8)], 0, none, false, false, 7⟩
     let s := { wSq (2 ^ 31) [] with wts := [w] }
     (s.wts.find? fun x => x.src == 0 && x.home == 1 && !x.arrived) = some w ∧ (∀ x ∈ w.ws, s.prepHeld (x.1 / 64) = false) ∧
       (∀ b ∈ blocksOf w.ws, s.blockWaits b = false) ∧ ((s.cross 0 1 w.vc).bind fun t => t.softWrite .reserve w.rsv w.ws).isSome = true) ∧
    (let w : WThru := ⟨0, 0, 1, [(0x50200, 1, 0xFF)], [], 0, none, true, false, 0⟩
     let s := { wSq 0 [] with wts := [w] }
     (s.wts.find? fun x => x.src == 0 && x.home == 1) = some w ∧ w.arrived = true ∧ (s.cross 1 0 1).isSome = true) ∧
    (let l : FarLine := ⟨5, 0, 0⟩
     let s := { wSq 0 [] with dies := [(0, { Die.reset with far := [(0x1408, some l)] })], cycle := 2 ^ 20 }
     mget none (s.die 0).far 0x1408 = some l ∧ l.born + 2 ^ 20 ≤ s.cycle) ∧
    (0x501FF + 1 < 2 ^ 48 ∧ 0x501FF % 512 + 1 ≤ 512 ∧ unheld (wSq (2 ^ 31) []) (wholeBytes 0x501FF [7]) ∧
      ((wSq (2 ^ 31) []).softWrite .bank [] (wholeBytes 0x501FF [7])).isSome = true ∧
      (wSq 0 []).softWrite .bank [] (wholeBytes 0x501FF [7]) = none) := by
  unfold unheld headEntry; and_intros <;> first | decide +kernel | exact okAnd_eq (by decide +kernel)

/-- Die 0 with the compression controller given. -/
def wCmp (c : Cmp) : State := { wNext with dies := [(0, { Die.reset with cmp := c })] }

theorem witness_CompressionStepsComplete :
    (let s : State := { wCmp { Cmp.reset with resamp := 1 } with cycle := 2 ^ 20 }
     (s.die 0).cmp.resamp ≠ 0 ∧ (s.die 0).cmp.sampAt + (s.die 0).cmp.resamp * 2 ^ 20 ≤ s.cycle ∧ (s.die 0).cmp.learn = false ∧
       (s.die 0).cmp.next = none) ∧
    (let s : State := { wCmp { Cmp.reset with learn := true } with cycle := 2 ^ 20 }
     (s.die 0).cmp.learn = true ∧ (s.die 0).cmp.learnAt + 2 ^ 20 ≤ s.cycle ∧ (s.die 0).cmp.prev = none) ∧
    (let s : State := { wCmp { Cmp.reset with next := some ⟨1, [], []⟩ } with cycle := 2 ^ 24 }
     (s.die 0).cmp.next.isSome = true ∧ (s.die 0).cmp.nextAt + 2 ^ 24 ≤ s.cycle) ∧
    (let s := wCmp { Cmp.reset with retr := true }
     (s.die 0).cmp.retr = true ∧ (s.die 0).cmp.next = none ∧
       let a := State.recover 0 (fun s b => s.shrink 0 b) (s.blocksOn 0) s
       let b := State.recover 0 State.fold (a.blocksOn 0) a
       let z := if (b.die 0).cmp.high ≤ (b.die 0).cmp.free then b else b.zeroPages
       let c := State.recover 0 (fun s i => s.balloon 0 i) (List.range ((z.die 0).cmp.bln.toNat / 2 ^ 48)) z
       (c.die 0).cmp.high ≤ (c.die 0).cmp.free) ∧
    (let s := wCmp { Cmp.reset with retr := true, runs := [(0, 2 ^ 23 - 1)], free := 2 ^ 23 - 1 }
     (s.die 0).cmp.retr = true ∧ (s.die 0).cmp.next = none ∧
       let a := State.recover 0 (fun s b => s.shrink 0 b) (s.blocksOn 0) s
       let b := State.recover 0 State.fold (a.blocksOn 0) a
       let z := if (b.die 0).cmp.high ≤ (b.die 0).cmp.free then b else b.zeroPages
       let c := State.recover 0 (fun s i => s.balloon 0 i) (List.range ((z.die 0).cmp.bln.toNat / 2 ^ 48)) z
       (c.die 0).cmp.free < (c.die 0).cmp.high ∧ (c.die 0).cmp.evt.getLsbD 1 = false) ∧
    (let c := ((wCmp Cmp.reset).die 0).cmp
     wNext.boot.stage ≠ 8 ∧ 2 ^ 22 - 1 < c.low ∧ c.low < c.high ∧ ¬ (wNext.boot.stage ≠ 8 ∧ 2 ^ 22 < 2 ^ 32 ∧ 2 ^ 22 < c.low ∧ c.low < c.high)) := by
  and_intros <;> decide +kernel

/-- wNext with a leaf for the last 64 KiB page that its table maps, a leaf for the 512 MiB page after, and page commands under way. -/
def wPg (small large : Word) (ops : List PageOp) : State :=
  { wNext with
    mem := mputs 0 (mputs 0 wNext.mem 0x3FFF8 (leBytes 8 small.toNat)) 0x20008 (leBytes 8 large.toNat),
    ctxs := [(0, { Ctx.reset with st := .running, root := 0x10000, pageOps := ops })],
    dies := (List.range 4).map fun d => (d, Die.reset) }

/-- The leaves of those entries. -/
def wLeaf (w : Word) : Leaf := ⟨0x3FFF8, w, pteOf w, 8191, (pteOf w).frame, 1⟩
def wLarge (w : Word) : Leaf := ⟨0x20008, w, pteOf w, 8192, (pteOf w).frame, 8192⟩

/-- An open window over that page, by which it is pinned. -/
def wPin : State :=
  (wPg 0x9004F 0 []).modCtx 0 fun x => { x with wins := [(15, ⟨0x1FFF0000, 64, true, true, [⟨0, 8191, 1, 9, false, false, false⟩], []⟩)] }

/-- wPg with contents in slot 7 of the evicted pages, at host address 4096; in the second no die has a free sector left. -/
def wOut : State := { wPg 0x70401 0 [] with evicted := [(7, some ⟨4096, [0], []⟩)], host := [(4096, 1)], links := upLinks }
def wDry : State := { wOut with dies := (List.range 4).map fun d => (d, { Die.reset with cmp := { Die.reset.cmp with free := 0 } }) }

/-- wPg with sectors held by the block at 0x90200, whose home is die 1, and the links of the device given. -/
def wCarry (links : Map Link) : State :=
  { wPg 0x9004F 0 [] with blocks := [(0x90200 / 512, { BlockEnt.zero with count := 1 })], links := links }

/-- A migration of the last page to frame 8 after the given stage, a split of the large page into frame 5. -/
def wMig (stage target : Nat) : PageOp := ⟨0x1FFF0000, false, target, stage, none, none, none⟩
def wSplit (stage : Nat) : PageOp := ⟨0x20000000, true, 5, stage, none, none, none⟩

theorem witness_PageStepsComplete :
    (let m := (wPg 0x9004F 0 [wMig 0 8]).asWritten 0
     m.leafOf 0 0x1FFFFFFF = some (wLeaf 0x9004F) ∧ m.pageBusy 0 (wLeaf 0x9004F) = true) ∧
    (((wPg 0x9004F 0 []).asWritten 0).leafOf 0 0x1FFFFFFF = some (wLeaf 0x9004F) ∧ ((wPg 0x9004F 0 []).asWritten 0).pageBusy 0 (wLeaf 0x9004F) = false) ∧
    ((wPg 0x9004F 0 []).leafOf 0 0x1FFFFFFF = some (wLeaf 0x9004F) ∧ (wPg 0x9004F 0 []).pageBusy 0 (wLeaf 0x9004F) = false ∧
      (pteOf 0x8000D).v = true ∧ (pteOf 0).v = false ∧ (wPg 0x9004F 0 []).pinned 0 (wLeaf 0x9004F) = false ∧
      wPin.leafOf 0 0x1FFF0000 = some (wLeaf 0x9004F) ∧ wPin.pageBusy 0 (wLeaf 0x9004F) = false ∧ wPin.pinned 0 (wLeaf 0x9004F) = true) ∧
    (((wPg 0x800 0 []).asWritten 0).leafOf 0 0x1FFF0000 = none ∧ ((wPg 0x800 0 []).asWritten 0).balloonedAt 0 0x1FFF0000 = some 0x3FFF8) ∧
    ((wPg 0x800 0 []).leafOf 0 0x1FFF0000 = none ∧ (wPg 0x800 0 []).balloonedAt 0 0x1FFF0000 = some 0x3FFF8) ∧
    (let s := (wPg 0 0 []).asWritten 0
     s.leafOf 0 0x1FFF0000 = none ∧ (pteOf 0x8000D).v = true ∧ s.pteSlot 0 0x1FFF0000 ((pteOf 0x8000D).size == 1) = some 0x3FFF8 ∧
       (pteOf 0x8000D).small = true ∧ (pteOf 0x8000D).st = 0 ∧ s.exposed (pteOf 0x8000D).frame 1 = true ∧
       s.pteWord 0 0x3FFF8 ≠ 0x8000D ∧ (pteOf 0x8080D).small = true ∧ (pteOf 0x8080D).st = 2 ∧
       s.leafOf 0 0x3FFFFFFF = none ∧ (pteOf 0x2000014F).v = true ∧ (pteOf 0x2000014F).size = 1 ∧ (pteOf 0x2000014F).large = true ∧
       s.pteSlot 0 0x3FFFFFFF ((pteOf 0x2000014F).size == 1) = some 0x20008 ∧ ptrFrame (s.pteWord 0 0x20008) = none ∧
       s.exposed (pteOf 0x2000014F).frame (2 ^ 13) = true) ∧
    (((wPg 0 0 []).unstale 0 0x3FFFFFFF).pteSlot 0 0x3FFFFFFF true = some 0x20008) ∧
    (let s := wCarry upLinks
     let dest : EvictSlot := ⟨7, 0x1000⟩
     s.leafOf 0 0x1FFF0000 = some (wLeaf 0x9004F) ∧ evictable s 0 (wLeaf 0x9004F) dest = true ∧
       (broughtOut s 9).any (fun t => decide (t.leafOf 0 0x1FFF0000 = some (wLeaf 0x9004F))) = true ∧
       evictable (wCarry []) 0 (wLeaf 0x9004F) dest = true ∧ (broughtOut (wCarry []) 9).isNone = true ∧
       evictable wPin 0 (wLeaf 0x9004F) dest = false ∧ evictable s 0 (wLeaf 0x9004F) ⟨2 ^ 32, 0⟩ = false ∧
       evictable s 0 (wLeaf 0x9004F) ⟨7, 2 ^ 64 - 65535⟩ = false ∧ (wLeaf 0x9004F).pte.st = 0) ∧
    (let own (s : State) := (s.freeFrames 9 1).setFrames 9 1 fun _ => ownFrame 0 (wLeaf 0x70401)
     wOut.leafOf 0 0x1FFF0000 = some (wLeaf 0x70401) ∧ wOut.pageBusy 0 (wLeaf 0x70401) = false ∧ (wLeaf 0x70401).n = 1 ∧
       (wLeaf 0x70401).pte.st = 1 ∧ wOut.exposed 9 1 = true ∧
       (((own wOut).haul ([0].map fun i => (sheepdog, wOut.blockHome 9 i))).any fun u =>
         (u.fillFrame .bank 9 (wOut.hostCells ⟨4096, [0], []⟩)).isSome) = true ∧
       wDry.leafOf 0 0x1FFF0000 = some (wLeaf 0x70401) ∧
       (((own wDry).haul ([0].map fun i => (sheepdog, wDry.blockHome 9 i))).any fun u =>
         (u.fillFrame .bank 9 (wDry.hostCells ⟨4096, [0], []⟩)).isNone) = true) ∧
    (movable (wPg 0x9004F 0 []) 0 (wLeaf 0x9004F) 8 = true ∧ movable (wPg 0x9004F 0 [wMig 0 8]) 0 (wLeaf 0x9004F) 8 = false) ∧
    (let s := wPg 0x900CF 0 [wMig 0 8]
     s.pageOp 0 (0x1FFFFFFF / 65536 * 65536) = some (wMig 0 8) ∧ s.leafOf 0 (0x1FFFFFFF / 65536 * 65536) = some (wLeaf 0x900CF) ∧
       s.wts.any (fun w => !w.arrived && w.ws.any fun x => x.1 / 65536 == 9) = false ∧
       ((((s.freeFrames 8 1).setFrames 8 1 fun _ => s.frameOf (9 * 65536)).haul
         ((s.heldBlocks 9).map fun i => (s.blockHome 9 i, s.blockHome 8 i))).any fun u =>
         (u.fillFrame .reserve 8 (s.frameCells 9)).isSome) = true) ∧
    (let s := wPg 0x8004F 0 [wMig 1 9]
     s.pageOp 0 (0x1FFFFFFF / 65536 * 65536) = some (wMig 1 9) ∧ s.leafOf 0 (0x1FFFFFFF / 65536 * 65536) = some (wLeaf 0x8004F)) ∧
    (let s := wPg 0x900CF 0 [wMig 0 8]
     (wLeaf 0x900CF).pte.st = 0 ∧ (wLeaf 0x900CF).pte.wp = true ∧
       (s.ctx 0).pageOps.any (fun p => p.split && p.va == 0x1FFF0000 / 2 ^ 29 * 2 ^ 29) = false) ∧
    (let s := wPg 0 0x2000014F []
     s.leafOf 0 0x3FFFFFFF = some (wLarge 0x2000014F) ∧ (wLarge 0x2000014F).n ≠ 1 ∧ (wLarge 0x2000014F).pte.st = 0 ∧
       s.pageBusy 0 (wLarge 0x2000014F) = false ∧ s.stagedIn 0x2000 8192 = false ∧ s.exposed 5 1 = true ∧ s.regionNeeds 0 (wLarge 0x2000014F) false = false ∧
       s.regionNeeds 0 (wLarge 0x2000014F) true = false) ∧
    (let s := wPg 0 0x20000D4F [wSplit 0]
     ((s.ctx 0).pageOps.find? fun q => q.va == 0x3FFFFFFF / 2 ^ 29 * 2 ^ 29 && q.split) = some (wSplit 0) ∧
       s.leafOf 0 0x20000000 = some (wLarge 0x20000D4F) ∧
       (((wPg 0 0 [wSplit 1]).ctx 0).pageOps.find? fun q => q.va == 0x3FFFFFFF / 2 ^ 29 * 2 ^ 29 && q.split) = some (wSplit 1)) ∧
    ((wLeaf 0x9004F).pte.v = true ∧ (wLeaf 0x9004F).pte.st ≠ 1 ∧ mwf Ctx.reset (wPg 0x9004F 0 []).ctxs = true) := by
  and_intros <;> decide +kernel

/-! ### Witnesses: kernels and tasks -/

/-- A launch header of the last version: one region at extent 15, CAP.VR at its most, N = 0 (R262, R264). -/
def wHdr : List Byte :=
  [1, 0, 0, 0, 0, 0, 7, 1] ++ List.replicate 0x28 0 ++ [0x40, 1, 0, 0, 0, 6, 0, 0] ++ List.replicate 0xC8 0 ++
  List.replicate 8 0 ++ [64, 0, 0, 0, 0, 0, 0, 0] ++ [1, 0, 0, 0, 15] ++ List.replicate 11 0

/-- wPg with that header at the start of the page, a launch of it waiting for an answer, and one of a misaligned header. -/
def wLaunch (va : Word) : State :=
  let s := wPg 0x9004F 0 []
  { s with mem := mputs 0 s.mem 0x90000 wHdr }.modCtx 0 fun x => { x with launchq := [(63, va, 63, 0, 0)] }

/-- A kernel of one task, in the last queue. -/
def wTask (st : KState) : Kernel :=
  { wKernel with st := st, queue := 63, hdr := { wKernel.hdr with widths := [0, 0, 0, 0, 0, 0], binds := [0, 0, 0, 0, 0, 0] }, next := 0, placed := [] }

/-- That kernel in the last slot of a RUNNING context whose partition is the last cluster. -/
def wFan (k : Kernel) (bs : Map Bank) : State :=
  let s := wPg 0x9004F 0 []
  { s with
    parked := bs,
    ctxs := [(0, { Ctx.reset with st := .running, root := 0x10000, clusters := [15], kernels := [(4095, some k)],
                                  queues := [(63, { Queue.new with ks := [4095] })] })] }

/-- A region of 64 bytes in the mapped page, and one in a page that is not mapped. -/
def wRegion (base : Word) : Region := ⟨base, 64, 1, 0, false, false, 0, 0, 15⟩

/-- How a translation ended: (0, 0) done, else the detail and the address of its fault. -/
def transDone : Trans → Option (Nat × Nat)
  | .done => some (0, 0)
  | .fault d va => some (d, va)
  | _ => none

/-- wLaunch with the launch taken from the queue, at the one page. -/
def wTaken : State := (wLaunch 0x1FFF0000).modCtx 0 fun x => { x with launchq := [] }

/-- The state left by a read that answers. -/
def stateAfter (m : M (List Byte × State)) : State :=
  match m with
  | .ok r => r.2
  | .error _ => State.reset

theorem stateAfter_eq {m : M (List Byte × State)} {l : List Byte} (h : okAnd m (fun r => decide (r.1 = l)) = true) : m = .ok (l, stateAfter m) := by
  cases m with
  | ok r => simp only [okAnd, decide_eq_true_eq] at h; subst h; rfl
  | error e => simp [okAnd] at h

/-- wTaken after the header is read, and after the region record is. -/
def wTakenH : State := stateAfter (wTaken.headerBytes 0 0x1FFF0000 0x100)
def wTakenR : State := stateAfter (wTakenH.headerBytes 0 (0x1FFF0000 + 0x100) 32)

theorem wTaken_launches : answers (wTaken.launch 0 0x1FFF0000 63 false) = true := by
  have hp : ∃ i, wTakenR.pickFree (wTakenR.freeSlots 0) = some i := by
    have h : 0 < (wTakenR.freeSlots 0).length := by decide +kernel
    exact ⟨_, List.getElem?_eq_getElem (Nat.mod_lt _ h)⟩
  obtain ⟨i, hi⟩ := hp
  unfold State.launch
  refine answers_step () (okAnd_eq (by decide +kernel)) (answers_step () (okAnd_eq (by decide +kernel)) ?_)
  refine answers_step (wHdr.take 0x100, wTakenH) (stateAfter_eq (by decide +kernel)) ?_
  refine answers_step (wHdr.drop 0x100, wTakenR) (stateAfter_eq (by decide +kernel)) ?_
  iterate 10 refine answers_step () (okAnd_eq (by decide +kernel)) ?_
  simp only [hi]
  exact answers_step () (okAnd_eq (by decide +kernel)) rfl

theorem witness_KernelStepsComplete :
    (((wLaunch 0x1FFF0000).ctx 0).launchq = [(63, 0x1FFF0000, 63, 0, 0)] ∧ (63 : Nat) < 64 ∧ (wLaunch 0x1FFF0000).fns = [] ∧
      answers (wTaken.launch 0 0x1FFF0000 63 false) = true) ∧
    ((match ((wLaunch 0x1FFF0001).modCtx 0 fun x => { x with launchq := [] }).launch 0 0x1FFF0001 63 false with
      | .error (.fault f) => f.cause == cILLEGAL_OPERAND && f.detail == 9
      | _ => false) = true) ∧
    (let s := { wFan (wTask .pending) [] with fns := [(16, { HostFn.reset with busy := true })] }
     (16 : Nat) < 17 ∧ (s.fn 16).busy = true) ∧
    (let s := { wFan (wTask .pending) [] with fns := [(16, { HostFn.reset with bound := some 0 })], boot := { State.reset.boot with stage := 7 } }
     (s.fn 16).busy = false ∧ s.boot.stage = 7 ∧ (s.fn 16).bound = some 0 ∧ (s.ctx 0).st ≠ .free ∧ (s.ctx 0).st ≠ .destroyed) ∧
    (let k (base : Word) : Kernel := { wTask .pending with
      hdr := { (wTask .pending).hdr with deps := [(0, 0), (0, 0), (0, 0), (0x1E00000000000038, 1)], regions := [wRegion base] } }
     kernelAt (wFan (k 0x1FFF0000) []) 0 4095 (k 0x1FFF0000) .pending ∧ depUsed (0x1E00000000000038, 1) = true ∧
       placeOf 0x1E00000000000038 = some (.ext 15 56) ∧ (k 0x1FFF0000).depFrm = [] ∧ (k 0x1FFF0000).hdr.regionFor 15 = some (wRegion 0x1FFF0000) ∧
       (wFan (k 0x1FFF0000) []).leafOf 0 0x1FFF0038 = some (wLeaf 0x9004F) ∧ (wLeaf 0x9004F).pte.st ≠ 1 ∧ (wLeaf 0x9004F).pte.r = true ∧
       (wFan (k 0x1FFF0000) []).walkWaits 0 0x1FFF0038 = false ∧ (wFan (k 0x20000000) []).walkWaits 0 0x20000038 = false ∧
       mget none (k 0x1FFF0000).depFrm 3 = none ∧ mget none (k 0x1FFF0000).depFrm 19 = none ∧ (wFan (k 0x20000000) []).walk 0 0x20000038 = .absent) ∧
    ((wFan (wTask .pending) []).head 0 63 = some (4095, wTask .pending) ∧ (wFan (wTask .pending) []).headWait 0 4095 (wTask .pending) = 0 ∧
      (wTask .pending).aged = 0) ∧
    (let k := { wTask .pending with aged := 2 ^ 25, prio := 6 }
     let s := { wFan k [] with cycle := 2 ^ 20 }
     s.head 0 63 = some (4095, k) ∧ s.headWait 0 4095 k = 0 ∧ k.aged ≠ 0 ∧ (s.cycle + 2 ^ 25 - k.aged) / s.aging = 1) ∧
    (let t := ((wFan (wTask .pending) []).staleAll 0).ageCtx 0
     (t.ctx 0).st = .running ∧ ((t.kernelList 0).countP fun e => e.2.st == .dispatching) < 4 ∧ t.selection 0 = some (63, 4095, { wTask .pending with aged := 2 ^ 25 })) ∧
    (let k (base : Word) (n : Nat) : Kernel := { wTask .dispatching with hdr := { (wTask .dispatching).hdr with regions := [wRegion base], n := n } }
     kernelAt (wFan (k 0x1FFF0000 1) []) 0 4095 (k 0x1FFF0000 1) .dispatching ∧ (k 0x1FFF0000 1).stop = none ∧ (k 0x1FFF0000 1).adding = false ∧
       (∀ r ∈ (k 0x1FFF0000 1).hdr.regions, (wFan (k 0x1FFF0000 1) []).regionWaits 0 r = false) ∧
       (∀ r ∈ (k 0x20000000 0).hdr.regions, (wFan (k 0x20000000 0) []).regionWaits 0 r = false) ∧
       transDone ((wFan (k 0x1FFF0000 1) []).transRegions 0 [(wRegion 0x1FFF0000, 0)] []).1 = some (0, 0) ∧ (k 0x1FFF0000 1).hdr.n ≠ 0 ∧ (k 0x1FFF0000 0).hdr.n = 0 ∧
       transDone ((wFan (k 0x1FFF0000 0) []).transRegions 0 [(wRegion 0x1FFF0000, 0)] []).1 = some (0, 0) ∧
       transDone ((wFan (k 0x20000000 1) []).transRegions 0 [(wRegion 0x20000000, 0)] []).1 = some (3, 0x20000000)) ∧
    (let k (amt : Word) : Kernel := { wTask .edge with ended := 1, hdr := { (wTask .edge).hdr with doneAmt := amt } }
     kernelAt (wFan (k 0) []) 0 4095 (k 0) .edge ∧ (k 0).adding = false ∧ (k 0).ended = (k 0).hdr.ntasks ∧ (k 1).ended = (k 1).hdr.ntasks ∧
       (k 1).hdr.doneAmt ≠ 0) ∧
    (let k (r : Nat) : Kernel := { wTask .edge with adding := true, addRes := some (r, 2) }
     (wFan (k 0) []).kernel 0 4095 = some (k 0) ∧ (wFan (k 13) []).kernel 0 4095 = some (k 13) ∧ (13 : Nat) ≠ 0) := by
  unfold kernelAt; refine ⟨⟨?_, ?_, ?_, wTaken_launches⟩, ?_⟩; all_goals and_intros
  all_goals decide +kernel

/-- A safe-point bundle of one ADD stands at the program counter of bank 511, whose task it is; bank 0 is in focus. The safe-point table at virtual
address 64 has one entry, legal with CW as given. -/
def wSafe (cw : Byte) (f : Bank → Bank) : State :=
  let s := wFan { wTask .running with hdr := { (wTask .running).hdr with sptab := 64 }, placed := [(0, some 511)] } []
  let b := { wNext.bank with id := { wNext.bank.id with kid := 4095 }, fetched := [(0, some (BitVec.ofNat 512 0x10D1A800000000040000100))] }
  { s with mem := mputs 0 s.mem 0x40078 [1 + 2 * cw], bank := { Bank.reset with run := .free }, cores := [(255, { Core.reset with active := 1 })],
           dies := [], links := upLinks, parked := [(511, f b)] }

/-- A CWAIT that has waited for counter slot 0 since cycle 0, in a safe-point bundle; and the kernel's second task lacks a bank. -/
def wSwap : State :=
  let r : Running :=
    { addr := 0, steps := [], rep := 0, begun := true, todo := [0], ready := false, npc := none, halt := none,
      b := { kind := .safePoint, sync := false, rpt := 0, sticky := 0, stepSet := 0, spIndex := 0, imm64 := 0,
             ops := [some (.op (.cwait ⟨3, 1, 2, 0⟩))], len := 12 } }
  let s := wSafe 1 fun b => { b with run := .waiting, swait := .counter 0 5, cur := some r }
  { s with
    cycle := 2 ^ 22 + 1,
    parked := s.parked ++ ((List.range 31).map fun i => (480 + i, { Bank.reset with run := .stopped, id := { TaskId.reset with ctx := 1 } })) }.modCtx 0
    fun x => { x with kernels := [(4095, some { wTask .running with
      next := 1, placed := [(0, some 511)],
      hdr := { (wTask .running).hdr with sptab := 64, n := 2, widths := [1, 0, 0, 0, 0, 0], binds := [4, 0, 0, 0, 0, 0] } })] }

theorem witness_TaskStepsComplete :
    (let k := wTask .running
     let s := wFan k []
     (s.ctx 0).st = .running ∧ (s.ranked 0).find? (·.1 == 4095) = some (4095, k) ∧ ((s.ranked 0).takeWhile (·.1 != 4095)).length = 0 ∧
       (s.placement 0 4095 k []).map (·.map (·.1)) = some [0] ∧
       ((s.unitOf 0 4095 k [0]).map fun u => s.admissible ⟨0, k.kid 4095, k, []⟩ u [(0, 511)]) = some true) ∧
    (let k := wTask .running
     (wFan k ((List.range 32).map fun i => (480 + i, { Bank.reset with run := .ready, id := { TaskId.reset with ctx := 1 } }))).placement 0 4095 k [] =
       none) ∧
    (let u := (wSafe 0 fun b => { b with preempt := true }).focus 511
     quietAt u ∧ u.bank.preempt = true ∧ u.bank.run ≠ .faulted ∧
       okAnd (match u.boundary with
         | some x => Except.ok x
         | none => Except.error ()) (fun x => answers (x.2.safePoint x.1)) = true) ∧
    (let u := wSwap.focus 511
     quietAt u ∧ u.bank.swait = .counter 0 5 ∧ u.bank.run = .waiting ∧ 0 + u.waitLim < u.cycle ∧
       ((u.ranked u.bank.id.ctx).any fun k => (u.placement u.bank.id.ctx k.1 k.2 []).isNone &&
         (u.placement u.bank.id.ctx k.1 k.2 (u.partBanks u.bank.id.ctx)).isSome) = true ∧
       okAnd (match u.bank.cur with
         | some r => u.safePoint r.b
         | none => stall) (fun _ => true) = true) ∧
    (let u := (wSafe 0 fun b => { b with run := .ending, streams := [wStrm] }).focus 511
     u.bank.stop = false ∧ u.myKernel.isSome = true ∧ u.bank.issued ≠ .faulted ∧ u.bank.run = .ending ∧ wStrm ∈ u.bank.streams ∧ wStrm.unb = none) ∧
    (let u := (wSafe 0 fun b => { b with run := .ending }).focus 511
     (∀ t ∈ u.bank.streams, t.unb ≠ none) ∧ u.taskQuiet = true) ∧
    (let u := (wSafe 0 fun b => { b with run := .edge }).focus 511
     u.bank.stop = false ∧ u.myKernel.isSome = true ∧ u.bank.run = .edge ∧ u.bank.issued ≠ .faulted ∧ u.edgeRow (wTask .running).hdr = none ∧
       u.settled u.cur = true) ∧
    ((wSafe 0 fun b => { b with stop := true, run := .waiting }).focus 511).bank.canStop = true ∧
    (let u := (wSafe 0 fun b => { b with stop := true, run := .dead }).focus 511
     u.bank.canStop = false ∧ u.bank.run = .dead ∧ u.settled u.cur = true) := by
  unfold quietAt; and_intros <;> decide +kernel

/-! ### Witnesses: counters, waiters and the host -/

/-- A computation fails with a fault of that cause. -/
def failsBy {α : Type} (m : M α) (c : Nat) : Bool :=
  match m with
  | .error (.fault f) => f.cause == c
  | _ => false

theorem failsBy_ex {α : Type} {m : M α} {c : Nat} (h : failsBy m c = true) : ∃ f, m = .error (.fault f) := by
  unfold failsBy at h; split at h
  · exact ⟨_, rfl⟩
  · simp at h

/-- The first counter of die 3 (generation 0xFFFE, value 5), and an add of an amount to it from the host, or one of an old generation; the completion
add of a kernel that is no more. -/
def wCid : CtrId := .slot 0 (ctrKey 3 0) 0xFFFE
def wAdd (amount : Word) : CtrAdd := ⟨wCid, amount, .host 16, 0, 0, 0, 0, false, 0, none⟩
def wOld : CtrAdd := ⟨.slot 0 (ctrKey 3 0) 0xFFFD, 1, .host 16, 0, 0, 0, 0, false, 0, none⟩
def wLate : CtrAdd := ⟨wCid, 1, .done 0 7, 0, 0, 0, 0, false, 0, none⟩
def wWaiter (target : Word) : Waiter := ⟨511, none, 0, some (ctrKey 3 0), 0xFFFE, 0, target, none⟩

/-- wOneFree with these adds, waiters to register and requests to send again at die 3. -/
def wSync (as : List CtrAdd) (ws : List Waiter) (rs : List (Nat × Nat × RemoteReq × Nat)) : State :=
  { wOneFree with links := upLinks }.modDie 3 fun d => { d with adds := as, regs_ := ws, resend := rs }

/-- The last bank of the device in a CWAIT of x1 up to x4 whose bound of 64 cycles began at cycle 0. -/
def wBound : State :=
  { wOneFree.upd fun b => { b with
      run := .waiting, swait := .counter 0 64,
      cur := some { addr := 0, steps := [], rep := 0, begun := true, todo := [0], ready := false, npc := none, halt := none,
                    b := { kind := .standard, sync := false, rpt := 0, sticky := 0, stepSet := 0, spIndex := 0, imm64 := 64,
                           ops := [some (.op (.cwait ⟨0, 1, 4, 0⟩))], len := 16 } } } with cycle := 64 }

/-- Function 16 bound to context 0 of a device at READY; its counter window names that counter. -/
def wHost (id : Word) : State :=
  { wOneFree with
    links := upLinks,
    boot := { wOneFree.boot with stage := 7 }, fns := [(16, { HostFn.reset with bound := some 0, hcaId := id })] }

/-- The first add at die 3 crosses to it, and the state then passes a check. -/
def passes (s : State) (a : CtrAdd) (d : State → Bool) : Bool :=
  ((s.modDie 3 fun d => { d with adds := [] }).cross (a.src.origin 3) 3 4).any d

theorem witness_CounterAndHostStepsComplete :
    (let s := wSync [wAdd 7] [] []
     (s.die 3).adds = [wAdd 7] ∧ ((wSync [wLate] [] []).die 3).adds = [wLate] ∧
       (passes s (wAdd 7) fun t => !t.addLate (wAdd 7) && answers (t.ctrAdd wCid 7)) = true ∧ (passes s wLate fun t => t.addLate wLate) = true ∧
       (passes s wOld fun t => !t.addLate wOld && failsBy (t.ctrAdd wOld.id 1) cCOUNTER_FAULT) = true ∧
       (passes s (wAdd (-1)) fun t => !t.addLate (wAdd (-1)) && failsBy (t.ctrAdd wCid (-1)) cCOUNTER_FAULT) = true) ∧
    (let s := wSync [] [wWaiter 5, wWaiter 6] []
     (s.die 3).regs_ = [wWaiter 5, wWaiter 6] ∧
       ((s.modDie 3 fun d => { d with regs_ := [wWaiter 6] }).cross (if (wWaiter 5).remote.isSome then 4 else dieOf (wWaiter 5).bank) 3 4).isSome =
         true ∧ (wWaiter 5).ctr = wCid ∧
       (s.modDie 3 fun d => { d with regs_ := [wWaiter 6] }).ctrSettled (dieOf (wWaiter 5).bank) (wWaiter 5).ctr = true ∧
       (∃ u, (s.modDie 3 fun d => { d with regs_ := [wWaiter 6] }).ctrRead (wWaiter 5).ctr = .ok (5, u)) ∧
       (wWaiter 5).target.toNat ≤ (5 : Word).toNat ∧ (5 : Word).toNat < (wWaiter 6).target.toNat ∧ (wWaiter 6).remote = none) ∧
    (let s := { wSync [] [] [(8, 5, .crd 0xA003FFFE00000000, 0)] with
                gate := { wOneFree.gate with asked := [⟨5, 8, .host 16, .crd 0xA003FFFE00000000, 3, 4⟩] }, cycle := 4096 }
     (((s.die 3).resend.find? fun x => x.2.2.2 + 4096 ≤ s.cycle) = some (8, 5, .crd 0xA003FFFE00000000, 0)) ∧
       (s.gate.asked.find? fun x => x.tag == 5) = some ⟨5, 8, .host 16, .crd 0xA003FFFE00000000, 3, 4⟩) ∧
    (let u := wBound.focus 511
     u.bank.swait = .counter 0 64 ∧ u.cwaitCtr = some wCid ∧ (64 : Nat) ≠ 0 ∧ 0 + 64 ≤ u.cycle ∧ u.bank.run = .waiting ∧
       (∀ n w, wCid ≠ .remote n w) ∧ ∃ t, u.ctrRead wCid = .ok (5, t)) ∧
    ((16 : Nat) < 17 ∧
      (let s := wHost 0xA003FFFE00000000
       s.hostCtr 16 (s.fn 16).hcaId true = .ok wCid ∧ (s.fn 16).posted = [] ∧ s.dieFails sheepdog (s.ctrDie wCid) 4 = none ∧
         ((s.modFn 16 fun f => { f with posted := [(64, [1], none)] }).fn 16).posted ≠ [] ∧
         s.hostCtr 16 (s.fn 16).hcaId false = .ok wCid ∧
         okAnd (s.round sheepdog (s.ctrDie wCid) 4 4) (fun u => okAnd (u.ctrRead wCid) fun r => r.1 == 5) = true) ∧
      ∃ f, (wHost 7).hostCtr 16 ((wHost 7).fn 16).hcaId false = .error (.fault f)) ∧
    (let s := wHost 7
     (s.fn 16).posted = [] ∧
       okAnd ((s.modFn 16 fun f => { f with posted := f.posted ++ [(64, [1], none)] }).rounds sheepdog
         (s.homesOf ((List.range [(1 : Byte)].length).map (64 + ·))) 0 1) (fun u => answers (u.homeStore .bank (wholeBytes 64 [1]))) = true) ∧
    ((2 ^ 48 - 8) + [1, 2, 3, 4, 5, 6, 7, (8 : Byte)].length ≤ 2 ^ 48 ∧
      answers ((wHost 7).rounds sheepdog ((wHost 7).homesOf ((List.range 8).map (2 ^ 48 - 8 + ·))) 0 1) = true ∧
      (∀ i, i < 8 → (wHost 7).prepHeld ((2 ^ 48 - 8 + i) / 64) = false ∧ (wHost 7).lineWaits ((2 ^ 48 - 8 + i) / 64) = false) ∧
      ∀ i, i < 8 → (wHost 7).linePoison ((2 ^ 48 - 8 + i) / 64 * 64) = false) ∧
    (let s := { wHost 7 with blocks := [(0, { BlockEnt.zero with poison := 1 })] }
     (∃ i, i < 8 ∧ s.linePoison ((0 + i) / 64 * 64) = true) ∧ (∀ i, i < 8 → s.prepHeld ((0 + i) / 64) = false ∧ s.lineWaits ((0 + i) / 64) = false) ∧
       answers (s.rounds sheepdog (s.homesOf ((List.range 8).map (0 + ·))) 0 1) = true) := by
  refine ⟨⟨rfl, rfl, ?_, ?_, ?_, ?_⟩,
    ⟨rfl, ?_, rfl, ?_, ⟨_, rfl⟩, ?_, ?_, rfl⟩, ⟨?_, ?_⟩, ⟨rfl, ?_, ?_, ?_, rfl, ?_, ⟨_, rfl⟩⟩, ⟨?_, ⟨?_, ?_, ?_, ?_, ?_, ?_⟩, failsBy_ex (c := cILLEGAL_OPERAND) ?_⟩,
    ?_, ⟨?_, ?_, ?_, ?_⟩, ?_⟩
  all_goals first | decide +kernel | exact okAnd_eq (by decide +kernel) | (intro n w h; cases h)

/-! ### Witnesses: engine operations, streams, probe fills -/

/-- A copy of one row of 64 FP32 elements from tile 255 row 3 column 64 to extent 0 at 65280; RADV of the head of tile 254 by n. -/
def wCopy : EngOp := wOp (.cpy ⟨0, 8, 0, 0, 0, 3, 2, 0, 0x1200⟩) 0x3FE0000300400000 65280 0x0001004000000000
def wRadv (n : Word) : EngOp := wOp (.radv ⟨0, 8, 0, 0, 0, 3, 2, 0, 1⟩) 0x3FC0000000000000 0 n

/-- The next row of a copy between local sides is read and written. -/
def itemOk (u : State) (o : EngOp) : Bool := okAnd (u.planCpy o false) fun p =>
  (!p.src.isRemote && !p.dst.isRemote) && okAnd (u.readSpans p.src (p.reads o.next)) fun r =>
    okAnd (r.2.writeSpans (some o.ord) p.dst ((p.writes o.next).zip (p.conv o.next r.1))) fun q => !q.1

theorem itemOk_ok {u : State} {o : EngOp} (h : itemOk u o = true) : okAnd (u.planCpy o false) (fun p =>
    (!p.src.isRemote && !p.dst.isRemote) && okAnd (u.readSpans p.src (p.reads o.next)) fun r =>
      okAnd (r.2.writeSpans (some o.ord) p.dst ((p.writes o.next).zip (p.conv o.next r.1))) fun q => !q.1) = true := h

theorem witness_EngineStepsComplete :
    (opIn ((wEng [{ wCopy with deps := [.val 0, .val 1] }] []).focus 0) 4 { wCopy with deps := [.val 0, .val 1] } .queued ∧
      depsReady [.val 0, .val 1] = true ∧ depsFail [.val 0, .val 1] = true ∧ depsFail [.val 0] = false) ∧
    (let u := (wEng [wRadv 4] []).focus 0
     opIn u 4 (wRadv 4) .queued ∧ u.engRunning 0 (wRadv 4).engine < 4 ∧ ∃ t, u.startRadv (wRadv 4) = .ok t) ∧
    (let u := (wEng [wCopy] []).focus 0
     opIn u 4 wCopy .queued ∧ u.raceHolds wCopy 0 false = false ∧ u.raceHolds wCopy 1 true = false ∧ ∃ p, u.planCpy wCopy true = .ok p) ∧
    (let u := (wEng [wRadv 5] []).focus 0
     opIn u 4 (wRadv 5) .queued ∧ ∃ f, u.opStart (wRadv 5) = .error (.fault f)) ∧
    (let o := { wCopy with st := .running, total := 1 }
     let u := (wEng [o] []).focus 0
     opIn u 4 o .running ∧ o.next < o.total ∧ o.fail = (0, 0) ∧ o.wr = false ∧
       ∃ p, u.planCpy o false = .ok p ∧ (p.src.isRemote = false ∧ p.dst.isRemote = false) ∧
       ∃ r : List Nat × State, u.readSpans p.src (p.reads o.next) = .ok r ∧
       ∃ q : Bool × State, r.2.writeSpans (some o.ord) p.dst ((p.writes o.next).zip (p.conv o.next r.1)) = .ok q ∧ q.1 = false) ∧
    (let o := { wCopy with st := .running, total := 1, next := 1 }
     let u := (wEng [o] []).focus 0
     opIn u 4 o .running ∧ o.total ≠ 0 ∧ o.total ≤ o.next ∧ u.unacked o.ord = false ∧ ∃ t, u.opAdvance o = .ok t) ∧
    ((((wEng [] [{ wStrm with out := false }]).focus 0).bank.streams.filter fun t => t.num == wStrm.num && !t.out) =
        [{ wStrm with out := false }] ∧
      (((wEng [] [{ wStrm with out := true }]).focus 0).bank.streams.filter fun t => t.num == wStrm.num && t.out) =
        [{ wStrm with out := true }]) ∧
    (let u := (wPrb [(7, wFill 63)]).focus 0
     (u.probe 7).fill = true ∧ (∀ e ∈ u.bank.sq, (u.probe 7).since ≤ e.ord) ∧ u.probeTile = some (253, 1) ∧
       ∃ r : Option Flt × State, u.probeFinish 253 7 none = .ok r ∧ r.1 = none) ∧
    (let u := ({ wPrb [(7, wFill 63)] with blocks := [(1406, { BlockEnt.zero with poison := 1 })] } : State).focus 0
     (u.probe 7).fill = true ∧ u.probeTile = some (253, 1) ∧ ∃ r : Option Flt × State, u.probeFinish 253 7 none = .ok r ∧ r.1 ≠ none) := by
  unfold opIn
  refine ⟨?_, ⟨?_, ?_, answers_ok ?_⟩,
    ⟨?_, ?_, ?_, answers_ok ?_⟩,
    ⟨?_, failsBy_ex (c := cILLEGAL_OPERAND) ?_⟩, ⟨?_, ?_, ?_, ?_, okAnd_ex (itemOk_ok ?_) fun p h => ⟨by simp at h; exact h.1, okAnd_ex (by simp at h; exact h.2)
      fun r h => okAnd_ex h fun q h => by simpa using h⟩⟩, ⟨?_, ?_, ?_, ?_, answers_ok ?_⟩, ?_,
    ⟨?_, ?_, ?_, okAnd_ex (d := fun r => r.1.isNone) ?_ fun r h => by simpa using h⟩,
    ⟨?_, ?_, okAnd_ex (d := fun r => r.1.isSome) ?_ fun r h => by cases hr : r.1 <;> simp_all⟩⟩
  all_goals decide +kernel

/-! ### Witnesses: the Mill -/

/-- Bank 0 with these commands before the Mill given; tile 255 is an FP32 tile of level 0, 128 elements wide. -/
def wMS (m : Mill) (cs : List MillCmd) : State :=
  { wMem.upd fun b => { b with cmds := cs, tiles := [(255, some (freshTile 0x0004008048000000 1))] } with
    mgs := [(0, { MillGroup.reset with mill := m })], cycle := 65536 }

/-- The Mill of domain FP32, held by bank 0 with its program loaded, its lease's 63 commands counted. -/
def wHeld : Mill := { Mill.reset with domain := 4, loaded := true, holder := some 0, count := 63 }

def wMf : Instr := .mflow ⟨9, 0, 0, 0, 0, 0, 0, 2⟩
def wMsk : Instr := .mskew ⟨9, 0, 0, 0, 0, 0, 0, 0xFF5⟩
def wMcl : Instr := .mclr ⟨9, 0, 0, 0, 0, 0, 0, 4⟩
def wMre : Instr := .mrel ⟨9, 0, 0, 0, 0, 0, 0, 0⟩
def wMfe : MillCmd := wCmd (.mfeed ⟨9, 0, 0, 0, 3, 2, 4, 0⟩) 0x3FE0000000000000 0x3FE0000000000000
def wMdr : Instr := .mdrain ⟨9, 0, 0, 0, 0, 0, 0, 0⟩

theorem witness_MillStepsComplete :
    (let c := { wCmd wMf 0 0 with deps := [.val 1] }
     ((wMS Mill.reset [c]).focus 0).nextStart = some c ∧ depsFail c.deps = true ∧ counted c.instr = true ∧
       ((wMS Mill.reset [c]).mg 0).mill.holder ≠ some 0 ∧ ((wMS wHeld [c]).focus 0).nextStart = some c ∧ wHeld.pair = false ∧
       wHeld.holder = some 0 ∧ wHeld.count < 64) ∧
    (let c := wCmd wMf 0 0
     let u := (wMS { wHeld with holder := some 15 } [c]).focus 0
     u.nextStart = some c ∧ depsFail c.deps = false ∧ u.bank.susp = none ∧ (u.mg (mgOf u.cur)).mill.pair = false ∧
       (u.mg (mgOf u.cur)).mill.holder ≠ some u.cur ∧ u.bank.lost = 0 ∧ needsNoLease c = false) ∧
    (let ok (i : Instr) : Prop :=
       let c := wCmd i 0 0
       let u := (wMS wHeld [c]).focus 0
       u.nextStart = some c ∧ depsFail c.deps = false ∧ u.bank.susp = none ∧ (u.mg (mgOf u.cur)).mill.pair = false ∧
         (u.mg (mgOf u.cur)).mill.holder = some u.cur ∧ (u.mg (mgOf u.cur)).mill.count < 64 ∧ (u.mg (mgOf u.cur)).mill.loaded = true ∧
         (u.mg (mgOf u.cur)).mill.open_ = false
     ok wMf ∧ ok wMsk ∧ ok wMcl) ∧
    (let u := (wMS { wHeld with open_ := true } [wMfe]).focus 0
     u.nextStart = some wMfe ∧ (u.mg (mgOf u.cur)).mill.open_ = true ∧
       ∃ t, (u.millWorks.modMill (mgOf u.cur) fun m => { m with count := m.count + 1 }).startFeed wMfe = .ok t) ∧
    (let c := { wCmd wMf 0 0 with value := some 3 }
     working ((wMS wHeld [c]).focus 0) c [] ∧ c.value = some 3) ∧
    (let c := { wCmd wMre 0 0 with started := true }
     working ((wMS wHeld [c]).focus 0) c [] ∧ ((wMS wHeld [c]).focus 0 |>.millOf 0).bad = false ∧
       (((wMS wHeld [c]).focus 0).mg 0).mill.holder = some 0 ∧ (((wMS { wHeld with holder := some 15 } [c]).focus 0).mg 0).mill.holder ≠ some 0 ∧
       working ((wMS { wHeld with holder := some 15 } [c]).focus 0) c []) ∧
    (let c := { wMfe with started := true, full := true }
     working ((wMS wHeld [c]).focus 0) c [] ∧ c.value = none ∧ c.waiting = false ∧ c.recorded = false ∧ c.fail = (0, 0)) ∧
    (let c := { wCmd wMdr 0 0 with started := true }
     working ((wMS wHeld [c]).focus 0) c [] ∧ c.captured = false ∧ ((wMS wHeld [c]).focus 0 |>.millOf 0).drain = none) ∧
    (let m := ((wMS { wHeld with count := 64 } []).mg 0).mill
     m.holder = some 0 ∧ ((wMS { wHeld with count := 64 } []).getBank 0).millBusy = false ∧ m.count = 64 ∧ m.open_ = false ∧
       65536 ≤ m.idle + ((wMS { wHeld with count := 64 } []).cycle - m.mark)) ∧
    (let s := wMS { wHeld with pair := true, window := 65472 } []
     (s.mg 0).mill.pair = true ∧ (s.mg 0).mill.window + 64 ≤ s.cycle) := by
  unfold working
  refine ⟨?_, ?_, ?_, ⟨?_, ?_, answers_ok ?_⟩, ?_, ?_, ?_, ?_, ?_, ?_⟩
  all_goals first | decide +kernel | (dsimp only; and_intros <;> decide +kernel)

/-! ### Witnesses: weirs, groups, requests of other devices -/

/-- Every line has its home on die 0; the page at 0x1FFF0000 of context 0 is RESIDENT in frame 9. Die 0 has the group in its last entry, the weir
states, commit messages and requests given. -/
def wWeir (g : Option Group) (ws : List WeirGroup) (ms : List CommitMsg) (rs : List Packet) : State :=
  { wPg 0x90019 0 [] with
    homeM := [(0, 0x400000000000), (1, 0x800000000000)], frames := [(9, ⟨true, false, false, 0, 0x1FFF0000⟩)], cycle := 2 ^ 40,
    dies := [(0, { Die.reset with
      groups := [(4095, ⟨0, g⟩)], weir := ws, inbox := ms.map fun m => (0, 0, m), reqs := rs,
      cmp := { Cmp.reset with runs := [(0, 64)], free := 2 ^ 31 } })] }

/-- The group's name, another one, a line of frame 9, and a weir state with it. -/
def wGn : GroupName := ⟨4095, 0⟩
def wGo : GroupName := ⟨4094, 0⟩
def wLn (k : Nat) : StagedLine := ⟨0x90000 + 64 * k, 5, 0xFF, false⟩
def wWg (p : Bool) : WeirGroup :=
  { name := wGn, called := 0, ctx := 0, prepared := p, lines := [wLn 1023], rsv := if p then [(0x90000 / 512 + 127, 8)] else [], since := 0,
    queries := 7, recd := false }
def wGs (st : Nat) : Group := { wGroup with st := st, weirs := [(0, 2)], ready := [0], report := [0] }

/-- A message of that kind is taken at die 0, and it and the state after pass a check. -/
def takenOk {α : Type} (s : State) (f : CommitMsg → Option α) (p : Nat × α × State → Bool) : Bool :=
  match s.takeMsg 0 f with
  | some r => p r
  | none => false

theorem takenOk_ok {α : Type} {s : State} {f : CommitMsg → Option α} {p : Nat × α × State → Bool} (h : takenOk s f p = true) :
    ∃ r, s.takeMsg 0 f = some r ∧ p r = true := by
  unfold takenOk at h; split at h
  · rename_i heq; exact ⟨_, heq, h⟩
  · simp at h

/-- A request of node 8 for the first counter, and its add of 1. -/
def wReq (r : RemoteReq) : Packet := { dst := 0, src := 8, dom := 0, vc := 4, seq := 0, body := .request 7 r }

theorem witness_WeirStepsComplete :
    (let s := wWeir none [] [] []
     (0 : Nat) < 4 ∧ s.home (wLn 1023).addr = 0 ∧ (wLn 1023).addr % 64 = 0 ∧ (wLn 1023).addr < 2 ^ 48 ∧
       s.stagingHalted (s.frameOf (wLn 1023).addr).ctx = false ∧ s.weirOf 0 wGn = none ∧
       (s.die 0).weir.foldl (fun n w => n + w.lines.length) 0 < 262144 ∧
       (wWeir none [wWg true] [] []).weirOf 0 wGn = some (wWg true) ∧ (wWg true).prepared = true ∧
       (wWeir none [wWg false] [] []).weirOf 0 wGn = some (wWg false) ∧ (wWg false).prepared = false ∧
       ∃ x ∈ (wWg false).lines, x.addr = (wLn 1023).addr) ∧
    (∃ r, (wWeir none [wWg false] [.prepare wGn 0 1] []).takeMsg 0 asPrepare = some r ∧
      (r.2.1 == (wGn, 0, 1) && r.2.2.weirOf 0 wGn == some (wWg false) && answers (r.2.2.prepare 0 wGn 0 1)) = true) ∧
    (∃ r, (wWeir none [wWg false] [.prepare wGn 0 2] []).takeMsg 0 asPrepare = some r ∧
      (r.2.1 == (wGn, 0, 2) && r.2.2.weirOf 0 wGn == some (wWg false)) = true) ∧
    (∃ r, ({ wWeir none [wWg false] [.prepare wGn 0 1] [] with frames := [(9, ⟨true, false, false, 0, 1⟩)] } : State).takeMsg 0 asPrepare = some r ∧
      (r.2.1 == (wGn, 0, 1) && r.2.2.weirOf 0 wGn == some (wWg false) && !r.2.2.stagedPage (wLn 1023).addr &&
        (r.2.2.die 0).weir.all (fun y => y.name == wGn)) = true) ∧
    (∃ r, (wWeir none [] [.commit wGn 0] []).takeMsg 0 asCommit = some r ∧ (r.2.1 == (wGn, 0) && r.2.2.weirOf 0 wGn == none) = true) ∧
    (wWg true).lines.all (fun l => !(wWeir none [wWg true] [.commit wGn 0] []).wpAt l.addr &&
      !(wWeir none [wWg true] [.commit wGn 0] []).blockWaits (l.addr / 512)) = true ∧
    (∃ r, (wWeir none [wWg true] [.commit wGn 0] []).takeMsg 0 asCommit = some r ∧
      (r.2.1 == (wGn, 0) && r.2.2.weirOf 0 wGn == some (wWg true)) = true) ∧
    (∃ r, (wWeir none [wWg false] [.discard wGn 0] []).takeMsg 0 asDiscard = some r ∧
      (r.2.1 == (wGn, 0) && r.2.2.weirOf 0 wGn == some (wWg false)) = true) ∧
    (∃ r, (wWeir (some (wGs 2)) [] [.ready wGn 0] []).takeMsg 0 asReady = some r ∧
      (r.2.1 == (wGn, 0) && r.2.2.groupAt 0 wGn == some (4095, wGs 2) && (wGs 2).ready.erase 0 == []) = true) ∧
    (∃ r, (wWeir (some { wGs 2 with ready := [0, 1] }) [] [.ready wGn 1] []).takeMsg 0 asReady = some r ∧
      (r.2.1 == (wGn, 1) && r.2.2.groupAt 0 wGn == some (4095, { wGs 2 with ready := [0, 1] }) && [0, 1].erase 1 != []) = true) ∧
    (∃ r, (wWeir (some (wGs 2)) [] [.refusal wGn 0 cCONFLICT 0] []).takeMsg 0 asRefusal = some r ∧
      (r.2.1 == (wGn, cCONFLICT, 0) && r.2.2.groupAt 0 wGn == some (4095, wGs 2)) = true) ∧
    (∃ r, (wWeir (some (wGs 3)) [] [.published wGn 0 true] []).takeMsg 0 asPublished = some r ∧
      (r.2.1 == (wGn, 0, true) && r.2.2.groupAt 0 wGn == some (4095, wGs 3) && (wGs 3).report.erase 0 == []) = true) ∧
    (∃ r, (wWeir (some (wGs 5)) [] [.discarded wGn 0] []).takeMsg 0 asDiscarded = some r ∧
      (r.2.1 == (wGn, 0) && r.2.2.groupAt 0 wGn == some (4095, wGs 5)) = true) ∧
    (∃ r, (wWeir (some (wGs 4)) [] [.query wGn 0] []).takeMsg 0 asQuery = some r ∧
      (r.2.1 == (wGn, 0) && r.2.2.groupAt 0 wGn == some (4095, wGs 4)) = true) ∧
    (∃ r, (wWeir (some (wGs 5)) [] [.query wGn 0] []).takeMsg 0 asQuery = some r ∧
      (r.2.1 == (wGn, 0) && r.2.2.groupAt 0 wGn == some (4095, wGs 5)) = true) ∧
    (let s := wWeir (some (wGs 2)) [] [] []
     (s.gent 0 4095).grp = some (wGs 2) ∧ (wGs 2).st = 2 ∧ (wGs 2).since + usCycles (wGs 2).timeout ≤ s.cycle) ∧
    (let s := wWeir (some (wGs 3)) [wWg true] [] []
     s.weirOf 0 wGn = some (wWg true) ∧ (wWg true).queries < 8 ∧ (wWg true).recd = false ∧
       (wWg true).since + 4 * usCycles (s.weirTimeout wGn) ≤ s.cycle) ∧
    (let p := wReq (.cadd 0xA000000000000000 1)
     let s := { wWeir none [] [] [p] with links := upLinks }
     (s.die 0).reqs = [p] ∧ ((s.modDie 0 fun d => { d with reqs := [] }).cross (s.fromDie p.src) 0 p.vc).isSome = true) ∧
    (let s := wWeir none [] [] []
     let q := wReq (.read 15 0 1)
     let s1 := s.modCtx 0 fun x => { x with wins := [(15, ⟨0x1FFF0000, 64, true, false, [⟨0, 8191, 1, 9, false, false, false⟩], []⟩)] }
     (∃ r, s1.serve 0 q 7 (.read 15 0 1) = .ok r ∧ r.1.isSome = true) ∧ ∃ f, s1.serve 0 q 7 (.write 15 0 [1] [0xFF]) = .error (.fault f)) := by
  refine ⟨?_, takenOk_ok ?_, takenOk_ok ?_, takenOk_ok ?_, takenOk_ok ?_, ?_, takenOk_ok ?_, takenOk_ok ?_, takenOk_ok ?_, takenOk_ok ?_, takenOk_ok ?_,
    takenOk_ok ?_, takenOk_ok ?_, takenOk_ok ?_, takenOk_ok ?_, ?_, ?_, ?_, okAnd_ex ?_ fun r h => h, failsBy_ex (c := cREMOTE_FAULT) ?_⟩
  all_goals decide +kernel

/-! ### Witnesses: the gateway, links, windows -/

/-- A counter request of node 8 for this device (node 0) of that sequence number. -/
def wPkt (seq : Nat) : Packet := { wReq (.cadd 0xA000000000000000 1) with seq := seq }

/-- Link l with these VCs and that state; the device otherwise as after reset. -/
def wLink (l phys : Nat) (vcs : Map Vc) : State :=
  { State.reset with links := [(l, { Link.reset with phys := phys, lanes := 8, vcs := vcs })] }
def wVc : Vc := { Vc.reset with st := 0, mode := 1, cnt := 5, rcnt := 7 }

/-- VC 7 of link 31, and VC 7 of link 9 from its higher die, as that record. -/
def wVc31 (x : Vc) : Vc := ((wLink 31 1 [(7, x)]).link 31).vc (vcKey 31 7 0)
def wVc9 (x : Vc) : Vc := ((wLink 9 1 [(15, x)]).link 9).vc (vcKey 9 7 1)

/-- A VC brought to quarantine with a key loaded for each end. -/
def wQuar : Vc := { wVc with st := 2, next := some (⟨1, 2⟩, 9), rnext := some (⟨1, 2⟩, 9) }

theorem witness_LinkStepsComplete :
    (let p := wPkt 0xFFFFFFFF
     let s := { State.reset with gate := { State.reset.gate with seqIn := [(seqKey p.src p.dst p.vc, 0xFFFFFFFF)] } }
     devOf p.dst = s.fabric ∧ devOf p.src ≠ s.fabric ∧ (∀ v n, p.body ≠ .ack v n) ∧ orderedVc p.vc = true ∧ p.seq < 2 ^ 32 ∧
       s.gate.early = [] ∧ p.seq = mget 0 s.gate.seqIn (seqKey p.src p.dst p.vc) ∧
       seqOld p.seq (mget 0 State.reset.gate.seqIn (seqKey p.src p.dst p.vc)) = true) ∧
    (ethPort 32 = true ∧ ethPort 35 = true ∧ (0x88B5 : Nat) = State.reset.ethType ∧ (0x0800 : Nat) ≠ State.reset.ethType) ∧
    (let u : Unacked := ⟨wPkt 3, 9, 7, 1, false⟩
     let s : State := { State.reset with cycle := 45001, gate := { State.reset.gate with unack := [u] } }
     (s.gate.unack.find? fun u => u.pkt.src == 8 && u.pkt.dst == 0 && u.pkt.vc == 4 && u.pkt.seq == 3) = some u ∧ u.acked = false ∧ u.tries < 8 ∧
       u.at_ + 45000 ≤ s.cycle ∧ State.reset.cycle < u.at_ + 45000) ∧
    (let x := wVc31 wVc
     let y := wVc9 wVc
     (7 : Nat) < 8 ∧ ethPort 31 = false ∧ ethPort 9 = false ∧ (10 : Nat) ≤ 31 ∧ (9 : Nat) < 10 ∧ x.mode ≠ 0 ∧ x.st < 2 ∧ x.rcnt = 7 ∧ x.bad ≠ 7 ∧
       y.mode ≠ 0 ∧ y.st < 2 ∧ y.rcnt = 7 ∧ (wVc31 { wVc with bad := 7 }).bad = 7 ∧ (wVc9 { wVc with bad := 7 }).bad = 7) ∧
    (let s := wLink 9 1 [(15, { wVc with stop := true })]
     let t := { s with cycle := 2250 * (s.link 9).rkdl }
     (((t.link 9).vc (vcKey 9 7 1)).stop = true ∧ ((t.link 9).vc (vcKey 9 7 1)).since + 2250 * (t.link 9).rkdl ≤ t.cycle) ∧
       s.cycle < ((s.link 9).vc (vcKey 9 7 1)).since + 2250 * (s.link 9).rkdl) ∧
    (let x := wVc9 wVc
     State.reset.boot.stage ≠ 8 ∧ (2 ^ 32 - 1 : Nat) ≤ 2 ^ 32 - 1 ∧ 6 < x.rcnt ∧ 4 < x.cnt ∧ x.cnt = 5 ∧ x.rcnt = 7 ∧ x.cnt < 2 ^ 32 - 1 ∧
       x.next = none ∧ x.rcnt < 8 ∧ x.rnext = none ∧ x.st < 2) ∧
    (twins 9 (vcKey 9 7 1) = [7, 15] ∧
      (∀ k ∈ twins 9 (vcKey 9 7 1), let x := ((wLink 9 1 [(7, wQuar), (15, wQuar)]).link 9).vc k
        x.st = 2 ∧ x.next.isSome ∧ x.rnext.isSome) ∧
      (∀ k ∈ twins 31 (vcKey 31 7 0), let x := ((wLink 31 1 [(7, wQuar)]).link 31).vc k
        x.st = 2 ∧ x.next.isSome ∧ x.rnext.isSome) ∧
      ∃ k ∈ twins 9 (vcKey 9 7 1), let x := ((wLink 9 1 [(7, wQuar), (15, { wQuar with rnext := none })]).link 9).vc k
        x.st ≠ 2 ∨ x.next = none ∨ x.rnext = none) ∧
    (131072 ≤ (131072 : Word).toNat ∧ vcpMode 0xC000 7 = 3 ∧ bitAt (65536 : Word).toNat 16 = true ∧ fabricPort 35 = false ∧ fabricPort 0 = false ∧
      vcpMode 1 0 = 1 ∧ bitAt (1 : Word).toNat 16 = false) ∧
    (let v : Word := 0x15555
     State.reset.boot.stage ≠ 8 ∧ v.toNat < 131072 ∧ bitAt v.toNat 16 = true ∧ fabricPort 31 = true ∧
       ∀ n < 8, vcpMode v n = 1 ∧ vcpMode v n ≠ ((State.reset.link 31).vc n).nmode.getD ((State.reset.link 31).vc n).mode ∧
         State.reset.vcBusy 31 n = false) ∧
    ((State.reset.link 31).phys = 0 ∧ ((wLink 31 1 []).link 31).phys = 1 ∧ ((wLink 31 2 []).link 31).phys = 2 ∧ ((wLink 31 3 []).link 31).phys = 3 ∧
      (wLink 31 3 []).boot.stage ≠ 8) ∧
    (fabricPort 16 = true ∧ fabricPort 31 = true ∧ ethPort 32 = true ∧ ethPort 35 = true) ∧
    ((15 : Nat) < 16 ∧ (wPin.ctx 0).st ≠ .free ∧ (wPin.ctx 0).st ≠ .destroyed ∧ 2 ^ 44 ≤ (0x100000000000 : Word).toNat ∧
      (0xFFFFFFFFFFF : Word).toNat < 2 ^ 44 ∧
      (Region.mk (mget Window.closed (wPin.ctx 0).wins 15).base 64 1 0 false false 0 0 0).rangeOk = true) := by
  refine ⟨⟨?_, ?_, fun v n h => ?_, ?_⟩, ?_⟩
  · decide +kernel
  · decide +kernel
  · cases h
  all_goals and_intros <;> decide +kernel

/-! ### Witnesses: collectives, the life of a context, dispositions -/

/-- A record of two members, rank 0: the sum of 32-bit elements of the bytes 0x1FFF0000 to 0x1FFF0007 into those from 0x1FFF0040, channels of depth d. -/
def wColl (d : Byte) : List Byte :=
  [0, 5, 0, 2, 0, d, 0, 0] ++ leBytes 8 8 ++ leBytes 8 0x1FFF0000 ++ leBytes 8 0x1FFF0040 ++ leBytes 8 0x1FFF0080 ++ List.replicate 24 0

/-- The page of wPg open for reads and writes, with the member words at its offset 0x80: entry 4095 of this device, entry 0 of device 1. -/
def wColS (w : Word) (n : Nat) : State :=
  let s := wPg w 0 []
  { s with
    mem := mputs 0 s.mem 0x90080 (leBytes 8 (4095 * 4096 + 2 ^ 32)),
    ctxs := [(0, { Ctx.reset with st := .running, root := 0x10000,
                                  colls := (List.range n).map fun k => (k, { Coll.unloaded with st := 1, recd := [0, 0, 0, 64, 0, 64] }) })] }

/-- An entry of that record in that state. -/
def wEnt (st read : Nat) : Coll := { Coll.unloaded with st := st, recd := wColl 2, read := read, r := 2 ^ 24 + 5 }
def wCe (x : Coll) (c : Nat) : State := { State.reset with ctxs := [(31, { Ctx.reset with st := .running, colls := [(4095, x)] })], cycle := c }

/-- The last context in a given state. -/
def wCx (f : Ctx → Ctx) : State := { State.reset with ctxs := [(31, f Ctx.reset)] }

/-- One bank of the last context still runs. -/
def wStays : State :=
  { wCx fun x => { x with st := .halting } with
    cur := 511, bank := { Bank.reset with run := .ready, id := { Bank.reset.id with ctx := 31 } } }

/-- An image without sections that needs one cluster, of domain 3: header and SHA3-256 digest; it lies in host memory and holds an empty context. -/
def wImage : List Byte :=
  imageMagic ++ [1, 0, 0, 0, 2, 0, 0, 0, 96, 0, 0, 0, 0, 0, 0, 0, 0, 0, 0, 0, 0, 0, 0, 0, 0, 0, 3, 0, 1, 0, 1, 0] ++ List.replicate 24 0 ++
  leBytes 32 0x734fda97db024348dbf63fb3d716d0372433186ebfbb496b6ebbcde3399789f3
def wBack : State := { State.reset with host := mputs 0 [] 64 wImage, images := [⟨wImage, Ctx.reset⟩] }

/-- A device record and a context record under sequence number 0xFFFFFFFF. -/
def wHeldRec : FaultHeld := ⟨{ wRecd with seq := 0xFFFFFFFF }, .bank 0⟩

/-- How the translation of a COLSET's regions ends: 0 with its member words as they must be, 1 at an EVICTED page, else 2. -/
def colsetEnd (s : State) (r : List Byte) : Nat :=
  let u := s.modCtx 0 fun x => { x with colsets := x.colsets ++ [(4095, r)] }
  match u.transRegions 0 (collRegions r).zipIdx [] with
  | (.done, _, fs, t) => if (t.memberWords 0 4095 r fs).isSome then 0 else 2
  | (.evicted, _) => 1
  | _ => 2

/-- The last context HALTED, with a counter on die 3: its image crosses to the Sheepdog. -/
def wHalted (links : Map Link) : State :=
  { wCx fun x => { x with st := .halted, ctrs := [(ctrKey 3 0, ⟨1, 0, 0, 0⟩)] } with links := links }

/-- Context 0 RESUMING, its collective entry over the page with that leaf. -/
def wLoad (w : Word) : State :=
  (wColS w 0).modCtx 0 fun x => { x with st := .resuming, colls := [(4095, { Coll.unloaded with st := 1, recd := wColl 64 })] }
def loadEnd (s : State) : Option State :=
  ((s.kernelList 0).foldlM (fun (t : State) e => t.reframe 0 e.1) s).bind fun t =>
    ((s.ctx 0).colls.filter fun e => e.2.st != 0).foldlM (fun (t : State) e => t.recoll 0 e.1) t

theorem witness_ContextStepsComplete_entries :
    (let s := wColS 0x9001F 0
     (0 : Nat) < 32 ∧ (4095 : Nat) < 4096 ∧ (s.ctx 0).st ≠ .free ∧ (s.coll 0 4095).st = 0 ∧ collOk (wColl 64) = true ∧
      (s.ctx 0).colsets.any (·.1 == 4095) = false ∧
      s.collCtrOk 0 (recWord (wColl 64) 0x28) = true ∧ s.collCtrOk 0 (recWord (wColl 64) 0x30) = true ∧
      s.collCtrOk 0 (recWord (wColl 64) 0x38) = true ∧ s.collUsed + s.collPending + collBuffer (wColl 64) ≤ 2 ^ 25 ∧
      (∀ g ∈ collRegions (wColl 64), s.regionWaits 0 g = false) ∧ colsetEnd s (wColl 64) = 0 ∧
      s.collCtrOk 0 0xA000000000000000 = true) ∧
    (let s := wColS 0x7041F 0
     (s.coll 0 4095).st = 0 ∧ (∀ g ∈ collRegions (wColl 64), s.regionWaits 0 g = false) ∧ colsetEnd s (wColl 64) = 1) ∧
    (let x := (wCe (wEnt 2 0) 0).coll 31 4095
     x.st = 2 ∧ otherRank x 1 ∧ mget none x.chans (64 * 1 + 3 % x.depth) = none ∧ (6 : Nat) ≠ x.r % 2 ^ 24 ∧ (1, 0) ∉ x.finish ∧ x.firing ≠ 7) ∧
    (let x := (wCe (wEnt 3 1) (2 ^ 40)).coll 31 4095
     x.st = 3 ∧ otherRank x 1 ∧ x.read = x.steps ∧ x.srcAdded = false ∧
       x.since + usCycles (wCe (wEnt 3 1) (2 ^ 40)).colTmo ≤ (wCe (wEnt 3 1) (2 ^ 40)).cycle) ∧
    (let s := (wCe (wEnt 3 1) (2 ^ 40)).modCtx 31 fun x => { x with st := .halting }
     ((s.ctx 31).st = .halting ∧ (s.ctx 31).haltAt ≤ (s.coll 31 4095).since) ∧ (s.ctx 31).haltAt + usCycles s.colTmo ≤ s.cycle ∧
       (wCe (wEnt 3 1) 0).cycle < ((wCe (wEnt 3 1) 0).coll 31 4095).since + usCycles (wCe (wEnt 3 1) 0).colTmo ∧
       (wCe (wEnt 3 1) 0).cycle < ((wCe (wEnt 3 1) 0).ctx 31).haltAt + usCycles (wCe (wEnt 3 1) 0).colTmo) ∧
    ((wCe (wEnt 1 0) 0).coll 31 4095).st = 1 := by
  unfold otherRank; and_intros <;> decide +kernel

theorem witness_ContextStepsComplete :
    ((31 : Nat) < 32 ∧ idle (wCx id) 31 ∧ ((wCx id).ctx 31).st = .free ∧ (wCx id).boot.stage ≠ 8 ∧
      idle (wCx fun x => { x with st := .runnable }) 31 ∧ (wCx fun x => { x with st := .runnable }).setFree 31 [15] = true ∧
      idle (wCx fun x => { x with st := .created, wrote := 7 }) 31 ∧ ((wCx fun x => { x with st := .created, wrote := 7 }).ctx 31).wrote = 7 ∧
      idle (wCx fun x => { x with st := .preempted }) 31 ∧ ((wCx fun x => { x with st := .preempted }).ctx 31).clusters = [] ∧
      (wCx fun x => { x with st := .preempted }).setFree 31 [15] = true ∧ idle (wCx fun x => { x with st := .running }) 31 ∧
      ¬ idle (wCx fun x => { x with st := .preempted, clusters := [15] }) 31 ∧ ¬ idle (wCx fun x => { x with cmds := [.swapOut] }) 31) ∧
    (idle (wHalted upLinks) 31 ∧ ((wHalted upLinks).ctx 31).st = .halted ∧
      ((wHalted upLinks).haul ((wHalted upLinks).imageWays 31 (2 ^ 40) ((wHalted upLinks).imageBytes 31).length true)).isSome = true ∧
      ((wHalted []).haul ((wHalted []).imageWays 31 (2 ^ 40) ((wHalted []).imageBytes 31).length true)).isNone = true) ∧
    ((wCx fun x => { x with st := .halting }).banksOf 31 = [] ∧ (wCx fun x => { x with st := .halting }).addsDone 31 = true ∧
      (wCx fun x => { x with st := .halting }).groupsOf 31 = [] ∧ (wCx fun x => { x with st := .halting }).haltSettled 31 = true) ∧
    ((wStays.ctx 31).st = .halting ∧ (wStays.ctx 31).haltTmo ≤ wStays.cycle ∧ wStays.banksOf 31 ≠ []) ∧
    (idle (wCx fun x => { x with st := .imaged, held := [15] }) 31 ∧
      ∀ k ∈ ((wCx fun x => { x with st := .imaged, held := [15] }).ctx 31).held, (wCx fun x => { x with st := .imaged, held := [15] }).clusterTaken 31 k = false) ∧
    (rootOk 1 = false ∧ rootOk 0xFFFFFFFF0000 = true ∧ faOk 0x0001000000000000 = false ∧ faOk 0x0010000000000040 = true) ∧
    (let b := wBack.imageAt 64 (leNat (wBack.imageAt 80 8 true)) true
     b = wImage ∧ answers (wBack.restoreCheck 31 b [15]) = true) ∧
    (∃ r, State.reset.restoreCheck 31 [] [] = .error r) ∧
    (((wLoad 0x9001F).ctx 0).st = .resuming ∧ (loadEnd (wLoad 0x9001F)).isSome = true ∧ (loadEnd (wLoad 0x7041F)).isNone = true) ∧
    (let s := wCx fun x => { x with st := .destroyed }
     (s.ctx 31).st = .destroyed ∧ s.banksOf 31 = [] ∧ s.groupsOf 31 = [] ∧ s.addsDone 31 = true ∧ ∀ d < 4, ∀ w ∈ (s.die d).weir, w.ctx ≠ 31) ∧
    ((wAreas [] [] []).modCtx 0 fun x => { x with faults := [wHeldRec] }).recordAt (.ctx 0) 0xFFFFFFFF = some wHeldRec ∧
    ({ State.reset with dev := { State.reset.dev with faults := [wHeldRec] } } : State).recordAt .dev 0xFFFFFFFF = some wHeldRec ∧
    State.reset.recordAt .dev 0 = none := by
  unfold idle
  refine ⟨?_, ?_, ?_, ?_, ?_, ?_, ?_, ⟨1, by simp [State.restoreCheck]⟩, ?_, ?_, ?_, ?_, ?_⟩
  all_goals decide +kernel

/-! ### Witnesses: registers, memory controller, heat, start sequence, attestation -/

/-- A memory-controller state of die 3: the unit under test in state st, 2048 activations of the last row of the last bank, errors as given. -/
def wDie (st : Nat) (ras thr : Map Nat) : State :=
  { State.reset with
    dies := [(3, { Die.reset with test := { unit := 127, bank := 15, st := st, done := false, row := 0 }, acts := [(2047 * 65536 + 65535, 2048)],
                                  ras := ras, rasThr := thr })] }

/-- A device in that stage of its start. -/
def wBoot (stage cycle : Nat) : State := { State.reset with boot := { State.reset.boot with ran := true, stage := stage }, cycle := cycle }

/-- A NEGOTIATE_ALGORITHMS request that offers one extended signature and one extended hash algorithm, those of the device. -/
def wAlgs : List Byte :=
  [0x12, 0xE3, 0, 0, 40, 0] ++ List.replicate 22 0 ++ [1, 1, 0, 0] ++ leBytes 4 (Config.algId 0).toNat ++ leBytes 4 (Config.algId 1).toNat

theorem witness_offersAlgs : offersAlgs wAlgs = true ∧ offersAlgs [] = false := by
  refine ⟨?_, by decide +kernel⟩
  unfold offersAlgs wAlgs
  generalize Config.algId 0 = x
  generalize Config.algId 1 = y
  have h (z : BitVec 32) : leNat (leBytes 4 z.toNat) = z.toNat := by rw [leNat_leBytes]; exact Nat.mod_eq_of_lt z.isLt
  have hx := h x
  have hy := h y
  simp [recNat, leBytes, leNat] at hx hy ⊢
  exact ⟨hx, hy⟩

/-- A device in that stage of its start, of which these dies have completed it. -/
def wPart (stage : Nat) (done : List Nat) : State := { wBoot stage 0 with boot := { (wBoot stage 0).boot with done := done } }

theorem witness_DeviceStepsComplete :
    ((wBoot 8 0).boot.stage = 8 ∧ (wBoot 7 0).boot.stage ≠ 8 ∧
      (writeGives (wCx fun x => { x with st := .created }) (.ctxRoot 31) 0xFFFFFFFF0000).isSome = true ∧
      (writeGives (wCx fun x => { x with st := .running }) (.dlogCap 31) 0x1000000).isSome = true ∧
      (writeGives State.reset .colTmo 100000).isSome = true ∧ (writeGives State.reset .agingInterval 0x1000000).isSome = true ∧
      (writeGives State.reset .waitLimit 0x40000000).isSome = true ∧ (writeGives State.reset .preemptMargin 7).isSome = true ∧
      (writeGives State.reset (.lnkRkdl 35) 10000).isSome = true ∧ (writeGives State.reset (.hcaId 16) (-1)).isSome = true ∧
      readOnly (.hcaStat 16) = true ∧ readOnly (.hcaVal 16) = true ∧ readOnly .bootstat = true ∧ (99 : Word).toNat < 100 ∧
      100000 < (100001 : Word).toNat) ∧
    ((3 : Nat) < 4 ∧ (wDie 0 [] []).boot.stage ≠ 8 ∧ (0x0FFF : Word).toNat < 2 ^ 16 ∧ bitAt (0x0FFF : Word).toNat 11 = true ∧
      ((wDie 0 [] []).die 3).test.st = 0 ∧ ((wDie 1 [] []).die 3).test.st = 1 ∧ ((wDie 2 [] []).die 3).test.st = 2 ∧
      ((wDie 3 [] []).die 3).test.st = 3 ∧ ((wDie 4 [] []).die 3).test.st ≠ 0) ∧
    (2048 ≤ mget 0 ((wDie 0 [] []).die 3).acts ((127 + 15 * 2 ^ 7) * 65536 + 65535) ∧
      mget 0 ((wDie 0 [] []).die 3).acts ((127 + 15 * 2 ^ 7) * 65536 + 65534) < 2048 ∧ (127 : Nat) < 128 ∧ (15 : Nat) < 16 ∧
      (wDie 0 [] []).cycle < ((wDie 0 [] []).die 3).actsAt + 72000000 ∧
      ((wBoot 6 72000000).die 3).actsAt + 72000000 ≤ (wBoot 6 72000000).cycle) ∧
    ((3 : Nat) ≤ 4 ∧ (4 : Nat) < 5 ∧
      (let s := (wDie 0 [] []).dropFar 3 fun l _ => l == 7
       min (mget 0 (s.die 3).ras 4 + 1) (2 ^ 32 - 1) ≤ mget rasUnset (s.die 3).rasThr 4) ∧
      (let s := wDie 0 [(4, 2 ^ 32 - 1)] [(4, 5)]
       mget rasUnset (s.die 3).rasThr 4 < min (mget 0 (s.die 3).ras 4 + 1) (2 ^ 32 - 1))) ∧
    ((3 : Nat) < 4 ∧ (5 : Nat) < 6 ∧ (4 ≤ 4 ∨ 6 ≤ 0 ∨ (wBoot 6 0).boot.stage = 8) ∧ (wBoot 6 0).boot.ran = true ∧ (wBoot 6 0).boot.stage ≠ 7 ∧
      (wBoot 7 0).boot.ran = true ∧ (wBoot 7 0).boot.stage = 7) ∧
    (State.reset.boot.ran = false ∧
      (∀ k, (wBoot k 0).boot.ran = true ∧ (wBoot k 0).boot.stage = k) ∧ (6 : Nat) < 7 ∧ (6 : Nat) ≠ 1 ∧
      2250 * 60000000 ≤ (wBoot 5 (2250 * 60000000)).cycle ∧ (wBoot 5 (2250 * 60000000)).boot.stage < 7) ∧
    (4 ∈ stageDies 0 ∧ 4 ∈ stageDies 1 ∧ 0 ∈ stageDies 2 ∧ 3 ∈ stageDies 3 ∧ 3 ∈ stageDies 4 ∧ 4 ∈ stageDies 6 ∧
      ((wBoot 3 0).regBist 3 ((List.range 64).map fun i => (192 + i, 8))).noCore 3 = true ∧
      (∃ d ∈ stageDies 4, d ∉ 3 :: (wPart 4 [0, 1]).boot.done.erase 3) ∧
      ∀ k < 7, ∀ d ∈ stageDies k, d ∈ 0 :: (wPart k [1, 2, 3, 4]).boot.done.erase 0) ∧
    (let s := { wBoot 8 0 with spdm := ⟨true, true, true, []⟩ }
     s.boot.answers = true ∧ s.spdm.ver = true ∧ s.spdm.caps = true ∧ s.spdm.alg = true ∧ (s.measurement 3).isSome = true ∧
       (wBoot 7 0).boot.answers = true ∧ (wBoot 7 0).spdm.alg = false ∧ (List.replicate 32 (0 : Byte)).length = 32) := by
  refine ⟨?_, ?_, ?_, ?_, ?_, ⟨?_, fun k => ⟨rfl, rfl⟩, ?_, ?_, ?_, ?_⟩, ?_, ?_⟩
  all_goals decide +kernel

/-! ### Witnesses: the machine as a whole -/

/-- wNext as the second step of its turn, its bundle fetched; reset gives the core's sequencer to bank 0. -/
def wStart : State := { wLine 0x10D1A8000000100 with lap := 1 }

/-- A bundle is fetched and passes a check. -/
def fetchOk (s : State) (p : State → Bool) : Bool :=
  match s.fetchBundle with
  | .line u => p u
  | _ => false

theorem fetchOk_ok {s : State} {p : State → Bool} (h : fetchOk s p = true) : ∃ u, s.fetchBundle = .line u ∧ p u = true := by
  unfold fetchOk at h; split at h
  · rename_i heq; exact ⟨_, heq, h⟩
  · simp at h

/-- The fetched bundle decodes, and what beforeBundle asks of it holds. -/
def bundleOk (u : State) : Bool :=
  okAnd (decodeBundle (u.bank.code u.bank.at_ (headerLen (leNat (u.bank.code u.bank.at_ 4))))) fun r =>
    u.bank.lag == [] && !u.bank.badSticky r.1 && r.1.sticky == 0 && (firstOp r.1.ops).any (fun i => !isLoad i) && decide (u.bank.dist < 4096) && !u.bank.preempt

theorem beforeBundle_of {t : State} (h1 : t.bank.run = .ready ∧ (t.core (coreOf t.cur)).active = t.cur % 2 ∧ t.bank.cur = none ∧
    t.givesWay = false ∧ t.bank.stop = false ∧ t.bank.lag = [] ∧ t.bank.reissue = false) (h : fetchOk t bundleOk = true) : ∃ u b rest i, beforeBundle t u b rest i := by
  obtain ⟨u, hu, h⟩ := fetchOk_ok h
  obtain ⟨⟨b, rest⟩, hd, h⟩ := okAnd_ex (P := fun r => u.bank.lag = [] ∧ u.bank.badSticky r.1 = false ∧ r.1.sticky = 0 ∧
    (∃ i, firstOp r.1.ops = some i ∧ isLoad i = false) ∧ u.bank.dist < 4096 ∧ u.bank.preempt = false) h fun r h => by
      simp only [Bool.and_eq_true, Option.any_eq_true] at h; simp_all
  obtain ⟨i, hi, hl⟩ := h.2.2.2.1
  exact ⟨u, b, rest, i, h1.1, h1.2.1, h1.2.2.1, h1.2.2.2.1, h1.2.2.2.2.1, h1.2.2.2.2.2.1, h.1, h1.2.2.2.2.2.2, .inl hl, hu, hd, h.2.1, h.2.2.1, hi,
    h.2.2.2.2.1, .inl h.2.2.2.2.2⟩

theorem witness_StepRunsDecodedInstruction :
    ((wLine 0x10D1A8000000100).cur < 512 ∧ (wLine 0x10D1A8000000100).agenda = [] ∧ (wLine 0x10D1A8000000100).lap < 256 ∧
      wStart = { wLine 0x10D1A8000000100 with lap := (wLine 0x10D1A8000000100).lap + 1 } ∧ ∃ u b rest i, beforeBundle wStart u b rest i) ∧
    (let s := { wLine 0x10D1A8000000100 with agenda := [.bank 0] }
     s.cur < 512 ∧ s.agenda = [.bank 0] ∧ ∃ u b rest i, beforeBundle (({ s with agenda := [] } : State).focus 0) u b rest i) ∧
    (encode (.bankHandover 255) = none ∧ WellFormed (.bankHandover 255) = true ∧
      ({ State.reset with agenda := [.event (.bankHandover 255)] } : State).cur < 512) ∧
    ((wNext.upd fun b => { b with issued := .done }).bank.issued = .done ∧ (wNext.upd fun b => { b with issued := .faulted }).bank.issued = .faulted ∧
      (wNext.upd fun b => { b with issued := .stalled }).bank.issued = .stalled ∧
      (wNext.upd fun b => { b with issued := .stalled }).mayPutAside = false ∧ (wNext.upd fun b => { b with issued := .stalled }).bank.late = none ∧
      (wLease 0 0).bank.issued = .stalled ∧ (wLease 0 0).mayPutAside = true) ∧
    (let s := { State.reset with agenda := [.event (.bankHandover 255)] }
     s.cur < 512 ∧ okAnd (match exec (.bankHandover 255) { s with agenda := [] } with
       | .next t => Except.ok t
       | _ => Except.error ()) (fun _ => true) = true) := by
  refine ⟨⟨by decide +kernel, by decide +kernel, by decide +kernel, rfl, beforeBundle_of (by decide +kernel) (by decide +kernel)⟩,
    ⟨by decide +kernel, by decide +kernel, beforeBundle_of (by decide +kernel) (by decide +kernel)⟩, by decide +kernel, by decide +kernel,
    by decide +kernel⟩

theorem witness_DecodeEncode :
    ((encode (.add ⟨63, 1, 2, 0⟩)).isSome = true ∧ WellFormed (.add ⟨63, 1, 2, 0⟩) = true) ∧
    ((encode (.lil ⟨7, 0⟩ (-1))).isSome = true ∧ WellFormed (.lil ⟨7, 0⟩ (-1)) = true) ∧
    ((encode (.cpy ⟨1, 2, 0, 0, 0, 5, 6, 8, 0x204⟩)).isSome = true ∧ WellFormed (.cpy ⟨1, 2, 0, 0, 0, 5, 6, 8, 0x204⟩) = true) := by
  decide +kernel

theorem witness_EveryStepGoesOn :
    State.reset.cur < 512 ∧ (∀ k as, [Agent.bank 511] = Agent.bank k :: as → k < 512) ∧
      512 ≤ ({ State.reset with cur := 512 } : State).cur := by
  refine ⟨by decide, fun k as h => ?_, by decide⟩
  cases h; decide

/-! ### Single steps, with values worked out by hand from the rules -/

/-- exec of an instruction in a state gives a next state that passes a check. -/
def gives (i : Instr) (s : State) (p : State → Bool) : Bool :=
  match exec i s with
  | .next t => p t
  | _ => false

/-- exec leaves a value in a scalar register, and in element k of w bits of a vector register. -/
def givesX (i : Instr) (s : State) (n : Nat) (v : Word) : Bool := gives i s fun t => mget 0 t.bank.regs.x n == v
def givesV (i : Instr) (s : State) (n w k v : Nat) : Bool :=
  gives i s fun t => (mget VReg.zero t.bank.regs.v n).bits.toNat / 2 ^ (w * k) % 2 ^ w == v

-- R109, R86: x1 is -2^63, x2 is -1.
theorem test_add_wraps : givesX (.add ⟨6, 1, 2, 0⟩) wX 6 0x7FFFFFFFFFFFFFFF = true := by decide +kernel
theorem test_sub : givesX (.sub ⟨6, 4, 2, 0⟩) wX 6 2 = true := by decide +kernel
theorem test_mul : givesX (.mul ⟨6, 2, 5, 0⟩) wX 6 0xFFFFFFFF00000001 = true := by decide +kernel
theorem test_mulh_signed : givesX (.mulh ⟨6, 1, 4, 0⟩) wX 6 0xFFFFFFFFFFFFFFFF = true := by decide +kernel
theorem test_mulhn_unsigned : givesX (.mulhn ⟨6, 2, 2, 0⟩) wX 6 0xFFFFFFFFFFFFFFFE = true := by decide +kernel
theorem test_div_least_by_minus_one : givesX (.div ⟨6, 1, 2, 0⟩) wX 6 0x8000000000000000 = true := by decide +kernel
theorem test_divn_by_zero : givesX (.divn ⟨6, 3, 0, 0⟩) wX 6 0xFFFFFFFFFFFFFFFF = true := by decide +kernel
theorem test_rem_by_zero : givesX (.rem ⟨6, 1, 0, 0⟩) wX 6 0x8000000000000000 = true := by decide +kernel
theorem test_slt_signed : givesX (.slt ⟨6, 2, 4, 0⟩) wX 6 1 = true ∧ givesX (.slt ⟨4, 4, 2, 0⟩) wX 4 0 = true := by decide +kernel
theorem test_sltn_unsigned : givesX (.sltn ⟨6, 4, 2, 0⟩) wX 6 1 = true := by decide +kernel
theorem test_sra_count_mod_64 : givesX (.sra ⟨6, 1, 2, 0⟩) wX 6 0xFFFFFFFFFFFFFFFF = true := by decide +kernel
theorem test_max_signed : givesX (.max ⟨6, 1, 4, 0⟩) wX 6 1 = true ∧ givesX (.maxn ⟨6, 1, 4, 0⟩) wX 6 0x8000000000000000 = true := by decide +kernel
theorem test_clz_of_zero : givesX (.clz ⟨6, 0, 0, 0⟩) wX 6 64 = true ∧ givesX (.ctz ⟨6, 1, 0, 0⟩) wX 6 63 = true := by decide +kernel
theorem test_popc : givesX (.popc ⟨6, 5, 0, 0⟩) wX 6 32 = true := by decide +kernel
-- R110, R111
theorem test_addi_sign : givesX (.addi ⟨6, 4, 0xFFF⟩) (withX [(4, 3)]) 6 2 = true := by decide +kernel
theorem test_andi_sign : givesX (.andi ⟨6, 5, 0x800⟩) wX 6 0xFFFFF800 = true := by decide +kernel
theorem test_srai : givesX (.srai ⟨6, 1, 62⟩) wX 6 0xFFFFFFFFFFFFFFFE = true := by decide +kernel
theorem test_slli_64_faults : gives (.slli ⟨6, 4, 64⟩) wX (fun t => t.bank.issued == .faulted && mget 0 t.bank.regs.x 6 == 0) = true := by
  decide +kernel
theorem test_li : givesX (.li ⟨6, 0x3FFFE⟩) wX 6 0xFFFFFFFFFFFFFFFE = true := by decide +kernel
theorem test_lih_keeps_low_bits : givesX (.lih ⟨5, 0x20001⟩) wX 5 0xFFFFFFF80007FFFF = true := by decide +kernel
theorem test_x0_discards : gives (.add ⟨0, 4, 4, 0⟩) wX (fun t => t.rx 0 == 0 && t.bank.issued == .done) = true := by decide +kernel
-- The worked example of R116: PLT of handle 5, row 2, column 16, then PADD of three rows and -16 columns.
theorem test_plt_padd :
    givesX (.plt ⟨7, 20, 21, 0⟩) ((withX [(20, 5), (21, 0x20010)]).upd fun b => { b with tiles := [(5, some (freshTile wPlain 1))] }) 7
      0x20A0000200100000 = true ∧
    givesX (.padd ⟨8, 7, 9, 0⟩) (withX [(7, 0x20A0000200100000), (9, 0x3FFFFFFF0)]) 8 0x20A0000500000000 = true ∧
    gives (.padd ⟨8, 7, 9, 0⟩) (withX [(7, 0x20A0000200100000), (9, 0x3FFFFFFEF)]) (fun t => t.bank.issued == .faulted) = true := by
  decide +kernel
-- The third pass of the worked example of R127: LCOUNT 1 becomes 0, the bases turn to 253 and 45 with the next bundle (R27, R35).
theorem test_loopb_rotates :
    gives (.loopb ⟨0, 0x3FFFE⟩) (wX.upd fun b => { b with ctl := { b.ctl with lcount := 1, rotV := 254, rotP := 46 }, id := { b.id with capVr := 320 } })
      (fun t => t.bank.crq.map (fun q => (q.num, q.val)) == [(0x20, 253), (0x21, 45), (0x22, 0)] && t.bank.issued == .done) = true := by decide +kernel
-- R142: the wrapping and the saturating sum of 2^31 - 1 and 1.
theorem test_vadd_wraps : givesV (.vadd ⟨0, 5, 1, 2, 0, 5, 0, 0, 0⟩) wV 5 32 0 0x80000000 = true := by decide +kernel
theorem test_vadd_saturates : givesV (.vadd ⟨0, 5, 1, 2, 0, 5, 0, 1, 0⟩) wV 5 32 0 0x7FFFFFFF = true := by decide +kernel
theorem test_vadd_tag_mismatch : gives (.vadd ⟨0, 5, 1, 3, 0, 5, 0, 0, 0⟩) wV (fun t => t.bank.issued == .faulted) = true := by decide +kernel
theorem test_vshl : givesV (.vshl ⟨0, 5, 2, 0, 0, 5, 0, 0, 0x9F⟩) wV 5 32 0 0x80000000 = true := by decide +kernel
-- IEEE 754: 1 + 2 = 3, 1 * 2 + 1 = 3, and 2^0.5 is not asked; 1 / 2 = 0.5.
theorem test_vfadd : givesV (.vfadd ⟨0, 5, 3, 4, 0, 9, 0, 0, 0⟩) wV 5 32 0 0x40400000 = true := by decide +kernel
theorem test_vfma : givesV (.vfma ⟨0, 5, 3, 4, 3, 9, 0, 0, 0⟩) wV 5 32 0 0x40400000 = true := by decide +kernel
theorem test_vfrcp : givesV (.vfrcp ⟨0, 5, 4, 0, 0, 9, 0, 0, 0⟩) wV 5 32 0 0x3F000000 = true := by decide +kernel
theorem test_vfsgn_negates : givesV (.vfsgn ⟨0, 5, 4, 0, 0, 9, 0, 0, 4⟩) wV 5 32 0 0xC0000000 = true := by decide +kernel
-- R133: the record of a trap holds the code and xa.
theorem test_trap_record : gives (.trap ⟨0, 1, 7⟩) wArea (fun t =>
    (t.ctx 0).faults.map (fun h => (h.recd.cause, h.recd.detail, h.recd.place)) == [(0x10, 7, wArea.rx 1)] && t.bank.run == .faulted) = true := by
  decide +kernel
-- The table's first instruction after reset: withFetchWord stores LI x5, -2, and the step runs it.
theorem test_first_step : (match step (State.reset.withFetchWord 64 0x2817FFFE00000100) with
    | .next t => mget 0 t.bank.regs.x 5 == 0xFFFFFFFFFFFFFFFE
    | _ => false) = true := by decide +kernel
-- R333, worked by hand: with v_s = s, 255 codes of 8 bits and two of 9, halfword 1 has the code 00000001, and the escape nine ones.
def wTable : Table := { gen := 3, vals := List.range 256, lens := List.replicate 255 8 ++ [9, 9] }
theorem test_codewords : ((codewords wTable.lens).filter fun x => 253 < x.1) = [(254, 8, 254), (255, 9, 510), (256, 9, 511)] := by decide +kernel
theorem test_stored_block :
    (storedBlock wTable 5 ((List.replicate 256 [1, 0]).flatten)).take 4 = [0x00, 0x38, 0x80, 0x80] ∧
      (storedBlock wTable 5 ((List.replicate 256 [1, 0]).flatten)).length = 320 := by decide +kernel
-- One escape: with v_0 = 0 at one bit and every other length 9, nine ones, then 0x1234 from its lowest bit; the header counts
-- 25 + 255 bits, and the block is read back.
def wEscapes : Table := { gen := 3, vals := List.range 256, lens := 1 :: List.replicate 256 9 }
theorem test_escape :
    let b : List Byte := [0x34, 0x12] ++ List.replicate 510 0
    (storedBlock wEscapes 5 b).take 6 = [0x18, 0x31, 0xFF, 0x69, 0x24, 0x00] ∧ readBlock [wEscapes] (storedBlock wEscapes 5 b) = some b ∧
      readBlock [{ wEscapes with gen := 4 }] (storedBlock wEscapes 5 b) = none := by decide +kernel
-- FIPS 202: the SHA3-256 digest of the empty message.
theorem test_sha3_empty : sha3 [] = leBytes 32 0x4a43f8804b0ad882fa493be44dff80f562d661a05647c15166d71ebff8c6ffa7 := by decide +kernel
-- R98: an infinity placed in a wider format is an infinity, and the largest number with SAT in a narrower one.
theorem test_infinity_converts :
    convFp (fpFmt tFP32) true .rne true (.fp (.inf false)) = (0x7F800000, 0) ∧
      convFp (fpFmt tBF16) false .rne true (.fp (.inf true)) = (0xFF7F, fSAT) := by decide +kernel

end Sys2Proof.Tests
end

section
/-! PROOFS. Nothing refuses and nothing is stuck: every meaning answers a next state, so does every step that the empty agenda tries,
and so does every step of a bank of the device (R11, R16, R62). -/

namespace Sys2Proof.Machine

/-! ### The shared forms of a meaning -/

/-- An atomic that may ask a home always answers a next state, also where its write fails after a good read (R320). -/
theorem runAtom_next (s : State) (place : Word) (r : M (Bool × Bool × State)) : ∃ t, runAtom s place r = .next t := by
  unfold runAtom
  split
  · exact ⟨_, rfl⟩
  · exact runW_next _ _
  · exact run_next _ _

/-- VMULH is an integer form or a rounded one; either answers by run. -/
theorem execVmulh_next (o : VrOp) (s : State) : ∃ t, execVmulh o s = .next t := by
  dsimp only [execVmulh]
  split
  · exact run_next _ _
  · exact run_next _ _

/-- VLDM takes its own fault where units before it are kept; every other end is run's. -/
theorem execVldm_next (o : VmOp) (s : State) : ∃ t, execVldm o s = .next t := by
  dsimp only [execVldm]
  split
  · exact run_next _ _
  · split
    · exact run_next _ _
    · split
      · exact run_next _ _
      · exact ⟨_, rfl⟩
    · exact run_next _ _

/-- YIELD answers by run, whichever bank it leaves the sequencer to. -/
theorem execYieldS_next (o : SrOp) (s : State) : ∃ t, execYieldS o s = .next t := run_next s _

/-! ### Every meaning -/

/-- A meaning answers by one of few forms: a step of the device writes its next state out; CWAIT, CFREE, CRD and ATOM, which may ask a
home, answer by runW and runAtom; VMULH, VLDM and YIELD have a lemma of their own above; every other operation of a slot, each of
which is run over its computation, answers by run, which takes a fault as an effect on the state (R62). -/
theorem exec_next (i : Instr) (s : State) : ∃ t, exec i s = .next t := by
  cases i with
  | fetchLine | bundleDispatch | stickyIssue | cwaitSwitchCount | mleaseSwitchCount | bankHandover | preemptAtSafePoint
    | pendingEventRecordWrite | loadDataReturn | storePerform | sectorReservationRequest | writeThroughArrival | writeThroughAck
    | farCacheAgeExpiry | blockWrite | retrieverRun | resampleInterval | learningPhaseEnd | tableWaitExpiry | cmpWatermarkWrite
    | dirtyDSet | pteWrite | invalidationCommand | pageEvict | pageReturn | migrate | migrationCopyComplete | migrationInvalidateComplete
    | migrationCancel | split | splitComplete | launchAcceptance | hlwGo | dependenceTranslation | agingInterval | kernelSelect
    | regionTranslationEnd | taskPlace | waitLimitSwapout | taskEnd | counterTreeComplete | completionAddPerformed | counterAdd
    | waiterRegister | waiterResendTimer | cwaitBoundExpiry | hcaAdd | hcaVal | hostWrite | hostRead | engineOpStart | engineItem
    | engineOpComplete | streamFillItem | streamDrainItem | probeFillComplete | millCommandStart | millCommandComplete | mdrainCapture
    | leaseCountLimit | leaseIdleLimit | pairWindow | weirStageLine | weirPrepare | readyReport | weirRefusal | weirCommitPacket
    | weirDiscard | publicationReport | discardReport | prepareTimeout | weirQueryTimeout | groupQuery | remoteRequest
    | fabricPacketReceive | ethernetFrameReceive | gatewayRetryTimeout | flitGroupReceive | rekeyDeadline | keyload | vcreset
    | lnkVcpWrite | linkTrainingEnd | linkLaneLoss | linkLanesRestored | linkDown | linkRetrain | windowOpen | colset | colclr
    | chunkLineReceive | releaseReport | sourceReadComplete | finishReport | failureNotice | collectiveTimeout | ctxCreate | ctxReady
    | place | swapOut | swapIn | contextHalt | haltSequenceComplete | haltTimeout | image | ctxContinue | restore | restoreLoadComplete
    | ctxDestroy | contextReleased | fdispResume | fdispRetry | fdispTerminateKernel | fdispTerminateContext | memTestGo | parkingComplete
    | bankTestComplete | restoringComplete | rowSwap | refreshWindowEnd | pcieResetDeassert | bootStageComplete | bootTimeout
    | bootstatRead | flashWr | restart | getVersion | getCapabilities | negotiateAlgorithms | getDigests | getCertificate | challenge
    | getMeasurements | correctedError | clockStepSet | thermalThrottle | thermalRecover | thermalTrip | registerWrite | pcieResetAssert
    | fabricVcPause | bankRefresh | dirtyRoundStart => exact ⟨_, rfl⟩
  | cfree | cwait | crd => exact runW_next _ _
  | atom => exact runAtom_next _ _ _
  | vmulh o => exact execVmulh_next o s
  | vldm o => exact execVldm_next o s
  | yieldS o => exact execYieldS_next o s
  | _ => exact run_next _ _

/-! ### The steps that the device tries by itself -/

/-- A step of the device answers a next state in every state. -/
def Answers (f : State → Out) : Prop := ∀ s, ∃ t, f s = .next t

/-- Each of some steps answers a next state in every state. -/
def AllAnswer (fs : List (State → Out)) : Prop := ∀ f ∈ fs, Answers f

theorem answers_next (g : State → State) : Answers fun s => .next (g s) := fun s => ⟨g s, rfl⟩

namespace AllAnswer

variable {α : Type} {fs gs : List (State → Out)}

theorem nil : AllAnswer [] := List.forall_mem_nil _

/-- Steps that write their next states out. -/
theorem nexts (gs : List (State → State)) : AllAnswer (gs.map fun g s => .next (g s)) :=
  List.forall_mem_map.2 fun g _ => answers_next g

theorem cons {f : State → Out} (hf : Answers f) (h : AllAnswer fs) : AllAnswer (f :: fs) := List.forall_mem_cons.2 ⟨hf, h⟩

theorem append (hf : AllAnswer fs) (hg : AllAnswer gs) : AllAnswer (fs ++ gs) := List.forall_mem_append.2 ⟨hf, hg⟩

theorem map {g : α → State → Out} {l : List α} (h : ∀ x, Answers (g x)) : AllAnswer (l.map g) :=
  List.forall_mem_map.2 fun x _ => h x

theorem flatMap {g : α → List (State → Out)} {l : List α} (h : ∀ x, AllAnswer (g x)) : AllAnswer (l.flatMap g) := by
  intro f hf
  obtain ⟨x, -, hx⟩ := List.mem_flatMap.1 hf
  exact h x f hx

theorem ite {p : Prop} [Decidable p] (hf : AllAnswer fs) (hg : AllAnswer gs) : AllAnswer (if p then fs else gs) := by
  split
  · exact hf
  · exact hg

end AllAnswer

theorem engineSteps_answer (b : Nat) (k : Bank) : AllAnswer (engineSteps b k) := by
  refine .append (.append ?_ ?_) ?_
  · exact .flatMap fun _ => .nexts [_, _, _]
  · exact .flatMap fun _ => .nexts [_, _]
  · exact .map fun _ => answers_next _

theorem millSteps_answer (b : Nat) (k : Bank) : AllAnswer (millSteps b k) := .ite .nil (.nexts [_, _, _, _])

theorem bankSteps_answer (x : Nat × Bank) : AllAnswer (bankSteps x) := by
  unfold bankSteps
  repeat' with_reducible apply AllAnswer.append
  · exact .ite .nil (.nexts [_, _])
  · exact engineSteps_answer x.1 x.2
  · exact millSteps_answer x.1 x.2
  · exact .ite (.nexts [_]) .nil
  · exact .ite (.nexts [_]) .nil

theorem dieSteps_answer (d : Nat) (x : Die) : AllAnswer (dieSteps d x) := by
  unfold dieSteps
  repeat' with_reducible apply AllAnswer.append
  · exact .ite .nil (.nexts [_])
  · exact .ite .nil (.nexts [_])
  · exact .ite .nil (.nexts [_])
  · exact .ite .nil (.nexts [_, _, _, _, _, _, _, _])
  · exact .ite (.nexts [_]) .nil
  · exact .map fun _ => answers_next _

theorem ctxSteps_answer (s : State) (c : Nat) (x : Ctx) : AllAnswer (s.ctxSteps c x) := by
  unfold State.ctxSteps
  repeat' with_reducible apply AllAnswer.append
  · exact .ite .nil (.nexts [_])
  · refine .flatMap fun e => ?_
    split
    · exact .map fun _ => answers_next _
    · exact .nexts [_, _]
    · exact .nexts [_, _]
    · exact .nexts [_, _]
    · exact .nil
  · exact .ite (.cons (answers_next _) (.map fun _ => answers_next _)) .nil
  · exact .map fun _ => answers_next _
  · exact .ite .nil (.nexts [_])
  · exact .flatMap fun _ => .nexts [_, _, _]
  · exact .ite .nil (.nexts [_])
  · exact .ite (.nexts [_]) .nil
  · exact .ite (.nexts [_]) .nil
  · exact .ite (.nexts [_]) .nil
  · exact .ite .nil (.map fun _ => answers_next _)

theorem throughSteps_answer (ws : List WThru) : AllAnswer (throughSteps ws) := .flatMap fun _ => .nexts [_, _]

theorem clockSteps_answer (s : State) : AllAnswer s.clockSteps := by
  unfold State.clockSteps
  repeat' with_reducible apply AllAnswer.append
  · refine .flatMap fun x => ?_
    split
    · exact .nexts [_, _, _]
    · exact .nil
  · exact .map fun _ => answers_next _
  · exact .flatMap fun _ => .append (.ite (.nexts [_]) .nil) (.ite (.nexts [_]) .nil)
  · refine .flatMap fun x => .append (.append (.append ?_ ?_) ?_) ?_
    · exact .ite .nil (.nexts [_])
    · exact .map fun _ => answers_next _
    · exact .map fun _ => answers_next _
    · exact .ite .nil (.nexts [_])
  · exact .flatMap fun _ => .append (.ite (.nexts [_]) .nil) (.ite (.map fun _ => answers_next _) .nil)

/-- The steps tried with an empty agenda all answer. -/
theorem candidates_answer (s : State) : AllAnswer s.candidates := by
  unfold State.candidates
  repeat' with_reducible apply AllAnswer.append
  · exact .flatMap fun _ => .map fun _ => answers_next _
  · exact .ite .nil (.nexts [_])
  · exact .flatMap bankSteps_answer
  · exact .flatMap fun x => dieSteps_answer x.1 x.2
  · exact throughSteps_answer s.wts
  · exact .flatMap fun x => ctxSteps_answer s x.1 x.2
  · exact .map fun _ => answers_next _
  · exact clockSteps_answer s

/-- Steps that answer, tried in turn, answer: the first that changes the state, or else the idle cycle. -/
theorem tries_next {fs : List (State → Out)} (h : AllAnswer fs) (s : State) : ∃ t, s.tries fs = .next t := by
  induction fs with
  | nil => exact ⟨_, rfl⟩
  | cons f fs ih =>
    obtain ⟨hf, hfs⟩ := List.forall_mem_cons.1 h
    obtain ⟨t, ht⟩ := hf s
    simp only [State.tries, ht]
    split
    · exact ih hfs
    · exact ⟨t, rfl⟩

theorem idle_next (s : State) : ∃ t, s.idle = .next t := tries_next (candidates_answer _) _

/-! ### The steps of a bank -/

theorem putOff_next (s : State) : ∃ t, s.putOff = .next t := by
  unfold State.putOff
  split
  · exact ⟨_, rfl⟩
  · split
    · exact ⟨_, rfl⟩
    · exact idle_next s

/-- What follows an operation that has answered: each mark of its issue leads to a next state. -/
theorem after_next (i : Instr) (t : State) : ∃ u, State.after i (.next t) = .next u := by
  simp only [State.after]
  split
  · exact ⟨_, rfl⟩
  · exact putOff_next t
  · split <;> exact ⟨_, rfl⟩
  · exact ⟨_, rfl⟩

theorem headStep_next (s : State) : ∃ t, s.headStep = .next t := by
  unfold State.headStep
  split
  · next i t _ =>
    obtain ⟨u, hu⟩ := exec_next i t
    rw [hu]
    exact after_next i u
  · exact ⟨_, rfl⟩
  · exact putOff_next _
  · exact ⟨_, rfl⟩
  · split
    · exact ⟨_, rfl⟩
    · exact idle_next s

/-- Of the operations that lag behind, the first that can issue does; one that waits leaves the turn to those after it (R58). -/
theorem issueFrom_next (ks : List (Nat × Nat)) (s : State) : ∃ t, s.issueFrom ks = .next t := by
  induction ks generalizing s with
  | nil => exact headStep_next s
  | cons k ks ih =>
    unfold State.issueFrom
    split
    · exact ih s
    · next e i t _ =>
      obtain ⟨u, hu⟩ := exec_next i t
      rw [hu]
      dsimp only
      split
      · exact ⟨_, rfl⟩
      · exact ⟨_, rfl⟩
      · exact ih _
      · exact ih _

theorem issueStep_next (s : State) : ∃ t, s.issueStep = .next t := by
  unfold State.issueStep
  split
  · exact issueFrom_next _ s
  · exact headStep_next s

/-! ### The step of the machine -/

/-- A focus that is no bank of the device stops the machine with the model's own fault. -/
theorem step_noSuchBank {s : State} (h : 512 ≤ s.cur) : step s = .fault .noSuchBank := if_neg (by omega)

/-- A step of a bank of the device answers, when a bank that the agenda's head names is one of the device too. -/
theorem step_next {s : State} (hc : s.cur < 512) (ha : ∀ k as, s.agenda = .bank k :: as → k < 512) : goesOn s := by
  unfold goesOn step
  rw [if_pos hc]
  split
  · split
    · exact exec_next _ _
    · exact ⟨_, rfl⟩
  · next b as hb =>
    rw [if_pos (ha b as hb)]
    exact issueStep_next _
  · split
    · exact issueStep_next _
    · exact idle_next s

/-- Settles O59: every meaning answers by one of few forms, none of which faults or refuses, and the step adds only noSuchBank, for
a number of no bank (R11, R16, R62). -/
theorem everyStepGoesOn : Obligations.EveryStepGoesOn :=
  ⟨exec_next, fun _ => step_next, fun _ => step_noSuchBank⟩

end Sys2Proof.Machine
end

section
/-! PROOFS. The device's registers, the memory controller's tests and row swaps, error counts, heat, the start sequence, minimal mode and
attestation take their steps (R16, R28, R423 to R439). -/

namespace Sys2Proof.Machine

variable {s t : State}

/-! ### Register writes (R16) -/

/-- A field of a word, by division. -/
theorem bitsOf_eq_div (w hi lo : Nat) : bitsOf w hi lo = w / 2 ^ lo % 2 ^ (hi + 1 - lo) := by
  rw [bitsOf, Nat.shiftRight_eq_div_pow]

/-- The values that CTX.ROOT takes are the multiples of 64 KiB below 2^48 (R406). -/
theorem rootOk_of_aligned {v : Word} (ha : v.toNat % 2 ^ 16 = 0) (hb : v.toNat < 2 ^ 48) : rootOk v = true := by
  simp only [rootOk, only, bitsOf_eq_div, beq_iff_eq]
  omega

theorem writeIf_accepts {ok : Bool} (h : ok = true) : s.writeIf ok t = t := if_pos h

theorem writeIf_refuses {ok : Bool} (h : ok = false) : s.writeIf ok t = s.refuse := if_neg (by simp [h])

theorem inRange_iff {v : Word} {lo hi : Nat} : inRange v lo hi = true ↔ lo ≤ v.toNat ∧ v.toNat ≤ hi := decide_eq_true_iff

/-- Minimal mode writes no register (R433). -/
theorem registerWrite_minimal {r : MReg} {v : Word} (h : s.boot.stage = 8) : exec (.registerWrite r v) s = .next s.refuse :=
  congrArg Host.Outcome.next (if_pos h)

/-- Outside minimal mode a write that its register's condition allows gives the state that the register's table names (R16). -/
theorem registerWrite_of_writeGives {r : MReg} {v : Word} (hm : s.boot.stage ≠ 8) (h : Claims.writeGives s r v = some t) :
    exec (.registerWrite r v) s = .next t := by
  refine congrArg Host.Outcome.next ((if_neg hm).trans ?_)
  cases r with
  | ctxRoot c =>
    obtain ⟨⟨ho, ha, hb⟩, ht⟩ := Option.ite_none_right_eq_some.1 h
    exact (writeIf_accepts (Bool.and_eq_true_iff.2 ⟨ho, rootOk_of_aligned ha hb⟩)).trans (Option.some.inj ht)
  | dlogCap c =>
    obtain ⟨⟨hl, hv⟩, ht⟩ := Option.ite_none_right_eq_some.1 h
    exact (writeIf_accepts (Bool.and_eq_true_iff.2 ⟨hl, inRange_iff.2 hv⟩)).trans (Option.some.inj ht)
  | lnkRkdl l | colTmo | agingInterval | waitLimit =>
    obtain ⟨hv, ht⟩ := Option.ite_none_right_eq_some.1 h
    exact (writeIf_accepts (inRange_iff.2 hv)).trans (Option.some.inj ht)
  | preemptMargin | hcaId f =>
    obtain ⟨hv, ht⟩ := Option.ite_none_right_eq_some.1 h
    exact (writeIf_accepts (decide_eq_true hv)).trans (Option.some.inj ht)
  | _ => nomatch h

/-- A register whose fields are all read-only finds no row (R7, R16). -/
theorem registerWrite_readOnly {r : MReg} {v : Word} (hm : s.boot.stage ≠ 8) (h : Claims.readOnly r = true) :
    exec (.registerWrite r v) s = .next s.noRow := by
  refine congrArg Host.Outcome.next ((if_neg hm).trans ?_)
  cases r with
  | cmpFree | cmpGen | ctxFhead | devFhead | lnkStat | lnkIvc | memRswp | hlwResult | hcaStat | hcaVal | bootstat => rfl
  | _ => nomatch h

/-- COL.TMO refuses a value outside its range (R401). -/
theorem registerWrite_colTmo_outside {v : Word} (hm : s.boot.stage ≠ 8) (h : v.toNat < 100 ∨ 100000 < v.toNat) :
    exec (.registerWrite .colTmo v) s = .next s.refuse :=
  congrArg Host.Outcome.next ((if_neg hm).trans (writeIf_refuses (decide_eq_false (by omega))))

/-! ### The bank self-test (R429) -/

section BankTest

variable {d : Nat}

theorem memTestGo_starts {v : Word} (hd : d < 4) (hm : s.boot.stage ≠ 8) (hv : v.toNat < 2 ^ 16) (hg : bitAt v.toNat 11 = true)
    (hi : (s.die d).test.st = 0) : ∃ u : State, exec (.memTestGo d v) s = .next u ∧ (u.die d).test =
      { unit := v.toNat % 128, bank := v.toNat / 128 % 16, st := 1, done := (s.die d).test.done && !bitAt v.toNat 15, row := 0 } ∧
      (u.die d).redir = (s.die d).redir ++ [((u.die d).test.bits, (s.die d).park.toNat)] ∧ u.mem = s.mem := by
  refine ⟨_, congrArg Host.Outcome.next (if_neg ?_), ?_, ?_, rfl⟩
  · simpa [hm, hd, hg, hi] using hv
  · simp [State.modTest, bitsOf_eq_div]
  · simp [State.modTest]

/-- Minimal mode and a test in progress refuse GO. -/
theorem memTestGo_refused {v : Word} (h : (s.die d).test.st ≠ 0 ∨ s.boot.stage = 8) : exec (.memTestGo d v) s = .next s.refuse :=
  congrArg Host.Outcome.next (if_pos (h.elim (fun h => .inr (.inr (.inr (.inr h)))) .inl))

theorem parkingComplete_parked (h : (s.die d).test.st = 1) :
    exec (.parkingComplete d) s = .next (s.modTest d fun t => { t with st := 2, row := 0 }) :=
  congrArg Host.Outcome.next (if_neg fun hn => hn h)

theorem bankTestComplete_passed (h : (s.die d).test.st = 2) :
    exec (.bankTestComplete d true) s = .next (s.modTest d fun t => { t with st := 3, row := 0 }) :=
  congrArg Host.Outcome.next (if_neg fun hn => hn h)

theorem bankTestComplete_failed (h : (s.die d).test.st = 2) : exec (.bankTestComplete d false) s =
    .next ((s.modTest d fun t => { t with st := 4, done := true }).eventFault .dev d (testRec d (s.die d).test)) :=
  congrArg Host.Outcome.next (if_neg fun hn => hn h)

/-- The end of restoring makes the unit idle and ends the bank's redirection alone. -/
theorem restoringComplete_restored (h : (s.die d).test.st = 3) : ∃ u : State, exec (.restoringComplete d) s = .next u ∧
    (u.die d).test = { (s.die d).test with st := 0, done := true, row := 0 } ∧
    (u.die d).redir = (s.die d).redir.filter (·.1 != (s.die d).test.bits) ∧ u.mem = s.mem := by
  refine ⟨_, congrArg Host.Outcome.next (if_neg fun hn => hn h), ?_, ?_, rfl⟩ <;> simp [State.modTest]

end BankTest

/-! ### Rows and refresh (R423, R428) -/

/-- A row set to a physical row stands there, whether it is its own or another. -/
theorem physRow_setRow (x : Die) (bank row p : Nat) : (x.setRow bank row p).physRow bank row = p := by
  unfold Die.physRow Die.setRow
  rw [mget_mset_same]
  split
  · next h => exact h.symm
  · rfl

section Rows

variable {d unit bank row : Nat}

theorem ticked_die (s : State) (d : Nat) : s.ticked.die d = s.die d := rfl

/-- A row of 2,048 activations changes places with the chosen one: that one now stands where the row stood, its count starts again, and the
swap is counted (R428). -/
theorem rowSwap_swaps (h : 2048 ≤ mget 0 (s.die d).acts ((unit + bank * 2 ^ 7) * 65536 + row)) :
    ∃ u : State, exec (.rowSwap d unit bank row) s = .next u ∧ (u.die d).rswp = ((s.die d).rswp + 1) % 2 ^ 32 ∧
      mget 0 (u.die d).acts ((unit + bank * 2 ^ 7) * 65536 + Config.rowChoice s.tick % 65536) = 0 ∧
      (u.die d).physRow (unit + bank * 2 ^ 7) (Config.rowChoice s.tick % 65536) = (s.die d).physRow (unit + bank * 2 ^ 7) row ∧
      u.mem = s.mem := by
  refine ⟨_, congrArg Host.Outcome.next (if_neg (Nat.not_lt.2 h)), ?_⟩
  rw [ticked_die, State.modDie_die_same]
  dsimp only
  exact ⟨rfl, mget_mset_same 0 _ _ _, physRow_setRow _ _ _ _, rfl⟩

theorem rowSwap_below (h : mget 0 (s.die d).acts ((unit + bank * 2 ^ 7) * 65536 + row) < 2048) :
    exec (.rowSwap d unit bank row) s = .next s :=
  congrArg Host.Outcome.next (if_pos h)

/-- The window of 32 ms is 72,000,000 cycles (log 56). -/
theorem refreshWindowEnd_early (h : s.cycle < (s.die d).actsAt + 72000000) : exec (.refreshWindowEnd d) s = .next s :=
  congrArg Host.Outcome.next (if_pos h)

theorem refreshWindowEnd_clears (h : (s.die d).actsAt + 72000000 ≤ s.cycle) :
    exec (.refreshWindowEnd d) s = .next (s.modDie d fun x => { x with acts := [], actsAt := s.cycle }) :=
  congrArg Host.Outcome.next (if_neg (Nat.not_lt.2 h))

theorem bankRefresh_holds (hd : d < 4) (hu : unit < 128) (hb : bank < 16) : ∃ u : State, exec (.bankRefresh d unit bank) s = .next u ∧
    (unit + bank * 2 ^ 7, s.cycle + 788) ∈ (u.die d).refresh ∧ u.mem = s.mem := by
  refine ⟨_, congrArg Host.Outcome.next (if_neg (by omega)), ?_, rfl⟩
  simp

end Rows

/-! ### Error counts, clocks, heat (R432, R437, R439) -/

/-- The state in which a corrected error is counted: the line of the far cache that held it is dropped (R248, R437). -/
def errorDropped (s : State) (d : Nat) (e : ErrorFound) : State := (e.far.map fun line => s.dropFar d fun l _ => l == line).getD s

/-- The count that a corrected error reaches, which stops at its largest value. -/
def errorCount (s : State) (d : Nat) (e : ErrorFound) : Nat := min (mget 0 ((errorDropped s d e).die d).ras e.kind + 1) (2 ^ 32 - 1)

/-- The line dropped and the error counted. -/
def errorCounted (s : State) (d : Nat) (e : ErrorFound) : State :=
  (errorDropped s d e).modDie d fun x => { x with ras := mset 0 x.ras e.kind (errorCount s d e) }

section Errors

variable {d : Nat} {e : ErrorFound}

/-- A corrected error of a die counts, and tells Lorso once its count has passed the threshold (R437). -/
theorem correctedError_eq (hd : d ≤ 4) (hk : e.kind < 5) : exec (.correctedError d e) s = .next
    (if mget rasUnset ((errorDropped s d e).die d).rasThr e.kind < errorCount s d e
      then ((errorCounted s d e).modDie d fun x => { x with rasEvt := x.rasEvt ||| 2 ^ e.kind }).notify (.ras d e.kind)
      else errorCounted s d e) := by
  obtain ⟨kind, far⟩ := e
  refine congrArg Host.Outcome.next ((if_neg (not_or.2 ⟨Nat.not_lt.2 hd, Nat.not_le.2 hk⟩)).trans ?_)
  cases far with
  | none => rfl
  | some line => rfl

theorem correctedError_counts (hd : d ≤ 4) (hk : e.kind < 5)
    (h : errorCount s d e ≤ mget rasUnset ((errorDropped s d e).die d).rasThr e.kind) :
    exec (.correctedError d e) s = .next (errorCounted s d e) :=
  (correctedError_eq hd hk).trans (congrArg Host.Outcome.next (if_neg (Nat.not_lt.2 h)))

theorem correctedError_notifies (hd : d ≤ 4) (hk : e.kind < 5)
    (h : mget rasUnset ((errorDropped s d e).die d).rasThr e.kind < errorCount s d e) : exec (.correctedError d e) s =
      .next (((errorCounted s d e).modDie d fun x => { x with rasEvt := x.rasEvt ||| 2 ^ e.kind }).notify (.ras d e.kind)) :=
  (correctedError_eq hd hk).trans (congrArg Host.Outcome.next (if_pos h))

end Errors

section Heat

variable {d n : Nat}

theorem clockStepSet_sets (hd : d < 4) (hn : n < 6) (hm : s.boot.stage ≠ 8) :
    exec (.clockStepSet d n) s = .next (s.modDie d fun x => { x with step := n }) :=
  congrArg Host.Outcome.next (if_neg (by omega))

theorem clockStepSet_refused (h : 4 ≤ d ∨ 6 ≤ n ∨ s.boot.stage = 8) : exec (.clockStepSet d n) s = .next s.refuse :=
  congrArg Host.Outcome.next (if_pos h)

theorem thermalThrottle_hot (hd : d ≤ 4) : exec (.thermalThrottle d) s = .next (s.modDie d fun x => { x with hot := true }) :=
  congrArg Host.Outcome.next (if_neg (Nat.not_lt.2 hd))

theorem thermalRecover_cool (hd : d ≤ 4) : exec (.thermalRecover d) s = .next (s.modDie d fun x => { x with hot := false }) :=
  congrArg Host.Outcome.next (if_neg (Nat.not_lt.2 hd))

/-- A trip is recorded with reason 8 and restarts; at READY it counts as a failed start (R432, R439). -/
theorem thermalTrip_restarts (hd : d ≤ 4) (hr : s.boot.ran = true) : exec (.thermalTrip d) s =
    .next ({ s with flash := (if s.boot.stage = 7 then s.flash.putCount (s.flash.copy.count + 1) else s.flash).putReason 8 d } : State).start :=
  congrArg Host.Outcome.next (if_neg (by simp [hd, hr]))

theorem thermalTrip_unready (hd : d ≤ 4) (hr : s.boot.ran = true) (h : s.boot.stage ≠ 7) :
    exec (.thermalTrip d) s = .next ({ s with flash := s.flash.putReason 8 d } : State).start := by
  rw [thermalTrip_restarts hd hr, if_neg h]

theorem thermalTrip_ready (hd : d ≤ 4) (hr : s.boot.ran = true) (h : s.boot.stage = 7) : exec (.thermalTrip d) s =
    .next ({ s with flash := (s.flash.putCount (s.flash.copy.count + 1)).putReason 8 d } : State).start := by
  rw [thermalTrip_restarts hd hr, if_pos h]

end Heat

/-! ### Reset and start (R430 to R434) -/

/-- Reset stops the package; only one in stage 0 of a start may cut off the write of its count (R430, R432). -/
theorem pcieResetAssert_stops (s : State) : ∃ f, exec .pcieResetAssert s = .next ({ s with flash := f } : State).inReset.ticked ∧
    (s.boot.ran = false ∨ s.boot.stage ≠ 0 → f = s.flash) ∧ (f = s.flash ∨ f = s.flash.cutOff) := by
  by_cases h : Config.writeCut s.tick ∧ s.boot.ran ∧ s.boot.stage = 0
  · refine ⟨s.flash.cutOff, congrArg Host.Outcome.next (if_pos h), fun hno => ?_, .inr rfl⟩
    obtain ⟨_, hran, hzero⟩ := h
    simp [hran, hzero] at hno
  · exact ⟨s.flash, congrArg Host.Outcome.next (if_neg h), fun _ => rfl, .inl rfl⟩

theorem pcieResetDeassert_starts (h : s.boot.ran = false) : exec .pcieResetDeassert s = .next s.start :=
  congrArg Host.Outcome.next (if_neg (by simp [h]))

section Started

variable (hran : s.boot.ran = true)
include hran

theorem bootstatRead_answers : exec .bootstatRead s = .next (s.notify (.value s.boot.stat)) :=
  congrArg Host.Outcome.next (if_pos hran)

theorem bootTimeout_fails (hs : s.boot.stage < 7) (hc : 2250 * 60000000 ≤ s.cycle) :
    exec .bootTimeout s = .next (s.startFails 7 0xFF) :=
  congrArg Host.Outcome.next (if_pos ⟨hran, hs, hc⟩)

theorem restart_starts (hs : s.boot.stage = 8) : exec .restart s = .next s.start :=
  congrArg Host.Outcome.next (if_neg (by simp [hran, hs]))

theorem flashWr_writes {n : Nat} {img : FlashSlot} (hs : s.boot.stage = 8) (hn : n < 2) (hv : s.flash.verifies img = true) :
    exec (.flashWr n img) s = .next { s with flash :=
      if n = 0 then { s.flash.putCount 0 with slotA := some img } else { s.flash.putCount 0 with slotB := some img } } :=
  congrArg Host.Outcome.next (if_neg (by simp [hran, hs, hn, hv]))

end Started

theorem restart_refused (hs : s.boot.stage ≠ 8) : exec .restart s = .next s.refuse := congrArg Host.Outcome.next (if_pos (.inr hs))

theorem flashWr_refused {n : Nat} {img : FlashSlot} (h : s.boot.stage ≠ 8 ∨ s.flash.verifies img = false) :
    exec (.flashWr n img) s = .next s.refuse :=
  congrArg Host.Outcome.next (if_pos (.inr (h.imp id fun hv => .inr (by simp [hv]))))

/-- In minimal mode an image is written where it verifies, and refused elsewhere (R433). -/
theorem flashWr_minimal {n : Nat} {img : FlashSlot} (hran : s.boot.ran = true) (hs : s.boot.stage = 8) (hn : n < 2) :
    exec (.flashWr n img) s = .next (if s.flash.verifies img then
      { s with flash := if n = 0 then { s.flash.putCount 0 with slotA := some img } else { s.flash.putCount 0 with slotB := some img } }
      else s.refuse) := by
  split
  · next hv => exact flashWr_writes hran hs hn hv
  · next hv => exact flashWr_refused (.inr (by simpa using hv))

/-! ### The stages of a start (R28, R430) -/

/-- The state in which a die has completed its part of the stage. -/
def partDone (s : State) (die : Nat) : State :=
  { s with boot := { s.boot with done := die :: s.boot.done.erase die,
                                 ready := if s.boot.stage = 6 then s.boot.ready ||| 2 ^ die else s.boot.ready } }

/-- The next stage, which no die has completed. -/
def nextStage (s : State) : State := { s with boot := { s.boot with stage := s.boot.stage + 1, done := [] } }

theorem stagePart_waits {die : Nat} (h : ∃ d ∈ stageDies s.boot.stage, d ∉ die :: s.boot.done.erase die) :
    s.stagePart die = partDone s die := by
  obtain ⟨d, hd, hn⟩ := h
  exact if_neg fun hall => hn (List.contains_iff_mem.1 (List.all_eq_true.1 hall d hd))

theorem stagePart_ends {die : Nat} (h : ∀ d ∈ stageDies s.boot.stage, d ∈ die :: s.boot.done.erase die) :
    s.stagePart die = (partDone s die).stageEnds :=
  if_pos (List.all_eq_true.2 fun d hd => List.contains_iff_mem.2 (h d hd))

/-- The stages that ask no more than their completion. -/
theorem stageEnds_next (h : s.boot.stage = 0 ∨ s.boot.stage = 4) : s.stageEnds = nextStage s := by
  rcases h with h | h <;> simp [State.stageEnds, nextStage, h]

theorem stageEnds_fwVerify (h : s.boot.stage = 1) : s.stageEnds = s.fwVerify := if_pos h

theorem stageEnds_puf (h : s.boot.stage = 2) : s.stageEnds = s.pufRead := by simp [State.stageEnds, h]

theorem stageEnds_links (h : s.boot.stage = 5) : s.stageEnds = (nextStage s).linksUp := by simp [State.stageEnds, nextStage, h]

theorem stageEnds_ready (h : s.boot.stage = 6) : s.stageEnds = s.nowReady := by simp [State.stageEnds, h]

section Stages

variable {r : StageResult} (hran : s.boot.ran = true) (hst : s.boot.stage < 7) (hdie : r.die ∈ stageDies s.boot.stage)
include hran hst hdie

/-- During a start, what a die that takes part in the stage reports fails the start or completes its part (R430). -/
theorem bootStageComplete_eq : exec (.bootStageComplete r) s = .next
    (if s.boot.stage ≠ 1 ∧ !r.ok then s.startFails (stageReason s.boot.stage) r.die
    else if s.boot.stage = 3 then
      if (s.regBist r.die r.faulty).noCore r.die then s.startFails 4 r.die else (s.regBist r.die r.faulty).stagePart r.die
    else s.stagePart r.die) :=
  congrArg Host.Outcome.next (if_neg (by simp [hran, hst, hdie]))

theorem bootStageComplete_fails (h1 : s.boot.stage ≠ 1) (hok : r.ok = false) :
    exec (.bootStageComplete r) s = .next (s.startFails (stageReason s.boot.stage) r.die) := by
  rw [bootStageComplete_eq hran hst hdie, if_pos ⟨h1, by simp [hok]⟩]

theorem bootStageComplete_noCore (h3 : s.boot.stage = 3) (hok : r.ok = true) (hn : (s.regBist r.die r.faulty).noCore r.die = true) :
    exec (.bootStageComplete r) s = .next (s.startFails 4 r.die) := by
  rw [bootStageComplete_eq hran hst hdie, if_neg (by simp [hok]), if_pos h3, if_pos hn]

theorem bootStageComplete_part (h3 : s.boot.stage ≠ 3) (hok : s.boot.stage = 1 ∨ r.ok = true) :
    exec (.bootStageComplete r) s = .next (s.stagePart r.die) := by
  rw [bootStageComplete_eq hran hst hdie, if_neg fun h => hok.elim h.1 fun hok => by simp [hok] at h, if_neg h3]

variable (h3 : s.boot.stage ≠ 3) (hok : s.boot.stage = 1 ∨ r.ok = true)
include h3 hok

theorem bootStageComplete_waits (h : ∃ d ∈ stageDies s.boot.stage, d ∉ r.die :: s.boot.done.erase r.die) :
    exec (.bootStageComplete r) s = .next (partDone s r.die) :=
  (bootStageComplete_part hran hst hdie h3 hok).trans (congrArg Host.Outcome.next (stagePart_waits h))

/-- With the last die the stage ends as its own rule says. -/
theorem bootStageComplete_ends (h : ∀ d ∈ stageDies s.boot.stage, d ∈ r.die :: s.boot.done.erase r.die)
    (he : (partDone s r.die).stageEnds = t) : exec (.bootStageComplete r) s = .next t :=
  (bootStageComplete_part hran hst hdie h3 hok).trans (congrArg Host.Outcome.next ((stagePart_ends h).trans he))

end Stages

/-! ### Attestation (R435, R436) -/

section Attestation

variable (ha : s.boot.answers = true)
include ha

/-- A request in its order is carried out. -/
theorem spdmIf_inOrder {ok : Bool} {f : State → State} (hok : ok = true) : s.spdmIf ok f = f s := by simp [State.spdmIf, ha, hok]

/-- One out of its order gets an error. -/
theorem spdmIf_outOfOrder {ok : Bool} {f : State → State} (hok : ok = false) : s.spdmIf ok f = s.spdmError 4 := by
  simp [State.spdmIf, ha, hok]

theorem getVersion_begins : ∃ t : State, exec .getVersion s = .next t ∧ t.spdm.ver = true ∧ t.spdm.caps = false ∧ t.spdm.alg = false :=
  ⟨_, congrArg Host.Outcome.next (spdmIf_inOrder ha rfl), rfl, rfl, rfl⟩

theorem getCapabilities_advances (h : s.spdm.ver = true) : ∃ t : State, exec .getCapabilities s = .next t ∧ t.spdm.caps = true :=
  ⟨_, congrArg Host.Outcome.next (spdmIf_inOrder ha h), rfl⟩

theorem negotiateAlgorithms_agrees {req : List Byte} (h : s.spdm.caps = true) (ho : offersAlgs req = true) :
    ∃ t : State, exec (.negotiateAlgorithms req) s = .next t ∧ t.spdm.alg = true :=
  ⟨_, congrArg Host.Outcome.next ((spdmIf_inOrder ha h).trans (if_neg (by simp [ho]))), rfl⟩

theorem negotiateAlgorithms_refused {req : List Byte} (h : s.spdm.caps = true) (ho : offersAlgs req = false) :
    exec (.negotiateAlgorithms req) s = .next (s.spdmError 1) :=
  congrArg Host.Outcome.next ((spdmIf_inOrder ha h).trans (if_pos (by simp [ho])))

theorem getDigests_outOfOrder (h : s.spdm.alg = false) : exec .getDigests s = .next (s.spdmError 4) :=
  congrArg Host.Outcome.next (spdmIf_outOfOrder ha h)

variable (hg : s.spdm.alg = true)
include hg

theorem getDigests_answers : exec .getDigests s = .next (s.spdmSay (spdmHead 0x01 0 1 ++ sha3 s.flash.cert)) :=
  congrArg Host.Outcome.next (spdmIf_inOrder ha hg)

theorem getCertificate_answers (off len : Nat) :
    ∃ h, exec (.getCertificate off len) s = .next (s.spdmSay (h ++ (s.flash.cert.drop off).take len)) :=
  ⟨_, congrArg Host.Outcome.next (spdmIf_inOrder ha hg)⟩

/-- The answer to a challenge is signed over its nonce (R435). -/
theorem challenge_signed (nonce : List Byte) :
    ∃ m, exec (.challenge nonce) s = .next (s.spdmSay (m ++ Config.mldsaSign s.boot.seed (nonce ++ m))) :=
  ⟨_, congrArg Host.Outcome.next (spdmIf_inOrder ha hg)⟩

/-- A request for one measurement that there is gets its block, signed over the request, which ends in the nonce, where it asks so (R436). -/
theorem getMeasurements_one {q : MeasRequest} {v : List Byte} (h0 : q.idx ≠ 0) (hall : q.idx ≠ 0xFF) (hv : s.measurement q.idx = some v)
    (hn : q.sign = true → q.nonce.length = 32) : ∃ h e p, exec (.getMeasurements q) s =
      .next (s.spdmSay (h ++ measBlock q.idx v ++ e ++
        if q.sign then Config.mldsaSign s.boot.seed (p ++ (if q.sign then q.nonce else []) ++ (h ++ measBlock q.idx v ++ e)) else [])) := by
  refine ⟨spdmHead 0x60 0 0 ++ leBytes 1 1 ++ leBytes 3 (measBlock q.idx v).length, Config.spdmBytes 0xE0 ++ leBytes 2 0,
    spdmHead 0xE0 ((if q.sign then 1 else 0) + if q.raw then 2 else 0) q.idx, congrArg Host.Outcome.next ((spdmIf_inOrder ha hg).trans ?_)⟩
  have hlen : ¬ (q.sign = true ∧ q.nonce.length ≠ 32) := fun h => h.2 (hn h.1)
  simp only [if_neg hlen, if_neg h0, if_neg hall, hv, List.flatMap_cons, List.flatMap_nil, List.append_nil, List.length_singleton,
    List.append_assoc]

theorem getMeasurements_unsigned {q : MeasRequest} {v : List Byte} (h0 : q.idx ≠ 0) (hall : q.idx ≠ 0xFF)
    (hv : s.measurement q.idx = some v) (hs : q.sign = false) :
    ∃ h e, exec (.getMeasurements q) s = .next (s.spdmSay (h ++ measBlock q.idx v ++ e)) := by
  obtain ⟨h, e, p, hx⟩ := getMeasurements_one ha hg h0 hall hv (by simp [hs])
  exact ⟨h, e, by simpa [hs] using hx⟩

theorem getMeasurements_signed {q : MeasRequest} {v : List Byte} (h0 : q.idx ≠ 0) (hall : q.idx ≠ 0xFF)
    (hv : s.measurement q.idx = some v) (hs : q.sign = true) (hn : q.nonce.length = 32) :
    ∃ m h e, m = h ++ measBlock q.idx v ++ e ∧ ∃ p, exec (.getMeasurements q) s =
      .next (s.spdmSay (m ++ Config.mldsaSign s.boot.seed (p ++ q.nonce ++ m))) := by
  obtain ⟨h, e, p, hx⟩ := getMeasurements_one ha hg h0 hall hv fun _ => hn
  exact ⟨_, h, e, rfl, p, by simpa only [hs, if_true] using hx⟩

end Attestation

/-- Settles O55: each step takes the branch of its rule that the conditions name; the parts with a computation of their own are the
register values, the exchange of two rows, the error count, the end of a stage and the block of a measurement (R16, R28, R423 to R439). -/
theorem deviceStepsComplete : Obligations.DeviceStepsComplete := by
  refine ⟨fun s r v => ⟨registerWrite_minimal, fun hm => ⟨fun t => registerWrite_of_writeGives hm, registerWrite_readOnly hm, ?_⟩⟩,
    fun s d v hd => ⟨memTestGo_starts hd, fun _ => memTestGo_refused, parkingComplete_parked,
      fun h => ⟨bankTestComplete_passed h, bankTestComplete_failed h⟩, restoringComplete_restored⟩,
    fun s d unit bank row => ⟨rowSwap_swaps, rowSwap_below, refreshWindowEnd_early, refreshWindowEnd_clears, bankRefresh_holds⟩,
    fun s d e hd hk => ⟨correctedError_counts hd hk, correctedError_notifies hd hk⟩,
    fun s d n => ⟨clockStepSet_sets, clockStepSet_refused, fun hd => ⟨thermalThrottle_hot hd, thermalRecover_cool hd⟩,
      thermalTrip_unready, thermalTrip_ready⟩,
    fun s => ⟨pcieResetAssert_stops s, pcieResetDeassert_starts, fun hran => ⟨bootstatRead_answers hran, ?_, bootTimeout_fails hran,
      restart_starts hran, restart_refused, fun img hs => ⟨?_, ?_⟩, fun n img hs => flashWr_refused (.inl hs)⟩⟩,
    fun s ha => ⟨getVersion_begins ha, getCapabilities_advances ha, fun req => negotiateAlgorithms_agrees ha,
      fun req => negotiateAlgorithms_refused ha, fun hg => ⟨getDigests_answers ha hg, getCertificate_answers ha hg, challenge_signed ha hg, ?_⟩,
      getDigests_outOfOrder ha⟩⟩
  · rintro rfl
    exact registerWrite_colTmo_outside hm
  · intro r hst hdie
    refine ⟨bootStageComplete_fails hran hst hdie, bootStageComplete_noCore hran hst hdie, fun h3 hok => ⟨
      bootStageComplete_waits hran hst hdie h3 hok, fun hall => ?_⟩⟩
    have ends {t : State} := bootStageComplete_ends (t := t) hran hst hdie h3 hok hall
    exact ⟨fun h => ends (stageEnds_fwVerify h), fun h => ends (stageEnds_puf h), fun h => ends (stageEnds_next h),
      fun h => ends (stageEnds_links h), fun h => ends (stageEnds_ready h)⟩
  · exact flashWr_minimal hran hs (by decide)
  · exact flashWr_minimal hran hs (by decide)
  · intro q v hlo hhi hv
    have h0 : q.idx ≠ 0 := by omega
    have hall : q.idx ≠ 0xFF := by omega
    exact ⟨getMeasurements_unsigned ha hg h0 hall hv, getMeasurements_signed ha hg h0 hall hv⟩

end Sys2Proof.Machine
end

section
/-! PROOFS. The scalar register file, the stall of a two-operand operation, and what reset leaves (R21, R22, R107). -/

namespace Sys2Proof.Machine

open Sys2Proof.Claims

/-! ### Scalar registers (R21) -/

/-- A write of a scalar register touches the register file and the poison of registers only, and of the register file not the vector and
predicate registers. -/
theorem setX_frame (s : State) (a : XReg) (v : Word) : ∃ x tok r,
    s.setX a v = s.upd fun b => { b with regs := { b.regs with x := x, tok := tok }, rpoison := r } := by
  unfold State.setX
  split
  · exact ⟨s.bank.regs.x, s.bank.regs.tok, s.bank.rpoison, rfl⟩
  · exact ⟨_, _, _, rfl⟩

/-- Settles O4: x0 is never written, and a write of another register replaces one entry of the register file (R21). -/
theorem scalarRegisterWrite : Obligations.ScalarRegisterWrite := by
  refine ⟨rx_zero, setX_zero, fun s a v ha => ⟨(setX_x s v ha).1, fun b hb => setX_x_ne s v hb, ?_⟩⟩
  obtain ⟨x, tok, r, h⟩ := setX_frame s a v
  rw [h]
  exact ⟨rfl, rfl, rfl, rfl, rfl, rfl, rfl, fun _ => rfl⟩

/-! ### The stall of two-operand operations (R22, R107) -/

/-- Each operation of ADD to MAXN computes a function of xa and xb (R109). -/
theorem exec_eq_bin {i : Instr} {s : State} {o : SrOp} {a b v : Word} (h : srResult i a b = some (o, v)) :
    ∃ f, exec i s = bin s o f := by
  cases i with
  | add | sub | mul | mulh | mulhn | div | divn | rem | remn | and | or | xor | sll | srl | sra | slt | sltn | min | max | minn | maxn =>
    cases h
    dsimp only [exec]
    exact ⟨_, rfl⟩
  | _ => cases h

/-- An operation of two registers waits for its sources and for its destination. -/
theorem bin_waits {s : State} {o : SrOp} (f : Word → Word → Word) (h : s.bank.view.pending o.xa = true ∨ s.bank.view.pending o.xb = true ∨
    s.bank.regs.pending o.xd = true) : bin s o f = .next (waits s) := by
  have hw : s.operands [o.xa, o.xb] o.xd = .error .stall := operands_stall <| by
    rcases h with ha | hb | hd
    · exact .inl ⟨o.xa, by simp, ha⟩
    · exact .inl ⟨o.xb, by simp, hb⟩
    · exact .inr hd
  unfold bin scalar
  rw [hw]
  rfl

/-- Settles O5: the operands are looked at before anything is computed (R22). -/
theorem pendingOperandStalls : Obligations.PendingOperandStalls := by
  intro i s o v hi hp
  obtain ⟨f, hf⟩ := exec_eq_bin (s := s) hi
  rw [hf]
  exact bin_waits f hp

/-! ### Reset -/

/-- No register of reset has a token outstanding (R22). -/
theorem reset_pending (a : XReg) : State.reset.bank.regs.pending a = false := by
  simp [Regs.pending, State.reset, Bank.reset, Regs.reset, Tok.idle]

/-- Every register of reset reads 0 (the model's choice, log 2). -/
theorem reset_rx (a : XReg) : State.reset.rx a = 0 := by
  unfold State.rx
  split <;> rfl

/-- Settles O60: reset lists nothing in its tables, so everything reads its default; the other values stand in the record. The
pre-emption margin of 0 is the model's choice (log 2; R297 gives none). -/
theorem resetState : Obligations.ResetState :=
  ⟨rfl, fun _ => rfl, fun a => ⟨reset_rx a, reset_pending a⟩, rfl, rfl, rfl, rfl, rfl, rfl, rfl, rfl, rfl, rfl, rfl, rfl⟩

end Sys2Proof.Machine
end

section
/-! PROOFS. What a fetch leaves: the focus, the bank in focus but for its fetch buffer, and which bank of a core holds the sequencer
(R18, R67, R348). -/

namespace Sys2Proof.Machine

/-! ### Folds of the model -/

section Folds

variable {σ α β : Type} (p : σ → α)

/-- What no step of a fold changes, the fold leaves. -/
theorem foldl_keeps {f : σ → β → σ} (hf : ∀ s x, p (f s x) = p s) (l : List β) (s : σ) : p (l.foldl f s) = p s := by
  induction l generalizing s with
  | nil => rfl
  | cons x l ih => rw [List.foldl_cons, ih, hf]

theorem foldlM_option_keeps {f : σ → β → Option σ} (hf : ∀ s x t, f s x = some t → p t = p s) (l : List β) {s t : σ}
    (h : l.foldlM f s = some t) : p t = p s := by
  induction l generalizing s with
  | nil => cases h; rfl
  | cons x l ih =>
    rw [List.foldlM_cons] at h
    obtain ⟨u, hu, h⟩ := Option.bind_eq_some_iff.mp h
    rw [ih h, hf s x u hu]

theorem foldlM_keeps {f : σ → β → M σ} (hf : ∀ s x t, f s x = .ok t → p t = p s) (l : List β) {s t : σ}
    (h : l.foldlM f s = .ok t) : p t = p s := by
  induction l generalizing s with
  | nil => cases h; rfl
  | cons x l ih =>
    rw [List.foldlM_cons] at h
    obtain ⟨u, hu, h⟩ := bind_ok.mp h
    rw [ih h, hf s x u hu]

end Folds

/-! ### Items between the dies -/

/-- An item sent on a link changes that link, and tells Lorso where its VC stops for a key (R387). -/
theorem sendGroup_eq (s : State) (l v : Nat) : ∃ ls ns, s.sendGroup l v = { s with links := ls, notices := ns } := by
  dsimp only [State.sendGroup]
  split
  · exact ⟨s.links, s.notices, rfl⟩
  · split
    · split
      · exact ⟨_, s.notices, rfl⟩
      · exact ⟨_, s.notices, rfl⟩
    · split
      · exact ⟨_, _, rfl⟩
      · exact ⟨_, s.notices, rfl⟩

/-- So does an item that crosses from die to die (R372, R385). -/
theorem cross_eq {s t : State} {a b v : Nat} (h : s.cross a b v = some t) : ∃ ls ns, t = { s with links := ls, notices := ns } := by
  dsimp only [State.cross] at h
  split at h
  · cases h
    exact ⟨s.links, s.notices, rfl⟩
  · split at h
    · cases h
    · split at h
      · cases h
        exact ⟨s.links, s.notices, rfl⟩
      · obtain ⟨ls, ns, hs⟩ := sendGroup_eq s (dieLink a b) (vcKey (dieLink a b) v (dieWay a b))
        rw [hs] at h
        cases h
        exact ⟨_, ns, rfl⟩

/-! ### The seat of the sequencer -/

/-- What decides which bank issues, and from where: the focus, the bank in focus, the cores. -/
def State.seat (s : State) : Nat × Bank × Map Core := (s.cur, s.bank, s.cores)

variable {s t : State}

theorem seat_iff : t.seat = s.seat ↔ t.cur = s.cur ∧ t.bank = s.bank ∧ t.cores = s.cores := by simp [State.seat]

theorem State.ticked_seat (s : State) : s.ticked.seat = s.seat := rfl

theorem cross_seat {a b v : Nat} (h : s.cross a b v = some t) : t.seat = s.seat := by
  obtain ⟨ls, ns, rfl⟩ := cross_eq h
  rfl

theorem round_seat {a b v r : Nat} (h : s.round a b v r = .ok t) : t.seat = s.seat := by
  unfold State.round at h
  split at h
  · cases h
  · split at h
    · next w hw =>
      cases h
      obtain ⟨u, hu, ht⟩ := Option.bind_eq_some_iff.mp hw
      rw [cross_seat ht, cross_seat hu]
    · cases h

theorem readRows_seat (s : State) (line : Nat) : (s.readRows line).seat = s.seat := by
  dsimp only [State.readRows]
  split <;> rfl

theorem walked_seat (s : State) (c va : Nat) : (s.walked c va).seat = s.seat := foldl_keeps _ (fun s _ => readRows_seat s _) _ s

theorem fillLine_seat {d line c v : Nat} (h : s.fillLine d line c v = .ok t) : t.seat = s.seat := by
  unfold State.fillLine at h
  split at h
  · cases h
  · obtain ⟨u, hu, h⟩ := bind_ok.mp h
    split at h
    · cases h
    · cases h
      exact (readRows_seat u line).trans (round_seat hu)

theorem openLine_seat {d c line v : Nat} (h : s.openLine d c line v = .ok t) : t.seat = s.seat := by
  unfold State.openLine at h
  split at h
  · split at h
    · cases h
    · split at h
      · cases h
      · cases h
        exact readRows_seat s line
  · split at h
    · cases h
      rfl
    · exact fillLine_seat h

/-- Bytes read through a die's view. -/
theorem viewBytes_seat {d c v : Nat} {as : List Nat} {bs : List Byte} (h : s.viewBytes d c as v = .ok (bs, t)) : t.seat = s.seat := by
  unfold State.viewBytes at h
  obtain ⟨⟨ls, u⟩, hu, h⟩ := bind_ok.mp h
  cases h
  refine foldlM_keeps (fun r : List (Nat × State) × State => r.2.seat) (fun r l r' hr => ?_) _ hu
  obtain ⟨w, hw, hr⟩ := bind_ok.mp hr
  cases hr
  exact openLine_seat hw

theorem regrant_seat {blk n rsv : Nat} {raw : Bool} {p : BitVec 8} (h : s.regrant blk n raw p rsv = some t) : t.seat = s.seat := by
  obtain ⟨x, -, rfl⟩ := Option.map_eq_some_iff.mp h
  rfl

theorem homeWrite_seat {lv : Level} {rsv : List (Nat × Nat)} {ws : List AWrite} {hint : Bool} (h : s.homeWrite lv rsv ws hint = some t) :
    t.seat = s.seat := by
  dsimp only [State.homeWrite] at h
  split at h
  · refine (foldlM_option_keeps State.seat (fun u b w hw => ?_) _ h).trans (foldl_keeps State.seat (f := State.mergeByte) (fun _ _ => rfl) ws s)
    obtain ⟨x, hx, rfl⟩ := Option.map_eq_some_iff.mp hw
    exact (regrant_seat (t := x) hx :)
  · cases h

theorem poke_seat (s : State) (a : Nat) (bs : List Byte) : (s.poke a bs).seat = s.seat := by
  unfold State.poke
  split
  · next t ht => exact homeWrite_seat ht
  · rfl

theorem pokePte_seat (s : State) (c a : Nat) (w : Word) : (s.pokePte c a w).seat = s.seat := by
  unfold State.pokePte
  split
  · rfl
  · exact poke_seat _ _ _

/-! ### The fetch -/

/-- The focus and the sequencers are the same, and the bank in focus differs in its fetch buffer alone. -/
def sameButFetched (s t : State) : Prop :=
  t.cur = s.cur ∧ (∃ f, t.bank = { s.bank with fetched := f }) ∧ ∀ c, (t.core c).active = (s.core c).active

theorem sameButFetched.refl (s : State) : sameButFetched s s := ⟨rfl, ⟨s.bank.fetched, rfl⟩, fun _ => rfl⟩

theorem sameButFetched.trans {u : State} (h : sameButFetched s t) (h' : sameButFetched t u) : sameButFetched s u := by
  obtain ⟨hc, ⟨f, hb⟩, ha⟩ := h
  obtain ⟨hc', ⟨f', hb'⟩, ha'⟩ := h'
  refine ⟨hc'.trans hc, ⟨f', ?_⟩, fun c => (ha' c).trans (ha c)⟩
  rw [hb', hb]

theorem sameButFetched_of_seat (h : t.seat = s.seat) : sameButFetched s t := by
  obtain ⟨hc, hb, hk⟩ := seat_iff.mp h
  refine ⟨hc, ⟨s.bank.fetched, hb⟩, fun c => ?_⟩
  unfold State.core
  rw [hk]

/-- A change of a core that leaves its sequencer where it is. -/
theorem sameButFetched_modCore (s : State) (c : Nat) {f : Core → Core} (hf : ∀ k, (f k).active = k.active) :
    sameButFetched s (s.modCore c f) := by
  refine ⟨rfl, ⟨s.bank.fetched, rfl⟩, fun j => ?_⟩
  by_cases h : j = c
  · subst h
    rw [State.modCore_core_same, hf]
  · rw [State.modCore_core_ne _ _ h]

theorem itcPut_sameButFetched (s : State) (core key : Nat) (w : Word) : sameButFetched s (s.itcPut core key w) := by
  dsimp only [State.itcPut]
  split
  · exact sameButFetched_modCore s core fun _ => rfl
  · refine sameButFetched.trans (sameButFetched_modCore s core ?_) (sameButFetched_of_seat (State.ticked_seat _))
    exact fun _ => rfl

/-- The translation of a page of code, with the walk and the A bit that it may need (R348). -/
theorem itcFill_sameButFetched (s : State) (page : Nat) : sameButFetched s (s.itcFill page).2 := by
  have hw := sameButFetched_of_seat (walked_seat s s.bank.id.ctx (page * 65536))
  dsimp only [State.itcFill]
  split
  · exact .refl s
  · split
    · exact hw
    · exact hw
    · next a w _ =>
      split
      · exact hw
      · have hp : sameButFetched s (if (pteOf w).a then s.walked s.bank.id.ctx (page * 65536) else
            (s.walked s.bank.id.ctx (page * 65536)).pokePte s.bank.id.ctx a (w ||| 16)) := by
          split
          · exact hw
          · exact hw.trans (sameButFetched_of_seat (pokePte_seat _ _ _ _))
        split
        · exact hp.trans (itcPut_sameButFetched _ _ _ _)
        · exact hp

theorem fetchLine_sameButFetched {pc line : Nat} (h : s.fetchLine pc line = .line t) : sameButFetched s t := by
  have kept (u : State) (f : Map (Option (BitVec 512))) : sameButFetched u (u.upd fun b => { b with fetched := f }) :=
    ⟨rfl, ⟨f, rfl⟩, fun _ => rfl⟩
  have hfill := itcFill_sameButFetched s (line / 1024)
  dsimp only [State.fetchLine] at h
  split at h
  · cases h
    exact .refl s
  · split at h
    · cases h
    · split at h
      · cases h
      · next u heq =>
        rw [heq] at hfill
        split at h
        · cases h
          exact hfill.trans (kept _ _)
        · split at h
          · next hv =>
            cases h
            exact (hfill.trans (sameButFetched_of_seat (viewBytes_seat hv))).trans (kept _ _)
          · cases h
          · cases h

/-- A bundle is brought into the fetch buffer, and the bank that fetches stays where it stands (R67). -/
theorem fetchBundle_sameButFetched (h : s.fetchBundle = .line t) : sameButFetched s t := by
  dsimp only [State.fetchBundle] at h
  split at h
  · next u hu => exact (fetchLine_sameButFetched hu).trans (fetchLine_sameButFetched h)
  · next hne => exact absurd h (hne t)

end Sys2Proof.Machine
end

section
/-! PROOFS. A step of a bank before a bundle fetches, dispatches and begins the bundle, and executes its first operation (R18, R50, R52,
R53, R59, R62, R66). -/

namespace Sys2Proof.Machine

open Sys2Proof.Claims

/-! ### The slots of a bundle (R50, R51) -/

theorem except_bind_ok {ε α β : Type} {x : Except ε α} {f : α → Except ε β} {r : β} :
    x >>= f = .ok r ↔ ∃ a, x = .ok a ∧ f a = .ok r := by
  cases x <;> simp [bind, Except.bind]

/-- A computation that completes has passed its check. -/
theorem ite_throw_ok {ε α : Type} {c : Prop} [Decidable c] {e : ε} {f : Unit → Except ε α} {x : Except ε α} {r : α}
    (h : (if c then throw e >>= f else x) = .ok r) : x = .ok r := by
  split at h
  · cases h
  · exact h

theorem decodeSlots_length {present imm : Nat} {is : List Nat} {bs rest : List Byte} {os : List (Option SlotOp)}
    (h : decodeSlots present imm is bs = .ok (os, rest)) : os.length = is.length := by
  induction is generalizing bs os with
  | nil =>
    cases h
    rfl
  | cons i is ih =>
    unfold decodeSlots at h
    split at h
    · obtain ⟨_, -, h⟩ := except_bind_ok.mp h
      obtain ⟨_, -, h⟩ := except_bind_ok.mp h
      obtain ⟨_, hos, h⟩ := except_bind_ok.mp h
      cases h
      exact congrArg Nat.succ (ih hos)
    · obtain ⟨_, hos, h⟩ := except_bind_ok.mp h
      cases h
      exact congrArg Nat.succ (ih hos)

theorem decodeBundle_length {bs rest : List Byte} {b : Bundle} (h : decodeBundle bs = .ok (b, rest)) : b.ops.length = 6 := by
  obtain ⟨_, -, h⟩ := except_bind_ok.mp h
  obtain ⟨_, -, h⟩ := except_bind_ok.mp h
  obtain ⟨_, -, h⟩ := except_bind_ok.mp (ite_throw_ok (ite_throw_ok (ite_throw_ok h)))
  obtain ⟨_, hops, h⟩ := except_bind_ok.mp (ite_throw_ok h)
  obtain ⟨_, -, h⟩ := except_bind_ok.mp h
  cases h
  exact decodeSlots_length hops

/-- The first operation of a bundle stands in some slot, and the slots before it are empty. -/
theorem firstOp_slot {os : List (Option SlotOp)} {i : Instr} (h : firstOp os = some i) :
    ∃ k : Nat, os[k]? = some (some (.op i)) ∧ ∀ j < k, os[j]?.getD none = none := by
  induction os with
  | nil => cases h
  | cons x os ih =>
    match x, h with
    | some (.op j), h =>
      cases h
      exact ⟨0, rfl, fun j hj => absurd hj (Nat.not_lt_zero j)⟩
    | none, h =>
      obtain ⟨k, hk, hlt⟩ := ih h
      refine ⟨k + 1, hk, fun j hj => ?_⟩
      cases j with
      | zero => rfl
      | succ j => exact hlt j (Nat.lt_of_succ_lt_succ hj)

/-- In the first issue of a bundle without sticky slots the slots with an operation issue (R52, R53). -/
theorem slotIssues_first {b : Bundle} (hs : b.sticky = 0) (j : Nat) : slotIssues b 0 j = (b.ops[j]?.getD none).isSome := by
  simp [slotIssues, hs]

/-- The first of them is that of the bundle's first operation. -/
theorem todo_first {b : Bundle} {i : Instr} (hs : b.sticky = 0) (hl : b.ops.length = 6) (hi : firstOp b.ops = some i) :
    ∃ k todo, (List.range 6).filter (slotIssues b 0) = k :: todo ∧ b.ops[k]?.getD none = some (.op i) := by
  obtain ⟨k, hk, hlt⟩ := firstOp_slot hi
  have hk6 : k < 6 := hl ▸ (List.getElem?_eq_some_iff.mp hk).1
  have hf : (List.range 6).find? (slotIssues b 0) = some k := by
    rw [List.find?_range_eq_some]
    refine ⟨by simp [slotIssues_first hs, hk], List.mem_range.mpr hk6, fun j hj => ?_⟩
    simp [slotIssues_first hs, hlt j hj]
  rw [← List.head?_filter] at hf
  obtain ⟨todo, ht⟩ := List.head?_eq_some_iff.mp hf
  exact ⟨k, todo, ht, by simp [hk]⟩

/-! ### Dispatch and the begin of an issue (R52, R53, R66) -/

/-- A bundle newly dispatched, its first issue not begun. -/
def newRun (u : State) (b : Bundle) (steps : List Word) : Running :=
  { addr := u.bank.pc, b := b, steps := steps, rep := 0, begun := false, todo := [], ready := false, npc := none, halt := none,
    period := u.period }

/-- That bundle made current, its issue's view the registers as they stand; a YIELD that found no ready bank is forgotten (R134). -/
def dispatched (u : State) (b : Bundle) (steps : List Word) (fetched : Map (Option (BitVec 512))) : State :=
  (u.modCore (coreOf u.cur) fun c => { c with give := false }).upd fun k =>
    { k with cur := some (newRun u b steps), view := k.regs, kview := k.kennel, fetched := fetched }

/-- The bundle whose bytes stand in the fetch buffer becomes current. -/
theorem dispatch_eq {u : State} {b : Bundle} {rest : List Byte}
    (hd : decodeBundle (u.bank.code u.bank.at_ (headerLen (leNat (u.bank.code u.bank.at_ 4)))) = .ok (b, rest))
    (hs : u.bank.badSticky b = false) : ∃ steps f, u.dispatch = some (dispatched u b steps f) := by
  dsimp only [State.dispatch]
  rw [hd]
  dsimp only
  rw [hs]
  exact ⟨_, _, rfl⟩

theorem dispatched_active (u : State) (b : Bundle) (steps : List Word) (f : Map (Option (BitVec 512))) :
    ((dispatched u b steps f).core (coreOf u.cur)).active = (u.core (coreOf u.cur)).active :=
  (congrArg Core.active (State.modCore_core_same u (coreOf u.cur) fun c => { c with give := false }) :)

/-- A cycle counts in CYCLE of a bank that holds its core's sequencer (log 61). -/
theorem passCycle_bank {s : State} (h : ((s.core (coreOf s.cur)).active == s.cur % 2 && s.bank.run != .free) = true) :
    s.passCycle.bank = { s.bank with ctl := { s.bank.ctl with cycle := s.bank.ctl.cycle + 1 } } := if_pos h

/-- A bundle at the begin of its next issue, with the slots that issue. -/
def begunRun (r : Running) : Running := { r with begun := true, todo := (List.range 6).filter (slotIssues r.b r.rep), ready := false }

/-- The begin of an issue: the cycle that it takes, and the registers as it reads them. -/
def begunIn (s : State) (r : Running) (dist : Nat) : State :=
  s.passCycle.upd fun b => { b with dist := dist, iss := b.iss + 1, view := b.regs, cur := some (begunRun r) }

/-- An issue within the distance of a safe point begins. -/
theorem beginIssue_eq {s : State} (r : Running) (h : s.bank.dist < 4096) : ∃ dist, s.beginIssue r = some (begunIn s r dist) := by
  unfold State.beginIssue
  rw [if_neg (by omega)]
  exact ⟨_, rfl⟩

/-- A slot made ready: its cursor moves, and the bundle's issue is marked. -/
theorem readySlot_eq (b : Bank) {r : Running} (k : Nat) (h : r.ready = false) : ∃ cs,
    b.readySlot r k = { b with slot := k, cursors := cs, cur := some { r with ready := true } } := by
  unfold Bank.readySlot
  rw [h]
  exact ⟨_, rfl⟩

theorem opOf_present {b : Bank} {r : Running} {k : Nat} {o : SlotOp} (h : r.b.ops[k]?.getD none = some o) : b.opOf r k = some o := by
  unfold Bank.opOf
  rw [h]

/-- With nothing behind it, a load waits for no token when no operation of its bundle reads a pending one (R255). -/
theorem tokenHolds_none {b : Bank} {r : Running} {k : Nat} (hops : ∀ j ∈ r.todo, (r.b.ops[j]?.getD none).isSome)
    (h : ∀ i, some (SlotOp.op i) ∈ r.b.ops → ∀ x ∈ readsOf i, b.view.pending x = false) : b.tokenHolds [] r k = false := by
  simp only [Bank.tokenHolds, List.any_nil, Bool.false_or, List.any_eq_false, Bool.and_eq_true, not_and, Bool.not_eq_true]
  intro j hj _
  obtain ⟨o, ho⟩ := Option.isSome_iff_exists.mp (hops j hj)
  rw [opOf_present ho]
  cases o with
  | badForm => rfl
  | op i =>
    have hm : some (SlotOp.op i) ∈ r.b.ops := by
      rw [Option.getD_eq_iff] at ho
      exact List.mem_of_getElem? (ho.resolve_right (by simp))
    simp only [List.any_eq_false, Bool.not_eq_true]
    exact h i hm

/-- The head slot of an issue, with nothing behind it, executes. -/
theorem headOp_eq {s : State} {r : Running} {k : Nat} {todo : List Nat} {i : Instr} (hlag : s.bank.lag = []) (hr : r.ready = false)
    (ht : r.todo = k :: todo) (hi : r.b.ops[k]?.getD none = some (.op i)) (hl : isLoad i = false ∨
      (∀ j ∈ r.todo, (r.b.ops[j]?.getD none).isSome) ∧
        ∀ j, some (SlotOp.op j) ∈ r.b.ops → ∀ x ∈ readsOf j, s.bank.view.pending x = false) :
    s.headOp r = .op i (s.upd fun b => b.readySlot r k) := by
  obtain ⟨cs, hb⟩ := readySlot_eq s.bank k hr
  have hlag' : (s.bank.readySlot r k).lag = [] := by rw [hb]; exact hlag
  have hheld : (isLoad i && (s.bank.readySlot r k).tokenHolds [] r k) = false := by
    rcases hl with hl | ⟨hops, hp⟩
    · rw [hl]
      rfl
    · rw [tokenHolds_none hops (by rw [hb]; exact hp), Bool.and_false]
  simp only [State.headOp, ht, hlag, State.upd, hlag', opOf_present hi, hheld, Bank.heldBehind, List.any_nil, Bool.or_false,
    Bool.false_eq_true, if_false]

/-! ### A bank before a bundle (R18, R53) -/

section BeforeBundle

variable {t u : State} {b : Bundle} {rest : List Byte} {i : Instr} (h : beforeBundle t u b rest i)
include h

/-- It may issue. -/
theorem beforeBundle_mayIssue : t.mayIssue = true := by
  obtain ⟨hrun, hact, -, -, -, -, -, hre, -⟩ := h
  simp [State.mayIssue, hrun, hact, hre]

/-- Once the bundle has been fetched the bank still runs and holds the sequencer, so that a cycle counts for it. -/
theorem beforeBundle_counts (steps : List Word) (f : Map (Option (BitVec 512))) : (dispatched u b steps f).passCycle.bank =
    { (dispatched u b steps f).bank with ctl := { u.bank.ctl with cycle := u.bank.ctl.cycle + 1 } } := by
  obtain ⟨hrun, hact, -, -, -, -, -, -, -, hf, -⟩ := h
  obtain ⟨hc, ⟨_, hb⟩, ha⟩ := fetchBundle_sameButFetched hf
  have hon : (u.core (coreOf u.cur)).active = u.cur % 2 := by rw [ha, hc, hact]
  have hrun' : u.bank.run = .ready := by rw [hb]; exact hrun
  refine passCycle_bank ?_
  change (((dispatched u b steps f).core (coreOf u.cur)).active == u.cur % 2 && u.bank.run != .free) = true
  simp [dispatched_active, hon, hrun']

/-- Once dispatched, its first operation executes in a state that issuesIn describes. -/
theorem beforeBundle_issueNext (steps : List Word) (f : Map (Option (BitVec 512))) :
    ∃ v, (dispatched u b steps f).issueNext (newRun u b steps) = .op i v ∧ issuesIn u v b := by
  have hbank := beforeBundle_counts h steps f
  obtain ⟨-, -, -, -, -, -, hlag, -, hload, -, hdec, -, hs0, hfirst, hdist, -⟩ := h
  obtain ⟨k, todo, htodo, hk⟩ := todo_first hs0 (decodeBundle_length hdec) hfirst
  obtain ⟨dist, hbegin⟩ := beginIssue_eq (newRun u b steps) (s := dispatched u b steps f) hdist
  have hin : (begunIn (dispatched u b steps f) (newRun u b steps) dist).bank =
      { (dispatched u b steps f).bank with
        ctl := { u.bank.ctl with cycle := u.bank.ctl.cycle + 1 }, dist := dist, iss := u.bank.iss + 1, view := u.bank.regs,
        cur := some (begunRun (newRun u b steps)) } := by
    unfold begunIn State.upd
    rw [hbank]
    rfl
  have hall : ∀ j ∈ (begunRun (newRun u b steps)).todo, (b.ops[j]?.getD none).isSome := fun j hj => by
    rw [← slotIssues_first hs0]
    exact (List.mem_filter.mp hj).2
  have hhead := headOp_eq (s := begunIn (dispatched u b steps f) (newRun u b steps) dist) (by rw [hin]; exact hlag) rfl htodo hk
    (hload.imp_right fun hn => ⟨hall, by rw [hin]; exact hn⟩)
  obtain ⟨cs, hready⟩ := readySlot_eq (begunIn (dispatched u b steps f) (newRun u b steps) dist).bank k
    (r := begunRun (newRun u b steps)) rfl
  refine ⟨(begunIn (dispatched u b steps f) (newRun u b steps) dist).upd fun k' => k'.readySlot (begunRun (newRun u b steps)) k,
    ?_, rfl, ?_⟩
  · have hwin : (dispatched u b steps f).bank.windowFull (newRun u b steps).b = false := by
      unfold Bank.windowFull
      rw [show (dispatched u b steps f).bank.lag = [] from hlag]
    simp only [State.issueNext, hwin, hbegin, hin, hhead]
    rfl
  · rw [State.upd, hready, hin]
    exact ⟨rfl, rfl, rfl, rfl, _, rfl, rfl, rfl, rfl⟩

/-- So the bank issues it. -/
theorem beforeBundle_ready : ∃ v, t.ready = .op i v ∧ issuesIn u v b := by
  have hmay := beforeBundle_mayIssue h
  have hnext := beforeBundle_issueNext h
  obtain ⟨-, -, hcur, hgives, hstop, -, -, hre, -, hf, hdec, hsticky, -, -, -, hsafe⟩ := h
  obtain ⟨steps, f, hd⟩ := dispatch_eq hdec hsticky
  obtain ⟨v, hv, hin⟩ := hnext steps f
  have hb : u.bank.atBoundary (newRun u b steps).b = false := by
    rcases hsafe with hp | hk
    · simp [Bank.atBoundary, hp]
    · simp [Bank.atBoundary, newRun, hk]
  refine ⟨v, ?_, hin⟩
  simp only [State.ready, hmay, hre, hcur, hgives, State.nextBundle, hstop, hf, hd, if_true, Bool.false_eq_true, if_false]
  rw [show (dispatched u b steps f).bank.cur = some (newRun u b steps) from rfl]
  simp only [hb, Bool.false_eq_true, if_false, hv]

theorem beforeBundle_issueStep : ∃ v, issuesIn u v b ∧ t.issueStep = State.after i (exec i v) := by
  obtain ⟨v, hv, hin⟩ := beforeBundle_ready h
  obtain ⟨-, -, -, -, -, hlag, -⟩ := h
  refine ⟨v, hin, ?_⟩
  have hhead : t.headStep = State.after i (exec i v) := by rw [State.headStep, hv]
  simp only [State.issueStep, hlag, List.map_nil, State.issueFrom, hhead, ite_self]

end BeforeBundle

/-! ### How a step goes on -/

/-- The agenda, or the turn that an empty one gives to the bank in focus, names the state in which a bank issues (log 43). -/
theorem step_issueStep {s t : State} (hc : s.cur < 512) (ht : (s.agenda = [] ∧ s.lap < 256 ∧ t = { s with lap := s.lap + 1 }) ∨
    (∃ k as, s.agenda = .bank k :: as ∧ k < 512 ∧ t = ({ s with agenda := as } : State).focus k)) : step s = t.issueStep := by
  unfold step
  rw [if_pos hc]
  rcases ht with ⟨ha, hl, rfl⟩ | ⟨k, as, ha, hk, rfl⟩
  · rw [ha]
    exact if_pos hl
  · rw [ha]
    exact if_pos hk

/-- An event of the agenda executes. -/
theorem step_event {s : State} {i : Instr} {as : List Agent} (hc : s.cur < 512) (ha : s.agenda = .event i :: as) (he : encode i = none)
    (hw : WellFormed i = true) : step s = exec i ({ s with agenda := as } : State).beforeEvent := by
  unfold step
  rw [if_pos hc, ha]
  exact if_pos (by rw [he, hw]; rfl)

section After

variable (i : Instr) {t : State}

theorem after_done (h : t.bank.issued = .done) : State.after i (.next t) = .next (t.opDone i) := by simp only [State.after, h]

theorem after_faulted (h : t.bank.issued = .faulted) : State.after i (.next t) = .next t := by simp only [State.after, h]

theorem after_stalled (h : t.bank.issued = .stalled) : State.after i (.next t) = t.putOff := by simp only [State.after, h]

end After

theorem putOff_aside {t : State} (h : t.mayPutAside = true) : t.putOff = .next t.putAside := if_pos h

theorem putOff_idle {t : State} (h : t.mayPutAside = false) (hl : t.bank.late = none) : t.putOff = t.idle := by
  simp [State.putOff, h, hl]

/-- Settles O58: a bank before a bundle fetches, dispatches and begins it, and the issue's end decides what comes next; an event of the
agenda is its meaning (R18, R50, R52, R53, R59, R62, R66; log 43). -/
theorem stepRunsDecodedInstruction : Obligations.StepRunsDecodedInstruction := by
  refine ⟨fun s t u b rest i hc ht h => ?_, fun i t => ⟨after_done i, after_faulted i,
    fun hs hp => (after_stalled i hs).trans (putOff_aside hp), fun hs hp hl => (after_stalled i hs).trans (putOff_idle hp hl)⟩,
    fun s t i as hc ha he hw hx => (step_event hc ha he hw).trans hx⟩
  obtain ⟨v, hv, hstep⟩ := beforeBundle_issueStep h
  exact ⟨v, hv, (step_issueStep hc ht).trans hstep⟩

end Sys2Proof.Machine
end

section
/-! PROOFS. A stream whose item has failed does not make a bank wait (R232). -/

namespace Sys2Proof.Machine

/-- A pop that would need a slot that the engine will not fill is DEP_FAILED with the stream's number (R232). -/
theorem pop_failed {s : State} {n : Nat} {st : Stream} {tile : Tile} (hs : s.bank.streamOf n = some st) (ht : s.tile st.race = some tile)
    (hin : st.out = false) (hmore : st.used < st.total tile) (hempty : tile.filled = 0) (hfail : st.failed = true) :
    s.pop n = raise cDEP_FAILED n := by
  simp [State.pop, hs, ht, hin, Nat.not_le.mpr hmore, hempty, hfail]

theorem vsrc_stream {s : State} {slot : Nat} {f : VFld} (h : isStream f = true) : s.vsrc slot f = s.pop (f.toNat - 320) := if_pos h

/-- Stream 0 bound for input to race 255, its pattern 64 elements, none popped yet. An item has failed and its record waits for its
disposition: State.strmFail has set failed, and fail, the failure value of the token, is not yet given (R215, R462). -/
def failedStream : Stream :=
  { num := 0, since := 0, untl := none,
    recd := List.replicate 8 0 ++ leBytes 4 64 ++ List.replicate 4 0 ++ (List.replicate 3 (leBytes 4 1 ++ List.replicate 4 0)).flatten,
    bias := [], efr := 0, out := false, race := 255, next := 0, used := 0, ord := 0, kd := 1, fail := none, unb := none, bundle := 0, wid := 0,
    waitd := none, got := none, vals := [], inb := [], outb := [], failed := true, engine := 0, uengine := 0, begun := true, ubegun := false,
    tokDone := false, deps := [], udeps := [], more := [], err := (0, 0) }

/-- An empty race of two slots over four rows of 128 FP32 elements (R37, R40). -/
def emptyRace : Tile := { shape := 0x000400804D010000, gran := 1, bytes := [], head := 0, tail := 0, lock := some 0, poison := [] }

/-- A bank with that stream. -/
def failedStreamState : State := State.reset.upd fun b => { b with streams := [failedStream], tiles := [(255, some emptyRace)] }

/-- Refutes O32: the clause on an empty race lets fail be none and says nothing of failed, which alone is set while a failed item's
record waits for its disposition; the pop of s0 then raises DEP_FAILED, as R232 asks, and does not stall. -/
theorem not_vectorOperandForms : ¬ Obligations.VectorOperandForms := by
  rintro ⟨-, -, -, hpop, -⟩
  have hmore : failedStream.used < failedStream.total emptyRace := by decide
  have hstall : failedStreamState.vsrc 1 320 = stall := (hpop failedStreamState 1 320 failedStream emptyRace rfl rfl rfl rfl hmore).1 rfl rfl
  have hraise : failedStreamState.pop 0 = raise cDEP_FAILED 0 := pop_failed rfl rfl rfl hmore rfl rfl
  rw [vsrc_stream rfl] at hstall
  exact nomatch hraise.symm.trans hstall

end Sys2Proof.Machine
end

section
/-! PROOFS. What a task gives up at its end, its groups and its lease, leaves the focus, memory and the tiles and probes of the bank in focus
(R195, R277, R364). -/

namespace Sys2Proof.Machine

variable {s t : State}

/-- What the edge phase of the bank in focus works on: its tiles, its probe rows and memory (R278). -/
def State.edgeView (s : State) : Nat × Map (Option Tile) × Map Probe × Map Byte := (s.cur, s.bank.tiles, s.bank.probes, s.mem)

theorem edgeView_iff : t.edgeView = s.edgeView ↔
    t.cur = s.cur ∧ t.bank.tiles = s.bank.tiles ∧ t.bank.probes = s.bank.probes ∧ t.mem = s.mem := by simp [State.edgeView]

/-- A change of a bank that leaves tiles and probe rows. -/
def keepsTiles (f : Bank → Bank) : Prop := ∀ b, (f b).tiles = b.tiles ∧ (f b).probes = b.probes

theorem upd_edgeView (s : State) {f : Bank → Bank} (hf : (f s.bank).tiles = s.bank.tiles ∧ (f s.bank).probes = s.bank.probes) :
    (s.upd f).edgeView = s.edgeView := by
  simp [State.edgeView, State.upd, hf.1, hf.2]

theorem modBank_edgeView (s : State) (b : Nat) {f : Bank → Bank} (hf : keepsTiles f) : (s.modBank b f).edgeView = s.edgeView := by
  unfold State.modBank State.setBank
  split
  · next h =>
    obtain ⟨ht, hp⟩ := hf s.bank
    simp [State.edgeView, State.getBank, h, ht, hp]
  · rfl

/-! ### Groups (R351, R355, R364) -/

theorem completeTok_keepsTiles (k n : Nat) (ok : Bool) (v : Word) : keepsTiles fun x => x.completeTok k n ok v := by
  intro x
  dsimp only [Bank.completeTok]
  split
  · exact ⟨rfl, rfl⟩
  · exact ⟨rfl, rfl⟩

/-- Completed tokens leave them. -/
theorem completeToks_keepsTiles {α : Type} (f : Bank → α → Bank) (hf : ∀ x, keepsTiles fun b => f b x) (l : List α) :
    keepsTiles fun b => l.foldl f b := fun b =>
  Prod.mk.inj (foldl_keeps (fun b : Bank => (b.tiles, b.probes)) (fun b x => by rw [(hf x b).1, (hf x b).2]) l b)

theorem endPends_keepsTiles (n : Nat) (vc va : Word) : keepsTiles fun k => k.endPends n vc va := fun k =>
  completeToks_keepsTiles _ (fun _ => completeTok_keepsTiles _ _ _ _) _ { k with gpend := k.gpend.filter (·.bind != n) }

theorem modHeld_edgeView (s : State) (c : Nat) (h : Holder) {f : Bank → Bank} (hf : keepsTiles f) :
    (s.modHeld c h f).edgeView = s.edgeView := by
  cases h with
  | inl b => exact modBank_edgeView s b hf
  | inr k => rfl

theorem settleGroup_edgeView (s : State) (d i : Nat) : (s.settleGroup d i).edgeView = s.edgeView := by
  dsimp only [State.settleGroup]
  split
  · rfl
  · next g _ =>
    split
    · rfl
    · split
      · split
        · rfl
        · rfl
      · next b _ =>
        split
        · exact modHeld_edgeView s _ b fun k => endPends_keepsTiles _ _ _ k
        · split
          · exact modHeld_edgeView s _ b fun k => ⟨rfl, rfl⟩
          · split
            · exact modHeld_edgeView s _ b fun k => ⟨rfl, rfl⟩
            · rfl

theorem cross_edgeView {a b v : Nat} (h : s.cross a b v = some t) : t.edgeView = s.edgeView := by
  obtain ⟨ls, ns, rfl⟩ := cross_eq h
  rfl

theorem post_edgeView (s : State) (ports : List Nat) (p : Packet) : (s.post ports p).edgeView = s.edgeView := by
  dsimp only [State.post]
  split
  · rfl
  · next l _ =>
    obtain ⟨ls, ns, h⟩ := sendGroup_eq s l (vcKey l p.vc (devOf p.dst))
    rw [h]
    rfl

theorem depart_edgeView (s : State) (die : Nat) (ports : List Nat) (p : Packet) : (s.depart die ports p).edgeView = s.edgeView := by
  unfold State.depart
  split
  · next t ht => exact (post_edgeView t ports p).trans (cross_edgeView ht)
  · rfl

/-- A message to a weir, of this device or of another. -/
theorem sendCommit_edgeView (s : State) (d dom node : Nat) (m : CommitMsg) : (s.sendCommit d dom node m).edgeView = s.edgeView := by
  unfold State.sendCommit
  split
  · rfl
  · exact depart_edgeView _ _ _ _

theorem abortGroup_edgeView (s : State) (d i cause detail : Nat) : (s.abortGroup d i cause detail).edgeView = s.edgeView := by
  dsimp only [State.abortGroup]
  split
  · rfl
  · exact (settleGroup_edgeView _ d i).trans (foldl_keeps State.edgeView (fun s _ => sendCommit_edgeView s _ _ _ _) _ _)

theorem dropGroups_edgeView (s : State) (cause detail : Nat) : (s.dropGroups cause detail).edgeView = s.edgeView := by
  dsimp only [State.dropGroups]
  refine (foldl_keeps State.edgeView (fun s x => ?_) _ _).trans ?_
  · split
    · split
      · exact abortGroup_edgeView _ _ _ _ _
      · exact settleGroup_edgeView _ _ _
    · rfl
  · exact upd_edgeView s (completeToks_keepsTiles _ (fun _ => completeTok_keepsTiles _ _ _ _) _ s.bank)

/-! ### The lease (R195) -/

theorem leaseGrant_edgeView (s : State) (g b ord : Nat) : (s.leaseGrant g b ord).edgeView = s.edgeView := by
  unfold State.leaseGrant
  split
  · exact modBank_edgeView _ b fun _ => ⟨rfl, rfl⟩
  · exact modBank_edgeView _ b fun _ => ⟨rfl, rfl⟩

theorem grantHead_edgeView (s : State) (g : Nat) : (s.grantHead g).edgeView = s.edgeView := by
  dsimp only [State.grantHead]
  split
  · split
    · rfl
    · exact leaseGrant_edgeView _ _ _ _
  · rfl

theorem leaseEnter_edgeView (s : State) (g b : Nat) : (s.leaseEnter g b).edgeView = s.edgeView := by
  dsimp only [State.leaseEnter]
  split
  · split
    · exact modBank_edgeView s _ fun _ => ⟨rfl, rfl⟩
    · split
      · rfl
      · rfl
  · rfl

theorem leaseEnd_edgeView (s : State) (g why : Nat) : (s.leaseEnd g why).edgeView = s.edgeView := by
  dsimp only [State.leaseEnd]
  split
  · rfl
  · next h _ =>
    refine (grantHead_edgeView _ g).trans ((leaseEnter_edgeView _ g _).trans (modBank_edgeView _ h ?_))
    exact fun _ => ⟨rfl, rfl⟩

theorem dropLease_edgeView (s : State) : s.dropLease.edgeView = s.edgeView := by
  dsimp only [State.dropLease]
  split
  · exact leaseEnd_edgeView _ _ _
  · exact leaseEnter_edgeView _ _ _

end Sys2Proof.Machine
end

section
/-! PROOFS. Tasks are placed in order, saved at safe points, swapped out of long waits and ended through their edge phase (R63, R270 to
R283, R296 to R298, R364). -/

namespace Sys2Proof.Machine

variable {s t : State}

/-! ### Placing (R296, R297) -/

section TaskPlace

variable {c k : Nat} {x : Kernel} (hrun : (s.ctx c).st = .running) (hx : (s.ranked c).find? (·.1 == k) = some (k, x))
  (hfirst : ∀ e ∈ (s.ranked c).takeWhile (·.1 != k), s.placement c e.1 e.2 [] = none)
include hrun hx hfirst

/-- A running context's kernel that no kernel before it in the order of R296 forestalls. -/
theorem taskPlace_eq (on : List (Nat × Nat)) : exec (.taskPlace c k on) s = .next
    (if on = [] then (if (s.placement c k x []).isSome then s else s.preemptFor c k x)
    else match s.placement c k x [], s.unitOf c k x (on.map (·.1)) with
      | some first, some u =>
        if first.map (·.1) = on.map (·.1) ∧ s.admissible ⟨c, x.kid k, x, []⟩ u on then s.placeAll c k (x.kid k) on else s
      | _, _ => s) := by
  have hnone : (((s.ranked c).takeWhile (·.1 != k)).any fun e => (s.placement c e.1 e.2 []).isSome) = false := by
    simp only [List.any_eq_false]
    intro e he
    simp [hfirst e he]
  dsimp only [exec, execTaskPlace]
  rw [if_neg (by simp [hrun]), hx]
  dsimp only
  rw [hnone]
  rfl

theorem taskPlace_places {on first : List (Nat × Nat)} {u : PlaceUnit} (hon : on ≠ []) (hp : s.placement c k x [] = some first)
    (hsame : first.map (·.1) = on.map (·.1)) (hu : s.unitOf c k x (on.map (·.1)) = some u)
    (ha : s.admissible ⟨c, x.kid k, x, []⟩ u on = true) : exec (.taskPlace c k on) s = .next (s.placeAll c k (x.kid k) on) := by
  rw [taskPlace_eq hrun hx hfirst, if_neg hon, hp, hu]
  exact congrArg Host.Outcome.next (if_pos ⟨hsame, ha⟩)

theorem taskPlace_preempts (hp : s.placement c k x [] = none) : exec (.taskPlace c k []) s = .next (s.preemptFor c k x) := by
  rw [taskPlace_eq hrun hx hfirst, if_pos rfl, hp]
  rfl

end TaskPlace

/-! ### Saving (R63, R298, R410) -/

/-- A bank whose safe-point entry fits is saved there. -/
theorem saveAt_saves {b : Nat} {x : Bundle} {e : SpEntry} {swap : Bool} (h : s.safePoint x = .ok (e, t)) : s.saveAt b x swap =
    (t.saveBank b (some x.spIndex) (some e) (if swap then t.cwaitOf b else .none)).afterSave t.bank.id.ctx := by
  rw [State.saveAt, h]

/-- The search for a boundary may fetch, and stays with its bank. -/
theorem boundary_cur {x : Bundle} (h : s.boundary = some (x, t)) : t.cur = s.cur := by
  unfold State.boundary at h
  split at h
  · cases h
    rfl
  · split at h
    · cases h
    · split at h
      · next u hu =>
        have hc := (fetchBundle_sameButFetched hu).1
        split at h
        · split at h
          · split at h
            · cases h
              exact hc
            · cases h
          · cases h
        · cases h
      · cases h
  · cases h

section Saving

variable {b : Nat} {u : State} (hu : s.focus b = u) (hq : Claims.quietAt u)
include hu hq

theorem preempt_saves {x : Bundle} {t2 : State} {e : SpEntry} (hp : u.bank.preempt = true) (hr : u.bank.run ≠ .faulted)
    (hb : u.boundary = some (x, t)) (he : t.safePoint x = .ok (e, t2)) : exec (.preemptAtSafePoint b) s =
      .next (((t2.saveBank b (some x.spIndex) (some e) .none).afterSave t2.bank.id.ctx).focus s.cur) := by
  obtain ⟨hstop, hitems, hset⟩ := hq
  have hcur : t.cur = b := by rw [boundary_cur hb, ← hu, focus_cur]
  dsimp only [exec, execPreemptAtSafePoint, State.onBank]
  rw [hu, if_neg (by simp [hp, hstop, hitems]), if_neg hr, if_neg (by simp [hset]), hb]
  dsimp only
  rw [saveAt_saves he, hcur]
  rfl

theorem waitLimit_saves {since bound : Nat} {r : Running} {e : SpEntry} (hw : u.bank.swait = .counter since bound)
    (hr : u.bank.run = .waiting) (hlim : since + u.waitLim < u.cycle) (hc : u.bank.cur = some r)
    (hlacks : ∃ k ∈ u.ranked u.bank.id.ctx, u.placement u.bank.id.ctx k.1 k.2 [] = none ∧
      (u.placement u.bank.id.ctx k.1 k.2 (u.partBanks u.bank.id.ctx)).isSome = true)
    (he : u.safePoint r.b = .ok (e, t)) : exec (.waitLimitSwapout b) s =
      .next (((t.saveBank b (some r.b.spIndex) (some e) (t.cwaitOf b)).afterSave t.bank.id.ctx).focus s.cur) := by
  obtain ⟨hstop, hitems, hset⟩ := hq
  obtain ⟨k, hk, hnone, hsome⟩ := hlacks
  have hany : (u.ranked u.bank.id.ctx).any (fun e => (u.placement u.bank.id.ctx e.1 e.2 []).isNone &&
      (u.placement u.bank.id.ctx e.1 e.2 (u.partBanks u.bank.id.ctx)).isSome) = true :=
    List.any_eq_true.mpr ⟨k, hk, by simp [hnone, hsome]⟩
  dsimp only [exec, execWaitLimitSwapout, State.onBank]
  rw [hu, hw]
  dsimp only
  rw [hany, if_neg (by simp [hr, hlim, hstop, hitems, hset]), hc]
  dsimp only
  rw [saveAt_saves he, ← hu, focus_cur]
  rfl

end Saving

/-! ### The end of a task (R277 to R283) -/

/-- A bank at its final HALT with everything done: its groups and its lease given up, in its edge phase. -/
def intoEdge (u : State) : State :=
  (u.dropGroups cGROUP_FAULT 4).dropLease.upd fun b => { b with run := .edge, cmds := [], part := 0, issued := .done }

theorem intoEdge_edgeView (u : State) : (intoEdge u).edgeView = u.edgeView :=
  (dropLease_edgeView (u.dropGroups cGROUP_FAULT 4)).trans (dropGroups_edgeView u cGROUP_FAULT 4)

section TaskEnd

variable {b : Nat} {u : State} (hu : s.focus b = u)
include hu

/-- A bank that is to stop and can (R282, R364). -/
theorem taskEnd_stops (h : u.bank.canStop = true) : exec (.taskEnd b) s = .next (State.settleHost (u.stopBank.focus s.cur)) := by
  dsimp only [exec, execTaskEnd, State.onBank]
  rw [hu, if_pos h]

/-- A stopped bank of which nothing is on its way is freed, and with the last bank of its kernel what was kept of that. -/
theorem taskEnd_buries (h : u.bank.canStop = false) (hd : u.bank.run = .dead) (hset : u.settled u.cur = true) :
    let v := (u.dropTiles u.cur).freeBank u.cur
    exec (.taskEnd b) s = .next (State.settleHost
      ((if v.busyBanks.any (fun x => x.2.runs u.bank.id.ctx u.bank.id.kid) then v
        else v.modCtx u.bank.id.ctx fun x => { x with kernels := mset none x.kernels (goneKey u.bank.id.kid) none }).focus s.cur)) := by
  dsimp only [exec, execTaskEnd, State.onBank]
  rw [hu, if_neg (by simp [h]), if_pos hd, State.buryBank, if_pos hset]

variable {x : Kernel} (hstop : u.bank.stop = false) (hk : u.myKernel = some x) (hf : u.bank.issued ≠ .faulted)
include hstop hk hf

theorem taskEnd_ending (hr : u.bank.run = .ending) : exec (.taskEnd b) s = .next (State.settleHost ((
    if u.bank.streams.any fun t => t.unb.isNone then u.unbindAll else if !u.taskQuiet then u else intoEdge u).focus s.cur)) := by
  dsimp only [exec, execTaskEnd, State.onBank]
  rw [hu, if_neg (by simp [Bank.canStop, hstop]), if_neg (by simp [hr]), hk]
  dsimp only
  rw [if_neg (by simp [hr]), if_neg (by simp [hr, hf])]
  rfl

theorem taskEnd_unbinds (hr : u.bank.run = .ending) (hs : ∃ t ∈ u.bank.streams, t.unb = none) :
    exec (.taskEnd b) s = .next (State.settleHost (u.unbindAll.focus s.cur)) := by
  obtain ⟨st, hst, hn⟩ := hs
  rw [taskEnd_ending hu hstop hk hf hr, if_pos (List.any_eq_true.mpr ⟨st, hst, by simp [hn]⟩)]

/-- A bank whose operations are done gives up its groups and its lease and enters its edge phase. -/
theorem taskEnd_edge (hr : u.bank.run = .ending) (hs : ∀ t ∈ u.bank.streams, t.unb ≠ none) (hquiet : u.taskQuiet = true) :
    ∃ t : State, exec (.taskEnd b) s = .next (State.settleHost (t.focus s.cur)) ∧ t.cur = b ∧ t.bank.run = .edge ∧ t.bank.cmds = [] ∧
      t.bank.tiles = u.bank.tiles ∧ t.bank.probes = u.bank.probes ∧ t.mem = s.mem := by
  have hnone : ¬ (u.bank.streams.any fun t => t.unb.isNone) = true := by
    simp only [List.any_eq_true, not_exists, not_and, Option.isNone_iff_eq_none]
    exact hs
  obtain ⟨hcur, htiles, hprobes, hmem⟩ := edgeView_iff.mp (intoEdge_edgeView u)
  refine ⟨intoEdge u, ?_, hcur.trans ?_, rfl, rfl, htiles, hprobes, hmem.trans ?_⟩
  · rw [taskEnd_ending hu hstop hk hf hr, if_neg hnone, if_neg (by simp [hquiet])]
  · rw [← hu, focus_cur]
  · rw [← hu, focus_mem]

/-- With no dirty block of an edge region left and all performed the task is over (R278, R283). -/
theorem taskEnd_over (hr : u.bank.run = .edge) (hrow : u.edgeRow x.hdr = none) (hset : u.settled u.cur = true) :
    exec (.taskEnd b) s = .next (State.settleHost ((u.endTask x).focus s.cur)) := by
  have hedge : u.edgeStep x = u.endTask x := by
    unfold State.edgeStep
    rw [if_neg hf, hrow]
    exact if_pos hset
  dsimp only [exec, execTaskEnd, State.onBank]
  rw [hu, if_neg (by simp [Bank.canStop, hstop]), if_neg (by simp [hr]), hk]
  dsimp only
  rw [if_pos hr, hedge]

end TaskEnd

/-- Settles O48: each step takes the branch of its rule that the conditions name; the search for a safe point stays with its bank, and the
edge phase begins with the tiles, the probe rows and the memory of the task (R63, R277, R283, R296 to R298). -/
theorem taskStepsComplete : Obligations.TaskStepsComplete :=
  ⟨fun _ _ _ _ hrun hx hfirst => ⟨fun _ _ _ => taskPlace_places hrun hx hfirst, taskPlace_preempts hrun hx hfirst⟩,
    fun _ _ _ _ _ _ hq => preempt_saves rfl hq,
    fun _ _ _ _ _ _ _ hq hw hr hlim hc hlacks he => waitLimit_saves rfl hq hw hr hlim hc hlacks he,
    fun _ _ _ hstop hk hf => ⟨taskEnd_unbinds rfl hstop hk hf, taskEnd_edge rfl hstop hk hf, taskEnd_over rfl hstop hk hf⟩,
    fun _ _ => ⟨taskEnd_stops rfl, taskEnd_buries rfl⟩⟩

end Sys2Proof.Machine
end

section
/-! PROOFS. A bundle that holds one operation decodes to it: bytes and numbers (R4), the header (R50, R51), the one present slot
(R50 to R52), and the numbered-bits form. -/

namespace Sys2Proof.Machine

/-! ### Bytes and numbers (R4) -/

theorem leNat_lt : ∀ bs : List Byte, leNat bs < 256 ^ bs.length
  | [] => Nat.one_pos
  | b :: bs => by
    have hb : b.toNat < 256 := b.isLt
    have ih : leNat bs < 256 ^ bs.length := leNat_lt bs
    rw [leNat, List.length_cons, Nat.pow_succ']
    omega

theorem leBytes_leNat (n : Nat) : ∀ bs : List Byte, leBytes (bs.length + n) (leNat bs) = bs ++ leBytes n 0
  | [] => by simp [leNat]
  | b :: bs => by
    have hb : b.toNat < 256 := b.isLt
    have hlow : BitVec.ofNat 8 (b.toNat + 256 * leNat bs) = b := BitVec.eq_of_toNat_eq (by rw [BitVec.toNat_ofNat]; omega)
    have hhigh : (b.toNat + 256 * leNat bs) / 256 = leNat bs := by omega
    rw [List.length_cons, Nat.add_right_comm, leBytes, leNat, hlow, hhigh, leBytes_leNat n bs, List.cons_append]

theorem takeWord_leBytes {n w : Nat} (h : w < 256 ^ n) (rest : List Byte) : takeWord n (leBytes n w ++ rest) = .ok (w, rest) := by
  rw [takeWord, if_neg (by simp), List.take_left' (leBytes_length n w), List.drop_left' (leBytes_length n w), leNat_leBytes,
    Nat.mod_eq_of_lt h]

/-! ### The one present slot (R50) -/

/-- The slots of a bundle with one operation. -/
def loneOp (j : Nat) (i : Instr) (is : List Nat) : List (Option SlotOp) := is.map fun k => if k = j then some (.op i) else none

theorem decodeSlots_absent {present imm : Nat} {is : List Nat} (h : ∀ k ∈ is, present.testBit k = false) (bs : List Byte) :
    decodeSlots present imm is bs = .ok (is.map fun _ => none, bs) := by
  induction is with
  | nil => rfl
  | cons k is ih =>
    rw [List.forall_mem_cons] at h
    rw [decodeSlots, if_neg (by simp [h.1]), ih h.2]
    rfl

theorem decodeSlots_lone {j w imm : Nat} {i : Instr} {is : List Nat} {bs rest : List Byte} (hj : j ∈ is) (hn : is.Nodup)
    (hw : takeWord (if j = 0 then 4 else 8) bs = .ok (w, rest)) (hd : decodeSlot j w imm = .ok (.op i)) :
    decodeSlots (2 ^ j) imm is bs = .ok (loneOp j i is, rest) := by
  induction is with
  | nil => cases hj
  | cons k is ih =>
    obtain ⟨hk, hn⟩ := List.nodup_cons.1 hn
    by_cases hkj : k = j
    · subst hkj
      have hne : ∀ l ∈ is, l ≠ k := fun l hl => ne_of_mem_of_not_mem hl hk
      have habs : ∀ l ∈ is, (2 ^ k).testBit l = false := fun l hl => by simp [(hne l hl).symm]
      have hnone : loneOp k i is = is.map fun _ => none := List.map_congr_left fun l hl => if_neg (hne l hl)
      rw [decodeSlots, if_pos (by simp), hw]
      dsimp only [bind, Except.bind]
      rw [hd, decodeSlots_absent habs, loneOp, List.map_cons, if_pos rfl, ← hnone]
      rfl
    · have hmem : j ∈ is := (List.mem_cons.1 hj).resolve_left (Ne.symm hkj)
      rw [decodeSlots, if_neg (by simp [Ne.symm hkj]), ih hmem hn]
      simp [loneOp, hkj, bind, Except.bind, pure, Except.pure]

/-! ### The header (R51) -/

/-- The kind of the bundle that holds one instruction (R52). -/
def kindOne (i : Instr) : Kind := if isLil i then .longImm else if isCwait i then .safePoint else .standard

/-- Bits 31..30 of a header. -/
def kindBits : Kind → Nat
  | .standard => 0
  | .safePoint => 2 ^ 30
  | .longImm => 2 * 2 ^ 30

theorem headerOne_eq (i : Instr) : headerOne i = 2 ^ (8 + slotOf i) + kindBits (kindOne i) := by
  unfold headerOne kindOne
  split
  · rfl
  · split <;> rfl

theorem lt_six_cases {j : Nat} (h : j < 6) : j = 0 ∨ j = 1 ∨ j = 2 ∨ j = 3 ∨ j = 4 ∨ j = 5 := by omega

/-- What decoding reads from the header of a bundle with the one slot j. -/
theorem header_fields {j : Nat} (hj : j < 6) (k : Kind) :
    let h := 2 ^ (8 + j) + kindBits k
    h < 256 ^ 4 ∧ kindOf h = .ok k ∧ bitAt h 28 = false ∧ bitsOf h 3 0 = 0 ∧ bitsOf h 13 8 = 2 ^ j ∧ bitsOf h 19 14 = 0 ∧
      bitAt h 29 = false ∧ bitsOf h 27 20 = 0 ∧ bitsOf h 7 4 = 0 := by
  rcases lt_six_cases hj with rfl | rfl | rfl | rfl | rfl | rfl <;> cases k <;> exact ⟨by decide, rfl, rfl, rfl, rfl, rfl, rfl, rfl, rfl⟩

theorem immOf_of_not_isLil {i : Instr} (h : isLil i = false) : immOf i = 0 := by
  unfold immOf
  split
  · cases h
  · rfl

theorem immOf_lt (i : Instr) : immOf i < 256 ^ kindExtra (kindOne i) := by
  cases h : isLil i
  · rw [immOf_of_not_isLil h]
    exact Nat.pow_pos (by decide)
  · rw [kindOne, if_pos h]
    unfold immOf
    split
    · exact BitVec.isLt _
    · decide

/-- The word after the header is the long immediate, the zero word of a SAFEPOINT, or nothing (R50). -/
theorem encodeOne_eq {i : Instr} {w : Nat} (h : encode i = some w) : encodeOne i =
    some (leBytes 4 (headerOne i) ++ (leBytes (kindExtra (kindOne i)) (immOf i) ++ leBytes (if slotOf i = 0 then 4 else 8) w)) := by
  have hextra : (if isLil i then leBytes 8 (immOf i) else if isCwait i then leBytes 4 0 else []) =
      leBytes (kindExtra (kindOne i)) (immOf i) := by
    cases hl : isLil i
    · rw [immOf_of_not_isLil hl, kindOne]
      cases isCwait i <;> simp [hl, kindExtra, leBytes]
    · simp [kindOne, hl, kindExtra]
  rw [encodeOne, h, Option.map_some, hextra, List.append_assoc]

/-! ### The bundle of one operation (R50 to R52) -/

/-- The bundle that holds one instruction. -/
def bundleOne (i : Instr) (n : Nat) : Bundle :=
  { kind := kindOne i, sync := false, rpt := 0, sticky := 0#6, stepSet := 0, spIndex := 0, imm64 := BitVec.ofNat 64 (immOf i),
    ops := loneOp (slotOf i) i [0, 1, 2, 3, 4, 5], len := n }

theorem slotOf_of_isLil {i : Instr} (h : isLil i = true) : slotOf i = 0 := by
  unfold isLil at h
  split at h
  · rfl
  · cases h

theorem slotOf_of_isCwait {i : Instr} (h : isCwait i = true) : slotOf i = 0 := by
  unfold isCwait at h
  split at h
  · rfl
  · cases h

theorem not_isCwait_of_isLil {i : Instr} (h : isLil i = true) : isCwait i = false := by
  unfold isLil at h
  split at h
  · rfl
  · cases h

theorem sHolds_loneOp (f : Instr → Bool) (j : Nat) (i : Instr) (is : List Nat) :
    sHolds f (loneOp j i (0 :: is)) = (decide (j = 0) && f i) := by
  rw [loneOp, List.map_cons]
  by_cases hj : j = 0
  · subst hj; rfl
  · rw [if_neg (Ne.symm hj), decide_eq_false hj]; rfl

theorem checkBundle_one (i : Instr) (n : Nat) : checkBundle (bundleOne i n) = .ok () := by
  have hlil : sHolds isLil (bundleOne i n).ops = isLil i := by
    refine (sHolds_loneOp ..).trans ?_
    cases h : isLil i <;> simp [slotOf_of_isLil, h]
  have hcwait : sHolds isCwait (bundleOne i n).ops = isCwait i := by
    refine (sHolds_loneOp ..).trans ?_
    cases h : isCwait i <;> simp [slotOf_of_isCwait, h]
  rw [checkBundle, hlil, hcwait, if_neg (by simp [bundleOne])]
  cases hl : isLil i
  · cases hc : isCwait i <;> simp [bundleOne, kindOne, hl, hc]
  · simp [bundleOne, kindOne, hl, not_isCwait_of_isLil hl]

theorem firstOp_loneOp {j : Nat} (hj : j < 6) (i : Instr) : firstOp (loneOp j i [0, 1, 2, 3, 4, 5]) = some i := by
  rcases lt_six_cases hj with rfl | rfl | rfl | rfl | rfl | rfl <;> rfl

theorem kindOne_safePoint {i : Instr} (h : kindOne i = .safePoint) : isLil i = false := by
  cases hl : isLil i
  · rfl
  · simp [kindOne, hl] at h

/-- Of a bundle that is not LONGIMM no immediate reaches the slots, and its operation carries none (R50, R52). -/
theorem immOf_kindOne (i : Instr) : (if kindOne i = .longImm then immOf i else 0) = immOf i := by
  cases hl : isLil i
  · rw [immOf_of_not_isLil hl, ite_self]
  · rw [if_pos (by simp [kindOne, hl])]

/-- The operation read back from its slot is read back from its bundle. -/
theorem decodeBundle_one {i : Instr} {w : Nat} {bs : List Byte} (he : encode i = some w) (hs : slotOf i < 6)
    (hw : w < 2 ^ (if slotOf i = 0 then 32 else 64)) (hd : decodeSlot (slotOf i) w (immOf i) = .ok (.op i))
    (hbs : encodeOne i = some bs) (rest : List Byte) : decodeBundle (bs ++ rest) = .ok (bundleOne i bs.length, rest) := by
  rw [encodeOne_eq he, Option.some_inj] at hbs
  obtain ⟨hlt, hkind, h28, h30, hpresent, hsticky, hsync, hrpt, hset⟩ := header_fields hs (kindOne i)
  rw [← headerOne_eq] at hlt hkind h28 h30 hpresent hsticky hsync hrpt hset
  have hword : w < 256 ^ (if slotOf i = 0 then 4 else 8) := by
    split at hw
    · next h => rw [if_pos h]; exact hw
    · next h => rw [if_neg h]; exact hw
  have hhead : takeWord 4 (bs ++ rest) = .ok (headerOne i, leBytes (kindExtra (kindOne i)) (immOf i) ++
      (leBytes (if slotOf i = 0 then 4 else 8) w ++ rest)) := by
    rw [← hbs, List.append_assoc, takeWord_leBytes hlt, List.append_assoc]
  have hslots := decodeSlots_lone (is := [0, 1, 2, 3, 4, 5]) (by simp; omega) (by decide) (takeWord_leBytes hword rest) hd
  have hlen : (bs ++ rest).length - rest.length = bs.length := by simp
  have hspare : ¬ (kindOne i = .safePoint ∧ bitsOf (immOf i) 15 0 ≠ 0) := fun ⟨hk, hne⟩ =>
    hne (by rw [immOf_of_not_isLil (kindOne_safePoint hk)]; rfl)
  have hindex : (if kindOne i = .safePoint then bitsOf (immOf i) 31 16 else 0) = 0 := by
    split
    · next hk => rw [immOf_of_not_isLil (kindOne_safePoint hk)]; rfl
    · rfl
  simp only [decodeBundle, hhead, hkind, h28, h30, hpresent, hsticky, hsync, hrpt, hset, takeWord_leBytes (immOf_lt i), immOf_kindOne,
    hslots, hlen, bind, Except.bind, pure, Except.pure]
  rw [if_neg (by simp), if_neg (by simp [bitAt]), if_neg (by simp), if_neg hspare, hindex]
  have hcheck := checkBundle_one i bs.length
  unfold bundleOne at hcheck ⊢
  rw [hcheck]

theorem encodeOne_length_le {i : Instr} {bs : List Byte} (h : encodeOne i = some bs) : bs.length ≤ 56 := by
  obtain ⟨w, hw, -⟩ := Option.map_eq_some_iff.1 h
  rw [encodeOne_eq hw, Option.some_inj] at h
  rw [← h, List.length_append, List.length_append, leBytes_length, leBytes_length, leBytes_length]
  have hextra : kindExtra (kindOne i) ≤ 8 := by cases kindOne i <;> decide
  split <;> omega

/-- The numbered-bits form reads the bytes themselves, with zeros after them (R50). -/
theorem decodeTableWord_leNat {bs rest : List Byte} {b : Bundle} (h : bs.length ≤ 56)
    (hd : decodeBundle (bs ++ leBytes (56 - bs.length) 0) = .ok (b, rest)) :
    decodeTableWord (8 * bs.length) (leNat bs) = firstOp b.ops := by
  have hlt : leNat bs < 2 ^ (8 * bs.length) := by
    rw [Nat.pow_mul]
    exact leNat_lt bs
  have hbytes : leBytes 56 (leNat bs) = bs ++ leBytes (56 - bs.length) 0 := by
    rw [← leBytes_leNat, Nat.add_sub_cancel' h]
  rw [decodeTableWord, Nat.mod_eq_of_lt hlt, hbytes, hd]

end Sys2Proof.Machine
end

section
/-! PROOFS. Every slot word reads back as the operation that it encodes: the fields of each format, the rows of the opcode maps, and the
forms that a selecting field chooses (R68 to R75). -/

namespace Sys2Proof.Machine

/-! ### The opcode and the fields of each format (R68 to R70) -/

theorem encSr_reads (c : Nat) (o : SrOp) : encSr c o / 2 ^ 24 = c ∧ srOf (encSr c o) = o := by
  obtain ⟨xd, xa, xb, fn⟩ := o
  have hlt : _ ∧ _ ∧ _ ∧ _ := ⟨xd.isLt, xa.isLt, xb.isLt, fn.isLt⟩
  simp only [srOf, encSr, SrOp.mk.injEq, ← BitVec.toNat_inj, BitVec.toNat_ofNat]
  and_intros <;> omega

theorem encSi_reads (c : Nat) (o : SiOp) : encSi c o / 2 ^ 24 = c ∧ siOf (encSi c o) = o := by
  obtain ⟨xd, xa, imm⟩ := o
  have hlt : _ ∧ _ ∧ _ := ⟨xd.isLt, xa.isLt, imm.isLt⟩
  simp only [siOf, encSi, SiOp.mk.injEq, ← BitVec.toNat_inj, BitVec.toNat_ofNat]
  and_intros <;> omega

theorem encSl_reads (c : Nat) (o : SlOp) : encSl c o / 2 ^ 24 = c ∧ slOf (encSl c o) = o := by
  obtain ⟨xd, imm⟩ := o
  have hlt : _ ∧ _ := ⟨xd.isLt, imm.isLt⟩
  simp only [slOf, encSl, SlOp.mk.injEq, ← BitVec.toNat_inj, BitVec.toNat_ofNat]
  and_intros <;> omega

theorem encSb_reads (c : Nat) (o : SbOp) : encSb c o / 2 ^ 24 = c ∧ sbOf (encSb c o) = o := by
  obtain ⟨xa, xb, off⟩ := o
  have hlt : _ ∧ _ ∧ _ := ⟨xa.isLt, xb.isLt, off.isLt⟩
  simp only [sbOf, encSb, SbOp.mk.injEq, ← BitVec.toNat_inj, BitVec.toNat_ofNat]
  and_intros <;> omega

theorem encSj_reads (c : Nat) (o : SjOp) : encSj c o / 2 ^ 24 = c ∧ sjOf (encSj c o) = o := by
  obtain ⟨xl, off⟩ := o
  have hlt : _ ∧ _ := ⟨xl.isLt, off.isLt⟩
  simp only [sjOf, encSj, SjOp.mk.injEq, ← BitVec.toNat_inj, BitVec.toNat_ofNat]
  and_intros <;> omega

theorem encSg_reads (c : Nat) (o : SgOp) : encSg c o / 2 ^ 24 = c ∧ sgOf (encSg c o) = o := by
  obtain ⟨xd, xb, pg, pol, fn⟩ := o
  have hlt : _ ∧ _ ∧ _ ∧ _ ∧ _ := ⟨xd.isLt, xb.isLt, pg.isLt, pol.isLt, fn.isLt⟩
  simp only [sgOf, encSg, SgOp.mk.injEq, ← BitVec.toNat_inj, BitVec.toNat_ofNat]
  and_intros <;> omega

theorem encSk_reads (c : Nat) (o : SkOp) : encSk c o / 2 ^ 24 = c ∧ skOf (encSk c o) = o := by
  obtain ⟨x, g, pol, pg, off⟩ := o
  have hlt : _ ∧ _ ∧ _ ∧ _ ∧ _ := ⟨x.isLt, g.isLt, pol.isLt, pg.isLt, off.isLt⟩
  simp only [skOf, encSk, SkOp.mk.injEq, ← BitVec.toNat_inj, BitVec.toNat_ofNat]
  and_intros <;> omega

theorem encVr_reads (c : Nat) (o : VrOp) : encVr c o / 2 ^ 54 = c ∧ vrOf o.sl (encVr c o) = o := by
  obtain ⟨sl, vd, va, vb, vc, fmt, rnd, sm, fn⟩ := o
  have hlt : _ ∧ _ ∧ _ ∧ _ ∧ _ ∧ _ ∧ _ ∧ _ := ⟨vd.isLt, va.isLt, vb.isLt, vc.isLt, fmt.isLt, rnd.isLt, sm.isLt, fn.isLt⟩
  simp only [vrOf, encVr, VrOp.mk.injEq, ← BitVec.toNat_inj, BitVec.toNat_ofNat, true_and]
  and_intros <;> omega

theorem encVg_reads (c : Nat) (o : VgOp) : encVg c o / 2 ^ 54 = c ∧ vgOf o.sl (encVg c o) = o := by
  obtain ⟨sl, vd, va, vb, pg, pol, guard, fmt, rnd, sm, fn⟩ := o
  have hlt : _ ∧ _ ∧ _ ∧ _ ∧ _ ∧ _ ∧ _ ∧ _ ∧ _ ∧ _ :=
    ⟨vd.isLt, va.isLt, vb.isLt, pg.isLt, pol.isLt, guard.isLt, fmt.isLt, rnd.isLt, sm.isLt, fn.isLt⟩
  simp only [vgOf, encVg, VgOp.mk.injEq, ← BitVec.toNat_inj, BitVec.toNat_ofNat, true_and]
  and_intros <;> omega

theorem encVm_reads (c : Nat) (o : VmOp) : encVm c o / 2 ^ 54 = c ∧ vmOf o.sl (encVm c o) = o := by
  obtain ⟨sl, v, xp, off, pg, pol, guard, fmt, cnt, fn⟩ := o
  have hlt : _ ∧ _ ∧ _ ∧ _ ∧ _ ∧ _ ∧ _ ∧ _ ∧ _ :=
    ⟨v.isLt, xp.isLt, off.isLt, pg.isLt, pol.isLt, guard.isLt, fmt.isLt, cnt.isLt, fn.isLt⟩
  simp only [vmOf, encVm, VmOp.mk.injEq, ← BitVec.toNat_inj, BitVec.toNat_ofNat, true_and]
  and_intros <;> omega

theorem encVx_reads (c : Nat) (o : VxOp) : encVx c o / 2 ^ 54 = c ∧ vxOf o.sl (encVx c o) = o := by
  obtain ⟨sl, vd, xa, va, imm⟩ := o
  have hlt : _ ∧ _ ∧ _ ∧ _ := ⟨vd.isLt, xa.isLt, va.isLt, imm.isLt⟩
  simp only [vxOf, encVx, VxOp.mk.injEq, ← BitVec.toNat_inj, BitVec.toNat_ofNat, true_and]
  and_intros <;> omega

theorem encVk_reads (c : Nat) (o : VkOp) : encVk c o / 2 ^ 54 = c ∧ vkOf o.sl (encVk c o) = o := by
  obtain ⟨sl, v, off, z, pg, pol, guard, fmt, cnt, fn⟩ := o
  have hlt : _ ∧ _ ∧ _ ∧ _ ∧ _ ∧ _ ∧ _ ∧ _ ∧ _ :=
    ⟨v.isLt, off.isLt, z.isLt, pg.isLt, pol.isLt, guard.isLt, fmt.isLt, cnt.isLt, fn.isLt⟩
  simp only [vkOf, encVk, VkOp.mk.injEq, ← BitVec.toNat_inj, BitVec.toNat_ofNat, true_and]
  and_intros <;> omega

theorem encM_reads (c : Nat) (o : MOp) : encM c o / 2 ^ 56 = c ∧ mOf (encM c o) = o := by
  obtain ⟨kd, k1, k2, k3, xa, xb, xc, mod⟩ := o
  have hlt : _ ∧ _ ∧ _ ∧ _ ∧ _ ∧ _ ∧ _ ∧ _ := ⟨kd.isLt, k1.isLt, k2.isLt, k3.isLt, xa.isLt, xb.isLt, xc.isLt, mod.isLt⟩
  simp only [mOf, encM, MOp.mk.injEq, ← BitVec.toNat_inj, BitVec.toNat_ofNat]
  and_intros <;> omega

theorem encC_reads (c : Nat) (o : COp) : encC c o / 2 ^ 56 = c ∧ cOf o.sl (encC c o) = o := by
  obtain ⟨sl, kd, k1, k2, k3, xs, xt, xn, mod⟩ := o
  have hlt : _ ∧ _ ∧ _ ∧ _ ∧ _ ∧ _ ∧ _ ∧ _ := ⟨kd.isLt, k1.isLt, k2.isLt, k3.isLt, xs.isLt, xt.isLt, xn.isLt, mod.isLt⟩
  simp only [cOf, encC, COp.mk.injEq, ← BitVec.toNat_inj, BitVec.toNat_ofNat, true_and]
  and_intros <;> omega

/-! ### One row of an opcode map (R51, R72 to R75) -/

section Slots

variable {w imm : Nat}

theorem decodeSlot_s {r : SRow} (hr : sMap.find? (fun r => r.opc == w / 2 ^ 24) = some r) :
    decodeSlot 0 w imm = accept (r.build w imm) := by rw [decodeSlot, hr]

theorem decodeSlot_m {r : MRow} (hr : mMap.find? (fun r => r.opc == w / 2 ^ 56) = some r) :
    decodeSlot 3 w imm = accept (r.build w) := by rw [decodeSlot, hr]

theorem decodeSlot_v {sl : BitVec 1} {r : PRow} (hr : vMap.find? (fun r => r.opc == w / 2 ^ 54) = some r)
    (hz : vZeroOnly (w / 2 ^ 54) = true → sl = 0) : decodeSlot (1 + sl.toNat) w imm = accept (r.build sl w) := by
  have hsl : sl = 0 ∨ sl = 1 := BitVec.eq_zero_or_eq_one sl
  rcases hsl with rfl | rfl
  · change decodeSlot 1 w imm = _
    rw [decodeSlot, hr]
  · change decodeSlot 2 w imm = _
    rw [decodeSlot, if_neg fun h => absurd (hz h) (by decide), hr]

theorem decodeSlot_c {sl : BitVec 1} {r : PRow} (hr : cMap.find? (fun r => r.opc == w / 2 ^ 56) = some r) :
    decodeSlot (4 + sl.toNat) w imm = accept (r.build sl w) := by
  have hsl : sl = 0 ∨ sl = 1 := BitVec.eq_zero_or_eq_one sl
  rcases hsl with rfl | rfl
  · change decodeSlot 4 w imm = _
    rw [decodeSlot, hr]
  · change decodeSlot 5 w imm = _
    simp only [decodeSlot, hr]

end Slots

/-- A word of the instruction has the width of its slot, and the slot reads it back. -/
def ReadsBack (i : Instr) : Prop :=
  Laws.Width.Statement i ∧ ∀ w, encode i = some w → WellFormed i = true → decodeSlot (slotOf i) w (immOf i) = .ok (.op i)

theorem readsBack_device {i : Instr} (h : encode i = none) : ReadsBack i :=
  ⟨Laws.Width.of_none h, fun _ hw => nomatch h.symm.trans hw⟩

section Rows

variable {i : Instr} {w c : Nat} (hw : Laws.Width.Statement i) (he : encode i = some w)
include hw he

theorem readsBack_of_accept (hd : WellFormed i = true → decodeSlot (slotOf i) w (immOf i) = accept (.op i)) : ReadsBack i := by
  refine ⟨hw, fun v hv hwf => ?_⟩
  obtain rfl : w = v := Option.some.inj (he.symm.trans hv)
  rw [hd hwf, accept, if_pos hwf]

theorem readsBack_s {r : SRow} (hs : slotOf i = 0) (hc : w / 2 ^ 24 = c)
    (hr : sMap.find? (fun r => r.opc == c) = some r) (hb : WellFormed i = true → r.build w (immOf i) = .op i) : ReadsBack i :=
  readsBack_of_accept hw he fun hwf => by rw [hs, decodeSlot_s (hc ▸ hr), hb hwf]

theorem readsBack_m {r : MRow} (hs : slotOf i = 3) (hc : w / 2 ^ 56 = c)
    (hr : mMap.find? (fun r => r.opc == c) = some r) (hb : WellFormed i = true → r.build w = .op i) : ReadsBack i :=
  readsBack_of_accept hw he fun hwf => by rw [hs, decodeSlot_m (hc ▸ hr), hb hwf]

theorem readsBack_v {sl : BitVec 1} {r : PRow} (hs : slotOf i = 1 + sl.toNat) (hc : w / 2 ^ 54 = c)
    (hr : vMap.find? (fun r => r.opc == c) = some r) (hz : WellFormed i = true → vZeroOnly c = true → sl = 0)
    (hb : WellFormed i = true → r.build sl w = .op i) : ReadsBack i :=
  readsBack_of_accept hw he fun hwf => by rw [hs, decodeSlot_v (hc ▸ hr) (hc ▸ hz hwf), hb hwf]

theorem readsBack_c {sl : BitVec 1} {r : PRow} (hs : slotOf i = 4 + sl.toNat) (hc : w / 2 ^ 56 = c)
    (hr : cMap.find? (fun r => r.opc == c) = some r) (hb : r.build sl w = .op i) : ReadsBack i :=
  readsBack_of_accept hw he fun _ => by rw [hs, decodeSlot_c (hc ▸ hr), hb]

end Rows

/-! ### Operations that their opcode alone chooses -/

section Plain

variable {O : Type} {enc : Nat → O → Nat} {f : O → Instr} {o : O} {c : Nat}

theorem reads_s {dec : Nat → O} (fmt : ∀ c o, enc c o / 2 ^ 24 = c ∧ dec (enc c o) = o) (hw : Laws.Width.Statement (f o))
    (he : encode (f o) = some (enc c o)) (hs : slotOf (f o) = 0)
    (hr : sMap.find? (fun r => r.opc == c) = some ⟨c, fun w _ => .op (f (dec w))⟩) : ReadsBack (f o) :=
  readsBack_s hw he hs (fmt c o).1 hr fun _ => congrArg (fun o => SlotOp.op (f o)) (fmt c o).2

theorem reads_m {dec : Nat → O} (fmt : ∀ c o, enc c o / 2 ^ 56 = c ∧ dec (enc c o) = o) (hw : Laws.Width.Statement (f o))
    (he : encode (f o) = some (enc c o)) (hs : slotOf (f o) = 3)
    (hr : mMap.find? (fun r => r.opc == c) = some ⟨c, fun w => .op (f (dec w))⟩) : ReadsBack (f o) :=
  readsBack_m hw he hs (fmt c o).1 hr fun _ => congrArg (fun o => SlotOp.op (f o)) (fmt c o).2

variable {sl : O → BitVec 1} {dec : BitVec 1 → Nat → O}

theorem reads_v (fmt : ∀ c o, enc c o / 2 ^ 54 = c ∧ dec (sl o) (enc c o) = o) (hw : Laws.Width.Statement (f o))
    (he : encode (f o) = some (enc c o)) (hs : slotOf (f o) = 1 + (sl o).toNat)
    (hr : vMap.find? (fun r => r.opc == c) = some ⟨c, fun sl w => .op (f (dec sl w))⟩)
    (hz : WellFormed (f o) = true → vZeroOnly c = true → sl o = 0) : ReadsBack (f o) :=
  readsBack_v hw he hs (fmt c o).1 hr hz fun _ => congrArg (fun o => SlotOp.op (f o)) (fmt c o).2

theorem reads_c (fmt : ∀ c o, enc c o / 2 ^ 56 = c ∧ dec (sl o) (enc c o) = o) (hw : Laws.Width.Statement (f o))
    (he : encode (f o) = some (enc c o)) (hs : slotOf (f o) = 4 + (sl o).toNat)
    (hr : cMap.find? (fun r => r.opc == c) = some ⟨c, fun sl w => .op (f (dec sl w))⟩) : ReadsBack (f o) :=
  readsBack_c hw he hs (fmt c o).1 hr (congrArg (fun o => SlotOp.op (f o)) (fmt c o).2)

end Plain

/-! ### Operations that a selecting field chooses (R72) -/

theorem left_of_and {a b : Bool} (h : (a && b) = true) : a = true := (Bool.and_eq_true_iff.mp h).1

theorem right_of_and {a b : Bool} (h : (a && b) = true) : b = true := (Bool.and_eq_true_iff.mp h).2

section Forms

variable {i : Instr} {c : Nat}

/-- The S operation that the value of fn chooses among the forms of its opcode. -/
theorem reads_sForm {r : SRow} {o : SrOp} (he : encode i = some (encSr c o)) (hs : slotOf i = 0) (hc : c < 256)
    (hr : sMap.find? (fun r => r.opc == c) = some r)
    (hb : ∀ w, w % 64 = o.fn.toNat → srOf w = o → WellFormed i = true → r.build w (immOf i) = .op i) : ReadsBack i := by
  obtain ⟨hopc, ho⟩ := encSr_reads c o
  have hfn : (srOf (encSr c o)).fn.toNat = encSr c o % 64 := BitVec.toNat_ofNat (encSr c o) 6
  rw [ho] at hfn
  exact readsBack_s (Laws.Width.of_sr he hs hc) he hs hopc hr (hb _ hfn.symm ho)

theorem reads_pick (forms : SrOp → List Instr) {o : SrOp} (he : encode i = some (encSr c o)) (hs : slotOf i = 0) (hc : c < 256)
    (hr : sMap.find? (fun r => r.opc == c) = some ⟨c, fun w _ => pick (w % 64) (forms (srOf w))⟩)
    (hf : WellFormed i = true → (forms o)[o.fn.toNat]? = some i) : ReadsBack i :=
  reads_sForm he hs hc hr fun w hw ho hwf => by simp only [hw, ho, pick, hf hwf]

section Pair

variable {f g : SrOp → Instr} {o : SrOp}
  (hr : sMap.find? (fun r => r.opc == c) = some ⟨c, fun w _ => if w % 2 = 0 then .op (f (srOf w)) else .op (g (srOf w))⟩) (hc : c < 256)
include hr hc

/-- Of two forms told apart by bit 0 of fn, the one whose fn is 0. -/
theorem reads_even (he : encode (f o) = some (encSr c o)) (hs : slotOf (f o) = 0) (hfn : WellFormed (f o) = true → o.fn = 0) :
    ReadsBack (f o) :=
  reads_sForm he hs hc hr fun w hw ho hwf => by
    have h0 : o.fn.toNat = 0 := congrArg BitVec.toNat (hfn hwf)
    simp only [ho, if_pos (by omega : w % 2 = 0)]

/-- Of two forms told apart by bit 0 of fn, the one whose fn is 1. -/
theorem reads_odd (he : encode (g o) = some (encSr c o)) (hs : slotOf (g o) = 0) (hfn : WellFormed (g o) = true → o.fn = 1) :
    ReadsBack (g o) :=
  reads_sForm he hs hc hr fun w hw ho hwf => by
    have h1 : o.fn.toNat = 1 := congrArg BitVec.toNat (hfn hwf)
    simp only [ho, if_neg (by omega : ¬ w % 2 = 0)]

end Pair

/-- The forms of TALLOC (R117). -/
def tallocForms (o : SrOp) : List Instr := [.talloc o, .tallocHandle o]

/-- The forms of QCTL (R286 to R289). -/
def qctlForms (o : SrOp) : List Instr :=
  [.qctlQuery o, .qctlSetmode o, .qctlDrain o, .qctlHalt o, .qctlResume o, .qctlAbort o, .qctlReset o]

/-- LIL takes its value from the word after the header (R111). -/
theorem reads_lil (o : SlOp) (imm : Word) : ReadsBack (.lil o imm) := by
  obtain ⟨hopc, ho⟩ := encSl_reads 0x2A o
  refine readsBack_s (Laws.Width.lil o imm) rfl rfl hopc rfl fun _ => ?_
  change SlotOp.op (.lil (slOf _) (BitVec.ofNat 64 imm.toNat)) = _
  rw [ho, BitVec.ofNat_toNat, BitVec.setWidth_eq]

theorem reads_plt (o : SrOp) : ReadsBack (.plt o) :=
  reads_sForm rfl rfl (by decide) rfl fun w hw ho hwf => by
    have hfn : o.fn = 0 := eq_of_beq hwf
    simp [hw, ho, hfn]

theorem reads_pltPeer (o : SrOp) : ReadsBack (.pltPeer o) :=
  reads_sForm rfl rfl (by decide) rfl fun w hw ho hwf => by
    have hfn : 32 ≤ o.fn.toNat := of_decide_eq_true (left_of_and hwf)
    simp only [hw, ho, if_neg (Nat.not_lt.2 hfn)]

/-- The V operation whose selecting field holds a listed value. -/
theorem reads_vFormIf {f : VrOp → Instr} {P : Nat → Prop} {hP : DecidablePred P} {o : VrOp} (he : encode (f o) = some (encVr c o))
    (hs : slotOf (f o) = 1 + o.sl.toNat) (hc : c < 1024)
    (hr : vMap.find? (fun r => r.opc == c) = some ⟨c, fun sl w => formIf (P w) (.op (f (vrOf sl w)))⟩) (hz : vZeroOnly c ≠ true)
    (hp : ∀ w, w % 256 = o.fn.toNat → w / 2 ^ 8 % 4 = o.sm.toNat → WellFormed (f o) = true → P w) : ReadsBack (f o) := by
  obtain ⟨hopc, ho⟩ := encVr_reads c o
  have hfn : (vrOf o.sl (encVr c o)).fn.toNat = encVr c o % 256 := BitVec.toNat_ofNat (encVr c o) 8
  have hsm : (vrOf o.sl (encVr c o)).sm.toNat = encVr c o / 2 ^ 8 % 4 := BitVec.toNat_ofNat (encVr c o / 2 ^ 8) 2
  rw [ho] at hfn hsm
  refine readsBack_v (Laws.Width.of_vr he hs hc) he hs hopc hr (fun _ h => absurd h hz) fun hwf => ?_
  exact (if_pos (hp _ hfn.symm hsm.symm hwf)).trans (congrArg (fun o => SlotOp.op (f o)) ho)

/-- An operation of V0 alone (R74). -/
theorem reads_vZero {f : VrOp → Instr} {o : VrOp} (he : encode (f o) = some (encVr c o)) (hs : slotOf (f o) = 1 + o.sl.toNat)
    (hc : c < 1024) (hr : vMap.find? (fun r => r.opc == c) = some ⟨c, fun sl w => .op (f (vrOf sl w))⟩)
    (hz : WellFormed (f o) = true → o.sl = 0) : ReadsBack (f o) :=
  reads_v encVr_reads (Laws.Width.of_vr he hs hc) he hs hr fun hwf _ => hz hwf

/-- VBCAST and its element form, told apart by bit 24 (R162). -/
theorem reads_vbcastForm {o : VxOp} (he : encode i = some (encVx 0x0C4 o)) (hs : slotOf i = 1 + o.sl.toNat)
    (hb : WellFormed i = true → i = if o.imm.toNat / 2 ^ 24 % 2 = 0 then .vbcast o else .vbcastElement o) : ReadsBack i := by
  obtain ⟨hopc, ho⟩ := encVx_reads 0x0C4 o
  have himm : (vxOf o.sl (encVx 0x0C4 o)).imm.toNat = encVx 0x0C4 o % 2 ^ 30 := BitVec.toNat_ofNat (encVx 0x0C4 o) 30
  rw [ho] at himm
  have hbit : encVx 0x0C4 o / 2 ^ 24 % 2 = o.imm.toNat / 2 ^ 24 % 2 := by omega
  refine readsBack_v (Laws.Width.of_vx he hs (by decide)) he hs hopc rfl nofun fun hwf => ?_
  simp only [ho, hbit]
  rw [← apply_ite SlotOp.op, ← hb hwf]

theorem bit24_of_extractLsb {x : BitVec 30} {b : BitVec 1} (h : x.extractLsb 24 24 = b) : x.toNat / 2 ^ 24 % 2 = b.toNat := by
  rw [← h, BitVec.extractLsb_toNat, Nat.shiftRight_eq_div_pow]

theorem reads_vbcast (o : VxOp) : ReadsBack (.vbcast o) :=
  reads_vbcastForm rfl rfl fun hwf => by
    have h : o.imm.extractLsb 24 24 = 0 := eq_of_beq (right_of_and hwf)
    exact (if_pos (bit24_of_extractLsb h)).symm

theorem reads_vbcastElement (o : VxOp) : ReadsBack (.vbcastElement o) :=
  reads_vbcastForm rfl rfl fun hwf => by
    have h : o.imm.extractLsb 24 24 = 1 := eq_of_beq (right_of_and hwf)
    exact (if_neg (by rw [bit24_of_extractLsb h]; decide)).symm

/-- MCLR clears one of five things (R207). -/
theorem reads_mclr (o : MOp) : ReadsBack (.mclr o) := by
  obtain ⟨hopc, ho⟩ := encM_reads 0x07 o
  have hmod : (mOf (encM 0x07 o)).mod.toNat = encM 0x07 o % 2 ^ 14 := BitVec.toNat_ofNat (encM 0x07 o) 14
  rw [ho] at hmod
  refine readsBack_m (Laws.Width.mclr o) rfl rfl hopc rfl fun hwf => ?_
  have hid : o.mod.toNat % 8 < 5 := of_decide_eq_true (right_of_and hwf)
  exact (if_pos (by omega)).trans (congrArg (fun o => SlotOp.op (.mclr o)) ho)

end Forms

/-- Every instruction that has a word is read back from its slot (R68 to R75). -/
theorem readsBack (i : Instr) : ReadsBack i := by
  cases i with
  | add o | sub o | mul o | mulh o | mulhn o | div o | divn o | rem o | remn o | and o | or o | xor o | sll o | srl o | sra o | slt o
    | sltn o | min o | max o | minn o | maxn o | clz o | ctz o | popc o | plx o | plr o | padd o | tfree o | tshape o | tqry o | ret o
    | mark o | halt o | yieldS o | cfree o | cwait o | crd o | launch o | kstat o | gopen o | gcommit o | gabort o | gstat o
    | colrdy o => exact reads_s encSr_reads (Laws.Width.of_sr rfl rfl (by decide)) rfl rfl rfl
  | addi o | andi o | ori o | xori o | slli o | srli o | srai o | slti o | widf o | crr o | crw o | crs o | crc o | fence o | trap o
    | brk o => exact reads_s encSi_reads (Laws.Width.of_si rfl rfl (by decide)) rfl rfl rfl
  | li o | lih o => exact reads_s encSl_reads (Laws.Width.of_sl rfl rfl (by decide)) rfl rfl rfl
  | beq o | bne o | blt o | bge o | bltn o | bgen o | bany o | ball o | bnone o | probe o =>
    exact reads_s encSb_reads (Laws.Width.of_sb rfl rfl (by decide)) rfl rfl rfl
  | j o | call o | loopb o => exact reads_s encSj_reads (Laws.Width.of_sj rfl rfl (by decide)) rfl rfl rfl
  | cadd o | atom o => exact reads_s encSg_reads (Laws.Width.of_sg rfl rfl (by decide)) rfl rfl rfl
  | kld o | kst o => exact reads_s encSk_reads (Laws.Width.of_sk rfl rfl (by decide)) rfl rfl rfl
  | vadd o | vsub o | vadds o | vsubs o | vmul o | vmad o | vabsd o | vmin o | vmax o | vand o | vor o | vxor o | vshl o | vshr o
    | vcmp o | vbit o | vfadd o | vfsub o | vfmul o | vfma o | vfmin o | vfmax o | vfcmp o | vfrcp o | vfrsq o | vfexp2 o | vflog2 o
    | vcvt o | vtag o | vbfpq o | vbfpd o | vplane o | vunpl o | vokey o | vpadd o | vpdot o | vpshl o | vmov o | pand o | por o
    | pxor o | pnot o | pcnt o | pfirst o | pmov o => exact reads_v encVr_reads (Laws.Width.of_vr rfl rfl (by decide)) rfl rfl rfl nofun
  | vsel o => exact reads_v encVg_reads (Laws.Width.of_vg rfl rfl (by decide)) rfl rfl rfl nofun
  | vld o | vst o | vlde o | vste o | vldm o | vstm o =>
    exact reads_v encVm_reads (Laws.Width.of_vm rfl rfl (by decide)) rfl rfl rfl nofun
  | vslide o | viota o | vextr o | vins o | vgth o | vsct o =>
    exact reads_v encVx_reads (Laws.Width.of_vx rfl rfl (by decide)) rfl rfl rfl nofun
  | vkld o | vkst o => exact reads_v encVk_reads (Laws.Width.of_vk rfl rfl (by decide)) rfl rfl rfl nofun
  | mlease o | mrel o | mmode o | mloadp o | mflow o | mskew o | mpre o | mfeed o | mfeedr o | mdrain o | mstat o | mresume o =>
    exact reads_m encM_reads (Laws.Width.of_m rfl rfl (by decide)) rfl rfl rfl
  | cpy o | cpyt o | cpys o | gth o | sct o | cpyg o | sbind o | sunb o | radv o | pfill o | pwb o | pinv o | cxadd o | cwaite o =>
    exact reads_c encC_reads (Laws.Width.of_c rfl rfl (by decide)) rfl rfl rfl
  | lil o imm => exact reads_lil o imm
  | plt o => exact reads_plt o
  | pltPeer o => exact reads_pltPeer o
  | xlook o | calloc o => exact reads_even rfl (by decide) rfl rfl fun hwf => eq_of_beq (left_of_and hwf)
  | xlookW o => exact reads_odd rfl (by decide) rfl rfl fun hwf => eq_of_beq (left_of_and hwf)
  | callocDie o => exact reads_odd rfl (by decide) rfl rfl fun hwf => eq_of_beq hwf
  | talloc o => exact reads_pick tallocForms rfl rfl (by decide) rfl fun hwf => by rw [eq_of_beq (left_of_and hwf)]; rfl
  | tallocHandle o => exact reads_pick tallocForms rfl rfl (by decide) rfl fun hwf => by rw [eq_of_beq hwf]; rfl
  | qctlQuery o | qctlSetmode o | qctlDrain o | qctlHalt o | qctlResume o | qctlAbort o | qctlReset o =>
    exact reads_pick qctlForms rfl rfl (by decide) rfl fun hwf => by rw [eq_of_beq hwf]; rfl
  | vmulh o =>
    refine reads_vFormIf rfl rfl (by decide) rfl (by decide) fun w _ hsm hwf => ?_
    have h : o.sm.toNat % 2 = 0 := eq_of_beq (right_of_and hwf)
    omega
  | pset o =>
    refine reads_vFormIf rfl rfl (by decide) rfl (by decide) fun w _ hsm hwf => ?_
    have h : o.sm.toNat < 2 := of_decide_eq_true (right_of_and hwf)
    omega
  | vfsgn o | vperm o =>
    exact reads_vFormIf rfl rfl (by decide) rfl (by decide) fun w hfn _ hwf => hfn ▸ of_decide_eq_true (right_of_and hwf)
  | vred o | vscan o =>
    refine reads_vFormIf rfl rfl (by decide) rfl (by decide) fun w hfn _ hwf => ?_
    have h : treeOp (o.fn.toNat % 128) = true := right_of_and hwf
    rwa [← (by omega : w % 128 = o.fn.toNat % 128)] at h
  | lsclr o => exact reads_vZero rfl rfl (by decide) rfl fun hwf => eq_of_beq (left_of_and (left_of_and hwf))
  | lsins o =>
    exact reads_vZero rfl rfl (by decide) rfl fun hwf => eq_of_beq (left_of_and (left_of_and (left_of_and hwf)))
  | lsrd o | vhist o => exact reads_vZero rfl rfl (by decide) rfl fun hwf => eq_of_beq (left_of_and (left_of_and hwf))
  | vbcast o => exact reads_vbcast o
  | vbcastElement o => exact reads_vbcastElement o
  | mclr o => exact reads_mclr o
  | _ => exact readsBack_device rfl

/-! ### The obligation -/

/-- Settles O57: the slot reads its word back (readsBack), and around it stand the header, the long immediate and zeros that the bundle of
one operation has (decodeBundle_one, decodeTableWord_leNat). -/
theorem decodeEncode : Obligations.DecodeEncode := by
  intro i w he hwf
  obtain ⟨hwidth, hread⟩ := readsBack i
  obtain ⟨hslot, hw⟩ := hwidth w he
  have hbs := encodeOne_eq he
  have hdec := decodeBundle_one he hslot hw (hread w he hwf) hbs
  have hfirst := firstOp_loneOp hslot i
  refine ⟨_, hbs, ?_, fun rest => ⟨_, hdec rest, hfirst, rfl, rfl, rfl, rfl, rfl, rfl⟩⟩
  exact (decodeTableWord_leNat (encodeOne_length_le hbs) (hdec _)).trans hfirst

end Sys2Proof.Machine
end

section
/-! PROOFS. Words written out from the formats decode to their instructions (R50, R51, R68 to R75). -/

namespace Sys2Proof.Machine

/-- Settles O56: the decoder reads each word; an unassigned opcode, the reserved kind 11 and a nonzero unused field of ADD give none. -/
theorem decodeWords : Obligations.DecodeWords := by
  unfold Obligations.DecodeWords
  and_intros <;> decide

end Sys2Proof.Machine
end

section
/-! PROOFS. The taking of a fault: what it leaves, the record, and where the record goes (R62, R67, R418, R462). -/

namespace Sys2Proof.Machine

/-! ### Bytes written in place (R332) -/

theorem mget_mputs_lt {α : Type} [DecidableEq α] (d : α) (vs : List α) {m : Map α} {a k : Nat} (h : k < a) :
    mget d (mputs d m a vs) k = mget d m k := by
  induction vs generalizing m a with
  | nil => rfl
  | cons v vs ih => rw [mputs, ih (by omega), mget_mset_ne _ _ _ (by omega)]

theorem mgets_mputs {α : Type} [DecidableEq α] (d : α) (vs : List α) (m : Map α) (a : Nat) : mgets d (mputs d m a vs) a vs.length = vs := by
  induction vs generalizing m a with
  | nil => rfl
  | cons v vs ih => rw [List.length_cons, mgets, mputs, mget_mputs_lt _ _ (by omega), mget_mset_same, ih]

theorem wholeBytes_cons (a : Nat) (b : Byte) (bs : List Byte) : wholeBytes a (b :: bs) = (a, b, 0xFF#8) :: wholeBytes (a + 1) bs := by
  unfold wholeBytes
  rw [List.length_cons, List.range_succ_eq_map, List.zip_cons_cons, List.map_cons, List.zip_map_right, List.map_map]
  refine congrArg _ (List.map_congr_left fun x _ => ?_)
  simp only [Function.comp, Prod.map, id, Nat.succ_eq_add_one, Prod.mk.injEq, and_true]
  omega

/-- Whole bytes merged are the bytes put in place. -/
theorem wholeBytes_mem (bs : List Byte) (s : State) (a : Nat) : ((wholeBytes a bs).foldl State.mergeByte s).mem = mputs 0 s.mem a bs := by
  induction bs generalizing s a with
  | nil => rfl
  | cons b bs ih =>
    have hmask : (s.byteAt a &&& ~~~0xFF#8) ||| (b &&& 0xFF#8) = b := by
      rw [show (0xFF#8 : Byte) = BitVec.allOnes 8 from rfl, BitVec.not_allOnes, BitVec.and_zero, BitVec.and_allOnes, BitVec.zero_or]
    rw [wholeBytes_cons, List.foldl_cons, ih, mputs, State.mergeByte, hmask]

theorem poke_mem (s : State) (a : Nat) (bs : List Byte) : (s.poke a bs).mem = mputs 0 s.mem a bs := by
  unfold State.poke
  split
  · next t ht => rw [homeWrite_mem s t _ _ _ _ ht, wholeBytes_mem]
  · rfl

/-! ### What a change of sectors leaves (R332) -/

/-- What the taking of a fault works on, beside memory: the focus, the bank in focus, the contexts and the notices. -/
def State.faultView (s : State) : Nat × Bank × Map Ctx × List Notice := (s.cur, s.bank, s.ctxs, s.notices)

variable {s t : State}

theorem faultView_iff : t.faultView = s.faultView ↔ t.cur = s.cur ∧ t.bank = s.bank ∧ t.ctxs = s.ctxs ∧ t.notices = s.notices := by
  simp [State.faultView]

theorem regrant_faultView {blk n rsv : Nat} {raw : Bool} {p : BitVec 8} (h : s.regrant blk n raw p rsv = some t) :
    t.faultView = s.faultView := by
  obtain ⟨x, -, rfl⟩ := Option.map_eq_some_iff.mp h
  rfl

theorem homeWrite_faultView {lv : Level} {rsv : List (Nat × Nat)} {ws : List AWrite} {hint : Bool}
    (h : s.homeWrite lv rsv ws hint = some t) : t.faultView = s.faultView := by
  dsimp only [State.homeWrite] at h
  split at h
  · refine (foldlM_option_keeps State.faultView (fun u b w hw => ?_) _ h).trans
      (foldl_keeps State.faultView (f := State.mergeByte) (fun _ _ => rfl) ws s)
    obtain ⟨x, hx, rfl⟩ := Option.map_eq_some_iff.mp hw
    exact (regrant_faultView (t := x) hx :)
  · cases h

theorem poke_faultView (s : State) (a : Nat) (bs : List Byte) : (s.poke a bs).faultView = s.faultView := by
  unfold State.poke
  split
  · next t ht => exact homeWrite_faultView ht
  · rfl

/-- The error that a failed read has met changes the sectors of its block alone (R349). -/
theorem metError_keeps (s : State) (f : Flt) : (s.metError f).faultView = s.faultView ∧ (s.metError f).mem = s.mem := by
  unfold State.metError
  split
  · dsimp only [State.keepError]
    split
    · exact ⟨rfl, rfl⟩
    · split
      · next t ht =>
        split at ht
        · exact ⟨regrant_faultView ht, regrant_mem _ _ _ _ _ _ _ ht⟩
        · cases ht
      · exact ⟨rfl, rfl⟩
  · exact ⟨rfl, rfl⟩

/-! ### The record (R462) -/

theorem flatMap_leBytes_length (n : Nat) (ws : List Nat) : (ws.flatMap (leBytes n)).length = ws.length * n := by
  induction ws with
  | nil => exact (Nat.zero_mul n).symm
  | cons w ws ih => rw [List.flatMap_cons, List.length_append, leBytes_length, ih, List.length_cons, Nat.succ_mul, Nat.add_comm]

theorem FaultRec.bytes_length {r : FaultRec} (h : r.progress.length = 6) : r.bytes.length = 64 := by
  simp only [FaultRec.bytes, List.length_append, leBytes_length, flatMap_leBytes_length, h]

theorem windowOf_length (b : Bank) : b.windowOf.2.length = 6 := by
  unfold Bank.windowOf
  cases b.lag <;> rfl

theorem notify_ctx (s : State) (n : Notice) (c : Nat) : (s.notify n).ctx c = s.ctx c := rfl

/-- A record in a free slot: its sequence number, its place in memory, and the notice (R418). -/
theorem ctxPut_records (s : State) (c : Nat) (r : FaultRec) (who : FaultWho) :
    let x := s.ctx c
    let r' := { r with seq := x.fseq }
    let t := s.ctxPut c r who
    t.cur = s.cur ∧ t.bank = s.bank ∧ (t.ctx c).fseq = (x.fseq + 1) % 2 ^ 32 ∧ (t.ctx c).faults = x.faults ++ [⟨r', who⟩] ∧
      t.notices = s.notices ++ [.fault (.ctx c) x.fseq] ∧
      t.mem = mputs 0 s.mem (faBase x.fa + 64 * (x.fseq % faCap x.fa)) r'.bytes := by
  dsimp only [State.ctxPut]
  generalize hx : s.ctx c = x
  have hview := poke_faultView s (faBase x.fa + 64 * (x.fseq % faCap x.fa)) ({ r with seq := x.fseq } : FaultRec).bytes
  have hmem := poke_mem s (faBase x.fa + 64 * (x.fseq % faCap x.fa)) ({ r with seq := x.fseq } : FaultRec).bytes
  generalize s.poke (faBase x.fa + 64 * (x.fseq % faCap x.fa)) ({ r with seq := x.fseq } : FaultRec).bytes = p at hview hmem ⊢
  obtain ⟨hcur, hbank, hctxs, hnotices⟩ := faultView_iff.mp hview
  have hctx : p.ctx c = x := hx ▸ congrArg (mget Ctx.reset · c) hctxs
  refine ⟨hcur, hbank, ?_, ?_, congrArg (· ++ _) hnotices, hmem⟩
  · rw [notify_ctx, State.modCtx_ctx_same, hctx]
  · rw [notify_ctx, State.modCtx_ctx_same, hctx]

theorem faTakes_iff {c : Nat} : s.faTakes c = true ↔ (s.ctx c).waitq = [] ∧ (s.ctx c).faults.length < faCap (s.ctx c).fa := by
  simp [State.faTakes]

theorem bytesAt_mputs {bs : List Byte} {m : Map Byte} {a n : Nat} (h : s.mem = mputs 0 m a bs) (hn : bs.length = n) :
    s.bytesAt a n = bs := by
  rw [State.bytesAt, h, ← hn, mgets_mputs]

/-- A record enters the fault area of its context or waits behind those that wait (R418; log 65); the bank in focus stays as it is. -/
theorem ctxFault_records (s : State) (c : Nat) {r : FaultRec} (who : FaultWho) (hr : r.progress.length = 6) :
    let t := s.ctxFault c r who
    t.cur = s.cur ∧ t.bank = s.bank ∧ ∃ n,
      if (s.ctx c).waitq = [] ∧ (s.ctx c).faults.length < faCap (s.ctx c).fa then
        n = (s.ctx c).fseq ∧ (t.ctx c).fseq = ((s.ctx c).fseq + 1) % 2 ^ 32 ∧
        (t.ctx c).faults = (s.ctx c).faults ++ [⟨{ r with seq := n }, who⟩] ∧ t.notices = s.notices ++ [.fault (.ctx c) n] ∧
        t.bytesAt (faBase (s.ctx c).fa + 64 * ((s.ctx c).fseq % faCap (s.ctx c).fa)) 64 = ({ r with seq := n } : FaultRec).bytes
      else (t.ctx c).waitq = (s.ctx c).waitq ++ [⟨{ r with seq := n }, who⟩] ∧ (t.ctx c).faults = (s.ctx c).faults ∧ t.mem = s.mem := by
  intro t
  by_cases h : (s.ctx c).waitq = [] ∧ (s.ctx c).faults.length < faCap (s.ctx c).fa
  · have ht : t = s.ctxPut c r who := if_pos (faTakes_iff.mpr h)
    obtain ⟨hcur, hbank, hseq, hfaults, hnotices, hmem⟩ := ctxPut_records s c r who
    rw [ht]
    refine ⟨hcur, hbank, (s.ctx c).fseq, ?_⟩
    rw [if_pos h]
    exact ⟨rfl, hseq, hfaults, hnotices, bytesAt_mputs hmem (FaultRec.bytes_length hr)⟩
  · have ht : t = s.modCtx c fun x => { x with waitq := x.waitq ++ [⟨r, who⟩] } := if_neg (mt faTakes_iff.mp h)
    rw [ht]
    refine ⟨rfl, rfl, r.seq, ?_⟩
    rw [if_neg h, State.modCtx_ctx_same]
    exact ⟨rfl, rfl, rfl⟩

/-! ### The fault is taken (R19, R62, R67) -/

/-- The bank in focus where a fault finds it: past the operation, where the fault's entry says so. -/
def State.faultsAt (s : State) (f : Flt) : Bank := if f.after then s.bank.pastOp else s.bank

/-- The bank that a fault stops. -/
def stoppedBy (f : Flt) (b : Bank) : Bank :=
  { b with run := .faulted, issued := .faulted, swait := .none, part := if f.after then 0 else f.done,
           fetched := if f.cause = cFETCH_FAULT then [] else b.fetched }

/-- The record of a fault, without the sequence number that its area gives. -/
def State.faultRec (s : State) (f : Flt) : FaultRec := (s.upd fun _ => s.faultsAt f).bankRec f s.bank.slot

theorem takeFault_late {f : Flt} (h : s.bank.lateFirst = true) : s.takeFault f = (s.metError f).lateFault := by
  obtain ⟨-, hbank, -, -⟩ := faultView_iff.mp (metError_keeps s f).1
  rw [State.takeFault, if_pos (by rw [hbank]; exact h)]

/-- A fault that no earlier failed read precedes: the record is made where it finds the bank, and the bank stops. -/
theorem takeFault_eq {f : Flt} (h : (s.metError f).bank.lateFirst = false) : s.takeFault f =
    ((s.metError f).upd fun _ => stoppedBy f ((s.metError f).faultsAt f)).ctxFault (s.metError f).bank.id.ctx
      ((s.metError f).faultRec f) (.bank (s.metError f).cur) := by
  rw [State.takeFault, if_neg (by simp [h])]
  unfold State.faultRec State.faultsAt stoppedBy
  cases f.after <;> rfl

theorem faultRec_congr (hc : t.cur = s.cur) (hb : t.bank = s.bank) (f : Flt) : t.faultRec f = s.faultRec f := by
  unfold State.faultRec State.faultsAt State.bankRec
  simp only [State.upd_bank, State.upd_cur, hc, hb]

/-- The fields of the record name the bundle and the window of the bank as the fault finds it. -/
theorem faultRec_window (s : State) (f : Flt) :
    ((s.faultRec f).window, (s.faultRec f).progress) = (if f.after then s.bank.pastOp else s.bank).windowOf := rfl

theorem faultRec_id (s : State) (f : Flt) : (s.faultRec f).kernel = s.bank.id.kid ∧ (s.faultRec f).work = s.bank.id.wid := by
  unfold State.faultRec State.faultsAt
  cases f.after <;> exact ⟨rfl, rfl⟩

theorem faultRec_bundle (s : State) (f : Flt) : (s.faultRec f).bundle = s.bank.bundleAt := by
  unfold State.faultRec State.faultsAt Bank.bundleAt
  cases f.after <;> cases hc : s.bank.cur <;> simp [State.bankRec, Bank.pastOp, hc]

theorem stoppedBy_faultsAt_keeps (s : State) (f : Flt) :
    let k := stoppedBy f (s.faultsAt f)
    k.regs = s.bank.regs ∧ k.ctl = s.bank.ctl ∧ k.tiles = s.bank.tiles ∧ k.sq = s.bank.sq ∧ k.pc = s.bank.pc ∧
      k.fetched = if f.cause = cFETCH_FAULT then [] else s.bank.fetched := by
  unfold State.faultsAt stoppedBy
  cases f.after <;> exact ⟨rfl, rfl, rfl, rfl, rfl, rfl⟩

/-- Settles O43: the error that a failed read has met leaves the bank, the contexts and memory (metError_keeps), the bank stops where the
fault finds it (takeFault_eq), and the record enters the area or waits (ctxFault_records). -/
theorem faultsAreTaken : Obligations.FaultsAreTaken := by
  refine ⟨fun s f h => takeFault_late h, fun s f h => ?_⟩
  dsimp only
  obtain ⟨hview, hmem⟩ := metError_keeps s f
  obtain ⟨hcur, hbank, hctxs, hnotices⟩ := faultView_iff.mp hview
  have hctx (k : Bank) : ((s.metError f).upd fun _ => k).ctx s.bank.id.ctx = s.ctx s.bank.id.ctx := congrArg (mget Ctx.reset · _) hctxs
  have hat : (s.metError f).faultsAt f = s.faultsAt f := by rw [State.faultsAt, hbank, State.faultsAt]
  obtain ⟨hregs, hctl, htiles, hsq, hpc, hfetched⟩ := stoppedBy_faultsAt_keeps s f
  rw [takeFault_eq (by rw [hbank]; exact h), faultRec_congr hcur hbank, hat, hbank, hcur]
  obtain ⟨hcur', hbank', n, hrec⟩ := ctxFault_records ((s.metError f).upd fun _ => stoppedBy f (s.faultsAt f)) s.bank.id.ctx
    (r := s.faultRec f) (.bank s.cur) (windowOf_length _)
  rw [hctx, State.upd_notices, State.upd_mem, hnotices, hmem] at hrec
  obtain ⟨hkernel, hwork⟩ := faultRec_id s f
  rw [hbank']
  refine ⟨hcur'.trans hcur, rfl, rfl, rfl, hregs, hctl, htiles, hsq, hpc, hfetched, { s.faultRec f with seq := n }, rfl, rfl, rfl, rfl, rfl,
    rfl, hkernel, rfl, hwork, faultRec_bundle s f, rfl, faultRec_window s f, ?_⟩
  split at hrec
  · next hfree =>
    obtain ⟨hn, hseq, hfaults, hnotice, hbytes⟩ := hrec
    rw [if_pos hfree]
    exact ⟨hn, hseq, hfaults, hnotice, fun _ => hbytes⟩
  · next hfull =>
    rw [if_neg hfull]
    exact hrec

end Sys2Proof.Machine
end

section
/-! PROOFS. The sequencer's steps take effect where they are enabled: fetch, dispatch, sticky issue, the switch counts, the hand-over and
the records that wait for a fault area (R19, R52, R53, R58, R67, R418). -/

namespace Sys2Proof.Machine

open Sys2Proof.Claims

/-! ### FETCH_LINE (R67, R348) -/

theorem not_decide_and {p : Prop} [Decidable p] {b : Bool} (h : ¬ p ∨ b = false) : ¬ (decide p && b) = true := by
  rcases h with h | h <;> simp [h]

section Fetch

variable {u u1 : State} {pc line : Nat} (hmiss : mget none u.bank.fetched line = none)
  (hwalk : mget 0 (u.core (coreOf u.cur)).itc (itcKey u.bank.id.ctx (line / 1024)) ≠ 0 ∨
    u.walkWaits u.bank.id.ctx (line / 1024 * 65536) = false)
include hmiss hwalk

/-- A line of a ZERO page reads as zeros. -/
theorem fetchLine_zero {w : Word} (hw : u.itcFill (line / 1024) = (.ok w, u1)) (hst : (pteOf w).st = 2) :
    u.fetchLine pc line = .line (keepsLine u1 line 0) := by
  dsimp only [State.fetchLine]
  rw [hmiss, if_neg (by simp), if_neg (not_decide_and hwalk), hw]
  exact if_pos hst

/-- A line of a page with a frame is read through the die's view. -/
theorem fetchLine_view {w : Word} {bs : List Byte} {u2 : State} (hw : u.itcFill (line / 1024) = (.ok w, u1)) (hst : (pteOf w).st ≠ 2)
    (hv : u1.viewBytes (dieOf u1.cur) u1.bank.id.ctx
      ((List.range 64).map (leafFrame (pteOf w) (line * 64) * 65536 + line * 64 % 65536 + ·)) = .ok (bs, u2)) :
    u.fetchLine pc line = .line (keepsLine u2 line (BitVec.ofNat 512 (leNat bs))) := by
  dsimp only [State.fetchLine]
  rw [hmiss, if_neg (by simp), if_neg (not_decide_and hwalk), hw]
  dsimp only
  rw [if_neg hst, hv]
  rfl

/-- A page without a translation for fetches fails with the detail that the walk gives. -/
theorem fetchLine_fails {d : Nat} (hd : u.itcFill (line / 1024) = (.error d, u1)) :
    u.fetchLine pc line = .fails u1 (fetchFault d (max pc (line * 64))) := by
  dsimp only [State.fetchLine]
  rw [hmiss, if_neg (by simp), if_neg (not_decide_and hwalk), hd]
  rfl

end Fetch

section FetchStep

variable {s u t : State} {b va : Nat} (hu : s.focus b = u) (hat : atBundle u.bank) (hwant : va / 64 = wantedLine u.bank)
include hu hat hwant

theorem execFetchLine_line (hf : u.fetchLine u.bank.at_ (va / 64) = .line t) : exec (.fetchLine b va) s = .next (t.focus s.cur) := by
  obtain ⟨hrun, hstop, hcur⟩ := hat
  rw [hwant] at hf
  unfold wantedLine at hf
  dsimp only [exec, execFetchLine, State.onBank]
  rw [hu, if_neg (by simp [hrun, hstop, hcur, hwant, wantedLine]), hf]

theorem execFetchLine_fails {f : Flt} (hlag : u.bank.lag = []) (hf : u.fetchLine u.bank.at_ (va / 64) = .fails t f) :
    exec (.fetchLine b va) s = .next ((t.takeFault f).focus s.cur) := by
  obtain ⟨hrun, hstop, hcur⟩ := hat
  rw [hwant] at hf
  unfold wantedLine at hf
  dsimp only [exec, execFetchLine, State.onBank]
  rw [hu, if_neg (by simp [hrun, hstop, hcur, hwant, wantedLine]), hf]
  exact congrArg (fun t => Host.Outcome.next (State.focus t s.cur)) (if_pos hlag)

end FetchStep

/-! ### BUNDLE_DISPATCH (R52, R58, R63) -/

section Dispatch

variable {u : State}

theorem dispatch_current {x : Bundle} {rest : List Byte} (hd : decodeBundle (nextBytes u.bank) = .ok (x, rest))
    (hs : u.bank.badSticky x = false) : ∃ f, u.dispatch =
      some (dispatched u x ((List.range 6).map fun i => mget 0 u.bank.ctl.steps (6 * x.stepSet + i)) f) := by
  unfold nextBytes at hd
  dsimp only [State.dispatch]
  rw [hd]
  exact ⟨_, if_neg (by simp [hs])⟩

theorem dispatch_none (h : (∃ e, decodeBundle (nextBytes u.bank) = .error e) ∨
    ∃ x rest, decodeBundle (nextBytes u.bank) = .ok (x, rest) ∧ u.bank.badSticky x = true) : u.dispatch = none := by
  dsimp only [State.dispatch]
  rcases h with ⟨e, he⟩ | ⟨x, rest, hd, hs⟩
  · unfold nextBytes at he
    rw [he]
  · unfold nextBytes at hd
    rw [hd]
    exact if_pos hs

variable (hcan : canDispatch u)
include hcan

theorem not_busy_of_canDispatch : ¬ (u.bank.run ≠ .ready ∨ u.bank.stop = true ∨ u.bank.cur.isSome = true ∨
    (u.core (coreOf u.cur)).active ≠ u.cur % 2 ∨ u.givesWay = true ∨
    (!((mget none u.bank.fetched (u.bank.at_ / 64)).isSome &&
      (mget none u.bank.fetched ((u.bank.at_ + headerLen (leNat (u.bank.code u.bank.at_ 4)) - 1) % 2 ^ 55 / 64)).isSome)) = true) := by
  obtain ⟨⟨hrun, hstop, hcur⟩, hact, hgives, hfirst, hlast⟩ := hcan
  rw [hrun, hstop, hcur, hact, hgives, hfirst, hlast]
  simp

variable {s : State} {b : Nat} (hu : s.focus b = u)
include hu

theorem bundleDispatch_current {x : Bundle} {rest : List Byte} (hd : decodeBundle (nextBytes u.bank) = .ok (x, rest))
    (hs : u.bank.badSticky x = false) (hb : u.bank.atBoundary x = false) : ∃ f, exec (.bundleDispatch b) s = .next (State.focus
      (dispatched u x ((List.range 6).map fun i => mget 0 u.bank.ctl.steps (6 * x.stepSet + i)) f) s.cur) := by
  obtain ⟨f, hf⟩ := dispatch_current hd hs
  refine ⟨f, ?_⟩
  dsimp only [exec, execBundleDispatch, State.onBank]
  rw [hu, if_neg (not_busy_of_canDispatch hcan), hf]
  exact congrArg (fun t => Host.Outcome.next (State.focus t s.cur)) (if_neg (by simp [newRun, hb]))

/-- A pre-emption at the safe-point boundary goes first (R63). -/
theorem bundleDispatch_atBoundary {x : Bundle} {rest : List Byte} (hd : decodeBundle (nextBytes u.bank) = .ok (x, rest))
    (hs : u.bank.badSticky x = false) (hb : u.bank.atBoundary x = true) : exec (.bundleDispatch b) s = .next (u.focus s.cur) := by
  obtain ⟨f, hf⟩ := dispatch_current hd hs
  dsimp only [exec, execBundleDispatch, State.onBank]
  rw [hu, if_neg (not_busy_of_canDispatch hcan), hf]
  exact congrArg (fun t => Host.Outcome.next (State.focus t s.cur)) (if_pos hb)

theorem bundleDispatch_illegal (hlag : u.bank.lag = []) (h : (∃ e, decodeBundle (nextBytes u.bank) = .error e) ∨
      ∃ x rest, decodeBundle (nextBytes u.bank) = .ok (x, rest) ∧ u.bank.badSticky x = true) : exec (.bundleDispatch b) s =
    .next ((u.takeFault { cause := cILLEGAL_BUNDLE, detail := 0, whole := true }).focus s.cur) := by
  dsimp only [exec, execBundleDispatch, State.onBank]
  rw [hu, if_neg (not_busy_of_canDispatch hcan), dispatch_none h]
  exact congrArg (fun t => Host.Outcome.next (State.focus t s.cur)) (if_pos hlag)

end Dispatch

/-! ### STICKY_ISSUE (R53) -/

section Sticky

variable {u : State} {slot : Nat} {r : Running} {todo : List Nat} {i : Instr}

/-- The bank with an absent slot made ready: the slot's cursor advances by its step. -/
def atStep (b : Bank) (r : Running) (slot : Nat) : Bank :=
  let c := mget Cursor.empty b.cursors slot
  { b with slot := slot, cur := some { r with ready := true },
           cursors := mset Cursor.empty b.cursors slot { c with adv := c.adv.add (stepOf (r.steps[slot]?.getD 0)) } }

theorem readySlot_absent (b : Bank) (hr : r.ready = false) (habs : r.b.ops[slot]?.getD none = none) :
    b.readySlot r slot = atStep b r slot := by
  unfold Bank.readySlot
  rw [hr, habs]
  rfl

theorem atStep_opOf_ne (b : Bank) {k : Nat} (hk : k ≠ slot) : (atStep b r slot).opOf r k = b.opOf r k := by
  unfold Bank.opOf atStep
  rw [mget_mset_ne _ _ _ hk]

theorem atStep_opOf_same (b : Bank) (habs : r.b.ops[slot]?.getD none = none) :
    (atStep b r slot).opOf r slot = (mget Cursor.empty b.cursors slot).op := by
  unfold Bank.opOf atStep
  rw [habs, mget_mset_same]

/-- What a load of the slot waits for does not depend on the slot's own cursor (R255). -/
theorem atStep_tokenHolds (b : Bank) : (atStep b r slot).tokenHolds [] r slot = b.tokenHolds [] r slot := by
  unfold Bank.tokenHolds
  refine congrArg (List.any r.todo) (funext fun k => ?_)
  by_cases hk : k = slot
  · simp [hk]
  · rw [atStep_opOf_ne b hk]
    rfl

variable (hr : r.ready = false) (habs : r.b.ops[slot]?.getD none = none) (hop : (mget Cursor.empty u.bank.cursors slot).op = some (.op i))
  (hlag : u.bank.lag = []) (htodo : r.todo = slot :: todo) (hload : isLoad i = true → u.bank.tokenHolds [] r slot = false)
include hr habs hop hlag htodo hload

/-- The last operation of a sticky slot that nothing holds is next, at its stepped cursor. -/
theorem headOp_sticky : u.headOp r = .op i (u.upd fun k => atStep k r slot) := by
  have hlag' : (atStep u.bank r slot).lag = [] := hlag
  have hop' : (atStep u.bank r slot).opOf r slot = some (.op i) := (atStep_opOf_same u.bank habs).trans hop
  have hheld : (isLoad i && (atStep u.bank r slot).tokenHolds [] r slot) = false := by
    rw [atStep_tokenHolds]
    cases hl : isLoad i
    · rfl
    · rw [hload hl]
      rfl
  simp only [State.headOp, htodo, hlag, State.upd, readySlot_absent _ hr habs, hlag', hop', hheld, Bank.heldBehind, List.any_nil,
    Bool.or_false, Bool.false_eq_true, if_false]

variable (hrun : u.bank.run = .ready) (hact : (u.core (coreOf u.cur)).active = u.cur % 2) (hcur : u.bank.cur = some r)
  (hbegun : r.begun = true) (hre : u.bank.reissue = false)
include hrun hact hcur hbegun hre

theorem ready_sticky : u.ready = .op i (u.upd fun k => atStep k r slot) := by
  have hmay : u.mayIssue = true := by simp [State.mayIssue, hrun, hact, hre]
  have hhead := headOp_sticky hr habs hop hlag htodo hload
  simp only [State.ready, hmay, hre, hcur, State.issueNext, hbegun, hhead, if_true, Bool.false_eq_true, if_false]

theorem stickyIssue_steps {s : State} {b : Nat} (hu : s.focus b = u) (hsticky : r.b.sticky.getLsbD slot = true) :
    exec (.stickyIssue b slot) s =
      .next (({ u.upd fun k => atStep k r slot with agenda := .bank b :: u.agenda } : State).focus s.cur) := by
  dsimp only [exec, execStickyIssue, State.onBank]
  rw [hu, hcur]
  dsimp only
  rw [ready_sticky hr habs hop hlag htodo hload hrun hact hcur hbegun hre]
  exact congrArg (fun t => Host.Outcome.next (State.focus t s.cur)) (if_pos ⟨rfl, by rw [habs]; rfl, hsticky⟩)

end Sticky

/-! ### The switch counts and the hand-over (R19) -/

section Switch

variable {s : State}

theorem cwaitSwitchCount_wishes {b since bound : Nat} (hw : (s.getBank b).swait = .counter since bound) (hr : (s.getBank b).run = .waiting)
    (hc : since + 256 ≤ s.cycle) : exec (.cwaitSwitchCount b) s = .next (s.modBank b fun k => { k with wish := true }) := by
  dsimp only [exec, execCwaitSwitchCount]
  rw [hw]
  exact congrArg Host.Outcome.next (if_pos ⟨hr, hc⟩)

theorem mleaseSwitchCount_begins {b : Nat} (hl : (s.getBank b).readsLease = true) (h0 : (s.getBank b).waitAge = 0) :
    exec (.mleaseSwitchCount b) s = .next (s.modBank b fun k => { k with waitAge := s.cycle + 1 }) := by
  dsimp only [exec, execMleaseSwitchCount]
  rw [if_neg (by simp [hl]), if_pos h0]

theorem mleaseSwitchCount_wishes {b : Nat} (hl : (s.getBank b).readsLease = true) (h0 : (s.getBank b).waitAge ≠ 0)
    (hc : (s.getBank b).waitAge + 255 ≤ s.cycle) :
    exec (.mleaseSwitchCount b) s = .next (s.modBank b fun k => { k with wish := true }) := by
  dsimp only [exec, execMleaseSwitchCount]
  rw [if_neg (by simp [hl]), if_neg h0, if_pos hc]

/-- The states in which a bank gives up the sequencer. -/
theorem yields_of {b : Nat} {give : Bool}
    (h : (s.getBank b).run = .ready ∧ give = true ∧ (s.getBank b).cur = none ∨
      (s.getBank b).run = .ready ∧ (s.getBank b).wish = true ∧ (s.getBank b).readsLease = true ∨
      (s.getBank b).run = .waiting ∧ (s.getBank b).wish = true ∨
      (s.getBank b).run = .faulted ∧ s.recordWaits b = false ∨
      (s.getBank b).run ∉ [.ready, .waiting, .faulted]) : s.yields b give = true := by
  unfold State.yields
  rcases h with ⟨hr, hg, hc⟩ | ⟨hr, hw, hl⟩ | ⟨hr, hw⟩ | ⟨hr, hrec⟩ | hr
  · simp [hr, hg, hc]
  · simp [hr, hw, hl]
  · simp [hr, hw]
  · simp [hr, hrec]
  · cases hrun : (s.getBank b).run <;> simp_all

theorem bankHandover_passes {core : Nat} (hother : (s.getBank (otherBank (2 * core + (s.core core).active % 2))).run = .ready)
    (hy : s.yields (2 * core + (s.core core).active % 2) (s.core core).give = true) :
    exec (.bankHandover core) s = .next (s.modCore core fun c => { c with active := 1 - c.active % 2, give := false }) :=
  congrArg Host.Outcome.next (if_pos ⟨hother, hy⟩)

end Switch

/-! ### Records that wait (R418) -/

section Records

variable {s : State} {c d : Nat}

theorem pendingRecord_waited {h : FaultHeld} {rest : List FaultHeld} (hfree : (s.ctx c).faults.length < faCap (s.ctx c).fa)
    (hq : (s.ctx c).waitq = h :: rest) : exec (.pendingEventRecordWrite (.ctx c) d) s =
      .next ((s.modCtx c fun x => { x with waitq := rest }).putWaited c h) := by
  dsimp only [exec, execPendingEventRecordWrite]
  rw [if_neg (Nat.not_le.mpr hfree), hq]

theorem pendingRecord_event {r : FaultRec} {rest : List FaultRec} (hfree : (s.ctx c).faults.length < faCap (s.ctx c).fa)
    (hq : (s.ctx c).waitq = []) (hp : mget [] (s.ctx c).pend d = r :: rest) : exec (.pendingEventRecordWrite (.ctx c) d) s =
      .next ((s.modCtx c fun x => { x with pend := mset [] x.pend d rest }).ctxPut c r .event) := by
  dsimp only [exec, execPendingEventRecordWrite]
  rw [if_neg (Nat.not_le.mpr hfree), hq, hp]

theorem pendingRecord_device {h : FaultHeld} {rest : List FaultHeld} (hfree : s.dev.faults.length < faCap s.dev.fa)
    (hq : s.dev.waitq = h :: rest) : exec (.pendingEventRecordWrite .dev d) s =
      .next (({ s with dev := { s.dev with waitq := rest } } : State).devPut h.recd h.who) := by
  dsimp only [exec, execPendingEventRecordWrite]
  rw [if_neg (Nat.not_le.mpr hfree), hq]

end Records

/-- Settles O42: each step takes the branch of its rule that the conditions name, for the bank in whose focus it runs (R19, R52, R53, R58,
R67, R418). -/
theorem sequencerStepsComplete : Obligations.SequencerStepsComplete := by
  refine ⟨fun s b va => ?_, fun s b => ?_, fun s b slot r rest i => ?_, fun s b since bound => cwaitSwitchCount_wishes,
    fun s b hl => ⟨mleaseSwitchCount_begins hl, mleaseSwitchCount_wishes hl⟩,
    fun s core hother h => bankHandover_passes hother (yields_of h),
    fun s c d hfree => ⟨fun h rest => pendingRecord_waited hfree, fun r rest => pendingRecord_event hfree⟩,
    fun s d h rest => pendingRecord_device⟩
  · intro u line hat hline hmiss hwalk
    refine ⟨fun w u1 hw => ⟨fun hst => ?_, fun bs u2 hst hv => ?_⟩, fun d u1 hlag hd => ?_⟩
    · exact execFetchLine_line rfl hat hline (fetchLine_zero hmiss hwalk hw hst)
    · exact execFetchLine_line rfl hat hline (fetchLine_view hmiss hwalk hw hst hv)
    · exact execFetchLine_fails rfl hat hline hlag (fetchLine_fails hmiss hwalk hd)
  · intro u hcan
    refine ⟨fun x rest hd hs hb => ?_, fun x rest => bundleDispatch_atBoundary hcan rfl, bundleDispatch_illegal hcan rfl⟩
    obtain ⟨f, hf⟩ := bundleDispatch_current hcan rfl hd hs hb
    exact ⟨_, _, hf, focus_cur s b, rfl, rfl, rfl, rfl, rfl, rfl, rfl, rfl, rfl, rfl, rfl, focus_mem s b⟩
  · intro u c hrun hact hcur hbegun htodo hr hre hlag hload habs hsticky hop
    exact ⟨_, stickyIssue_steps hr habs hop hlag htodo hload hrun hact hcur hbegun hre rfl hsticky, congrArg _ (focus_agenda s b), rfl,
      mget_mset_same _ _ _ _, rfl, rfl, focus_mem s b⟩

end Sys2Proof.Machine
end

section
/-! PROOFS. The two-operand integer operations of the scalar slot, each told on the integers that its operands stand for (R86, R109). -/

namespace Sys2Proof.Machine

open Sys2Proof.Claims

/-! ### Words as integers (R109) -/

section Words

variable (a b x y : Word)

theorem add_eq_ofInt : a + b = BitVec.ofInt 64 (a.toInt + b.toInt) := by rw [BitVec.ofInt_add, BitVec.ofInt_toInt, BitVec.ofInt_toInt]

theorem mul_eq_ofInt : a * b = BitVec.ofInt 64 (a.toInt * b.toInt) := by rw [BitVec.ofInt_mul, BitVec.ofInt_toInt, BitVec.ofInt_toInt]

theorem sub_eq_ofInt : a - b = BitVec.ofInt 64 (a.toInt - b.toInt) :=
  BitVec.eq_of_toInt_eq (by rw [BitVec.toInt_sub, BitVec.toInt_ofInt])

theorem shiftLeft_eq_ofNat (n : Nat) : a <<< n = BitVec.ofNat 64 (a.toNat * 2 ^ n) :=
  BitVec.eq_of_toNat_eq (by rw [BitVec.toNat_shiftLeft, Nat.shiftLeft_eq, BitVec.toNat_ofNat])

theorem ushiftRight_eq_ofNat (n : Nat) : a >>> n = BitVec.ofNat 64 (a.toNat / 2 ^ n) :=
  BitVec.eq_of_toNat_eq <| by
    rw [BitVec.toNat_ushiftRight, Nat.shiftRight_eq_div_pow, BitVec.toNat_ofNat,
      Nat.mod_eq_of_lt (Nat.lt_of_le_of_lt (Nat.div_le_self _ _) a.isLt)]

theorem sshiftRight_eq_ofInt (n : Nat) : a.sshiftRight n = BitVec.ofInt 64 (a.toInt / 2 ^ n) := by
  rw [BitVec.sshiftRight_eq, Int.shiftRight_eq_div_pow]
  rfl

/-- The bit of a comparison is 1 exactly when it holds. -/
theorem bit_decide (c : Prop) [Decidable c] : bit (decide c) = oneIf c := by
  simp only [bit, oneIf, decide_eq_true_eq]

/-- A choice by the signed order, told by its converse. -/
theorem ite_slt : (if a.slt b then x else y) = if b.toInt ≤ a.toInt then y else x := by
  simp only [BitVec.slt_iff_toInt_lt, ← Int.not_le, ite_not]

/-- The same by the unsigned order. -/
theorem ite_ult : (if a.ult b then x else y) = if b.toNat ≤ a.toNat then y else x := by
  simp only [BitVec.ult_iff_toNat_lt, ← Nat.not_le, ite_not]

/-! ### Division (R86) -/

/-- A nonzero divisor gives the number placed in a word, a zero divisor the value that R86 names: the divisor is zero as a word exactly
when the integer it stands for is. -/
theorem ite_eq_divided {zero r : Word} {d v : Int} (hd : b = 0 ↔ d = 0) (hr : r = BitVec.ofInt 64 v) :
    (if b = 0 then zero else r) = divided zero d v := by
  rw [hr]
  exact ite_congr (propext hd) (fun _ => rfl) (fun _ => rfl)

theorem eq_zero_iff_toInt : b = 0 ↔ b.toInt = 0 := by rw [← BitVec.toInt_inj]; rfl

theorem eq_zero_iff_toNat : b = 0 ↔ (b.toNat : Int) = 0 := by rw [← BitVec.toNat_inj, Int.natCast_eq_zero]; rfl

/-- The quotient wraps, so the least number by -1 is the least number. -/
theorem quot_eq_divided : quot a b = divided (BitVec.allOnes 64) b.toInt (a.toInt.tdiv b.toInt) :=
  ite_eq_divided b (eq_zero_iff_toInt b) (BitVec.eq_of_toInt_eq (by rw [BitVec.toInt_sdiv, BitVec.toInt_ofInt]))

theorem rema_eq_divided : rema a b = divided a b.toInt (a.toInt.tmod b.toInt) :=
  ite_eq_divided b (eq_zero_iff_toInt b) (by rw [← BitVec.toInt_srem, BitVec.ofInt_toInt])

theorem udiv_eq_divided :
    (if b = 0 then BitVec.allOnes 64 else a.udiv b) = divided (BitVec.allOnes 64) b.toNat (a.toNat / b.toNat : Nat) :=
  ite_eq_divided b (eq_zero_iff_toNat b) BitVec.udiv_def

theorem umod_eq_divided : (if b = 0 then a else a.umod b) = divided a b.toNat (a.toNat % b.toNat : Nat) :=
  ite_eq_divided b (eq_zero_iff_toNat b) BitVec.umod_def

end Words

/-! ### The operations -/

/-- An operation of two readable registers writes what it computes. -/
theorem bin_done {s : State} {o : SrOp} (f : Word → Word → Word) (h : Readable s [o.xa, o.xb] o.xd) :
    bin s o f = .next (done (s.setX o.xd (f (s.rx o.xa) (s.rx o.xb)))) :=
  scalar_ok h.1 h.2

/-- Each operation of ADD to MAXN is a function of its two registers, with the value of the table of R109. -/
theorem exec_eq_bin_value {i : Instr} {s : State} {o : SrOp} {a b v : Word} (h : srResult i a b = some (o, v)) :
    ∃ f, exec i s = bin s o f ∧ f a b = v := by
  cases i with
  | add => cases h; dsimp only [exec]; exact ⟨_, rfl, add_eq_ofInt a b⟩
  | sub => cases h; dsimp only [exec]; exact ⟨_, rfl, sub_eq_ofInt a b⟩
  | mul => cases h; dsimp only [exec]; exact ⟨_, rfl, mul_eq_ofInt a b⟩
  | div => cases h; dsimp only [exec]; exact ⟨_, rfl, quot_eq_divided a b⟩
  | divn => cases h; dsimp only [exec]; exact ⟨_, rfl, udiv_eq_divided a b⟩
  | rem => cases h; dsimp only [exec]; exact ⟨_, rfl, rema_eq_divided a b⟩
  | remn => cases h; dsimp only [exec]; exact ⟨_, rfl, umod_eq_divided a b⟩
  | sll => cases h; dsimp only [exec]; exact ⟨_, rfl, shiftLeft_eq_ofNat a _⟩
  | srl => cases h; dsimp only [exec]; exact ⟨_, rfl, ushiftRight_eq_ofNat a _⟩
  | sra => cases h; dsimp only [exec]; exact ⟨_, rfl, sshiftRight_eq_ofInt a _⟩
  | slt => cases h; dsimp only [exec]; exact ⟨_, rfl, bit_decide (a.toInt < b.toInt)⟩
  | sltn => cases h; dsimp only [exec]; exact ⟨_, rfl, bit_decide (a.toNat < b.toNat)⟩
  | min => cases h; dsimp only [exec]; exact ⟨_, rfl, ite_slt b a b a⟩
  | max => cases h; dsimp only [exec]; exact ⟨_, rfl, ite_slt a b b a⟩
  | minn => cases h; dsimp only [exec]; exact ⟨_, rfl, ite_ult b a b a⟩
  | maxn => cases h; dsimp only [exec]; exact ⟨_, rfl, ite_ult a b b a⟩
  | mulh | mulhn | and | or | xor => cases h; dsimp only [exec]; exact ⟨_, rfl, rfl⟩
  | _ => cases h

/-- Settles O1: each operation writes a function of its two registers, which the lemmas above tell on integers (R86, R109). -/
theorem integerOperationsComplete : Obligations.IntegerOperationsComplete := by
  intro i s o v hv hr
  obtain ⟨f, hf, hfv⟩ := exec_eq_bin_value (s := s) hv
  rw [hf, bin_done f hr, hfv]

end Sys2Proof.Machine
end

section
/-! PROOFS. The placing of an exact integer: by wrapping, or by clamping with SAT (R85). -/

namespace Sys2Proof.Machine

/-! ### Placing by mode -/

section Placing

variable {x : Int} {k : IKind}

theorem placeInt_wraps (x : Int) (k : IKind) : placeInt x k false = (wrapBits x k.width, 0) := rfl

/-- The smallest value that clamping leaves is not above the largest. -/
theorem iMin_le_iMax (k : IKind) : iMin k ≤ iMax k := by
  have hn : (0 : Int) < 2 ^ (k.width - 1) := Int.pow_pos (by decide)
  have hw : (0 : Int) < 2 ^ k.width := Int.pow_pos (by decide)
  unfold iMin iMax
  split
  · split <;> omega
  · omega

/-- In saturating mode the clamped value is placed, with SAT when the clamp changed it. -/
theorem placeInt_of_satI {y : Int} {c : Bool} (h : satI x k = (y, c)) :
    placeInt x k true = (wrapBits y k.width, if c then fSAT else 0) := by
  unfold placeInt
  rw [if_pos rfl, h]

theorem placeInt_inside (hlo : iMin k ≤ x) (hhi : x ≤ iMax k) : placeInt x k true = (wrapBits x k.width, 0) :=
  placeInt_of_satI ((if_neg (Int.not_lt.mpr hlo)).trans (if_neg (Int.not_lt.mpr hhi)))

theorem placeInt_below (h : x < iMin k) : placeInt x k true = (wrapBits (iMin k) k.width, fSAT) :=
  placeInt_of_satI (if_pos h)

theorem placeInt_above (h : iMax k < x) : placeInt x k true = (wrapBits (iMax k) k.width, fSAT) :=
  have hlo : ¬ x < iMin k := Int.not_lt.mpr (Int.le_trans (iMin_le_iMax k) (Int.le_of_lt h))
  placeInt_of_satI ((if_neg hlo).trans (if_pos h))

end Placing

/-! ### Reading back what was placed (R9) -/

theorem two_pow_cast (w : Nat) : ((2 ^ w : Nat) : Int) = 2 ^ w := Int.natCast_pow 2 w

/-- The two's-complement reading is the balanced remainder. -/
theorem toSigned_eq_bmod (n w : Nat) : toSigned n w = (n : Int).bmod (2 ^ w) := by
  unfold toSigned
  rw [Int.bmod_def, ← Int.natCast_emod, ← two_pow_cast]
  exact ite_congr (propext (by omega)) (fun _ => rfl) (fun _ => rfl)

theorem wrapBits_cast (x : Int) (w : Nat) : (wrapBits x w : Int) = x % 2 ^ w :=
  Int.toNat_of_nonneg (Int.emod_nonneg _ (Int.ne_of_gt (Int.pow_pos (by decide))))

/-- The range of w bits is twice that of w - 1. -/
theorem two_pow_eq_double {w : Nat} (hw : 1 ≤ w) : (2 : Int) ^ w = 2 ^ (w - 1) * 2 := by
  obtain ⟨n, rfl⟩ : ∃ n, w = n + 1 := ⟨w - 1, by omega⟩
  exact Int.pow_succ 2 n

/-- A number inside the signed range reads back from its bits. -/
theorem toSigned_wrapBits {x : Int} {w : Nat} (hw : 1 ≤ w) (hlo : -2 ^ (w - 1) ≤ x) (hhi : x ≤ 2 ^ (w - 1) - 1) :
    toSigned (wrapBits x w) w = x := by
  have hd := two_pow_eq_double hw
  rw [toSigned_eq_bmod, wrapBits_cast, ← two_pow_cast, Int.emod_bmod]
  refine Int.bmod_eq_of_le_mul_two ?_ ?_ <;> rw [two_pow_cast] <;> omega

/-- A number inside the unsigned range is its bits. -/
theorem wrapBits_unsigned {x : Int} {w : Nat} (hlo : 0 ≤ x) (hhi : x ≤ 2 ^ w - 1) : (wrapBits x w : Int) = x := by
  rw [wrapBits_cast, Int.emod_eq_of_lt hlo (by omega)]

theorem placeExact_of_readsBack {k : IKind} {x : Int}
    (h : (if k.signed then toSigned (wrapBits x k.width) k.width else (wrapBits x k.width : Int)) = x) :
    placeExact k x = (wrapBits x k.width, 0) := if_pos h

/-- Settles O18: below, inside and above the range of a kind are the three cases of sat, and inside it the bits read back (R9, R85). -/
theorem integersArePlaced : Obligations.IntegersArePlaced := by
  intro w signed x hw lo hi k
  have hlo : iMin k = lo := by cases signed <;> rfl
  have hhi : iMax k = hi := rfl
  refine ⟨placeInt_wraps x k, ?_, ?_, ?_, fun h1 h2 => placeExact_of_readsBack ?_⟩
  · exact fun h1 h2 => placeInt_inside (Int.le_trans (Int.le_of_eq hlo) h1) h2
  · intro h
    rw [placeInt_below (hlo ▸ h), hlo]; rfl
  · intro h
    rw [placeInt_above (hhi ▸ h), hhi]; rfl
  · cases signed with
    | true => exact toSigned_wrapBits hw h1 h2
    | false => exact wrapBits_unsigned h1 h2

end Sys2Proof.Machine
end

section
/-! PROOFS. The answers of a scalar operation whose registers are readable; immediates, constants and bit counts (R22, R107 to R111). -/

namespace Sys2Proof.Machine

open Sys2Proof.Claims

/-! ### What follows readable operands (R22, R107) -/

section Readable

variable {s : State} {srcs : List XReg} {dst : XReg} (h : Readable s srcs dst)
include h

theorem operands_of_readable : s.operands srcs dst = .ok () := operands_ok h.1 h.2

/-- With its registers readable a meaning is what it does next. -/
theorem run_operands (f : Unit → M State) : run s (s.operands srcs dst >>= f) = run s (f ()) := by
  rw [operands_of_readable h]; rfl

theorem scalar_done (v : Word) : scalar s srcs dst (.ok v) = .next (done (s.setX dst v)) := scalar_ok h.1 h.2

/-- A scalar operation whose value cannot be made takes the fault that says so. -/
theorem scalar_raiseAt (c d : Nat) (p : Word) :
    scalar s srcs dst (raiseAt c d p) = .next (s.takeFault { cause := c, detail := d, place := p }) := run_operands h _

theorem scalar_illegal : scalar s srcs dst illegal = .next (illegalTaken s) := run_operands h _

end Readable

/-- A value given is passed on. -/
theorem ok_bind {α β : Type} (a : α) (f : α → M β) : ((.ok a : M α) >>= f) = f a := rfl

/-- A condition that holds is passed. -/
theorem legal_bind {α : Type} {c : Bool} (h : c = true) (f : Unit → M α) : (legal c >>= f) = f () := by rw [h]; rfl

/-- One that does not hold is ILLEGAL_OPERAND. -/
theorem illegal_bind {α : Type} {c : Bool} (h : c = false) (f : Unit → M α) : (legal c >>= f) = illegal := by rw [h]; rfl

/-! ### Immediates (R110) -/

/-- An operation of a readable register and an immediate writes what it computes. -/
theorem imm_done {s : State} {o : SiOp} (f : Word → Word → Word) (h : Readable s [o.xa] o.xd) :
    imm s o f = .next (done (s.setX o.xd (f (s.rx o.xa) (sext12 o.imm)))) := scalar_done h _

theorem sext12_toInt (i : BitVec 12) : (sext12 i).toInt = i.toInt := BitVec.toInt_signExtend_of_le (by decide)

theorem immShift_done {s : State} {o : SiOp} (f : Word → Nat → Word) (h : Readable s [o.xa] o.xd) (hn : o.imm.toNat < 64) :
    immShift s o f = .next (done (s.setX o.xd (f (s.rx o.xa) o.imm.toNat))) := by
  unfold immShift
  rw [legal_bind (decide_eq_true hn)]
  exact scalar_done h _

theorem immShift_illegal {s : State} {o : SiOp} (f : Word → Nat → Word) (h : Readable s [o.xa] o.xd) (hn : 64 ≤ o.imm.toNat) :
    immShift s o f = .next (illegalTaken s) := by
  unfold immShift
  rw [illegal_bind (decide_eq_false (Nat.not_lt.mpr hn))]
  exact scalar_illegal h

/-- Each shift by an immediate is one of immShift. -/
theorem exec_eq_immShift {i : Instr} {s : State} {o : SiOp} (h : immShiftOp i = some o) : ∃ f, exec i s = immShift s o f := by
  cases i with
  | slli | srli | srai => cases h; dsimp only [exec]; exact ⟨_, rfl⟩
  | _ => cases h

/-- Each operation of R110 that has a result writes it. -/
theorem siResult_done {i : Instr} {s : State} {o : SiOp} {v : Word} (hv : siResult i (s.rx o.xa) = some (o, v))
    (h : Readable s [o.xa] o.xd) : exec i s = .next (done (s.setX o.xd v)) := by
  cases i with
  | addi => cases hv; dsimp only [exec, execAddi]; rw [imm_done _ h, add_eq_ofInt, sext12_toInt]
  | andi => cases hv; exact imm_done (· &&& ·) h
  | ori => cases hv; exact imm_done (· ||| ·) h
  | xori => cases hv; exact imm_done (· ^^^ ·) h
  | slti => cases hv; dsimp only [exec, execSlti]; rw [imm_done _ h, BitVec.slt, sext12_toInt, bit_decide]
  | slli =>
    obtain ⟨hn, hv⟩ := Option.ite_none_right_eq_some.mp hv
    cases hv; dsimp only [exec, execSlli]; rw [immShift_done _ h hn, shiftLeft_eq_ofNat]
  | srli =>
    obtain ⟨hn, hv⟩ := Option.ite_none_right_eq_some.mp hv
    cases hv; dsimp only [exec, execSrli]; rw [immShift_done _ h hn, ushiftRight_eq_ofNat]
  | srai =>
    obtain ⟨hn, hv⟩ := Option.ite_none_right_eq_some.mp hv
    cases hv; dsimp only [exec, execSrai]; rw [immShift_done _ h hn, sshiftRight_eq_ofInt]
  | _ => cases hv

/-! ### Constants (R111) -/

/-- The word that LIH makes of its immediate and the low 18 bits of a register. -/
theorem lih_word (i : BitVec 18) (x : Word) : (i.signExtend 64 <<< 18) + (x.extractLsb' 0 18).zeroExtend 64 =
    BitVec.ofInt 64 (i.toInt * 2 ^ 18 + x.toNat % 2 ^ 18) := by
  have hlow : (x.extractLsb' 0 18).zeroExtend 64 = BitVec.ofInt 64 (x.toNat % 2 ^ 18) :=
    BitVec.eq_of_toNat_eq (by simp; omega)
  rw [hlow, BitVec.ofInt_add, BitVec.shiftLeft_eq_mul_twoPow, BitVec.ofInt_mul]
  rfl

/-- Settles O2: a readable operand lets the value through, which the lemmas above tell on integers (R110, R111). -/
theorem immediateOperationsComplete : Obligations.ImmediateOperationsComplete := by
  refine ⟨fun i s o v => siResult_done, fun i s o hi hn h => ?_, fun s o h => ⟨scalar_done h _, fun v => scalar_done h v⟩,
    fun s o h => ?_, fun s o hp => ?_⟩
  · obtain ⟨f, hf⟩ := exec_eq_immShift (s := s) hi
    exact hf.trans (immShift_illegal f h hn)
  · rw [← lih_word]
    exact scalar_done h _
  · dsimp only [exec, execLih, scalar]
    rw [operands_stall (.inl ⟨o.xd, List.mem_singleton_self _, hp⟩)]
    rfl

/-! ### Bit counts (R109) -/

theorem un_done {s : State} {o : SrOp} (f : Word → Word) (h : Readable s [o.xa] o.xd) :
    un s o f = .next (done (s.setX o.xd (f (s.rx o.xa)))) := scalar_done h _

/-- The bits that clzGo counts from bit n - 1 down are clear, and the one where it stops is set. -/
theorem clzGo_spec (a : Word) (n : Nat) : clzGo a n ≤ n ∧ (∀ k, k < clzGo a n → a.getLsbD (n - 1 - k) = false) ∧
    (clzGo a n < n → a.getLsbD (n - 1 - clzGo a n) = true) := by
  induction n with
  | zero => simp [clzGo]
  | succ n ih =>
    unfold clzGo
    split
    · next hset => exact ⟨Nat.zero_le _, fun k hk => absurd hk (Nat.not_lt_zero k), fun _ => hset⟩
    · next hclear =>
      obtain ⟨hle, hzero, hone⟩ := ih
      refine ⟨by omega, fun k hk => ?_, fun hlt => ?_⟩
      · cases k with
        | zero => exact Bool.eq_false_iff.mpr hclear
        | succ k => rw [show n + 1 - 1 - (k + 1) = n - 1 - k by omega]; exact hzero k (by omega)
      · rw [show n + 1 - 1 - (1 + clzGo a n) = n - 1 - clzGo a n by omega]
        exact hone (by omega)

/-- The bits that ctzGo counts from bit i up are clear, and the one where it stops is set. -/
theorem ctzGo_spec (a : Word) (n i : Nat) : ctzGo a i n ≤ n ∧ (∀ k, k < ctzGo a i n → a.getLsbD (i + k) = false) ∧
    (ctzGo a i n < n → a.getLsbD (i + ctzGo a i n) = true) := by
  induction n generalizing i with
  | zero => simp [ctzGo]
  | succ n ih =>
    unfold ctzGo
    split
    · next hset => exact ⟨Nat.zero_le _, fun k hk => absurd hk (Nat.not_lt_zero k), fun _ => hset⟩
    · next hclear =>
      obtain ⟨hle, hzero, hone⟩ := ih (i + 1)
      refine ⟨by omega, fun k hk => ?_, fun hlt => ?_⟩
      · cases k with
        | zero => exact Bool.eq_false_iff.mpr hclear
        | succ k => rw [show i + (k + 1) = i + 1 + k by omega]; exact hzero k (by omega)
      · rw [show i + (1 + ctzGo a (i + 1) n) = i + 1 + ctzGo a (i + 1) n by omega]
        exact hone (by omega)

theorem popGo_eq_countP (a : Word) (n : Nat) : popGo a n = (List.range n).countP fun k => a.getLsbD k := by
  induction n with
  | zero => rfl
  | succ n ih => rw [popGo, ih, List.range_succ, List.countP_append, List.countP_singleton]

/-- Settles O3: each count is a recursion over the bits, which the lemmas above read bit by bit (R109). -/
theorem bitCountsComplete : Obligations.BitCountsComplete := by
  intro s o h
  have hctz := ctzGo_spec (s.rx o.xa) 64 0
  simp only [Nat.zero_add] at hctz
  dsimp only [exec, execClz, execCtz, execPopc]
  refine ⟨⟨_, un_done _ h, clzGo_spec (s.rx o.xa) 64⟩, ⟨_, un_done _ h, hctz⟩, ?_⟩
  rw [un_done _ h, popGo_eq_countP]

end Sys2Proof.Machine
end

section
/-! PROOFS. Place words built, moved and looked up, and the fields of a work ID (R42, R112 to R116, R287). -/

namespace Sys2Proof.Machine

open Sys2Proof.Claims

/-! ### Place builders (R112 to R114) -/

section Builders

variable {s : State} {o : SrOp}

theorem pltArgs_fits {a b : Word} (h : a.toNat < 2 ^ 8 ∧ b.toNat < 2 ^ 32) :
    pltArgs a b = .ok (a.toNat, b.toNat / 2 ^ 16, b.toNat % 2 ^ 16) :=
  legal_bind (by simpa only [Bool.and_eq_true, decide_eq_true_eq] using h) _

theorem pltArgs_beyond {a b : Word} (h : ¬ (a.toNat < 2 ^ 8 ∧ b.toNat < 2 ^ 32)) : pltArgs a b = illegal :=
  illegal_bind (by simpa only [← Bool.not_eq_true, Bool.and_eq_true, decide_eq_true_eq] using h) _

/-- A scalar operation whose value is made of a condition and a word. -/
theorem scalar_legal_done {srcs : List XReg} {dst : XReg} {c : Bool} {v : Word} (h : Readable s srcs dst) (hc : c = true) :
    scalar s srcs dst (legal c >>= fun _ => pure v) = .next (done (s.setX dst v)) := by
  rw [legal_bind hc]
  exact scalar_done h v

theorem scalar_legal_illegal {srcs : List XReg} {dst : XReg} {c : Bool} {f : Unit → M Word} (h : Readable s srcs dst) (hc : c = false) :
    scalar s srcs dst (legal c >>= f) = .next (illegalTaken s) := by
  rw [illegal_bind hc]
  exact scalar_illegal h

variable (h : Readable s [o.xa, o.xb] o.xd)
include h

theorem plt_done (hf : (s.rx o.xa).toNat < 2 ^ 8 ∧ (s.rx o.xb).toNat < 2 ^ 32) : exec (.plt o) s = .next (done (s.setX o.xd
    (Place.own (s.rx o.xa).toNat ((s.rx o.xb).toNat / 2 ^ 16) ((s.rx o.xb).toNat % 2 ^ 16)).word)) := by
  dsimp only [exec, execPlt]
  rw [pltArgs_fits hf]
  exact scalar_done h _

theorem pltPeer_done (hf : (s.rx o.xa).toNat < 2 ^ 8 ∧ (s.rx o.xb).toNat < 2 ^ 32) : exec (.pltPeer o) s = .next (done (s.setX o.xd
    (Place.peer (o.fn.toNat % 16) (s.rx o.xa).toNat ((s.rx o.xb).toNat / 2 ^ 16) ((s.rx o.xb).toNat % 2 ^ 16)).word)) := by
  dsimp only [exec, execPltPeer]
  rw [pltArgs_fits hf]
  exact scalar_done h _

theorem plt_illegal (hf : ¬ ((s.rx o.xa).toNat < 2 ^ 8 ∧ (s.rx o.xb).toNat < 2 ^ 32)) :
    exec (.plt o) s = .next (illegalTaken s) ∧ exec (.pltPeer o) s = .next (illegalTaken s) := by
  dsimp only [exec, execPlt, execPltPeer]
  rw [pltArgs_beyond hf]
  exact ⟨scalar_illegal h, scalar_illegal h⟩

end Builders

/-- Settles O6: each builder checks its fields and writes the word of its place (R112, R113, R114). -/
theorem placeBuildersComplete : Obligations.PlaceBuildersComplete := by
  intro s o h
  dsimp only
  refine ⟨fun hf => ?_, fun hf => ?_, plt_done h, plt_illegal h, fun hf hlo hhi => ?_, fun hf => ?_, fun hf => ?_⟩
  · exact scalar_legal_done h (decide_eq_true hf)
  · exact scalar_legal_illegal h (decide_eq_false (Nat.not_lt.mpr hf))
  · rw [pltPeer_done h hf, show o.fn.toNat % 16 = o.fn.toNat - 32 by omega, Place.word]
  · exact scalar_legal_done h (by simpa only [Bool.and_eq_true, decide_eq_true_eq] using hf)
  · exact scalar_legal_illegal h (by simpa only [← Bool.not_eq_true, Bool.and_eq_true, decide_eq_true_eq] using hf)

/-! ### PADD (R115) -/

/-- A place kept when a check passes is a word given when the condition of the check holds. -/
theorem map_word_ite {c : Bool} {P : Prop} [Decidable P] {p : Place} {w : Word} (hc : c = true ↔ P) (hw : P → p.word = w) :
    (if c then some p else none).map Place.word = if P then some w else none := by
  by_cases hP : P
  · rw [if_pos (hc.mpr hP), if_pos hP, Option.map_some, hw hP]
  · rw [if_neg (mt hc.mp hP), if_neg hP, Option.map_none]

theorem ofNat_eq_ofInt {n : Nat} {x : Int} (h : (n : Int) = x) : BitVec.ofNat 64 n = BitVec.ofInt 64 x := by
  rw [← h, BitVec.ofInt_natCast]

section Moved

variable {a b : Word}

/-- An offset below bit 57 moves, the number of the extent stays. -/
theorem padd_ext (h : a.toNat / 2 ^ 61 = 0) : ((placeOf a).bind fun p => padd p b).map Place.word = movedPlace a b := by
  simp only [placeOf, movedPlace, h, Option.bind_some, padd, bitsOf_eq_div, if_true, Nat.pow_zero, Nat.div_one]
  refine map_word_ite decide_eq_true_iff fun hr => ofNat_eq_ofInt ?_
  omega

/-- An offset below bit 44 moves, node and window stay. -/
theorem padd_remote (h : a.toNat / 2 ^ 61 = 2) : ((placeOf a).bind fun p => padd p b).map Place.word = movedPlace a b := by
  simp only [placeOf, movedPlace, h, Option.bind_some, padd, bitsOf_eq_div, if_true, Nat.pow_zero, Nat.div_one]
  refine map_word_ite decide_eq_true_iff fun hr => ofNat_eq_ofInt ?_
  omega

/-- A row and column moved by the halves of a displacement, when both stay in their ranges: the word that keeps the bits above the row. -/
def movedTile (a b : Word) : Option Word :=
  let n := a.toNat
  let row : Int := (n / 2 ^ 32 % 2 ^ 16 : Nat) + (b.extractLsb' 32 32).toInt
  let col : Int := (n / 2 ^ 16 % 2 ^ 16 : Nat) + (b.extractLsb' 0 32).toInt
  if 0 ≤ row ∧ row < 2 ^ 16 ∧ 0 ≤ col ∧ col < 2 ^ 16 then
    some (BitVec.ofInt 64 ((n / 2 ^ 48 * 2 ^ 48 : Nat) + row * 2 ^ 32 + col * 2 ^ 16)) else none

/-- A choice by two conditions, taken one after the other. -/
theorem ite_and_eq_ite_ite {α : Type} {p q : Prop} [Decidable p] [Decidable q] (x y : α) :
    (if p ∧ q then x else y) = if p then (if q then x else y) else y := by
  by_cases hp : p
  · rw [if_pos hp]
    exact ite_congr (propext (and_iff_right hp)) (fun _ => rfl) (fun _ => rfl)
  · rw [if_neg hp, if_neg fun h => hp h.1]

theorem movedPlace_tile (h : a.toNat / 2 ^ 61 = 1 ∧ a.toNat / 2 ^ 48 % 2 ^ 5 = 0 ∨ a.toNat / 2 ^ 61 = 3 ∧ a.toNat / 2 ^ 48 % 2 = 0) :
    movedPlace a b = if a.toNat % 2 ^ 16 = 0 then movedTile a b else none := by
  dsimp only [movedPlace, movedTile]
  rw [if_neg (by omega), if_neg (by omega)]
  rcases h with hown | hpeer
  · rw [if_pos hown, ite_and_eq_ite_ite]
  · rw [if_neg (by omega), if_pos hpeer, ite_and_eq_ite_ite]

/-- Only spaces 0 to 3 move, and the tile spaces only with zeros in the fields that R42 marks zero. -/
theorem movedPlace_none (h0 : a.toNat / 2 ^ 61 ≠ 0) (h2 : a.toNat / 2 ^ 61 ≠ 2)
    (h1 : ¬ (a.toNat / 2 ^ 61 = 1 ∧ a.toNat / 2 ^ 48 % 2 ^ 5 = 0)) (h3 : ¬ (a.toNat / 2 ^ 61 = 3 ∧ a.toNat / 2 ^ 48 % 2 = 0)) :
    movedPlace a b = none := by
  dsimp only [movedPlace]
  rw [if_neg h0, if_neg h2, if_neg h1, if_neg h3]

/-- A tile's place made again with its row and column moved is the word moved. -/
theorem map_word_tile {p : Nat → Nat → Place}
    (hp : ∀ r c : Nat, (p r c).word = BitVec.ofNat 64 (a.toNat / 2 ^ 48 * 2 ^ 48 + r * 2 ^ 32 + c * 2 ^ 16)) :
    let row : Int := (a.toNat / 2 ^ 32 % 2 ^ 16 : Nat) + (b.extractLsb' 32 32).toInt
    let col : Int := (a.toNat / 2 ^ 16 % 2 ^ 16 : Nat) + (b.extractLsb' 0 32).toInt
    (if decide (0 ≤ row ∧ row < 2 ^ 16) && decide (0 ≤ col ∧ col < 2 ^ 16) then some (p row.toNat col.toNat) else none).map Place.word =
      movedTile a b := by
  refine map_word_ite (by rw [Bool.and_eq_true, decide_eq_true_eq, decide_eq_true_eq, and_assoc]) fun hr => ?_
  rw [hp]
  exact ofNat_eq_ofInt (by omega)

/-- The row and column of a tile of the own bank move, the handle stays. -/
theorem padd_own (h : a.toNat / 2 ^ 61 = 1) : ((placeOf a).bind fun p => padd p b).map Place.word = movedPlace a b := by
  simp only [placeOf, h, bitsOf_eq_div, Nat.pow_zero, Nat.div_one]
  by_cases hz : a.toNat / 2 ^ 48 % 2 ^ 5 = 0
  · rw [movedPlace_tile (.inl ⟨h, hz⟩)]
    by_cases hl : a.toNat % 2 ^ 16 = 0
    · rw [if_pos ⟨hz, hl⟩, if_pos hl]
      exact map_word_tile fun r c => congrArg (BitVec.ofNat 64) (by omega)
    · rw [if_neg fun hc => hl hc.2, if_neg hl]; rfl
  · rw [movedPlace_none (by omega) (by omega) (by omega) (by omega), if_neg fun hc => hz hc.1]; rfl

theorem bitAt_eq_false {n i : Nat} : bitAt n i = false ↔ n / 2 ^ i % 2 = 0 := by
  rw [bitAt, Nat.testBit_eq_decide_div_mod_eq, decide_eq_false_iff_not]; omega

/-- The same of a tile of a peer bank, which also keeps its core. -/
theorem padd_peer (h : a.toNat / 2 ^ 61 = 3) : ((placeOf a).bind fun p => padd p b).map Place.word = movedPlace a b := by
  simp only [placeOf, h, bitsOf_eq_div, bitAt_eq_false, Nat.pow_zero, Nat.div_one]
  by_cases hz : a.toNat / 2 ^ 48 % 2 = 0
  · rw [movedPlace_tile (.inr ⟨h, hz⟩)]
    by_cases hl : a.toNat % 2 ^ 16 = 0
    · rw [if_pos ⟨hz, hl⟩, if_pos hl]
      exact map_word_tile fun r c => congrArg (BitVec.ofNat 64) (by omega)
    · rw [if_neg fun hc => hl hc.2, if_neg hl]; rfl
  · rw [movedPlace_none (by omega) (by omega) (by omega) (by omega), if_neg fun hc => hz hc.1]; rfl

/-- A counter place and a reserved space do not move. -/
theorem padd_none (h : 4 ≤ a.toNat / 2 ^ 61) : ((placeOf a).bind fun p => padd p b).map Place.word = movedPlace a b := by
  rw [movedPlace_none (by omega) (by omega) (by omega) (by omega)]
  unfold placeOf
  dsimp only
  split
  case h_5 => split <;> rfl
  case h_6 => rfl
  all_goals omega

/-- PADD of a place word is the word that R115 makes of it. -/
theorem padd_movedPlace (a b : Word) : ((placeOf a).bind fun p => padd p b).map Place.word = movedPlace a b := by
  rcases show a.toNat / 2 ^ 61 = 0 ∨ a.toNat / 2 ^ 61 = 1 ∨ a.toNat / 2 ^ 61 = 2 ∨ a.toNat / 2 ^ 61 = 3 ∨ 4 ≤ a.toNat / 2 ^ 61
    by omega with h | h | h | h | h
  · exact padd_ext h
  · exact padd_own h
  · exact padd_remote h
  · exact padd_peer h
  · exact padd_none h

end Moved

/-- Settles O7: the place moved is the word moved, space by space (R42, R115). -/
theorem paddMovesPlaces : Obligations.PaddMovesPlaces := by
  intro s o h
  dsimp only [exec, execPadd]
  rw [← padd_movedPlace]
  cases (placeOf (s.rx o.xa)).bind fun p => padd p (s.rx o.xb) with
  | none => exact ⟨fun v hv => absurd hv (by simp), fun _ => scalar_illegal h⟩
  | some p => exact ⟨fun v hv => Option.some.inj hv ▸ scalar_done h p.word, fun hv => absurd hv (by simp)⟩

/-! ### XLOOK (R116) -/

section Look

variable {s : State} {a : Word} {w : Bool}

/-- The test that XLOOK makes of extent n. -/
def looks (s : State) (a : Word) (w : Bool) (n : Nat) : Bool :=
  let e := s.ext n
  e.len != 0 && e.base.sle a && decide ((a - e.base).toNat < e.len.toNat) && (!w || bitAt e.flags 1)

/-- The distance of an address from a base at or below it, as signed numbers. -/
theorem toNat_sub_of_le {b : Word} (h : b.toInt ≤ a.toInt) : ((a - b).toNat : Int) = a.toInt - b.toInt := by
  rw [BitVec.toInt_eq_toNat_cond, BitVec.toInt_eq_toNat_cond] at h ⊢
  rw [BitVec.toNat_sub]
  omega

theorem looks_iff {n : Nat} : looks s a w n = true ↔ holdsAddr s n a w := by
  simp only [looks, holdsAddr, Bool.and_eq_true, bne_iff_ne, BitVec.sle_iff_toInt_le, decide_eq_true_eq, Bool.or_eq_true,
    Bool.not_eq_true', and_assoc, ← Bool.not_eq_true w, ← Decidable.imp_iff_not_or, bitAt]
  refine and_congr_right fun _ => and_congr_right fun hle => and_congr_left fun _ => ?_
  rw [← toNat_sub_of_le hle, Int.ofNat_lt]

theorem xlook_eq (hc : canonical a = true) : s.xlook a w = match (List.range 16).find? (looks s a w) with
    | some n => .ok (xlookValue s n a)
    | none => raiseAt cUNDECLARED_ACCESS 0 a := by
  unfold State.xlook
  rw [if_neg (by simp [hc])]
  rfl

theorem xlook_lowest {n : Nat} (hc : canonical a = true) (hn : n < 16) (hh : holdsAddr s n a w) (hlow : ∀ m, m < n → ¬ holdsAddr s m a w) :
    s.xlook a w = .ok (xlookValue s n a) := by
  have hfind : (List.range 16).find? (looks s a w) = some n :=
    List.find?_range_eq_some.mpr ⟨looks_iff.mpr hh, List.mem_range.mpr hn, fun m hm => by
      rw [Bool.not_eq_true', ← Bool.not_eq_true, looks_iff]; exact hlow m hm⟩
  rw [xlook_eq hc, hfind]

theorem xlook_undeclared (hc : canonical a = true) (hno : ∀ n, n < 16 → ¬ holdsAddr s n a w) :
    s.xlook a w = raiseAt cUNDECLARED_ACCESS 0 a := by
  have hfind : (List.range 16).find? (looks s a w) = none :=
    List.find?_range_eq_none.mpr fun n hn => by rw [Bool.not_eq_true', ← Bool.not_eq_true, looks_iff]; exact hno n hn
  rw [xlook_eq hc, hfind]

theorem xlook_noncanonical (hc : canonical a = false) : s.xlook a w = raiseAt cNONCANONICAL 0 a := if_pos (by simp [hc])

end Look

/-! ### WIDF (R287) -/

theorem widf_field {s : State} {o : SiOp} {k : Kernel} {w : Nat} (h : Readable s [o.xa] o.xd) (hk : s.myKernel = some k)
    (hw : k.hdr.widths[o.imm.toNat]? = some w) (hf : o.imm.toNat < 6) :
    exec (.widf o) s = .next (done (s.setX o.xd (BitVec.ofNat 64
      ((s.rx o.xa).toNat / 2 ^ ((k.hdr.widths.drop (o.imm.toNat + 1)).foldl (· + ·) 0) % 2 ^ w)))) := by
  dsimp only [exec, execWidf]
  rw [hk, scalar_legal_done h (decide_eq_true hf), widField, hw, Nat.shiftRight_eq_div_pow]
  rfl

/-- Settles O8: the lowest extent that holds the address is the first that the search finds (xlook_lowest), and WIDF takes the field out by its
width and the widths after it (R116, R287). -/
theorem lookupsComplete : Obligations.LookupsComplete := by
  refine ⟨fun s o i w hi h => ?_, fun s o k h hk => ⟨fun w hw hf => widf_field h hk hw hf, fun hf => ?_⟩⟩
  · have hexec : exec i s = scalar s [o.xa] o.xd (s.xlook (s.rx o.xa) w) := by
      rcases hi with ⟨rfl, rfl⟩ | ⟨rfl, rfl⟩ <;> rfl
    rw [hexec]
    refine ⟨fun n hn hc hh hlow => ?_, fun hc hno => ?_, fun hc => ?_⟩
    · rw [xlook_lowest hc hn hh hlow]; exact scalar_done h _
    · rw [xlook_undeclared hc hno]; exact scalar_raiseAt h _ _ _
    · rw [xlook_noncanonical hc]; exact scalar_raiseAt h _ _ _
  · exact scalar_legal_illegal h (decide_eq_false (Nat.not_lt.mpr hf))

end Sys2Proof.Machine
end

section
/-! PROOFS. Tiles allocated, freed, reshaped and queried, and the faults of their management (R36, R117 to R121). -/

namespace Sys2Proof.Machine

open Sys2Proof.Claims

/-! ### Handles and the pool (R36, R118, R119) -/

theorem handleOf_ok {w : Word} (h : w.toNat < 256) : handleOf w = .ok w.toNat := if_pos h

theorem handleOf_illegal {w : Word} (h : 256 ≤ w.toNat) : handleOf w = illegal := if_neg (Nat.not_lt.mpr h)

/-- A tile fault taken, with its detail (R117). -/
def tileTaken (d : Nat) (s : State) : State := s.takeFault { cause := cTILE_FAULT, detail := d }

section Allocate

variable {s : State} {w : Word} {sh : Shape} {k : Nat}

theorem allocate_ok (h : canAllocate s sh) : s.allocate w sh k = .ok (allocated s w sh k) := by
  obtain ⟨hbound, hpool⟩ := h
  dsimp only [State.allocate]
  rw [if_neg (Nat.not_lt.mpr hbound), if_neg (Nat.not_lt.mpr hpool)]
  rfl

theorem allocate_bound (h : s.bank.id.tileBound < s.bank.granules + sh.granules) : s.allocate w sh k = tileFault 2 := by
  dsimp only [State.allocate]
  rw [if_pos h]
  rfl

theorem allocate_pool (hbound : s.bank.granules + sh.granules ≤ s.bank.id.tileBound) (h : s.pool sh.level < sh.granules) :
    s.allocate w sh k = tileFault 1 := by
  dsimp only [State.allocate]
  rw [if_neg (Nat.not_lt.mpr hbound), if_pos h]
  rfl

end Allocate

/-! ### TALLOC (R118) -/

section Talloc

variable {s : State} {o : SrOp} {sh : Shape} {k : Nat}

/-- The lowest FREE handle is the one that the search of TALLOC finds. -/
theorem freeHandle_eq_some (hk : k < 256) (hfree : s.tile k = none) (hlow : ∀ j, j < k → s.tile j ≠ none) :
    (List.range 256).find? (fun j => (s.tile j).isNone) = some k :=
  List.find?_range_eq_some.mpr ⟨by rw [hfree]; rfl, List.mem_range.mpr hk, fun j hj => by simpa [Option.isSome_iff_ne_none] using hlow j hj⟩

theorem freeHandle_eq_none (hall : ∀ j, j < 256 → s.tile j ≠ none) : (List.range 256).find? (fun j => (s.tile j).isNone) = none :=
  List.find?_range_eq_none.mpr fun j hj => by simpa [Option.isSome_iff_ne_none] using hall j hj

theorem freeHandle_exists (h : ∃ j, j < 256 ∧ s.tile j = none) : ∃ k, (List.range 256).find? (fun j => (s.tile j).isNone) = some k := by
  obtain ⟨j, hj, hfree⟩ := h
  refine Option.ne_none_iff_exists'.mp fun hnone => ?_
  simpa [hfree] using List.find?_range_eq_none.mp hnone j hj

section Lowest

variable (h : Readable s [o.xa] o.xd)
include h

theorem talloc_badShape (hsh : shapeOf (s.rx o.xa) = none) : exec (.talloc o) s = .next (illegalTaken s) := by
  dsimp only [exec, execTalloc]
  rw [run_operands h, hsh]
  rfl

theorem talloc_noHandle (hsh : shapeOf (s.rx o.xa) = some sh) (hall : ∀ j, j < 256 → s.tile j ≠ none) :
    exec (.talloc o) s = .next (tileTaken 3 s) := by
  dsimp only [exec, execTalloc]
  rw [run_operands h, hsh, freeHandle_eq_none hall]
  rfl

/-- With a handle found TALLOC is its allocation. -/
theorem talloc_allocates (hsh : shapeOf (s.rx o.xa) = some sh) (hfind : (List.range 256).find? (fun j => (s.tile j).isNone) = some k) :
    exec (.talloc o) s = run s (s.allocate (s.rx o.xa) sh k >>= fun t => pure (t.setX o.xd (BitVec.ofNat 64 k))) := by
  dsimp only [exec, execTalloc]
  rw [run_operands h, hsh, hfind]

end Lowest

section Named

variable (h : Readable s [o.xa, o.xb] o.xd)
include h

theorem tallocHandle_badShape (hsh : shapeOf (s.rx o.xa) = none) : exec (.tallocHandle o) s = .next (illegalTaken s) := by
  dsimp only [exec, execTallocHandle]
  rw [run_operands h, hsh]
  by_cases hb : (s.rx o.xb).toNat < 256
  · rw [handleOf_ok hb]; rfl
  · rw [handleOf_illegal (Nat.not_lt.mp hb)]; rfl

variable (hsh : shapeOf (s.rx o.xa) = some sh) (hb : (s.rx o.xb).toNat < 256)
include hsh hb

theorem tallocHandle_taken (ht : s.tile (s.rx o.xb).toNat ≠ none) : exec (.tallocHandle o) s = .next (tileTaken 3 s) := by
  dsimp only [exec, execTallocHandle]
  rw [run_operands h, hsh, handleOf_ok hb]
  exact congrArg (run s) (if_pos (Option.isSome_iff_ne_none.mpr ht))

/-- With the named handle FREE it is the allocation of that handle. -/
theorem tallocHandle_allocates (ht : s.tile (s.rx o.xb).toNat = none) : exec (.tallocHandle o) s =
    run s (s.allocate (s.rx o.xa) sh (s.rx o.xb).toNat >>= fun t => pure (t.setX o.xd (s.rx o.xb))) := by
  dsimp only [exec, execTallocHandle]
  rw [run_operands h, hsh, handleOf_ok hb]
  refine congrArg (run s) ((if_neg (by simp [ht])).trans ?_)
  rw [BitVec.ofNat_toNat, BitVec.setWidth_eq]

end Named

end Talloc

/-! ### TFREE and TSHAPE (R119, R120) -/

section Held

variable {s : State} {o : SrOp} {sh : Shape} {h : Nat} {t : Tile}

theorem inUse_iff : (s.bank.streamTile (coreOf s.cur) h t || s.bank.pcfgTile h) = true ↔ InUse s h t := by
  simp only [Bank.streamTile, InUse, Bool.or_eq_true, List.any_eq_true, Option.isSome_iff_ne_none, or_assoc]

theorem unusedTile_free (hfree : s.tile h = none) : s.unusedTile h = tileFault 4 := by
  unfold State.unusedTile
  rw [hfree]

theorem unusedTile_inUse (ht : s.tile h = some t) (hu : InUse s h t) : s.unusedTile h = tileFault 7 := by
  unfold State.unusedTile
  rw [ht]
  exact if_pos (inUse_iff.mpr hu)

theorem unusedTile_ok (hu : Unused s h t) : s.unusedTile h = .ok t := by
  obtain ⟨ht, hu⟩ := hu
  unfold State.unusedTile
  rw [ht]
  exact if_neg (mt inUse_iff.mp hu)

theorem awaitTile_ok (hi : s.bank.usesTile (coreOf s.cur) h = false) : s.awaitTile h = .ok () := by
  unfold State.awaitTile
  rw [hi]
  rfl

/-- TFREE of a handle looks first at its tile. -/
theorem tfree_eq (hr : Readable s [o.xa] 0) (ha : (s.rx o.xa).toNat < 256) : exec (.tfree o) s =
    run s (s.unusedTile (s.rx o.xa).toNat >>= fun t => s.awaitTile (s.rx o.xa).toNat >>= fun _ =>
      pure ((s.modPool s.cur (shapeRaw t.shape).level (· + t.gran)).setTile (s.rx o.xa).toNat none)) := by
  dsimp only [exec, execTfree]
  rw [run_operands hr, handleOf_ok ha]
  rfl

theorem tshape_badShape (hr : Readable s [o.xa, o.xb] 0) (hsh : shapeOf (s.rx o.xb) = none) :
    exec (.tshape o) s = .next (illegalTaken s) := by
  dsimp only [exec, execTshape]
  rw [run_operands hr, hsh]
  by_cases ha : (s.rx o.xa).toNat < 256
  · rw [handleOf_ok ha]; rfl
  · rw [handleOf_illegal (Nat.not_lt.mp ha)]; rfl

/-- TSHAPE with a legal shape word looks first at the tile, then at the two shapes. -/
theorem tshape_eq (hr : Readable s [o.xa, o.xb] 0) (ha : (s.rx o.xa).toNat < 256) (hsh : shapeOf (s.rx o.xb) = some sh) :
    exec (.tshape o) s = run s (s.unusedTile (s.rx o.xa).toNat >>= fun t => reshape t (s.rx o.xb) sh >>= fun t =>
      s.awaitTile (s.rx o.xa).toNat >>= fun _ => pure (s.setTile (s.rx o.xa).toNat (some t))) := by
  dsimp only [exec, execTshape]
  rw [run_operands hr, hsh, handleOf_ok ha]
  rfl

theorem tshape_reshapes (hr : Readable s [o.xa, o.xb] 0) (ha : (s.rx o.xa).toNat < 256) (hsh : shapeOf (s.rx o.xb) = some sh)
    (hu : Unused s (s.rx o.xa).toNat t) : exec (.tshape o) s = run s (reshape t (s.rx o.xb) sh >>= fun t =>
      s.awaitTile (s.rx o.xa).toNat >>= fun _ => pure (s.setTile (s.rx o.xa).toNat (some t))) := by
  rw [tshape_eq hr ha hsh, unusedTile_ok hu]
  rfl

theorem reshape_level {w : Word} (hl : sh.level ≠ (shapeRaw t.shape).level) : reshape t w sh = illegal :=
  illegal_bind (beq_eq_false_iff_ne.mpr hl) _

theorem reshape_granules {w : Word} (hl : sh.level = (shapeRaw t.shape).level) (hg : t.gran < sh.granules) :
    reshape t w sh = tileFault 6 := by
  dsimp only [reshape]
  rw [legal_bind (beq_iff_eq.mpr hl), if_pos hg]
  rfl

theorem reshape_ok {w : Word} (hl : sh.level = (shapeRaw t.shape).level) (hg : sh.granules ≤ t.gran) :
    let same := sh.race = (shapeRaw t.shape).race ∧ sh.slots = (shapeRaw t.shape).slots
    reshape t w sh = .ok { t with shape := w, head := if same then t.head else 0, tail := if same then t.tail else 0 } := by
  dsimp only [reshape]
  rw [legal_bind (beq_iff_eq.mpr hl), if_neg (Nat.not_lt.mpr hg)]
  simp only [Bool.and_eq_true, beq_iff_eq]
  rfl

end Held

/-- Settles O9: the checks that precede each effect pass, and the effect is the state that R118, R119 and R120 name. -/
theorem tileManagementCompletes : Obligations.TileManagementCompletes := by
  refine ⟨fun s o sh k h hsh hk hfree hlow hcan => ?_, fun s o sh h hsh hb hfree hcan => ?_, fun s o t h ha hidle => ?_,
    fun s o t sh h ha hsh hidle hl hg => ?_⟩
  · rw [talloc_allocates h hsh (freeHandle_eq_some hk hfree hlow), allocate_ok hcan]
    rfl
  · rw [tallocHandle_allocates h hsh hb hfree, allocate_ok hcan]
    rfl
  · rw [tfree_eq h ha, unusedTile_ok hidle.1, awaitTile_ok hidle.2]
    rfl
  · dsimp only
    rw [tshape_reshapes h ha hsh hidle.1, awaitTile_ok hidle.2, reshape_ok hl hg]
    rfl

/-- Settles O10: the first check that fails gives the fault and its detail (R117, R118, R119, R120). -/
theorem tileManagementFaults : Obligations.TileManagementFaults := by
  dsimp only [Obligations.TileManagementFaults]
  refine ⟨fun s o h => ⟨talloc_badShape h, fun sh hsh => ⟨talloc_noHandle h hsh, fun hfree hbound => ?_, fun hfree hbound hpool => ?_⟩⟩,
    fun s o sh h hsh hb => ⟨tallocHandle_taken h hsh hb, fun hfree hbound => ?_, fun hfree hbound hpool => ?_⟩,
    fun s o h => tallocHandle_badShape h, fun s o h => tshape_badShape h, fun s o h ha => ⟨fun hfree => ?_, fun t ht hu => ?_⟩,
    fun s o sh h ha hsh => ⟨fun hfree => ?_, fun t ht hu => ?_, fun t hu hl => ?_, fun t hu hl hg => ?_⟩⟩
  · obtain ⟨k, hfind⟩ := freeHandle_exists hfree
    rw [talloc_allocates h hsh hfind, allocate_bound hbound]
    rfl
  · obtain ⟨k, hfind⟩ := freeHandle_exists hfree
    rw [talloc_allocates h hsh hfind, allocate_pool hbound hpool]
    rfl
  · rw [tallocHandle_allocates h hsh hb hfree, allocate_bound hbound]
    rfl
  · rw [tallocHandle_allocates h hsh hb hfree, allocate_pool hbound hpool]
    rfl
  · rw [tfree_eq h ha, unusedTile_free hfree]
    rfl
  · rw [tfree_eq h ha, unusedTile_inUse ht hu]
    rfl
  · rw [tshape_eq h ha hsh, unusedTile_free hfree]
    rfl
  · rw [tshape_eq h ha hsh, unusedTile_inUse ht hu]
    rfl
  · rw [tshape_reshapes h ha hsh hu, reshape_level hl]
    rfl
  · rw [tshape_reshapes h ha hsh hu, reshape_granules hl hg]
    rfl

/-! ### TQRY (R121) -/

section Query

variable {s : State} {o : SrOp} (h : Readable s [o.xa] o.xd)
include h

/-- A query of a handle. -/
theorem tqry_handle (hq : o.fn.toNat < 3) (ha : (s.rx o.xa).toNat < 256) :
    exec (.tqry o) s = .next (done (s.setX o.xd (tqry o.fn.toNat (s.tile (s.rx o.xa).toNat)))) := by
  dsimp only [exec, execTqry]
  rw [if_pos hq, handleOf_ok ha]
  exact scalar_done h _

theorem tqry_pool (hq : o.fn.toNat = 3) (ha : (s.rx o.xa).toNat < 2) :
    exec (.tqry o) s = .next (done (s.setX o.xd (BitVec.ofNat 64 (s.pool (s.rx o.xa).toNat)))) := by
  dsimp only [exec, execTqry]
  rw [if_neg (by omega), if_pos hq]
  exact scalar_legal_done h (decide_eq_true ha)

theorem tqry_granules (hq : o.fn.toNat = 4) (ha : (s.rx o.xa).toNat < 256) :
    exec (.tqry o) s = .next (done (s.setX o.xd (BitVec.ofNat 64 s.bank.granules))) := by
  dsimp only [exec, execTqry]
  rw [if_neg (by omega), if_neg (by omega), if_pos hq, handleOf_ok ha]
  exact scalar_done h _

theorem tqry_badHandle (hq : o.fn.toNat ≠ 3) (ha : 256 ≤ (s.rx o.xa).toNat) : exec (.tqry o) s = .next (illegalTaken s) := by
  dsimp only [exec, execTqry]
  rw [handleOf_illegal ha, if_neg hq]
  split
  · exact scalar_illegal h
  · split <;> exact scalar_illegal h

theorem tqry_badLevel (hq : o.fn.toNat = 3) (ha : 2 ≤ (s.rx o.xa).toNat) : exec (.tqry o) s = .next (illegalTaken s) := by
  dsimp only [exec, execTqry]
  rw [if_neg (by omega), if_pos hq]
  exact scalar_legal_illegal h (decide_eq_false (Nat.not_lt.mpr ha))

theorem tqry_badQuery (hq : 5 ≤ o.fn.toNat) : exec (.tqry o) s = .next (illegalTaken s) := by
  dsimp only [exec, execTqry]
  rw [if_neg (by omega), if_neg (by omega), if_neg (by omega)]
  exact scalar_illegal h

end Query

/-- Settles O11: fn picks the row of R121. -/
theorem tileQueriesComplete : Obligations.TileQueriesComplete := by
  intro s o h
  dsimp only
  refine ⟨fun ha hq hfree => ?_, fun t ha ht => ⟨fun hq => ?_, fun hq hrace => ?_, fun hq hrace => ?_, fun hq => ?_⟩, tqry_pool h,
    tqry_granules h, fun hbad => ?_⟩
  · rw [tqry_handle h hq ha, hfree, tqry]
  · rw [tqry_handle h (by omega) ha, ht, hq]
    rfl
  · rw [tqry_handle h (by omega) ha, ht, hq]
    simp only [tqry, hrace]
    rfl
  · rw [tqry_handle h (by omega) ha, ht, hq]
    simp only [tqry, hrace]
    rfl
  · rw [tqry_handle h (by omega) ha, ht, hq]
    rfl
  · rcases hbad with ⟨hq, ha⟩ | ⟨hq, ha⟩ | hq
    · exact tqry_badHandle h hq ha
    · exact tqry_badLevel h hq ha
    · exact tqry_badQuery h hq

end Sys2Proof.Machine
end

section
/-! PROOFS. Branches, calls, returns and loops (R50, R68, R123 to R127). -/

namespace Sys2Proof.Machine

open Sys2Proof.Claims

/-! ### Targets (R68, R123) -/

section Targets

variable {s : State} {t : Word}

/-- An immediate in 4-byte units, added to the bundle's address. -/
theorem target_eq_away {w : Nat} (s : State) (i : BitVec w) : s.target (i.signExtend 64) = away s i.toInt := by
  rw [State.target, away, BitVec.shiftLeft_eq_mul_twoPow, BitVec.mul_comm, BitVec.ofInt_mul]
  rfl

theorem jump_canonical (hc : canonical t = true) : s.jump t = .ok (goes s t) := if_neg (by simp [hc])

theorem jump_noncanonical (hc : canonical t = false) : s.jump t = raiseAt cNONCANONICAL 0 t := if_pos (by simp [hc])

/-- A branch decided by a condition: taken, not taken, or taken to an address that is not canonical. -/
theorem run_branch (s : State) (t : Word) (c : Bool) :
    (c = true → canonical t = true → run s (if c then s.jump t else pure s) = .next (done (goes s t))) ∧
    (c = false → run s (if c then s.jump t else pure s) = .next (done s)) ∧
    (c = true → canonical t = false →
      run s (if c then s.jump t else pure s) = .next (s.takeFault { cause := cNONCANONICAL, detail := 0, place := t })) := by
  refine ⟨fun hc ht => ?_, fun hc => ?_, fun hc ht => ?_⟩
  · rw [if_pos hc, jump_canonical ht]; rfl
  · rw [if_neg (by simp [hc])]; rfl
  · rw [if_pos hc, jump_noncanonical ht]; rfl

end Targets

/-! ### Compare branches (R124) -/

/-- With its registers readable a compare branch is its condition and its target. -/
theorem branch_eq {s : State} {o : SbOp} (h : Readable s [o.xa, o.xb] 0) (f : Word → Word → Bool) :
    branch s o f = run s (if f (s.rx o.xa) (s.rx o.xb) then s.jump (away s o.off.toInt) else pure s) := by
  rw [branch, run_operands h, target_eq_away]

/-- Each compare branch tests its two registers by the condition of the table of R124. -/
theorem exec_eq_branch {i : Instr} {s : State} {o : SbOp} {a b : Word} {c : Bool} (h : compareBranch i a b = some (o, c)) :
    ∃ f, exec i s = branch s o f ∧ f a b = c := by
  cases i with
  | bne => cases h; dsimp only [exec]; exact ⟨_, rfl, (decide_not (p := a = b)).symm⟩
  | beq | blt | bge | bltn | bgen => cases h; dsimp only [exec]; exact ⟨_, rfl, rfl⟩
  | _ => cases h

/-! ### Predicate branches (R125) -/

section Tested

variable (p : PBits) (o : SbOp)

theorem mem_tested {x : Bool} : x ∈ tested p (o.xa.toNat / 16) ↔ ∃ k, k < testedCount o ∧ testedBit p o k = x := by
  simp only [tested, List.mem_map, List.mem_range, testedCount, testedBit]

theorem any_tested : (tested p (o.xa.toNat / 16)).any id = decide (∃ k, k < testedCount o ∧ testedBit p o k = true) :=
  Bool.eq_iff_iff.mpr (by simp only [List.any_eq_true, mem_tested, id, decide_eq_true_eq, exists_eq_right])

theorem all_tested : (tested p (o.xa.toNat / 16)).all id = decide (∀ k, k < testedCount o → testedBit p o k = true) :=
  Bool.eq_iff_iff.mpr <| by
    simp only [List.all_eq_true, mem_tested, id, decide_eq_true_eq]
    exact ⟨fun h k hk => h _ ⟨k, hk, rfl⟩, fun h x ⟨k, hk, hx⟩ => hx ▸ h k hk⟩

theorem not_any_tested : (!(tested p (o.xa.toNat / 16)).any id) = decide (∀ k, k < testedCount o → testedBit p o k = false) := by
  rw [any_tested, ← decide_not]
  exact decide_eq_decide.mpr (by simp only [not_exists, not_and, Bool.not_eq_true])

end Tested

theorem pget_ok {s : State} {p : BitVec 6} (h : s.poisoned (512 + s.pkey p) = false) : s.pget p = .ok (mget 0 s.bank.view.p (s.pkey p)) :=
  if_neg (by simp [h])

/-- With its predicate readable a predicate branch is its condition and its target. -/
theorem predBranch_eq {s : State} {o : SbOp} (h : s.poisoned (512 + s.pkey o.xb) = false) (f : List Bool → Bool) :
    predBranch s o f = run s (if f (tested (mget 0 s.bank.view.p (s.pkey o.xb)) (o.xa.toNat / 16)) then s.jump (away s o.off.toInt)
      else pure s) := by
  rw [predBranch, pget_ok h, target_eq_away]
  rfl

/-- Each predicate branch tests the bits of its predicate by the condition of the table of R125. -/
theorem exec_eq_predBranch {i : Instr} {s : State} {o : SbOp} {p : PBits} {c : Bool} (h : predicateBranch i p = some (o, c)) :
    ∃ f, exec i s = predBranch s o f ∧ f (tested p (o.xa.toNat / 16)) = c := by
  cases i with
  | bany => cases h; dsimp only [exec]; exact ⟨_, rfl, any_tested p o⟩
  | ball => cases h; dsimp only [exec]; exact ⟨_, rfl, all_tested p o⟩
  | bnone => cases h; dsimp only [exec]; exact ⟨_, rfl, not_any_tested p o⟩
  | _ => cases h

/-- Settles O12: each branch is a condition and a target, which run_branch decides (R68, R123, R124, R125). -/
theorem branchesComplete : Obligations.BranchesComplete := by
  refine ⟨fun i s o c hc h => ?_, fun i s o c hc h => ?_⟩
  · obtain ⟨f, hexec, rfl⟩ := exec_eq_branch (s := s) hc
    rw [hexec, branch_eq h]
    exact run_branch s _ _
  · obtain ⟨f, hexec, rfl⟩ := exec_eq_predBranch (s := s) hc
    rw [hexec, predBranch_eq h]
    exact run_branch s _ _

/-! ### Transfers and the loop (R126, R127) -/

section Transfers

variable {s : State}

theorem j_done {o : SjOp} (hc : canonical (away s o.off.toInt) = true) : exec (.j o) s = .next (done (goes s (away s o.off.toInt))) := by
  dsimp only [exec, execJ]
  rw [target_eq_away, jump_canonical hc]
  rfl

theorem call_done {o : SjOp} (h : Readable s [] o.xl) (hc : canonical (away s o.off.toInt) = true) :
    exec (.call o) s = .next (done ((goes s (away s o.off.toInt)).setX o.xl s.sequel)) := by
  dsimp only [exec, execCall]
  rw [run_operands h, target_eq_away, jump_canonical hc]
  rfl

/-- RET to a canonical address is the check of its alignment. -/
theorem ret_eq {o : SrOp} (h : Readable s [o.xa] 0) (hc : canonical (s.rx o.xa) = true) : exec (.ret o) s =
    run s (legal (decide ((s.rx o.xa).toNat % 4 = 0)) >>= fun _ => pure (goes s (s.rx o.xa))) := by
  dsimp only [exec, execRet]
  rw [run_operands h, jump_canonical hc]
  rfl

theorem ret_aligned {o : SrOp} (h : Readable s [o.xa] 0) (hc : canonical (s.rx o.xa) = true) (ha : (s.rx o.xa).toNat % 4 = 0) :
    exec (.ret o) s = .next (done (goes s (s.rx o.xa))) := by
  rw [ret_eq h hc, legal_bind (decide_eq_true ha)]
  rfl

theorem ret_misaligned {o : SrOp} (h : Readable s [o.xa] 0) (hc : canonical (s.rx o.xa) = true) (ha : (s.rx o.xa).toNat % 4 ≠ 0) :
    exec (.ret o) s = .next (illegalTaken s) := by
  rw [ret_eq h hc, illegal_bind (decide_eq_false ha)]
  rfl

/-- The three writes that LOOPB queues, whether it branches or not. -/
theorem loopb_done {o : SjOp} (hc : canonical (away s o.off.toInt) = true) :
    let c := s.bank.ctl
    let n : Word := if c.lcount = 0 then 0 else c.lcount - 1
    let t := if n = 0 then s else goes s (away s o.off.toInt)
    exec (.loopb o) s = .next (done (((t.queueCr 0x20 (BitVec.ofNat 64 ((c.rotV + s.rotM - 1) % s.rotM)) 1).queueCr 0x21
      (BitVec.ofNat 64 ((c.rotP + 47) % 48)) 1).queueCr 0x22 n 1)) := by
  dsimp only [exec, execLoopb]
  rw [target_eq_away, jump_canonical hc]
  generalize (if s.bank.ctl.lcount = 0 then 0 else s.bank.ctl.lcount - 1) = n
  by_cases hn : n = 0
  · rw [if_pos hn, if_pos hn]; rfl
  · rw [if_neg hn, if_neg hn]; rfl

end Transfers

/-- Settles O13: a canonical target is jumped to; RET checks its alignment, and LOOPB its count (R27, R35, R123, R126, R127). -/
theorem transfersComplete : Obligations.TransfersComplete :=
  ⟨fun _ _ => j_done, fun _ _ => call_done, fun _ _ h hc => ⟨ret_aligned h hc, ret_misaligned h hc⟩, fun _ _ => loopb_done⟩

end Sys2Proof.Machine
end

section
/-! PROOFS. Control registers read and written (R33 to R35, R88, R129, R130). -/

namespace Sys2Proof.Machine

open Sys2Proof.Claims

/-! ### Reads (R33, R129) -/

section Reads

variable {s : State} {n : Nat} {v : Word}

theorem crGet_efr (h : 0x010 ≤ n ∧ n ≤ 0x014) : s.crGet n = .ok (mget 0 s.bank.ctl.efr (n - 0x010)) := by
  dsimp only [State.crGet]
  iterate 3 rw [if_neg (by omega)]
  rw [if_pos h]

theorem crGet_steps (h : 0x100 ≤ n ∧ n < 0x180 ∧ n % 8 < 6) :
    s.crGet n = .ok (mget 0 s.bank.ctl.steps (6 * ((n - 0x100) / 8) + n % 8)) := by
  dsimp only [State.crGet]
  iterate 18 rw [if_neg (by omega)]
  rw [if_pos h]

theorem crGet_extBase (h : 0x200 ≤ n ∧ n < 0x210) : s.crGet n = .ok (s.ext (n - 0x200)).base := by
  dsimp only [State.crGet]
  iterate 19 rw [if_neg (by omega)]
  rw [if_pos h]

theorem crGet_extLen (h : 0x210 ≤ n ∧ n < 0x220) : s.crGet n = .ok (s.ext (n - 0x210)).len := by
  dsimp only [State.crGet]
  iterate 20 rw [if_neg (by omega)]
  rw [if_pos h]

theorem crGet_extFlags (h : 0x220 ≤ n ∧ n < 0x230) : s.crGet n = .ok (BitVec.ofNat 64 (s.ext (n - 0x220)).flags) := by
  dsimp only [State.crGet]
  iterate 21 rw [if_neg (by omega)]
  rw [if_pos h]

theorem crGet_unassigned (h : n = 0x003 ∨ n = 0x015 ∨ n = 0x106 ∨ 0x230 ≤ n) : s.crGet n = illegal := by
  dsimp only [State.crGet]
  iterate 22 rw [if_neg (by omega)]

/-- A register of the table of R33 gives the value beside it. -/
theorem crGet_of_mem (h : (n, v) ∈ crTable s) : s.crGet n = .ok v := by
  simp only [crTable, List.mem_append, List.mem_map, List.mem_range, Prod.mk.injEq] at h
  rcases h with (((hlist | ⟨k, hk, rfl, rfl⟩) | ⟨k, hk, rfl, rfl⟩) | ⟨k, hk, rfl, rfl⟩) | ⟨k, hk, rfl, rfl⟩
  · simp only [List.mem_cons, Prod.mk.injEq, List.not_mem_nil, or_false] at hlist
    rcases hlist with ⟨rfl, rfl⟩ | ⟨rfl, rfl⟩ | ⟨rfl, rfl⟩ | ⟨rfl, rfl⟩ | ⟨rfl, rfl⟩ | ⟨rfl, rfl⟩ | ⟨rfl, rfl⟩ | ⟨rfl, rfl⟩ |
      ⟨rfl, rfl⟩ | ⟨rfl, rfl⟩ | ⟨rfl, rfl⟩ | ⟨rfl, rfl⟩ | ⟨rfl, rfl⟩ | ⟨rfl, rfl⟩ <;> rfl
  · rw [crGet_efr (by omega), Nat.add_sub_cancel_left]
  · rw [crGet_extBase (by omega), Nat.add_sub_cancel_left]
  · rw [crGet_extLen (by omega), Nat.add_sub_cancel_left]
  · rw [crGet_extFlags (by omega), Nat.add_sub_cancel_left]

theorem crr_done {o : SiOp} (h : Readable s [] o.xd) (hg : s.crGet o.imm.toNat = .ok v) : exec (.crr o) s = .next (done (s.setX o.xd v)) := by
  dsimp only [exec, execCrr]
  rw [hg]
  exact scalar_done h v

theorem crr_illegal {o : SiOp} (h : Readable s [] o.xd) (hg : s.crGet o.imm.toNat = illegal) : exec (.crr o) s = .next (illegalTaken s) := by
  dsimp only [exec, execCrr]
  rw [hg]
  exact scalar_illegal h

end Reads

/-- Settles O14: the number picks the register, and its value in force goes to xd (R33, R34, R129). -/
theorem controlRegisterReads : Obligations.ControlRegisterReads := by
  refine fun s o h => ⟨fun v hv => crr_done h (crGet_of_mem hv), fun k slot hk hslot hn => crr_done h ?_,
    fun hn => crr_illegal h (crGet_unassigned hn)⟩
  rw [crGet_steps (by omega), show 6 * ((o.imm.toNat - 0x100) / 8) + o.imm.toNat % 8 = 6 * k + slot by omega]

/-! ### Writes (R35, R88, R129, R130) -/

section Writes

variable {i : Instr} {s : State} {o : SiOp} {old new res : Word} {n : Nat}

/-- CRW, CRS and CRC are writes that differ in what they make of the old value. -/
theorem exec_eq_crWrite {a : Word} (hi : crNew i old a = some (o, new)) : ∃ sets comb, exec i s = crWrite o s sets comb ∧ comb old a = new := by
  cases i with
  | crw | crs | crc => cases hi; dsimp only [exec]; exact ⟨_, _, rfl, rfl⟩
  | _ => cases hi

/-- A register that no write may name. -/
theorem crWrite_readOnly {v : Word} (hi : crNew i old (s.rx o.xa) = some (o, new)) (h : Readable s [o.xa] o.xd) (hn : o.imm.toNat = n)
    (hg : s.crGet n = .ok v) (hr : crReserved n = none) : exec i s = .next (illegalTaken s) := by
  obtain ⟨sets, comb, hexec, rfl⟩ := exec_eq_crWrite (s := s) hi
  rw [hexec]
  dsimp only [crWrite]
  rw [run_operands h, hn, hg, hr]
  rfl

variable (hi : crNew i old (s.rx o.xa) = some (o, new)) (h : Readable s [o.xa] o.xd) (hn : o.imm.toNat = n) (hg : s.crGet n = .ok old)
include hi h hn hg

/-- A write that the reserved bits and the limits of its register allow. -/
theorem crWrite_done (hr : crReserved n = some res) (ha : s.rx o.xa &&& res = 0) (hm : n ≠ 0x071) (hok : s.crOk n new = true) :
    exec i s = .next (done ((s.crPut n new).setX o.xd old)) := by
  obtain ⟨sets, comb, hexec, rfl⟩ := exec_eq_crWrite (s := s) hi
  rw [hexec]
  dsimp only [crWrite]
  rw [run_operands h, hn, hg, hr, ok_bind]
  dsimp only
  rw [legal_bind (by rw [ha]; exact Bool.or_true _), if_neg hm, legal_bind hok]
  rfl

/-- A value outside the limits, whether or not the operand touches a reserved bit. -/
theorem crWrite_outside (hr : crReserved n = some res) (hm : n ≠ 0x071) (hok : s.crOk n new = false) :
    exec i s = .next (illegalTaken s) := by
  obtain ⟨sets, comb, hexec, rfl⟩ := exec_eq_crWrite (s := s) hi
  rw [hexec]
  dsimp only [crWrite]
  rw [run_operands h, hn, hg, hr, ok_bind]
  dsimp only
  cases hres : !sets || s.rx o.xa &&& res == 0 with
  | false => rw [illegal_bind rfl]; rfl
  | true => rw [legal_bind rfl, if_neg hm, illegal_bind hok]; rfl

end Writes

section Limits

variable {s : State} {a v : Word} {n k : Nat}

/-- An operand below 2^k has none of the bits above. -/
theorem and_not_mask (hk : k ≤ 64) (h : a.toNat < 2 ^ k) : a &&& ~~~(BitVec.ofNat 64 (2 ^ k - 1)) = 0 := by
  have hmask : a &&& BitVec.ofNat 64 (2 ^ k - 1) = a := BitVec.eq_of_toNat_eq (by
    have hmod : (2 ^ k - 1) % 2 ^ 64 = 2 ^ k - 1 :=
      Nat.mod_eq_of_lt (Nat.lt_of_lt_of_le (Nat.sub_lt (Nat.two_pow_pos k) Nat.one_pos) (Nat.pow_le_pow_right (by decide) hk))
    rw [BitVec.toNat_and, BitVec.toNat_ofNat, hmod, Nat.and_two_pow_sub_one_of_lt_two_pow h])
  rw [← hmask, BitVec.and_assoc, BitVec.and_not_self]
  exact BitVec.and_zero

theorem and_low_byte (h : a.toNat % 256 = 0) : a &&& 0xFF = 0 :=
  BitVec.eq_of_toNat_eq ((Nat.and_two_pow_sub_one_eq_mod a.toNat 8).trans h)

theorem crReserved_efr (h : 0x010 ≤ n ∧ n ≤ 0x014) : crReserved n = some (~~~0x1C7FFFFF) := by
  unfold crReserved
  iterate 3 rw [if_neg (by omega)]
  rw [if_pos h]

theorem crReserved_steps (h : 0x100 ≤ n ∧ n < 0x180 ∧ n % 8 < 6) : crReserved n = some 0xFF := by
  unfold crReserved
  iterate 7 rw [if_neg (by omega)]
  rw [if_pos h]

/-- No write names CAP.VR, TIME, TASKID or an extent register. -/
theorem crReserved_readOnly (h : n = 0x040 ∨ n = 0x051 ∨ n = 0x061 ∨ (0x200 ≤ n ∧ n < 0x230)) : crReserved n = none := by
  unfold crReserved
  iterate 8 rw [if_neg (by omega)]

theorem crGet_readOnly (h : n = 0x040 ∨ n = 0x051 ∨ n = 0x061 ∨ (0x200 ≤ n ∧ n < 0x230)) : ∃ v, s.crGet n = .ok v := by
  rcases h with rfl | rfl | rfl | h
  · exact ⟨_, rfl⟩
  · exact ⟨_, rfl⟩
  · exact ⟨_, rfl⟩
  · by_cases hbase : n < 0x210
    · exact ⟨_, crGet_extBase ⟨h.1, hbase⟩⟩
    · by_cases hlen : n < 0x220
      · exact ⟨_, crGet_extLen ⟨by omega, hlen⟩⟩
      · exact ⟨_, crGet_extFlags ⟨by omega, h.2⟩⟩

theorem crOk_efr (h : 0x010 ≤ n ∧ n ≤ 0x014) (hround : bitsOf v.toNat 28 26 ≠ 7) (hsat : v.toNat % 2 = 1 → bitsOf v.toNat 5 1 ≠ 0) :
    s.crOk n v = true := by
  unfold State.crOk
  iterate 2 rw [if_neg (by omega)]
  rw [if_pos h]
  have hdraw : (bitAt v.toNat 0 && bitsOf v.toNat 5 1 == 0) = false := by
    rw [Bool.and_eq_false_imp, beq_eq_false_iff_ne]
    exact fun hb => hsat (by simpa [bitAt] using hb)
  dsimp only
  rw [bne_iff_ne.mpr hround, hdraw]
  rfl

theorem crOk_steps (h : 0x100 ≤ n) : s.crOk n v = true := by
  unfold State.crOk
  iterate 7 rw [if_neg (by omega)]

theorem crPut_efr (h : 0x010 ≤ n ∧ n ≤ 0x014) : s.crPut n v = s.queueCr n v 3 := by
  unfold State.crPut
  iterate 4 rw [if_neg (by omega)]
  rw [if_pos h]

theorem crPut_steps (h : 0x100 ≤ n) : s.crPut n v = s.queueCr n v 1 := by
  unfold State.crPut
  iterate 5 rw [if_neg (by omega)]

end Limits

/-- Settles O15: the reserved bits and the limits of each register allow the value, which comes into force at once, with the next bundle
or with the third; a register without a writable field, or a value outside its limits, is refused (R34, R35, R88, R129, R130). -/
theorem controlRegisterWrites : Obligations.ControlRegisterWrites := by
  intro i s o old new hi h
  dsimp only
  generalize hn : o.imm.toNat = n
  and_intros
  · rintro rfl rfl ha hv
    exact crWrite_done hi h hn rfl rfl (and_not_mask (k := 3) (by decide) ha) (by decide) (decide_eq_true hv)
  · rintro rfl rfl ha
    exact crWrite_done hi h hn rfl rfl (and_not_mask (k := 6) (by decide) ha) (by decide) rfl
  · rintro rfl rfl ha hv
    exact crWrite_done hi h hn rfl rfl (and_not_mask (k := 32) (by decide) ha) (by decide) (bne_iff_ne.mpr hv)
  · rintro rfl rfl
    exact crWrite_done hi h hn rfl rfl BitVec.and_zero (by decide) rfl
  · rintro rfl rfl hv
    exact crWrite_done hi h hn rfl rfl BitVec.and_zero (by decide) (decide_eq_true hv)
  · rintro rfl rfl hv
    exact crWrite_done hi h hn rfl rfl BitVec.and_zero (by decide) (decide_eq_true hv)
  · rintro rfl rfl
    exact crWrite_done hi h hn rfl rfl BitVec.and_zero (by decide) rfl
  · rintro hlo hhi hslot rfl ha
    rw [← crPut_steps hlo]
    have hstep : 0x100 ≤ n ∧ n < 0x180 ∧ n % 8 < 6 := ⟨hlo, hhi, hslot⟩
    exact crWrite_done hi h hn (crGet_steps hstep) (crReserved_steps hstep) (and_low_byte ha) (by omega) (crOk_steps hlo)
  · rintro hlo hhi rfl ha hround hsat
    rw [← crPut_efr ⟨hlo, hhi⟩]
    exact crWrite_done hi h hn (crGet_efr ⟨hlo, hhi⟩) (crReserved_efr ⟨hlo, hhi⟩) ha (by omega) (crOk_efr ⟨hlo, hhi⟩ hround hsat)
  · intro hro
    obtain ⟨v, hg⟩ := crGet_readOnly (s := s) hro
    exact crWrite_readOnly hi h hn hg (crReserved_readOnly hro)
  · rintro rfl rfl hv
    exact crWrite_outside hi h hn rfl rfl (by decide) (decide_eq_false (by rcases hv with rfl | rfl <;> decide))
  · rintro rfl rfl hv
    exact crWrite_outside hi h hn rfl rfl (by decide) (bne_eq_false_iff_eq.mpr hv)
  · rintro rfl rfl hv
    exact crWrite_outside hi h hn rfl rfl (by decide) (decide_eq_false (Nat.not_lt.mpr hv))

end Sys2Proof.Machine
end

section
/-! PROOFS. The kennel word, order markers, the end of a work item, YIELD, and the traps (R41, R62, R71, R128, R131 to R134, R288, R418). -/

namespace Sys2Proof.Machine

open Sys2Proof.Claims

/-! ### KLD and KST (R41, R71, R128) -/

section Kennel

variable {s : State} {o : SkOp}

/-- Eight kennel bytes inside the kennel, none of them poisoned. -/
theorem kennelBytes_ok {off : Nat} (hoff : off + 8 ≤ 65536) (hp : ∀ k, k < 8 → mget false s.bank.kpoison ((off + k) % 65536) = false) :
    s.kennelBytes off 8 = .ok ((List.range 8).map fun k => mget 0 s.bank.kview (off + k)) := by
  have hfind : (List.range 8).find? (fun k => mget false s.bank.kpoison ((off + k) % 65536)) = none :=
    List.find?_range_eq_none.mpr fun k hk => by rw [hp k hk]; rfl
  rw [State.kennelBytes, hfind]
  refine congrArg Except.ok (List.map_congr_left fun k hk => ?_)
  have hk8 : k < 8 := List.mem_range.mp hk
  rw [Nat.mod_eq_of_lt (by omega)]

theorem kld_done (h : Readable s [] o.x) (hp : ∀ k, k < 8 → mget false s.bank.kpoison ((8 * o.off.toNat + k) % 65536) = false) :
    exec (.kld o) s = .next (done (s.setX o.x (kennelWord s (8 * o.off.toNat)))) := by
  dsimp only [exec, execKld]
  rw [kennelBytes_ok (by omega) hp]
  exact scalar_done h _

/-- With its source readable KST is its guard and its bytes. -/
theorem kst_eq {go : Bool} (h : Readable s [o.x] 0) (hg : s.skGuard o = .ok go) :
    exec (.kst o) s = .next (done (if go then s.kputs (8 * o.off.toNat) (leBytes 8 (s.rx o.x).toNat) else s)) := by
  dsimp only [exec, execKst]
  rw [run_operands h, hg]
  rfl

/-- A bit acts through polarity 0 as it stands, through polarity 1 negated (R71). -/
theorem bne_polarity (b : Bool) (pol : BitVec 1) : (b != (pol == 1)) = decide (b = (pol == 0)) := by
  revert b pol
  decide

/-- The guard of SK is bit 0 of one of p0 to p7, through the polarity. -/
theorem skGuard_pred (hg : o.g = 1) (hp : s.poisoned (512 + o.pg.toNat) = false) :
    s.skGuard o = .ok (decide ((mget 0 s.bank.view.p o.pg.toNat).getLsbD 0 = (o.pol == 0))) := by
  have hkey : s.pkey (o.pg.zeroExtend 6) = o.pg.toNat := by
    have hpg := o.pg.isLt
    have hnum : (o.pg.zeroExtend 6).toNat = o.pg.toNat := by simp; omega
    rw [State.pkey, hnum, if_pos (by omega)]
  rw [State.skGuard, if_neg (by rw [hg]; decide), pget_ok (by rw [hkey]; exact hp), hkey, ok_bind, governs, bne_polarity]
  rfl

end Kennel

/-! ### FENCE and MARK (R131, R132) -/

section Markers

variable {s : State} {o : SiOp}

/-- FENCE of a scope that there is. -/
theorem fence_eq (hs : o.imm.toNat % 8 < 5) : exec (.fence o) s =
    run s (if o.imm.toNat / 16 % 4 = 0 ∧ s.bank.heldBack = false then .ok (s.acquire (o.imm.toNat % 8))
      else .ok (s.enqueue (.fence (o.imm.toNat % 8) (o.imm.toNat / 16 % 4) s.wtNext) 0 0)) := by
  dsimp only [exec, execFence]
  rw [legal_bind (decide_eq_true hs)]
  rfl

theorem fence_badScope (hs : 4 < o.imm.toNat % 8) : exec (.fence o) s = .next (illegalTaken s) := by
  dsimp only [exec, execFence]
  rw [illegal_bind (decide_eq_false (by omega))]
  rfl

theorem fence_acquires (hs : o.imm.toNat % 8 < 5) (hk : o.imm.toNat / 16 % 4 = 0) (hb : s.bank.heldBack = false) :
    exec (.fence o) s = .next (done (s.acquire (o.imm.toNat % 8))) := by
  rw [fence_eq hs, if_pos ⟨hk, hb⟩]
  rfl

theorem fence_queues (hs : o.imm.toNat % 8 < 5) (hk : o.imm.toNat / 16 % 4 ≠ 0) : exec (.fence o) s =
    .next (done (s.enqueue (.fence (o.imm.toNat % 8) (o.imm.toNat / 16 % 4) s.wtNext) 0 0)) := by
  rw [fence_eq hs, if_neg fun h => hk h.1]
  rfl

/-- An acquire drops far-cache lines at DEVICE and SYSTEM scope alone. -/
theorem acquire_narrow {sc : Nat} (h : sc ≤ 2) : s.acquire sc = s := if_neg (by simp [wideScope]; omega)

theorem acquire_wide {sc : Nat} (h : sc = 3 ∨ sc = 4) : s.acquire sc = s.dropCtx (dieOf s.cur) s.bank.id.ctx :=
  if_pos (by simp [wideScope]; omega)

theorem mark_done {o : SrOp} (h : Readable s [] o.xd) :
    exec (.mark o) s = .next (done ((s.enqueue (.mark o.xd.toNat) 0 0).markTok o.xd s.bank.ord true)) := by
  dsimp only [exec, execMark]
  rw [run_operands h]
  rfl

end Markers

/-! ### HALT and YIELD (R134, R288) -/

section Ends

variable {s : State} {o : SrOp}

theorem halt_done (h : o.fn.toNat < 2) : exec (.halt o) s =
    .next (done (s.upd fun b => { b with cur := b.cur.map fun r => { r with halt := some (o.fn == 1) } })) := by
  dsimp only [exec, execHalt]
  rw [legal_bind (decide_eq_true h)]
  rfl

theorem halt_illegal (h : 2 ≤ o.fn.toNat) : exec (.halt o) s = .next (illegalTaken s) := by
  dsimp only [exec, execHalt]
  rw [illegal_bind (decide_eq_false (Nat.not_lt.mpr h))]
  rfl

theorem yieldS_gives (h : (s.getBank (otherBank s.cur)).run = .ready) :
    exec (.yieldS o) s = .next (done (s.modCore (coreOf s.cur) fun c => { c with give := true })) := by
  dsimp only [exec, execYieldS]
  rw [if_pos h]
  rfl

theorem yieldS_keeps (h : (s.getBank (otherBank s.cur)).run ≠ .ready) : exec (.yieldS o) s = .next (done s) := by
  dsimp only [exec, execYieldS]
  rw [if_neg h]
  rfl

end Ends

/-- Settles O16: the lemmas above, form by form (R41, R71, R128, R131, R132, R134, R288). -/
theorem kennelOrderAndEndComplete : Obligations.KennelOrderAndEndComplete := by
  refine ⟨fun s o => kld_done, fun s o h => ⟨fun hg => kst_eq h (if_pos hg), fun hg hp => ?_⟩, fun s o => ?_, fun s o => mark_done,
    fun s o => ⟨halt_done, halt_illegal⟩, fun s o => ⟨yieldS_gives, yieldS_keeps⟩⟩
  · rw [kst_eq h (skGuard_pred hg hp)]
    simp only [decide_eq_true_eq]
  · refine ⟨fence_badScope, fun hs hk hb => ?_, fun hs hk hb => ?_, fun hs hk => fence_queues (by omega) hk⟩
    · rw [fence_acquires (by omega) hk hb, acquire_narrow hs]
    · rw [fence_acquires (by omega) hk hb, acquire_wide hs]

/-! ### TRAP and BRK (R133, R418) -/

/-- Context 0 with room for a record in its fault area, behind an earlier record that still waits to be written (R418): firmware has just
disposed of the records that filled the area. -/
def earlierWaits : State :=
  { State.reset with ctxs := [(0, { Ctx.reset with fa := 0x0001000000001000, waitq := [⟨FaultRec.blank, .event⟩] })] }

/-- A fault whose context has an earlier record waiting adds none to the fault area (log 65). -/
theorem takeFault_behind {s : State} {f : Flt} (hl : s.bank.lateFirst = false) (hw : (s.ctx s.bank.id.ctx).waitq ≠ []) :
    ((s.takeFault f).ctx s.bank.id.ctx).faults = (s.ctx s.bank.id.ctx).faults := by
  obtain ⟨-, -, -, -, -, -, -, -, -, -, r, -, -, -, -, -, -, -, -, -, -, -, -, hrec⟩ := faultsAreTaken.2 s f hl
  rw [if_neg fun h => hw h.1] at hrec
  exact hrec.2.1

theorem brk_faults {s : State} {o : SiOp} (h : o.imm.toNat ≤ 255) :
    exec (.brk o) s = .next (s.takeFault { cause := cBREAKPOINT, detail := o.imm.toNat, after := true }) := by
  dsimp only [exec, execBrk, trapWith]
  rw [if_neg (Nat.not_lt.mpr h)]
  rfl

/-- Refutes O17: where an earlier record of the context still waits, the record of BRK waits behind it although the area has room, so
the area's records stay as they are (R133, R418; log 65). -/
theorem not_trapsTakeTheirFault : ¬ Obligations.TrapsTakeTheirFault := by
  intro h
  obtain ⟨htaken, -⟩ := h earlierWaits ⟨0, 0, 0⟩ (.brk ⟨0, 0, 0⟩) cBREAKPOINT 0 (.inr ⟨rfl, rfl, rfl⟩)
  obtain ⟨t, r, hexec, -, hfaults, -⟩ := htaken (by decide) (by decide)
  rw [brk_faults (by decide)] at hexec
  cases hexec
  rw [takeFault_behind rfl (by decide)] at hfaults
  simp at hfaults

end Sys2Proof.Machine
end

section
/-! PROOFS. The operands of a V operation, read and written, and its integer operations (R84, R96, R97, R135, R141 to R144). -/

namespace Sys2Proof.Machine

open Sys2Proof.Claims

/-! ### What an operation of the V slots reads and writes (R84, R96, R97) -/

/-- A computation that completes is done. -/
theorem run_done {s t : State} {m : M State} (h : m = .ok t) : run s m = .next (done t) := by
  rw [h]
  rfl

/-- A condition that holds is passed, whatever the fault it guards against. -/
theorem need_bind {α : Type} {c : Bool} (h : c = true) (cause detail : Nat) (f : Unit → M α) : (need c cause detail >>= f) = f () := by
  rw [h]
  rfl

/-- A step that a condition chooses goes on with what it gives. -/
theorem ite_bind_ok {α β : Type} {p : Prop} [Decidable p] {x y : M α} {a : α} (h : (if p then x else y) = .ok a) (k : α → M β) :
    (if p then x >>= k else y >>= k) = k a := by
  rw [← ok_bind a k, ← h]
  split <;> rfl

section Sources

variable {s t : State} {slot : Nat} {fld : VFld} {f : Nat}

/-- A source that carries the tag is read. -/
theorem vtagged_ok {v : VReg} (h : s.vsrc slot fld = .ok (v, t)) (ht : v.tag = f) : s.vtagged slot fld f = .ok (v, t) := by
  simp only [State.vtagged, h, ok_bind, tagged, need_bind (decide_eq_true ht)]
  rfl

/-- Sources that all carry the tag pass the check. -/
theorem forM_tagged {vs : List VReg} (ht : ∀ v ∈ vs, v.tag = f) : vs.forM (fun v => tagged v f) = .ok () := by
  induction vs with
  | nil => rfl
  | cons v vs ih =>
    have hv : v.tag = f := ht v List.mem_cons_self
    exact (need_bind (decide_eq_true hv) _ _ _).trans (ih fun u hu => ht u (List.mem_cons_of_mem v hu))

theorem vtaggeds_ok {vs : List VReg} {n : Nat} (h : s.vsrcs slot fld n = .ok (vs, t)) (ht : ∀ v ∈ vs, v.tag = f) :
    s.vtaggeds slot fld n f = .ok (vs, t) := by
  simp only [State.vtaggeds, h, ok_bind, forM_tagged ht]
  rfl

end Sources

/-! ### Exact integer operations (R141, R142) -/

section Integers

variable {i : Instr} {s s1 s2 s3 t : State} {o : VrOp} {a b c : VReg}

/-- The elements of three registers, taken together as integers. -/
theorem map_triples {β : Type} (f : Nat) (e : Efr) (a b c : VReg) (g : Int → Int → Int → β) :
    ((a.elems f e).zip ((b.elems f e).zip (c.elems f e))).map (fun x => g (readInt (ikindOf f e) e x.1) (readInt (ikindOf f e) e x.2.1)
      (readInt (ikindOf f e) e x.2.2)) = (triples f e a b c).map fun x => g x.1 x.2.1 x.2.2 := by
  simp only [triples, List.zip_eq_zipWith, List.map_zipWith]

/-- An integer operation whose sources can be read stores what g gives of each two or three elements. -/
theorem vint_done {ok three : Bool} {g : IKind → Int → Int → Int → Nat × Nat} :
    let f := o.fmt.toNat
    let slot := vslot o.sl
    let e := s3.efr slot
    let rs := (triples f e a b c).map fun x => g (ikindOf f e) x.1 x.2.1 x.2.2
    ok = true → s.vsrc slot o.va = .ok (a, s1) → a.tag = f → s1.vsrc slot o.vb = .ok (b, s2) → b.tag = f →
    (three = false → s3 = s2 ∧ c = VReg.zero) → (three = true → s2.vsrc slot o.vc = .ok (c, s3) ∧ c.tag = f) →
    (s3.addFlags (allFlags rs)).vdst slot o.vd (vpack f e (rs.map (·.1))) = .ok t → vint o s ok three g = .next (done t) := by
  dsimp only
  intro hok ha hta hb htb hc0 hc1 hd
  have hthird : (if three then s2.vtagged (vslot o.sl) o.vc o.fmt.toNat else pure (VReg.zero, s2)) = .ok (c, s3) := by
    cases three with
    | false =>
      obtain ⟨rfl, rfl⟩ := hc0 rfl
      rfl
    | true => exact vtagged_ok (hc1 rfl).1 (hc1 rfl).2
  rw [← map_triples] at hd
  refine run_done ?_
  simp only [legal_bind hok, vtagged_ok ha hta, vtagged_ok hb htb, ok_bind, ite_bind_ok hthird]
  exact hd

/-- Each of the operations of R141 and R142 is an integer operation of its two or three elements. -/
theorem exec_eq_vint {three pk : Bool} {k : IKind} (h : ∀ x y z, ∃ r, vecIntOp i k x y z = some (o, three, pk, r)) :
    ∃ g, exec i s = vint o s (intFmt pk o.fmt.toNat && o.sm.toNat < 2) three g ∧
      ∀ x y z, vecIntOp i k x y z = some (o, three, pk, g k x y z) := by
  obtain ⟨r, hr⟩ := h 0 0 0
  cases i with
  | vadd | vsub | vadds | vsubs | vmul | vmad =>
    cases hr
    dsimp only [exec, execVadd, execVsub, execVadds, execVsubs, execVmul, execVmad, vplaced]
    exact ⟨_, rfl, fun x y z => rfl⟩
  | vabsd =>
    cases hr
    dsimp only [exec, execVabsd, vplaced]
    refine ⟨_, rfl, fun x y z => ?_⟩
    have habs : max x y - min x y = ((x - y).natAbs : Int) := by omega
    simp only [vecIntOp, habs]
  | _ => cases hr

/-- PACKED is a format of an integer operation only where p says so. -/
theorem intFmt_iff {p : Bool} {f : Nat} : intFmt p f = true ↔ isInt f = true ∨ (p = true ∧ f = tPACKED) := by
  simp only [intFmt, Bool.or_eq_true, Bool.and_eq_true, beq_iff_eq]

end Integers

/-- Settles O19: each operation is the exact result of its elements, placed (R85, R141, R142). -/
theorem integerVectorOperationsComplete : Obligations.IntegerVectorOperationsComplete := by
  intro i s s1 s2 s3 t o three pk a b c rs f slot e hi hf hsm ha hta hb htb hc0 hc1 hrs hd
  obtain ⟨g, hexec, hg⟩ := exec_eq_vint (s := s) hi
  have hvals : (triples f e a b c).map (fun x => g (ikindOf f e) x.1 x.2.1 x.2.2) = rs := by
    refine (List.map_inj_right fun _ _ => Option.some.inj).mp ?_
    rw [← hrs, List.map_map]
    exact List.map_congr_left fun x _ => by rw [hg]; rfl
  rw [hexec]
  refine vint_done ?_ ha hta hb htb hc0 hc1 ?_
  · rw [intFmt_iff.mpr hf, Bool.true_and, decide_eq_true hsm]
  · rw [hvals]
    exact hd

/-! ### Minima, maxima, upper halves and shifts (R141, R143, R144) -/

theorem elems_length (bits b : Nat) : ∀ n, (elems bits b n).length = n := by
  intro n
  induction n generalizing bits with
  | zero => rfl
  | succ n ih => rw [elems, List.length_cons, ih]

@[simp] theorem VReg.elems_length (v : VReg) (f : Nat) (e : Efr) : (v.elems f e).length = nElems f e := Machine.elems_length _ _ _

/-- Where the third source is not read, the elements stand in pairs. -/
theorem map_triples_pair {β : Type} (f : Nat) (e : Efr) (a b c : VReg) (g : Int → Int → β) :
    (triples f e a b c).map (fun x => g x.1 x.2.1) = ((a.elems f e).zip (b.elems f e)).map fun x =>
      g (readInt (ikindOf f e) e x.1) (readInt (ikindOf f e) e x.2) := by
  have hb : b.elems f e = ((b.elems f e).zip (c.elems f e)).map Prod.fst := (List.map_fst_zip (by simp)).symm
  rw [← map_triples f e a b c fun x y _ => g x y]
  conv => rhs; rw [hb, List.zip_map_right, List.map_map]
  rfl

section Products

variable {s s1 s2 t : State} {o : VrOp} {a b : VReg}

/-- An integer operation of two sources stores what g gives of each pair of elements. -/
theorem vint_pair_done {ok : Bool} {g : IKind → Int → Int → Nat × Nat} :
    let f := o.fmt.toNat
    let slot := vslot o.sl
    let e := s2.efr slot
    let k := ikindOf f e
    let rs := ((a.elems f e).zip (b.elems f e)).map fun x => g k (readInt k e x.1) (readInt k e x.2)
    ok = true → s.vsrc slot o.va = .ok (a, s1) → a.tag = f → s1.vsrc slot o.vb = .ok (b, s2) → b.tag = f →
    (s2.addFlags (allFlags rs)).vdst slot o.vd (vpack f e (rs.map (·.1))) = .ok t →
    vint o s ok false (fun k x y _ => g k x y) = .next (done t) := by
  dsimp only
  intro hok ha hta hb htb hd
  refine vint_done hok ha hta hb htb (fun _ => ⟨rfl, rfl⟩) (fun h => absurd h Bool.false_ne_true) ?_
  rw [map_triples_pair _ _ a b VReg.zero (g _)]
  exact hd

end Products

/-- Settles O20: the two sources are read in turn and their pairs stored, or the shift's operand is read with its amounts (R141, R143,
R144). -/
theorem shiftsAndProductsComplete : Obligations.ShiftsAndProductsComplete := by
  refine ⟨fun s s1 s2 t o a b => ?_, fun s s1 t o xs code => ?_⟩ <;> dsimp only
  · intro ha hta hb htb
    refine ⟨fun hf => ?_, fun hf => ?_, fun hf hsm hd => ?_, fun code hf hsm hcode hd => ?_⟩
    · exact vint_pair_done (g := fun k x y => placeExact k (min x y)) (intFmt_iff.mpr (by simpa using hf)) ha hta hb htb
    · exact vint_pair_done (g := fun k x y => placeExact k (max x y)) (intFmt_iff.mpr (by simpa using hf)) ha hta hb htb
    · dsimp only [exec, execVmulh]
      rw [if_pos hsm]
      exact vint_pair_done (g := fun k x y => (wrapBits (x * y / (2 : Int) ^ k.width) k.width, 0)) (intFmt_iff.mpr (.inl hf)) ha hta hb htb hd
    · have hlegal : (o.sm == 2 && isSigned o.fmt.toNat) = true := by rw [hf, hsm]; rfl
      dsimp only [exec, execVmulh]
      rw [if_neg (by rw [hsm]; decide)]
      refine run_done ?_
      simp only [legal_bind hlegal, hcode, vtagged_ok ha hta, vtagged_ok hb htb, ok_bind]
      exact hd
  · intro hx
    refine ⟨fun hsm hd => run_done ?_, fun hcode hd => run_done ?_⟩
    · simp only [legal_bind (decide_eq_true hsm), hx, ok_bind]
      exact hd
    · simp only [hcode, hx, ok_bind]
      exact hd

/-! ### Comparisons, selection and bitwise operations (R145 to R147) -/

/-- The sources of VSEL beside va: guard 10 puts zero in the place of vb, guard 00 reads no predicate (R146). -/
theorem vselSources_ok {s1 s2 : State} {o : VgOp} {b : VReg} {p : PBits} (hb2 : o.guard = 2 → b = VReg.zero ∧ s2 = s1)
    (hb : o.guard ≠ 2 → s1.vsrc (vslot o.sl) o.vb = .ok (b, s2) ∧ b.tag = o.fmt.toNat) (hp : o.guard ≠ 0 → s2.pget o.pg = .ok p) :
    (if o.guard = 2 then pure (VReg.zero, s1) else s1.vtagged (vslot o.sl) o.vb o.fmt.toNat) = .ok (b, s2) ∧
    (if o.guard = 0 then pure 0 else s2.pget o.pg) = .ok (if o.guard = 0 then 0 else p) := by
  constructor
  · split
    next hg =>
      obtain ⟨rfl, rfl⟩ := hb2 hg
      rfl
    next hg => exact vtagged_ok (hb hg).1 (hb hg).2
  · split
    next => rfl
    next hg => exact hp hg

section Bitwise

variable {s s1 s2 s3 t : State} {o : VrOp} {a b c : VReg} {g : VBits → VBits → VBits → VBits}
  (ha : s.vsrc (vslot o.sl) o.va = .ok (a, s1)) (hb : s1.vsrc (vslot o.sl) o.vb = .ok (b, s2))
include ha hb

theorem vbits_done (hd : s2.vdst (vslot o.sl) o.vd ⟨g a.bits b.bits 0, bitsTag a b VReg.zero⟩ = .ok t) :
    vbits o s false g = .next (done t) := by
  refine run_done ?_
  simp only [ha, hb, ok_bind]
  exact hd

theorem vbits_three_done (hc : s2.vsrc (vslot o.sl) o.vc = .ok (c, s3))
    (hd : s3.vdst (vslot o.sl) o.vd ⟨g a.bits b.bits c.bits, bitsTag a b c⟩ = .ok t) : vbits o s true g = .next (done t) := by
  refine run_done ?_
  simp only [ha, hb, hc, if_true, ok_bind]
  exact hd

end Bitwise

/-- Settles O21: the sources read, the elements are compared or chosen, or the bits combined (R145, R146, R147). -/
theorem comparesAndBitwiseComplete : Obligations.ComparesAndBitwiseComplete := by
  refine ⟨fun s s1 s2 o a b => ?_, fun s s1 s2 t o a b p => ?_, fun s s1 s2 t o a b ha hb => ?_⟩
  · dsimp only
    intro hf hfn ha hta hb htb
    have hlegal : (isInt o.fmt.toNat && o.fn.toNat < 6) = true := by rw [hf, decide_eq_true hfn]; rfl
    refine run_done ?_
    simp only [legal_bind hlegal, vtagged_ok ha hta, vtagged_ok hb htb, ok_bind]
    rfl
  · dsimp only
    intro hf hraw ha hta hb2 hb hp hd
    have hlegal : (sizedFmt o.fmt.toNat && o.fmt.toNat != tRAW) = true := by rw [hf, bne_iff_ne.mpr hraw]; rfl
    obtain ⟨hsrc, hpred⟩ := vselSources_ok hb2 hb hp
    refine run_done ?_
    simp only [legal_bind hlegal, vtagged_ok ha hta, ok_bind, ite_bind_ok hsrc, ite_bind_ok hpred]
    by_cases hg : o.guard = 0
    · simp only [hg, if_true, true_or] at hd ⊢
      exact hd
    · simp only [if_neg hg]
      exact hd
  · exact ⟨vbits_done (g := fun x y _ => x &&& y) ha hb, vbits_done (g := fun x y _ => x ||| y) ha hb,
      vbits_done (g := fun x y _ => x ^^^ y) ha hb, fun c s3 hc hd => vbits_three_done (g := fun x y z => (x &&& z) ||| (y &&& ~~~z)) ha hb hc hd⟩

end Sys2Proof.Machine
end

section
/-! PROOFS. The floating-point operations of the V slots, their comparisons and signs, and their special operands (R93 to R97, R145, R148 to
R150). -/

namespace Sys2Proof.Machine

open Sys2Proof.Claims

/-! ### Floating-point operations (R148) -/

section Floats

variable {i : Instr} {s s1 s2 s3 t : State} {o : VrOp} {a b c : VReg} {n code : Nat} {rnd : Bool}

/-- The elements of three registers, taken together as decoded values. -/
theorem map_fpTriples {β : Type} (f : Nat) (e : Efr) (a b c : VReg) (g : FV → FV → FV → β) :
    ((a.elems f e).zip ((b.elems f e).zip (c.elems f e))).map (fun x => g (fpDecode (fpFmt f) x.1) (fpDecode (fpFmt f) x.2.1)
      (fpDecode (fpFmt f) x.2.2)) = (fpTriples f e a b c).map fun x => g x.1 x.2.1 x.2.2 := by
  simp only [fpTriples, List.zip_eq_zipWith, List.map_zipWith]

/-- The n sources of a floating-point operation read one after another, zeros for those that it lacks. -/
theorem fpSources_ok {f : Nat} (hn : n = 1 ∨ n = 2 ∨ n = 3)
    (hb1 : n = 1 → s2 = s1 ∧ b = VReg.zero) (hb2 : 2 ≤ n → s1.vsrc (vslot o.sl) o.vb = .ok (b, s2) ∧ b.tag = f)
    (hc2 : n ≤ 2 → s3 = s2 ∧ c = VReg.zero) (hc3 : n = 3 → s2.vsrc (vslot o.sl) o.vc = .ok (c, s3) ∧ c.tag = f) :
    (if 2 ≤ n then s1.vtagged (vslot o.sl) o.vb f else pure (VReg.zero, s1)) = .ok (b, s2) ∧
    (if 3 ≤ n then s2.vtagged (vslot o.sl) o.vc f else pure (VReg.zero, s2)) = .ok (c, s3) := by
  constructor
  · split
    next h => exact vtagged_ok (hb2 h).1 (hb2 h).2
    next h =>
      obtain ⟨rfl, rfl⟩ := hb1 (by omega)
      rfl
  · split
    next h =>
      obtain ⟨hc, htc⟩ := hc3 (by omega)
      exact vtagged_ok hc htc
    next h =>
      obtain ⟨rfl, rfl⟩ := hc2 (by omega)
      rfl

/-- A floating-point operation whose sources can be read rounds what g gives of their elements one by one (R97, R148). -/
theorem vfp_done {g : FpFmt → Rm → FV → FV → FV → Nat × Nat} :
    let f := o.fmt.toNat
    let slot := vslot o.sl
    let e := s3.efr slot
    let r := roundElems code s3.rounding ((fpTriples f e a b c).map fun x m => g (fpFmt f) m x.1 x.2.1 x.2.2)
    isFp3 f = true → (if rnd then s.rmCode o.rnd else pure 0) = .ok code → s.vsrc slot o.va = .ok (a, s1) → a.tag = f →
    (if 2 ≤ n then s1.vtagged slot o.vb f else pure (VReg.zero, s1)) = .ok (b, s2) →
    (if 3 ≤ n then s2.vtagged slot o.vc f else pure (VReg.zero, s2)) = .ok (c, s3) →
    (s3.rounded r.2).vdst slot o.vd (vpack f e r.1) = .ok t → vfp o s n rnd g = .next (done t) := by
  dsimp only
  intro hf hcode ha hta hb hc hd
  rw [← map_fpTriples o.fmt.toNat (s3.efr (vslot o.sl)) a b c fun x y z m => g (fpFmt o.fmt.toNat) m x y z] at hd
  refine run_done ?_
  simp only [legal_bind hf, ite_bind_ok hcode, vtagged_ok ha hta, ok_bind, ite_bind_ok hb, ite_bind_ok hc]
  exact hd

/-- Each of the operations of R148 is a floating-point operation of its one to three elements. -/
theorem exec_eq_vfp {f : FpFmt} {g : Rm → FV → FV → FV → Nat × Nat} (h : ∀ r x y z, vecFpOp i f r x y z = some (o, n, rnd, g r x y z)) :
    (n = 1 ∨ n = 2 ∨ n = 3) ∧ ∃ g', exec i s = vfp o s n rnd g' ∧ g' f = g := by
  have hg {g' : Rm → FV → FV → FV → Nat × Nat} (hv : ∀ r x y z, vecFpOp i f r x y z = some (o, n, rnd, g' r x y z)) : g' = g := by
    funext r x y z
    have := (hv r x y z).symm.trans (h r x y z)
    simpa only [Option.some.injEq, Prod.mk.injEq, true_and] using this
  have h0 := h .rne .nan .nan .nan
  cases i with
  | vfadd | vfsub | vfmul | vfma | vfmin | vfmax | vfrcp | vfrsq | vfexp2 | vflog2 =>
    simp only [vecFpOp, Option.some.injEq, Prod.mk.injEq] at h0
    obtain ⟨rfl, rfl, rfl, -⟩ := h0
    dsimp only [exec, execVfadd, execVfsub, execVfmul, execVfma, execVfmin, execVfmax, execVfrcp, execVfrsq, execVfexp2, execVflog2]
    exact ⟨by decide, _, rfl, hg fun r x y z => rfl⟩
  | _ => cases h0

end Floats

/-- Settles O22: the sources read, each element is rounded once (R95, R97, R148). -/
theorem floatVectorOperationsComplete : Obligations.FloatVectorOperationsComplete := by
  intro i s s1 s2 s3 t o n code rnd a b c g f slot e hf hi hcode hcode0 ha hta hb1 hb2 hc2 hc3 hd
  obtain ⟨hn, g', hexec, rfl⟩ := exec_eq_vfp (s := s) hi
  obtain ⟨hb, hc⟩ := fpSources_ok hn hb1 hb2 hc2 hc3
  have hmode : (if rnd then s.rmCode o.rnd else pure 0) = .ok code := by
    cases rnd with
    | false => rw [hcode0 rfl]; rfl
    | true => exact hcode rfl
  rw [hexec]
  exact vfp_done hf hmode ha hta hb hc hd

/-! ### Comparisons and signs (R145, R150) -/

/-- One of two decoded elements is a NaN (R145). -/
def unordered (t : FpFmt) (x : Nat × Nat) : Bool := fvNan (fpDecode t x.1) || fvNan (fpDecode t x.2)

/-- The outcome of a comparison of VFCMP on two elements, and whether it is invalid (R145). -/
def fcmp (t : FpFmt) (fn : Nat) (x : Nat × Nat) : Bool × Bool :=
  if fn = 6 then (unordered t x, false)
  else if fn = 7 then (!unordered t x, false)
  else if unordered t x then (fn == 1, decide (2 ≤ fn))
  else (condOf fn (fvLt (fpDecode t x.1) (fpDecode t x.2)) (fvEq (fpDecode t x.1) (fpDecode t x.2)), false)

theorem fcmp_fst (t : FpFmt) (fn : Nat) (x : Nat × Nat) : (fcmp t fn x).1 =
    if fn = 6 then unordered t x else if fn = 7 then !unordered t x else if unordered t x then fn == 1
    else condOf fn (fvLt (fpDecode t x.1) (fpDecode t x.2)) (fvEq (fpDecode t x.1) (fpDecode t x.2)) := by
  simp only [fcmp, apply_ite Prod.fst]

/-- The codes from LT to GE are invalid on unordered elements (R145). -/
theorem fcmp_snd {t : FpFmt} {fn : Nat} (h : fn < 8) (x : Nat × Nat) : (fcmp t fn x).2 = (decide (2 ≤ fn ∧ fn < 6) && unordered t x) := by
  unfold fcmp
  split
  next h6 => simp [h6]
  next h6 =>
    split
    next h7 => simp [h7]
    next h7 =>
      have hlt : 2 ≤ fn ∧ fn < 6 ↔ 2 ≤ fn := by omega
      split
      next hu => simp only [hlt, hu, Bool.and_true]
      next hu => simp only [eq_false_of_ne_true hu, Bool.and_false]

/-- A comparison of a list is invalid where its code is and some pair is unordered. -/
theorem any_fcmp_snd {t : FpFmt} {fn : Nat} (h : fn < 8) (xs : List (Nat × Nat)) :
    (xs.map (fcmp t fn)).any (·.2) = true ↔ 2 ≤ fn ∧ fn < 6 ∧ xs.any (unordered t) = true := by
  simp only [List.any_map, List.any_eq_true, Function.comp_apply, fcmp_snd h, Bool.and_eq_true, decide_eq_true_eq]
  exact ⟨fun ⟨x, hx, hfn, hu⟩ => ⟨hfn.1, hfn.2, x, hx, hu⟩, fun ⟨h2, h6, x, hx, hu⟩ => ⟨x, hx, ⟨h2, h6⟩, hu⟩⟩

theorem getD_map_fst {α : Type} (f : α → Bool × Bool) (xs : List α) (j : Nat) :
    ((xs.map f)[j]?.getD (false, false)).1 = (xs.map fun x => (f x).1)[j]?.getD false := by
  rw [List.getElem?_map, List.getElem?_map]
  cases xs[j]? <;> rfl

/-- The sign that fn of VFSGN names (R150). -/
theorem sgnOf_eq {fn : Nat} (h : fn < 5) (x y : Bool) : sgnOf fn x y = ([y, !y, x != y, false, !x][fn]?).getD false := by
  match fn with
  | 0 | 1 | 2 | 3 | 4 => rfl
  | n + 5 => omega

section Signs

variable {s s1 s2 : State} {o : VrOp} {a b : VReg}

/-- VFCMP merges NV where it is invalid and writes the predicate of its pairs (R145). -/
theorem vfcmp_done :
    let f := o.fmt.toNat
    let slot := vslot o.sl
    let e := s2.efr slot
    let rs := ((a.elems f e).zip (b.elems f e)).map (fcmp (fpFmt f) o.fn.toNat)
    isFp3 f = true → o.fn.toNat < 8 →
    s.vsrc slot o.va = .ok (a, s1) → a.tag = f → s1.vsrc slot o.vb = .ok (b, s2) → b.tag = f →
    exec (.vfcmp o) s = .next (done ((if rs.any (·.2) then s2.addFlags fNV else s2).pset (predOf o.vd)
      (predOfElems (fmtWidth f e) (nElems f e) fun j => (rs[j]?.getD (false, false)).1))) := by
  dsimp only
  intro hf hfn ha hta hb htb
  have hlegal : (isFp3 o.fmt.toNat && o.fn.toNat < 8) = true := by rw [hf, decide_eq_true hfn]; rfl
  dsimp only [exec, execVfcmp]
  refine run_done ?_
  simp only [legal_bind hlegal, vtagged_ok ha hta, vtagged_ok hb htb, ok_bind]
  rfl

/-- The second source of VFSGN: vb where fn takes its sign, va itself where not (R150). -/
theorem vfsgnSource_ok (hb : o.fn.toNat < 3 → s1.vsrc (vslot o.sl) o.vb = .ok (b, s2) ∧ b.tag = o.fmt.toNat)
    (hb3 : 3 ≤ o.fn.toNat → b = a ∧ s2 = s1) :
    (if o.fn.toNat < 3 then s1.vtagged (vslot o.sl) o.vb o.fmt.toNat else pure (a, s1)) = .ok (b, s2) := by
  split
  next h => exact vtagged_ok (hb h).1 (hb h).2
  next h =>
    obtain ⟨rfl, rfl⟩ := hb3 (by omega)
    rfl

end Signs

/-- Settles O23: each comparison and each sign is the one that fn names (R145, R150). -/
theorem floatComparesAndSignsComplete : Obligations.FloatComparesAndSignsComplete := by
  refine ⟨fun s s1 s2 o a b => ?_, fun s s1 s2 t o a b => ?_⟩
  · dsimp only
    intro hf hfn ha hta hb htb
    rw [vfcmp_done hf hfn ha hta hb htb]
    simp only [any_fcmp_snd hfn, getD_map_fst, fcmp_fst]
    rfl
  · dsimp only
    intro hf hfn ha hta hb hb3 hd
    have hlegal : (isFp3 o.fmt.toNat && o.fn.toNat < 5) = true := by rw [hf, decide_eq_true hfn]; rfl
    refine run_done ?_
    simp only [legal_bind hlegal, vtagged_ok ha hta, ok_bind, ite_bind_ok (vfsgnSource_ok hb hb3), sgnOf_eq hfn]
    exact hd

/-! ### Special operands (R94, R149) -/

section Specials

variable {t : FpFmt} {r : Rm} {sg sg' : Bool} {m : Nat} {e : Int} {x : FV}

theorem fpRcp_specials : fpRcp t r (.fin sg 0 e) = (withSign t sg t.inf, fDZ) ∧ fpRcp t r (.inf sg) = (fpZero t sg, 0) ∧
    fpRcp t r .nan = (t.nan, 0) := ⟨rfl, rfl, rfl⟩

theorem fpRsq_specials (hm : m ≠ 0) : fpRsq t r (.fin sg 0 e) = (withSign t sg t.inf, 0) ∧ fpRsq t r (.inf false) = (fpZero t false, 0) ∧
    fpRsq t r (.inf true) = (t.nan, fNV) ∧ fpRsq t r (.fin true m e) = (t.nan, fNV) ∧ fpRsq t r .nan = (t.nan, 0) :=
  ⟨rfl, rfl, rfl, if_neg hm, rfl⟩

theorem fpLog2_specials (hm : m ≠ 0) : fpLog2 t r (.fin sg 0 e) = (withSign t true t.inf, fDZ) ∧
    fpLog2 t r (.inf false) = (withSign t false t.inf, 0) ∧ fpLog2 t r (.inf true) = (t.nan, fNV) ∧ fpLog2 t r (.fin true m e) = (t.nan, fNV) ∧
    fpLog2 t r .nan = (t.nan, 0) :=
  ⟨rfl, rfl, rfl, if_neg hm, rfl⟩

/-- One is exact in each of the three formats: its code is the bias alone. -/
theorem fpRound_one {f : Nat} (hf : isFp3 f = true) (r : Rm) :
    fpRound (fpFmt f) r false false 1 0 false = ((fpFmt f).bias.toNat * 2 ^ (fpFmt f).fb, 0) := by
  simp only [isFp3, Bool.or_eq_true, beq_iff_eq] at hf
  rcases hf with (rfl | rfl) | rfl <;> cases r <;> rfl

theorem fpExp2_specials {f : Nat} (hf : isFp3 f = true) : fpExp2 (fpFmt f) r (.fin sg 0 e) = ((fpFmt f).bias.toNat * 2 ^ (fpFmt f).fb, 0) ∧
    fpExp2 (fpFmt f) r (.inf false) = (withSign (fpFmt f) false (fpFmt f).inf, 0) ∧ fpExp2 (fpFmt f) r (.inf true) = (fpZero (fpFmt f) false, 0) ∧
    fpExp2 (fpFmt f) r .nan = ((fpFmt f).nan, 0) :=
  ⟨fpRound_one hf r, rfl, rfl, rfl⟩

/-- A NaN operand of a sum or a product gives the NaN and no flag (R94). -/
theorem fvAdd_nan : fvAdd r .nan x = (.nan, 0) ∧ fvAdd r x .nan = (.nan, 0) := by
  cases x <;> exact ⟨rfl, rfl⟩

theorem fvMul_nan : fvMul .nan x = (.nan, 0) ∧ fvMul x .nan = (.nan, 0) := by
  cases x <;> exact ⟨rfl, rfl⟩

/-- The invalid sums and products (R94). -/
theorem fvAdd_inf_opposite : fvAdd r (.inf sg) (.inf !sg) = (.nan, fNV) := if_neg (by cases sg <;> decide)

theorem fvMul_inf_zero : fvMul (.inf sg) (.fin sg' 0 e) = (.nan, fNV) ∧ fvMul (.fin sg' 0 e) (.inf sg) = (.nan, fNV) := ⟨rfl, rfl⟩

theorem zeroSign_eq : zeroSign r = (r == .rdn) := by
  cases r <;> rfl

/-- Opposite values cancel. -/
theorem atExp_not (e0 lo : Int) : atExp sg m e0 lo + atExp (!sg) m e0 lo = 0 := by
  cases sg with
  | false => exact Int.add_right_neg _
  | true => exact Int.add_left_neg _

/-- A sum of opposite numbers is a zero whose sign the mode gives (R94). -/
theorem fvAdd_opposite (hm : m ≠ 0) : fvAdd r (.fin sg m e) (.fin (!sg) m e) = (.fin (r == .rdn) 0 0, 0) := by
  simp only [fvAdd, atExp_not, if_true, hm, false_and, if_false, zeroSign_eq]

end Specials

/-- Settles O24: the tables of the functions, and the special cases of sums and products delivered (R94, R149). -/
theorem floatSpecialOperands : Obligations.FloatSpecialOperands := by
  intro f r x sg sg' m e hf hm
  dsimp only
  refine ⟨fpRcp_specials, fpRsq_specials hm, fpExp2_specials hf, fpLog2_specials hm, ⟨?_, ?_, ?_, ?_, ?_, ?_, ?_⟩, ?_⟩
  · rw [fvAdd_nan.1]; rfl
  · rw [fvAdd_nan.2]; rfl
  · rw [fvMul_nan.1]; rfl
  · rw [fvMul_nan.2]; rfl
  · rw [fvAdd_inf_opposite]; rfl
  · rw [fvMul_inf_zero.1]; rfl
  · rw [fvMul_inf_zero.2]; rfl
  · simp only [fvAdd_opposite hm, fpDone, fpPack, Nat.or_self]

end Sys2Proof.Machine
end

section
/-! PROOFS. Conversions, keys and bit planes of the V slots (R85, R91, R98 to R100, R151 to R159). -/

namespace Sys2Proof.Machine

open Sys2Proof.Claims

/-! ### Conversions (R98 to R100, R151 to R154, R156) -/

/-- A mantissa width that register pairs hold (R99). -/
theorem pairWidth_ok {s : State} {slot w : Nat} (hw : w = 2 ∨ w = 4 ∨ w = 8) (h : (s.efr slot).bfpw = w) : s.pairWidth slot = .ok w := by
  subst h
  exact if_pos hw

/-- Settles O25: formats, parts and sources pass their checks, and the elements are converted one by one (R151 to R154, R156). -/
theorem conversionsComplete : Obligations.ConversionsComplete := by
  refine ⟨fun s s1 t o a code => ?_, fun s s1 t o vs => ?_, fun s s1 s2 t o w a old takes => ?_, fun s s1 t o w mant exps => ?_,
    fun s s1 t o a => ?_⟩ <;> dsimp only
  · intro hf hta hsm hcode ha hp
    have hlegal : (cvtFmt o.fmt.toNat && o.sm.toNat < 2) = true := by rw [hf, decide_eq_true hsm]; rfl
    refine ⟨fun hle hd => run_done ?_, fun old s2 hlt hold hd => run_done ?_⟩
    · simp only [legal_bind hlegal, hcode, ha, need_bind hta, legal_bind (decide_eq_true hp), ok_bind, if_pos hle]
      exact hd
    · simp only [legal_bind hlegal, hcode, ha, need_bind hta, legal_bind (decide_eq_true hp), ok_bind, if_neg (Nat.not_le.mpr hlt), hold]
      exact hd
  · intro hf hpair hvs hd
    have heven : (o.fmt.toNat != tBFP || (s.vnumber (vslot o.sl) o.va % 2 == 0 && s.vnumber (vslot o.sl) o.vd % 2 == 0)) = true := by
      simpa [Decidable.imp_iff_not_or] using hpair
    refine run_done ?_
    simp only [legal_bind (decide_eq_true hf), legal_bind heven, groupSize, hvs, ok_bind]
    exact hd
  · intro hf hw he hpair hp htakes ha hta hold hd
    refine run_done ?_
    simp only [legal_bind hf, pairWidth_ok hw he, legal_bind (beq_iff_eq.mpr hpair), legal_bind (decide_eq_true hp), htakes, vtagged_ok ha hta,
      hold, ok_bind]
    exact hd
  · intro hf hw he hpair hp hvs htm hte hd
    have hfmt : (o.fmt.toNat == tFP32 || o.fmt.toNat == tBF16) = true := by simpa using hf
    have hsrc : s.vtaggeds (vslot o.sl) o.va 2 tBFP = .ok ([mant, exps], s1) := vtaggeds_ok hvs (by simp [htm, hte])
    refine run_done ?_
    simp only [legal_bind hfmt, pairWidth_ok hw he, legal_bind (beq_iff_eq.mpr hpair), legal_bind (decide_eq_true hp), hsrc, ok_bind]
    exact hd
  · intro hf hfn ha hta hd
    have hlegal : ((isInt o.fmt.toNat || o.fmt.toNat == tIDX || isFp3 o.fmt.toNat) && o.fn.toNat < 2) = true := by
      simpa [hfn, or_assoc] using hf
    refine run_done ?_
    simp only [legal_bind hlegal, vtagged_ok ha hta, ok_bind]
    exact hd

/-! ### Keys (R156) -/

section Keys

variable {f w x : Nat}

theorem isFp_of_isInt (h : isInt f = true) : isFp f = false := by
  simp only [isInt, isFp, Bool.and_eq_true, decide_eq_true_eq, Bool.and_eq_false_iff, decide_eq_false_iff_not] at h ⊢
  omega

/-- The descending key of an integer counts down from all ones (R156). -/
theorem orderKey_desc (h : isInt f = true) : orderKey f w x true = 2 ^ w - 1 - orderKey f w x false := by
  simp [orderKey, isFp_of_isInt h]

/-- The ascending key of an unsigned integer is the integer, that of a signed one stands half the range above it (R156). -/
theorem orderKey_asc (hw : 1 ≤ w) (h : isInt f = true) (hx : x < 2 ^ w) :
    (orderKey f w x false : Int) = if isSigned f then toSigned x w + 2 ^ (w - 1) else (x : Int) := by
  have hhalf : 2 ^ w = 2 * 2 ^ (w - 1) := by rw [← Nat.pow_succ', Nat.succ_eq_add_one, Nat.sub_add_cancel hw]
  have hcast (n : Nat) : (2 : Int) ^ n = ((2 ^ n : Nat) : Int) := by push_cast; rfl
  cases hs : isSigned f with
  | false => simp [orderKey, isFp_of_isInt h, hs]
  | true =>
    simp only [orderKey, isFp_of_isInt h, hs, toSigned, Nat.mod_eq_of_lt hx, hcast, if_true, Bool.false_and, Bool.false_eq_true, if_false]
    split
    next hlow => rw [Nat.mod_eq_of_lt (by omega)]; push_cast; rfl
    next hhigh => rw [Nat.mod_eq_sub_mod (by omega), Nat.mod_eq_of_lt (by omega)]; omega

theorem orderKey_lt (h : isInt f = true) (hx : x < 2 ^ w) : orderKey f w x false < 2 ^ w := by
  cases hs : isSigned f with
  | false => simpa [orderKey, isFp_of_isInt h, hs] using hx
  | true => simpa [orderKey, isFp_of_isInt h, hs] using Nat.mod_lt _ (Nat.two_pow_pos w)

end Keys

/-- Settles O26: a key is its element moved up, or counted down from all ones; the key of a NaN is at the end (R156). -/
theorem keysOrderElements : Obligations.KeysOrderElements := by
  refine ⟨fun f w x y hw hf hx hy => ?_, fun f w x hf hnan => ?_⟩
  · have hasc : ∀ y z, y < 2 ^ w → z < 2 ^ w → (orderKey f w y false < orderKey f w z false ↔
        (if isSigned f = true then toSigned y w else (y : Int)) < if isSigned f = true then toSigned z w else (z : Int)) := by
      intro y z hy hz
      rw [← Int.ofNat_lt, orderKey_asc hw hf hy, orderKey_asc hw hf hz]
      split <;> simp
    have hdesc : orderKey f w x true < orderKey f w y true ↔ orderKey f w y false < orderKey f w x false := by
      have hxt := orderKey_lt hf hx
      have hyt := orderKey_lt hf hy
      rw [orderKey_desc hf, orderKey_desc hf]
      omega
    exact ⟨hasc x y hx hy, hdesc.trans (hasc y x hy hx)⟩
  · simp [orderKey, hf, hnan]

/-! ### Bit planes (R91, R155, R157 to R159) -/

/-- A part below the parts of a plane group is one (R155). -/
theorem planePart_ok {s : State} {o : VrOp} :
    let w := (s.efr (vslot o.sl)).width
    o.fn.toNat < (2048 + 2048 / w - 1) / (2048 / w) → s.planePart o = .ok (w, 2048 / w, o.fn.toNat) :=
  fun h => if_pos h

/-- Integers placed in a plane group, under an EFR that the reads have left alone. -/
theorem vplanes_eq {s : State} {slot : Nat} {vd : VFld} {sat : Bool} {e : Efr} {xs : List Int} (h : s.efr slot = e) :
    let rs := xs.map fun x => placeInt x ⟨e.width, e.signed, true⟩ sat
    s.vplanes slot vd sat xs = (s.addFlags (allFlags rs)).vdsts slot vd (planeRegs e.width (rs.map (·.1))) := by
  subst h
  rfl

/-- Settles O27: the groups read, each part or element is placed by its rule (R155, R157, R158, R159). -/
theorem planeOperationsComplete : Obligations.PlaneOperationsComplete := by
  refine ⟨fun s s1 s2 t o a old => ?_, fun s s1 t o vs => ?_, fun s s1 s2 t o a b => ?_, fun s s1 t o a => ?_⟩ <;> dsimp only
  · intro hp ha hta hold hd
    refine run_done ?_
    simp only [planePart_ok hp, vtagged_ok ha hta, hold, ok_bind]
    exact hd
  · intro hp hvs htag hd
    refine run_done ?_
    simp only [planePart_ok hp, vtaggeds_ok hvs htag, ok_bind]
    exact hd
  · intro ha hta hb htb he hsm
    refine ⟨fun hfn hd => run_done ?_, fun hd => run_done ?_⟩
    · have hlegal : (o.sm.toNat < 2 && o.fn.toNat < 2 : Bool) = true := by rw [decide_eq_true hsm, decide_eq_true hfn]; rfl
      simp only [legal_bind hlegal, vtaggeds_ok ha hta, vtaggeds_ok hb htb, ok_bind, vplanes_eq he]
      simpa only [List.map_map, Function.comp_def] using hd
    · simp only [legal_bind (decide_eq_true hsm), vtaggeds_ok ha hta, vtaggeds_ok hb htb, ok_bind, State.vput, he]
      exact hd
  · intro ha hta he hsm hd
    refine run_done ?_
    simp only [legal_bind (decide_eq_true hsm), vtaggeds_ok ha hta, ok_bind, vplanes_eq he, List.map_map, Function.comp_def] at hd ⊢
    exact hd

end Sys2Proof.Machine
end

section
/-! PROOFS. Reductions, permutes and moves of the V slots, predicates, the sorted list and the histogram (R26, R27, R102, R160 to R163, R170 to
R176). -/

namespace Sys2Proof.Machine

open Sys2Proof.Claims

/-! ### Trees, permutation and register moves (R102, R160, R161, R163) -/

/-- A tree operation with a legal operation and a readable source stores what its tree leaves. -/
theorem vtree_done {s s1 t : State} {o : VrOp} {a : VReg} {op : TreeOp} {code : Nat} {takes : Nat → Nat → Bool}
    {tree : Nat → (Nat → Nat → Rm → Nat × Nat) → Nat → Rounding → List Nat → List Nat × Rounding} :
    let f := o.fmt.toNat
    let slot := vslot o.sl
    let e := s1.efr slot
    let xs := treeInputs f e a op takes
    let r := tree code op.op (Nat.log2 xs.length) s1.rounding xs
    o.sm.toNat < 2 → treeOf (o.fn.toNat % 128) f (o.sm == 1) = some op → s.rmCode o.rnd = .ok code →
    s.vmask (bitAt o.fn.toNat 7) o.vc = .ok takes → s.vsrc slot o.va = .ok (a, s1) → a.tag = f →
    (s1.rounded r.2).vdst slot o.vd (vpack f e r.1) = .ok t → vtree o s tree = .next (done t) := by
  dsimp only
  intro hsm hop hcode htakes ha hta hd
  refine run_done ?_
  simp only [legal_bind (decide_eq_true hsm), hop, hcode, htakes, vtagged_ok ha hta, ok_bind]
  exact hd

/-- VPERM with its table read from one register or two (R161). -/
theorem vperm_eq {s s1 s2 s3 : State} {o : VrOp} {a b c : VReg} :
    let f := o.fmt.toNat
    let slot := vslot o.sl
    let e := s3.efr slot
    let tab := a.bits.toNat + (if o.fn = 1 then c.bits.toNat <<< 2048 else 0)
    let n := nElems f e * (if o.fn = 1 then 2 else 1)
    sizedFmt f = true → o.fn.toNat < 2 → s.vsrc slot o.va = .ok (a, s1) → s1.vsrc slot o.vb = .ok (b, s2) →
    (if o.fn = 1 then s2.vsrc slot o.vc else pure (VReg.zero, s2)) = .ok (c, s3) →
    exec (.vperm o) s = run s (s3.vdst slot o.vd (vpack f e ((b.elems f e).map fun k => fieldAt tab (k % n) (fmtWidth f e)))) := by
  dsimp only
  intro hf hfn ha hb hc
  have hlegal : (sizedFmt o.fmt.toNat && o.fn.toNat < 2) = true := by rw [hf, decide_eq_true hfn]; rfl
  dsimp only [exec, execVperm]
  simp only [legal_bind hlegal, ha, hb, ok_bind, ite_bind_ok hc]

/-- Settles O28: both trees run over the elements with their identities; a permute looks up its table, and a move reads before it writes
(R102, R160, R161, R163). -/
theorem treesAndPermutesComplete : Obligations.TreesAndPermutesComplete := by
  refine ⟨fun s s1 t o a op code takes => ?_, fun s s1 s2 s3 t o a b c => ?_, fun s s1 t o vs hfn hvs hd => ?_⟩
  · exact fun hsm hop hcode htakes ha hta =>
      ⟨vtree_done (tree := redTree) hsm hop hcode htakes ha hta,
        vtree_done (tree := fun code op n r xs => scanTree code op n 1 r xs) hsm hop hcode htakes ha hta⟩
  · dsimp only
    intro hf ha hb hc0 hc1
    refine ⟨fun hfn hd => ?_, fun hfn hd => ?_⟩
    · obtain ⟨rfl, rfl⟩ := hc0 hfn
      rw [vperm_eq hf (by simp [hfn]) ha hb (if_neg (by simp [hfn]))]
      refine run_done ?_
      simpa [hfn] using hd
    · rw [vperm_eq hf (by simp [hfn]) ha hb ((if_pos hfn).trans (hc1 hfn))]
      refine run_done ?_
      simpa [hfn] using hd
  · rw [← Nat.mod_eq_of_lt hfn] at hvs
    refine run_done ?_
    simp only [hvs, ok_bind]
    exact hd

/-! ### The moves of format VX (R162) -/

/-- Settles O29: with the scalar and the sources read, each element is the one that R162 names. -/
theorem laneMovesComplete : Obligations.LaneMovesComplete := by
  refine ⟨fun s s1 o a => ?_, fun s o x => ?_⟩
  · dsimp only
    intro hf hn hx ha
    have hxa : s.operands [] o.xa = .ok () := operands_ok (fun b hb => nomatch hb) hx
    refine run_done ?_
    simp only [legal_bind hf, legal_bind (decide_eq_true hn), hxa, ha, ok_bind]
    rfl
  · dsimp only
    intro hx
    refine ⟨fun a s1 t hf ha => ⟨fun hd => run_done ?_, fun hk hn hd => run_done ?_⟩,
      fun t => ⟨fun hf hd => run_done ?_, fun hf hd => run_done ?_⟩, fun old s1 t hf hn hold hd => run_done ?_⟩
    · simp only [legal_bind hf, hx, ha, ok_bind, Bool.or_eq_true, decide_eq_true_eq]
      exact hd
    · simp only [legal_bind hf, hx, ha, ok_bind, legal_bind (decide_eq_true (And.intro hk hn))]
      exact hd
    · simp only [legal_bind hf, hx, ok_bind]
      exact hd
    · have hlegal : (isInt (vxFmt o) || vxFmt o == tIDX) = true := by simpa using hf
      simp only [legal_bind hlegal, hx, ok_bind]
      exact hd
    · simp only [legal_bind hf, legal_bind (decide_eq_true hn), hx, hold, ok_bind]
      exact hd

/-! ### Predicates (R26, R27, R170) -/

section Predicates

variable {s : State} {o : VrOp} {a b : PBits} {f w : Nat}

theorem plogic_done (g : PBits → PBits → PBits) (ha : s.pget (predOf o.va) = .ok a) (hb : s.pget (predOf o.vb) = .ok b) :
    plogic o s g = .next (done (s.pset (predOf o.vd) (g a b))) := by
  refine run_done ?_
  simp only [ha, hb, ok_bind]
  rfl

/-- The elements that a predicate governs, through the governing bit of each (R26). -/
theorem setElems_eq (h : fmtBits f = some w) (a : PBits) : setElems f a = (List.range (2048 / w)).filter fun j => a.getLsbD (j * w / 8) := by
  simp only [setElems, h, Option.getD_some]
  exact List.filter_congr fun j _ => Bool.xor_false _

theorem pelems_eq (h : fmtBits f = some w) (s : State) (vd : VFld) (g : Nat → Bool) :
    s.pelems vd f g = s.pset (predOf vd) (predOfElems w (2048 / w) g) := by
  rw [State.pelems, h]
  rfl

theorem sizedFmt_of_bits (h : fmtBits f = some w) : sizedFmt f = true := by rw [sizedFmt, h]; rfl

end Predicates

/-- Settles O30: each operation reads its sources and writes one predicate, and the write changes that register and its poison (R26, R27,
R170). -/
theorem predicateOperationsComplete : Obligations.PredicateOperationsComplete := by
  refine ⟨fun s o a b ha hb => ⟨plogic_done _ ha hb, plogic_done _ ha hb, plogic_done _ ha hb⟩, fun s o a ha => ⟨?_, ?_, fun w hw => ?_⟩,
    fun s o => ⟨fun hsm => ?_, fun w hsm hw => ?_⟩, fun s p v => ?_⟩
  · refine run_done ?_
    simp only [ha, ok_bind]
    rfl
  · refine run_done ?_
    simp only [ha, ok_bind]
    rfl
  · refine ⟨run_done ?_, run_done ?_⟩
    · simp only [legal_bind (sizedFmt_of_bits hw), ha, ok_bind, pelems_eq hw, setElems_eq hw]
      rfl
    · simp only [legal_bind (sizedFmt_of_bits hw), ha, ok_bind, pelems_eq hw, setElems_eq hw]
      rfl
  · refine run_done ?_
    simp only [hsm, legal_bind (c := decide ((1 : BitVec 2).toNat < 2)) rfl, if_true]
    rfl
  · refine run_done ?_
    simp only [hsm, legal_bind (c := decide ((0 : BitVec 2).toNat < 2)) rfl, legal_bind (sizedFmt_of_bits hw), pelems_eq hw]
    rfl
  · exact ⟨mget_mset_same _ _ _ _, mget_mset_same false s.bank.rpoison (512 + s.pkey p) false, fun k hk => mget_mset_ne _ _ _ hk,
      rfl, rfl, rfl, rfl, rfl, fun _ => rfl⟩

/-! ### The sorted list and the histogram (R171 to R176) -/

section Lists

variable {s t : State}

/-- The entry of a list, or the fill value beyond its end (R175). -/
theorem getD_map_entry (x : Option LsEntry) (idx : Bool) (fill : Nat) :
    (match x with
      | some e => if idx then e.idx else e.bits
      | none => fill) = (x.map fun e => if idx then e.idx else e.bits).getD fill := by
  cases x <;> rfl

/-- What a partial result to a stream keeps carries the tag RAW: no earlier histogram stands there (R30, R176). -/
theorem vold_not_stream {slot : Nat} {fld : VFld} {old : VReg} (h : s.vold slot fld = .ok (old, t)) (ht : old.tag = tN32) : isStream fld = false := by
  cases hs : isStream fld with
  | false => rfl
  | true =>
    simp only [State.vold, State.volds, hs, beq_self_eq_true, Bool.and_self, if_true, ok_bind] at h
    cases h
    cases ht

end Lists

/-- Settles O31: the unit is replaced, offered its elements or read by parts, and the digits of the keys are counted (R173 to R176). -/
theorem sortedListAndHistogramComplete : Obligations.SortedListAndHistogramComplete := by
  refine ⟨fun s o hf hsm => ?_, fun s s1 s2 o takes v ix => ?_, fun s t o => ?_, fun s s1 s2 t o takes v old w => ?_⟩ <;> dsimp only
  · have hlegal : (listFmt o.fmt.toNat && o.sm.toNat < 2) = true := by rw [hf, decide_eq_true hsm]; rfl
    refine run_done ?_
    simp only [legal_bind hlegal]
    rfl
  · intro hcap hf htakes hv htv hix htix
    have hlegal : (s.bank.slist.cap != 0 && o.fmt.toNat == s.bank.slist.fmt) = true := by
      rw [bne_iff_ne.mpr hcap, beq_iff_eq.mpr hf]; rfl
    refine run_done ?_
    simp only [hf] at hlegal
    simp only [hf, legal_bind hlegal, htakes, vtagged_ok hv htv, vtaggeds_ok hix htix, ok_bind]
    rfl
  · intro hcap hp hd
    refine run_done ?_
    simp only [legal_bind (bne_iff_ne.mpr hcap)]
    refine (legal_bind (decide_eq_true hp) _).trans (Eq.trans ?_ hd)
    exact congrArg (fun xs => s.vdst _ _ ⟨BitVec.ofNat 2048 (packed _ xs), _⟩) (List.map_congr_left fun j _ => getD_map_entry _ _ _)
  · intro hf hsg hw hfn htakes hv htv hacc1 hacc0 hd
    have hlegal : (isInt o.fmt.toNat && !isSigned o.fmt.toNat && o.fn.toNat % 64 < w) = true := by
      rw [hf, hsg, decide_eq_true hfn]; rfl
    refine run_done ?_
    simp only [hw, Option.getD_some, legal_bind hlegal, htakes, vtagged_ok hv htv, ok_bind, histBins, Nat.shiftRight_eq_div_pow]
    cases hacc : bitAt o.sm.toNat 1 with
    | false =>
      rw [hacc] at hd
      obtain rfl := hacc0 hacc
      exact hd
    | true =>
      obtain ⟨hold, htold⟩ := hacc1 hacc
      rw [hacc] at hd
      have hreg : (!isStream o.vd) = true := by rw [vold_not_stream hold htold]; rfl
      simp only [if_true, legal_bind hreg, hold, ok_bind, need_bind (beq_iff_eq.mpr htold)]
      exact hd

end Sys2Proof.Machine
end

section
/-! PROOFS. The vector loads (R32, R41, R54, R60, R164 to R169). -/

namespace Sys2Proof.Machine

open Sys2Proof.Claims

/-! ### Checks of an access that pass (R32, R164, R166) -/

/-- A computation that completes names no place. -/
theorem atPlace_ok {α : Type} (p : Word) (a : α) : atPlace p (.ok a : M α) = .ok a := rfl

theorem pure_eq_ok {α : Type} (a : α) : (pure a : M α) = .ok a := rfl

/-- A computation followed by a function of what it gives. -/
theorem bind_pure_eq_map {α β : Type} (x : M α) (f : α → β) : (x >>= fun a => pure (f a)) = x.map f := by
  cases x <;> rfl

/-- Computations that all complete, taken in turn. -/
theorem mapM_eq_ok {α β : Type} {f : α → M β} {xs : List α} {ys : List β} (hlen : ys.length = xs.length)
    (h : ∀ (j : Nat) (x : α) (y : β), xs[j]? = some x → ys[j]? = some y → f x = .ok y) : xs.mapM f = .ok ys := by
  induction xs generalizing ys with
  | nil =>
    obtain rfl := List.length_eq_zero_iff.mp hlen
    rfl
  | cons x xs ih =>
    cases ys with
    | nil => cases hlen
    | cons y ys =>
      have hhead : f x = .ok y := h 0 x y rfl rfl
      have htail : xs.mapM f = .ok ys := ih (Nat.succ.inj hlen) fun j => h (j + 1)
      rw [List.mapM_cons, hhead, ok_bind, htail]
      rfl

/-- A fold of steps that are those of a fold known to complete. -/
theorem foldlM_bind_congr {α β γ : Type} {f g : β → α → M β} {xs : List α} {init b : β} (h : ∀ r x, f r x = g r x)
    (hg : xs.foldlM g init = .ok b) (k : β → M γ) : (xs.foldlM f init >>= k) = k b := by
  rw [show f = g from funext fun r => funext (h r), hg, ok_bind]

section Access

variable {s : State} {slot n f w cnt : Nat} {b : Int} {xp : Word} {offs : List Int} {write : Bool}

theorem vunits_ok {v : VFld} (h : unitsFit s slot v f cnt) : s.vunits slot v f cnt = .ok () := by
  have hlegal : (f != tBFP || (s.vnumber slot v % 2 == 0 && cnt % 2 == 0)) = true := by
    simpa [unitsFit, Decidable.imp_iff_not_or] using h
  rw [State.vunits, hlegal]
  rfl

/-- The place of an access is in extent n, where the access starts at offset b. -/
theorem startsAt_iff {off : Int} : startsAt s slot xp off f w n b ↔ ∃ o, extOf xp = .ok (n, o) ∧ s.extStart slot n o off f w = .ok b := by
  refine exists_congr fun o => and_congr_left fun _ => ⟨fun h => by rw [extOf, h], fun h => ?_⟩
  unfold extOf at h
  split at h
  next heq =>
    cases h
    exact heq
  next => cases h

theorem extChecks_ok (h : inExtent s n offs write) : s.extChecks n offs write = .ok () := by
  have hfind : (offs.find? fun o => !(s.ext n).permits o 1 write) = none := List.find?_eq_none.mpr fun x hx => by simp [h x hx]
  rw [State.extChecks, hfind]

/-- A stride that the format allows, and that is not 0 for a store (R166). -/
theorem strideOf_ok {fn : BitVec 8} {store : Bool} (h1 : f = tPACKED ∨ f = tBFP → fn.toInt = 1) (h0 : store = true → fn.toInt ≠ 0) :
    strideOf fn f store = .ok fn.toInt := by
  have hfmt : ((f != tPACKED && f != tBFP) || fn.toInt == 1) = true := by
    simpa [← not_or, ← Decidable.imp_iff_not_or] using h1
  have hst : (!store || fn.toInt != 0) = true := by
    cases store with
    | false => rfl
    | true => exact bne_iff_ne.mpr (h0 rfl)
  simp only [strideOf, legal_bind hfmt, legal_bind hst]
  rfl

end Access

/-! ### The kennel (R41, R169) -/

/-- Kennel bytes that hold no error are read, wrapping at the end of the kennel. -/
theorem kennelBytes_wrap {s : State} {off n : Nat} (h : ∀ k, k < n → mget false s.bank.kpoison ((off + k) % 65536) = false) :
    s.kennelBytes off n = .ok ((List.range n).map fun k => mget 0 s.bank.kview ((off + k) % 65536)) := by
  have hfind : (List.range n).find? (fun k => mget false s.bank.kpoison ((off + k) % 65536)) = none :=
    List.find?_range_eq_none.mpr fun k hk => by rw [h k hk]; rfl
  rw [State.kennelBytes, hfind]

/-- Blocks of 256 kennel bytes read one after another. -/
theorem kennelBlocks_ok {s : State} {off cnt : Nat} (h : ∀ k, k < 256 * cnt → mget false s.bank.kpoison ((off + k) % 65536) = false) :
    (List.range cnt).mapM (fun j => s.kennelBytes (off + 256 * j) 256) =
      .ok ((List.range cnt).map fun j => (List.range 256).map fun k => mget 0 s.bank.kview ((off + 256 * j + k) % 65536)) := by
  refine mapM_eq_ok (by simp) fun i j y hj hy => ?_
  rw [List.getElem?_map, hj] at hy
  cases hy
  have hlt : j < cnt := List.mem_range.mp (List.mem_of_getElem? hj)
  refine kennelBytes_wrap fun k hk => ?_
  rw [Nat.add_assoc]
  exact h _ (by omega)

/-! ### The loads (R164 to R169) -/

/-- Settles O33: the checks of each access pass, and what it reads is written to its registers (R60, R164 to R169). -/
theorem vectorLoadsComplete : Obligations.VectorLoadsComplete := by
  refine ⟨fun s t o w xp p us => ?_, fun s s1 t o w n u xp b => ?_, fun s t o w n xp b ks => ?_, fun s s1 s2 t o ks xs xa es => ?_,
    fun s t o => ?_⟩ <;> dsimp only
  · intro hw hfit hxp hpos hus hd
    refine run_done ?_
    simp only [hw, vunits_ok hfit, hxp, hpos, hus, hd, ok_bind]
    rfl
  · intro hw hfit hst hxp hstart hin hu hd
    obtain ⟨off, hext, hb⟩ := startsAt_iff.mp hstart
    refine run_done ?_
    simp only [hw, vunits_ok hfit, strideOf_ok hst (fun h => absurd h Bool.false_ne_true), hxp, hext, hb, extChecks_ok hin, hu, hd, ok_bind]
    rfl
  · intro hw hfit hv hks hxp hstart hin hpart hgo
    obtain ⟨off, hext, hb⟩ := startsAt_iff.mp hstart
    dsimp only [exec, execVldm]
    simp only [hw, vunits_ok hfit, hv, hks, hxp, hext, hb, extChecks_ok hin, ok_bind, Bool.false_and, Bool.false_eq_true, if_false, pure_eq_ok,
      atPlace_ok, hpart, Nat.sub_zero, hgo]
    rfl
  · intro hks hxa hes hxs hd
    refine run_done ?_
    simp only [hks, hxa, hes, ok_bind]
    refine (congrArg (atPlace xa) (foldlM_bind_congr (fun r e => ?_) hxs _)).trans (congrArg (atPlace xa) hd)
    cases e with
    | ext n off => exact bind_pure_eq_map _ _
    | tile h v bit => exact bind_pure_eq_map _ _
  · intro hf hfit hp hd
    refine run_done ?_
    simp only [kennelFmt, legal_bind (decide_eq_true hf), vunits_ok hfit, kennelBlocks_ok hp, ok_bind, List.map_map]
    exact hd

end Sys2Proof.Machine
end

section
/-! PROOFS. The vector stores and what they leave alone (R32, R41, R60, R71, R164 to R169). -/

namespace Sys2Proof.Machine

open Sys2Proof.Claims

/-! ### What a queued store leaves alone (R60) -/

section Frame

variable {s t u : State}

theorem onlyQueued_refl (s : State) : onlyQueued s s := ⟨rfl, rfl, rfl, rfl, rfl, rfl, rfl, rfl, rfl, rfl⟩

theorem onlyQueued_trans (h : onlyQueued s t) (k : onlyQueued t u) : onlyQueued s u := by
  obtain ⟨h1, h2, h3, h4, h5, h6, h7, h8, h9, h10⟩ := h
  obtain ⟨k1, k2, k3, k4, k5, k6, k7, k8, k9, k10⟩ := k
  exact ⟨k1.trans h1, k2.trans h2, k3.trans h3, k4.trans h4, k5.trans h5, k6.trans h6, k7.trans h7, k8.trans h8, k9.trans h9, k10.trans h10⟩

theorem onlyQueued_foldl {α : Type} {f : State → α → State} (hf : ∀ s x, onlyQueued s (f s x)) (xs : List α) (s : State) :
    onlyQueued s (xs.foldl f s) := by
  induction xs generalizing s with
  | nil => exact onlyQueued_refl _
  | cons x xs ih => exact onlyQueued_trans (hf s x) (ih _)

theorem onlyQueued_foldlM {α : Type} {f : State → α → M State} (hf : ∀ s x t, f s x = .ok t → onlyQueued s t) {xs : List α}
    (h : xs.foldlM f s = .ok t) : onlyQueued s t := by
  induction xs generalizing s with
  | nil =>
    cases h
    exact onlyQueued_refl _
  | cons x xs ih =>
    rw [List.foldlM_cons] at h
    obtain ⟨u, hu, ht⟩ := bind_ok.mp h
    exact onlyQueued_trans (hf s x u hu) (ih ht)

/-- The extent frame cache is the core's, and no part of what a store may touch. -/
theorem onlyQueued_efcFill (s : State) (n vpn : Nat) : onlyQueued s (s.efcFill n vpn) := by
  unfold State.efcFill
  split
  next => exact onlyQueued_refl _
  next => exact onlyQueued_refl _

theorem onlyQueued_efcTouch (s : State) (n : Nat) (offs : List Nat) : onlyQueued s (s.efcTouch n offs) :=
  onlyQueued_foldl (fun s p => onlyQueued_efcFill s n p) _ s

theorem onlyQueued_pushStore (s : State) (ws : List BWrite) (d : Nat) (p : Word) : onlyQueued s (s.pushStore ws d p) := by
  unfold State.pushStore
  split
  next => exact onlyQueued_refl _
  next => exact onlyQueued_refl _

theorem onlyQueued_pushUnit (s : State) (ws : List BWrite) (d : Nat) (p : Word) : onlyQueued s (s.pushUnit ws d p) := by
  unfold State.pushUnit
  split
  next => exact onlyQueued_refl _
  next => exact onlyQueued_refl _

theorem pushStore_sq {s : State} {ws : List BWrite} (h : ws ≠ []) (d : Nat) (p : Word) : (s.pushStore ws d p).bank.sq =
    s.bank.sq ++ [⟨s.bank.ord, s.bank.iss, .store ws [] false, s.bank.bundleAt, s.bank.slot, s.bank.id.wid, d, 0, p, s.hintOf p⟩] := by
  rw [State.pushStore, if_neg h]
  rfl

/-- A unit's writes queued after its pages were looked up. -/
theorem onlyQueued_map_push {m : M (List BWrite)} {n d : Nat} {offs : List Nat} {p : Word}
    (h : m.map (fun ws => (s.efcTouch n offs).pushUnit ws d p) = .ok t) : onlyQueued s t := by
  cases m with
  | error e => cases h
  | ok ws =>
    cases h
    exact onlyQueued_trans (onlyQueued_efcTouch s n offs) (onlyQueued_pushUnit _ ws d p)

/-- The write of one element of a scatter. -/
theorem onlyQueued_putElem {w : Nat} {x : Nat × Nat × ElemAt} (h : s.putElem w x = .ok t) : onlyQueued s t := by
  obtain ⟨j, v, e⟩ := x
  cases e with
  | ext n off =>
    simp only [State.putElem, bind_pure_eq_map] at h
    exact onlyQueued_map_push h
  | tile hd tl bit =>
    cases h
    exact onlyQueued_pushUnit _ _ _ _

end Frame

/-! ### The writes of a unit (R166) -/

/-- The bytes of a unit that a store writes: those with a masked bit. -/
theorem filterMap_unitBytes (offs : List (Int × Nat)) (u m : Nat) :
    (offs.filterMap fun x => if BitVec.ofNat 8 (m >>> (8 * x.2)) = 0 then none
      else some (x.1, BitVec.ofNat 8 (u >>> (8 * x.2)), BitVec.ofNat 8 (m >>> (8 * x.2)))) =
    (offs.filter fun x => decide (m / 2 ^ (8 * x.2) % 256 ≠ 0)).map fun x =>
      (x.1, BitVec.ofNat 8 (u / 2 ^ (8 * x.2)), BitVec.ofNat 8 (m / 2 ^ (8 * x.2))) := by
  have hzero (y : Nat) : BitVec.ofNat 8 y = 0 ↔ y % 256 = 0 := by
    rw [← BitVec.toNat_inj]
    simp
  induction offs with
  | nil => rfl
  | cons x xs ih =>
    simp only [Nat.shiftRight_eq_div_pow, hzero] at ih ⊢
    rw [List.filterMap_cons, List.filter_cons]
    by_cases h : m / 2 ^ (8 * x.2) % 256 = 0 <;> simp [h, ih]

/-- The writes of a unit whose bytes lie in the extent, at the addresses of its frames (R32, R166). -/
theorem unitWrites_ok {s : State} {n u m : Nat} {offs : List Int} {ws : List BWrite} (h : unitStores s n offs u m ws) :
    s.unitWrites n offs u m = .ok ws := by
  obtain ⟨hlen, hws⟩ := h
  have hin : inExtent s n ((offs.zipIdx.filter fun x => decide (m / 2 ^ (8 * x.2) % 256 ≠ 0)).map (·.1)) true := by
    intro y hy
    obtain ⟨x, hx, rfl⟩ := List.mem_map.mp hy
    obtain ⟨j, hj, rfl⟩ := List.mem_iff_getElem.mp hx
    exact (hws j _ (ws[j]'(hlen ▸ hj)) (List.getElem?_eq_getElem hj) (List.getElem?_eq_getElem _)).1
  simp only [State.unitWrites, filterMap_unitBytes, List.map_map]
  rw [show (fun x : Int × Byte × Byte => x.1) ∘ _ = fun x : Int × Nat => x.1 from rfl, extChecks_ok hin, ok_bind]
  refine mapM_eq_ok (by rw [hlen, List.length_map]) fun j y w hy hw => ?_
  rw [List.getElem?_map] at hy
  obtain ⟨x, hx, rfl⟩ := Option.map_eq_some_iff.mp hy
  obtain ⟨-, ⟨a, ha, hloc⟩, hval, hmask⟩ := hws j x w hx hw
  obtain ⟨loc, val, mask⟩ := w
  cases hloc
  cases hval
  cases hmask
  simp only [ha, ok_bind]
  rfl

/-! ### Kennel bytes written (R41, R169) -/

/-- The kennel writes of VKST: for each byte of each register its offset, its value and its mask. -/
def kstWrites (off mask : Nat) (vs : List VReg) : List (Nat × Byte × Byte) :=
  vs.zipIdx.flatMap fun x => (List.range 256).map fun k =>
    (off + 256 * x.2 + k, BitVec.ofNat 8 (x.1.bits.toNat >>> (8 * k)), BitVec.ofNat 8 (mask >>> (8 * k)))

/-- Kennel writes made in turn. -/
def kmerges (s : State) (ws : List (Nat × Byte × Byte)) : State := ws.foldl (fun s w => s.kmerge w.1 w.2.1 w.2.2) s

section Kennel

variable {s s1 : State} {off mask a : Nat} {vs : List VReg}

theorem mem_kstWrites {w : Nat × Byte × Byte} : w ∈ kstWrites off mask vs ↔ ∃ j v k, vs[j]? = some v ∧ k < 256 ∧
    w = (off + 256 * j + k, BitVec.ofNat 8 (v.bits.toNat >>> (8 * k)), BitVec.ofNat 8 (mask >>> (8 * k))) := by
  simp only [kstWrites, List.mem_flatMap, List.mem_map, List.mem_range, Prod.exists, List.mk_mem_zipIdx_iff_getElem?]
  exact ⟨fun ⟨v, j, hj, k, hk, hw⟩ => ⟨j, v, k, hj, hk, hw.symm⟩, fun ⟨j, v, k, hj, hk, hw⟩ => ⟨v, j, hj, k, hk, hw.symm⟩⟩

/-- A byte merged under an empty mask stays, under a whole one is replaced. -/
theorem merge_empty (x v : Byte) : (x &&& ~~~0#8) ||| (v &&& 0#8) = x := by
  rw [show ~~~0#8 = BitVec.allOnes 8 from rfl, BitVec.and_allOnes, BitVec.and_zero, BitVec.or_zero]

theorem merge_whole (x v : Byte) : (x &&& ~~~0xFF#8) ||| (v &&& 0xFF#8) = v := by
  rw [show 0xFF#8 = BitVec.allOnes 8 from rfl, BitVec.not_allOnes, BitVec.and_zero, BitVec.and_allOnes, BitVec.zero_or]

/-- A masked kennel byte: the byte read back, and every other byte. -/
theorem kmerge_kennel (s : State) (off : Nat) (v m : Byte) (a : Nat) : mget 0 (s.kmerge off v m).bank.kennel a =
    if a = off % 65536 then (mget 0 s.bank.kennel a &&& ~~~m) ||| (v &&& m) else mget 0 s.bank.kennel a := by
  unfold State.kmerge
  split
  next hm =>
    obtain rfl : m = 0#8 := hm
    rw [merge_empty, ite_self]
  next hm =>
    refine (mget_mset _ _ _ _ _).trans ?_
    split
    next ha => rw [ha]
    next => rfl

theorem kmerge_frame (s : State) (off : Nat) (v m : Byte) : (s.kmerge off v m).mem = s.mem ∧ (s.kmerge off v m).bank.regs = s.bank.regs ∧
    (s.kmerge off v m).bank.sq = s.bank.sq := by
  unfold State.kmerge
  split <;> exact ⟨rfl, rfl, rfl⟩

theorem kmerges_frame (s : State) (ws : List (Nat × Byte × Byte)) : (kmerges s ws).mem = s.mem ∧ (kmerges s ws).bank.regs = s.bank.regs ∧
    (kmerges s ws).bank.sq = s.bank.sq := by
  induction ws generalizing s with
  | nil => exact ⟨rfl, rfl, rfl⟩
  | cons w ws ih =>
    obtain ⟨hmem, hregs, hsq⟩ := ih (s.kmerge w.1 w.2.1 w.2.2)
    obtain ⟨kmem, kregs, ksq⟩ := kmerge_frame s w.1 w.2.1 w.2.2
    exact ⟨hmem.trans kmem, hregs.trans kregs, hsq.trans ksq⟩

/-- A kennel byte that no write names stays. -/
theorem kmerges_other {ws : List (Nat × Byte × Byte)} (h : ∀ w ∈ ws, a ≠ w.1 % 65536) (s : State) :
    mget 0 (kmerges s ws).bank.kennel a = mget 0 s.bank.kennel a := by
  induction ws generalizing s with
  | nil => rfl
  | cons w ws ih =>
    refine (ih (fun x hx => h x (List.mem_cons_of_mem w hx)) _).trans ?_
    rw [kmerge_kennel, if_neg (h w List.mem_cons_self)]

/-- A kennel byte whose writes are all whole and of one value holds it once one is made. -/
theorem kmerges_whole {ws : List (Nat × Byte × Byte)} {v : Byte} (h : ∀ w ∈ ws, a = w.1 % 65536 → w.2 = (v, 0xFF#8)) (s : State)
    (hv : mget 0 s.bank.kennel a = v ∨ ∃ w ∈ ws, a = w.1 % 65536) : mget 0 (kmerges s ws).bank.kennel a = v := by
  induction ws generalizing s with
  | nil => exact hv.resolve_right fun ⟨w, hw, _⟩ => nomatch hw
  | cons w ws ih =>
    refine ih (fun x hx => h x (List.mem_cons_of_mem w hx)) _ ?_
    rw [kmerge_kennel]
    by_cases ha : a = w.1 % 65536
    · have hw : w.2 = (v, 0xFF#8) := h w List.mem_cons_self ha
      exact .inl (by rw [if_pos ha, hw, merge_whole])
    · rw [if_neg ha]
      refine hv.imp_right fun ⟨x, hx, hax⟩ => ⟨x, (List.mem_cons.mp hx).resolve_left fun hxw => ha (hxw ▸ hax), hax⟩

end Kennel

/-- VKST is the writes of its registers, made in turn (R169). -/
theorem vkst_eq {s s1 : State} {o : VkOp} {g : Option (PBits × BitVec 1)} {vs : List VReg} (hf : o.fmt.toNat < 0x12)
    (hfit : unitsFit s (vslot o.sl) o.v o.fmt.toNat (o.cnt.toNat + 1)) (hg : s.vguard o.guard o.pg o.pol = .ok g)
    (hvs : s.vsrcs (vslot o.sl) o.v (o.cnt.toNat + 1) = .ok (vs, s1)) :
    exec (.vkst o) s = .next (done (kmerges s1 (kstWrites o.off.toNat (kstMask o.fmt.toNat (s1.efr (vslot o.sl)) g) vs))) := by
  refine run_done ?_
  simp only [kennelFmt, legal_bind (decide_eq_true hf), vunits_ok hfit, hg, hvs, ok_bind, kmerges, kstWrites, List.foldl_flatMap, List.foldl_map]
  rfl

/-- Without a guard every byte of a register is written whole. -/
theorem kstMask_none (f : Nat) (e : Efr) {k : Nat} (hk : k < 256) : BitVec.ofNat 8 (kstMask f e none >>> (8 * k)) = 0xFF#8 := by
  rw [show 0xFF#8 = BitVec.allOnes 8 from rfl]
  refine BitVec.eq_of_getLsbD_eq fun i hi => ?_
  rw [BitVec.getLsbD_ofNat, kstMask, Nat.testBit_shiftRight, Nat.testBit_two_pow_sub_one, BitVec.getLsbD_allOnes, decide_eq_true hi,
    decide_eq_true (show 8 * k + i < 2048 by omega), Bool.and_true]

/-- Settles O34: the checks of each access pass, its writes are queued one entry for a unit or an element, and VKST writes the kennel at once
(R60, R71, R164 to R169). -/
theorem vectorStoresComplete : Obligations.VectorStoresComplete := by
  refine ⟨fun s s1 o w g xp vs => ?_, fun s s1 o w g xp vs => ?_, fun s s1 t o w n b xp vs => ?_, fun s s1 s2 t o g ks v xa es => ?_,
    fun s s1 o g vs => ?_, fun s ws d p => ⟨onlyQueued_pushStore s ws d p, fun h => pushStore_sq h d p⟩⟩ <;> dsimp only
  · intro hw hfit hg hxp hvs
    refine ⟨fun hm => run_done ?_, fun p hm hpos => run_done ?_⟩
    · simp only [hw, vunits_ok hfit, hg, hxp, hvs, ok_bind, if_pos hm]
      rfl
    · simp only [hw, vunits_ok hfit, hg, hxp, hvs, ok_bind, if_neg hm, hpos]
      rfl
  · intro hw hfit hst0 hst1 hg hxp hvs
    refine ⟨fun hm => run_done ?_, fun n b ws hm hstart hws => run_done ?_⟩
    · simp only [hw, vunits_ok hfit, strideOf_ok hst1 fun _ => hst0, hg, hxp, hvs, ok_bind, if_pos hm]
      rfl
    · obtain ⟨off, hext, hb⟩ := startsAt_iff.mp hstart
      simp only [hw, vunits_ok hfit, strideOf_ok hst1 fun _ => hst0, hg, hxp, hvs, ok_bind, if_neg hm, hext, hb, unitWrites_ok hws]
      rfl
  · intro hw hfit hxp hvs hstart hin ht
    obtain ⟨off, hext, hb⟩ := startsAt_iff.mp hstart
    refine ⟨run_done ?_, onlyQueued_foldlM (fun _ _ _ => onlyQueued_map_push) ht⟩
    simp only [hw, vunits_ok hfit, hxp, hvs, ok_bind, hext, hb, extChecks_ok hin, bind_pure_eq_map, ht]
    rfl
  · intro hg hks hv hxa hes ht
    refine ⟨run_done ?_, onlyQueued_foldlM (fun _ _ _ => onlyQueued_putElem) ht⟩
    cases g with
    | none =>
      simp only [hg, hks, hv, hxa, ok_bind, bind_pure_eq_map, hes, ht]
      rfl
    | some g =>
      simp only [hg, hks, hv, hxa, ok_bind, bind_pure_eq_map, hes, ht]
      rfl
  · intro hf hfit hg hvs
    obtain ⟨hmem, hregs, hsq⟩ := kmerges_frame s1 (kstWrites o.off.toNat (kstMask o.fmt.toNat (s1.efr (vslot o.sl)) g) vs)
    refine ⟨_, vkst_eq hf hfit hg hvs, hmem, hregs, hsq, ?_, ?_⟩
    · rintro rfl j v k hj hk hoff
      have hlt := (List.getElem?_eq_some_iff.mp hj).1
      have hmod : o.off.toNat + 256 * j + k = (o.off.toNat + 256 * j + k) % 65536 := (Nat.mod_eq_of_lt (by omega)).symm
      refine kmerges_whole (fun w hw ha => ?_) s1 (.inr ⟨_, mem_kstWrites.mpr ⟨j, v, k, hj, hk, rfl⟩, hmod⟩)
      obtain ⟨j', v', k', hj', hk', rfl⟩ := mem_kstWrites.mp hw
      have hlt' := (List.getElem?_eq_some_iff.mp hj').1
      rw [Nat.mod_eq_of_lt (show o.off.toNat + 256 * j' + k' < 65536 by omega)] at ha
      obtain rfl : j = j' := by omega
      obtain rfl : k = k' := by omega
      cases hj.symm.trans hj'
      rw [kstMask_none _ _ hk, Nat.shiftRight_eq_div_pow]
    · intro a ha hout
      refine kmerges_other (fun w hw => ?_) s1
      obtain ⟨j, v, k, hj, hk, rfl⟩ := mem_kstWrites.mp hw
      have hlt := (List.getElem?_eq_some_iff.mp hj).1
      rw [Nat.add_assoc]
      exact hout _ (by omega)

end Sys2Proof.Machine
end

section
/-! PROOFS. The operands of the M and C slots, captured scalars, consumed tokens and stepped places, taken without a fault; and the issue of
an M-slot operation (R22, R53 to R55, R199). -/

namespace Sys2Proof.Machine

open Sys2Proof.Claims

/-! ### Captured scalars and consumed tokens (R22, R53) -/

section Captured

variable {s : State} {slot : Nat} {srcs ks : List XReg} {k : XReg}

/-- A captured operand is read at the first issue, and kept for the later ones. -/
theorem scap_ok (h : Takes s slot srcs k) {a : XReg} (ha : a ∈ srcs) : s.scap slot a = .ok (capOf s slot a) := by
  unfold State.scap capOf
  by_cases hf : (s.cursor slot).fresh = true
  · obtain ⟨hpending, hpoison⟩ := (h hf).1 a ha
    have hgood : (a != 0 && s.poisoned a.toNat) = false := by
      rcases hpoison with rfl | hp
      · rfl
      · rw [hp, Bool.and_false]
    simp only [hf, hpending, hgood, Bool.false_eq_true, if_true, if_false]
  · simp only [hf, Bool.false_eq_true, if_false]

/-- The token register of a first issue is free. -/
theorem tokenFree (h : Takes s slot srcs k) : (!((s.cursor slot).fresh && s.bank.regs.pending k)) = true := by
  cases hf : (s.cursor slot).fresh with
  | false => rfl
  | true => rw [(h hf).2]; rfl

theorem tokensGood_ok (h : tokensSound s ks) : s.tokensGood ks = .ok () := by
  have hfind : ks.find? (fun a => a != 0 && !s.bank.view.pending a && s.poisoned a.toNat) = none :=
    List.find?_eq_none.mpr fun a ha => by rcases h a ha with h | h | h <;> simp [h]
  rw [State.tokensGood, hfind]

end Captured

/-- A wait that is over is passed. -/
theorem await_bind {α : Type} {c : Bool} (h : c = true) (f : Unit → M α) : (await c >>= f) = f () := by rw [h]; rfl

theorem await_stall {α : Type} {c : Bool} (h : c = false) (f : Unit → M α) : (await c >>= f) = stall := by rw [h]; rfl

/-- A loop whose every turn completes. -/
theorem forIn_ok {α : Type} {xs : List α} {f : α → PUnit → M (ForInStep PUnit)} (h : ∀ x ∈ xs, f x ⟨⟩ = .ok (.yield ⟨⟩)) :
    forIn xs PUnit.unit f = .ok ⟨⟩ := by
  induction xs with
  | nil => rfl
  | cons x xs ih =>
    rw [List.forIn_cons, h x List.mem_cons_self, ok_bind]
    exact ih fun y hy => h y (List.mem_cons_of_mem x hy)

/-! ### Stepped places (R54, R55) -/

section Stepped

variable {s : State} {slot f w r c : Nat} {t : Option Tile} {adv : Adv} {x : Word}

theorem steppedIn_ok (h : rowColIn t adv r c) : steppedIn t adv r c = .ok () := by
  obtain ⟨hrow0, hrow1, hcol0, hcol1, htile⟩ := h
  unfold steppedIn
  rw [if_neg (by simp [hrow0, hrow1, hcol0, hcol1])]
  cases t with
  | none => rfl
  | some t =>
    obtain ⟨hcol, hrow⟩ := htile t rfl
    exact if_pos ⟨hcol.imp_right fun h => ⟨hcol0, h⟩, hrow.imp_right fun h => ⟨hrow0, h⟩⟩

/-- A place that stays in its range passes the check of its step. -/
theorem stepOk_ok (h : stepsInRange s slot f w x) : s.stepOk f w (s.adv slot) x = .ok () := by
  unfold stepsInRange at h
  unfold State.stepOk
  cases hp : placeOf x with
  | none => rfl
  | some p =>
    rw [hp] at h
    cases p with
    | ext n off => exact congrArg (atPlace x) (if_pos h)
    | own hd r c => exact congrArg (atPlace x) (steppedIn_ok h)
    | remote node win off => exact congrArg (atPlace x) (congrArg legal (decide_eq_true h))
    | peer core hd r c => exact congrArg (atPlace x) (steppedIn_ok h)
    | ctr node gen i => rfl

end Stepped

/-- A stepped place of the M slot: one that must be a tile and is none is judged at the start. -/
theorem millStep_ok {s : State} {x : Word} {tileOnly : Bool} (h : (tileOnly = true ∧ ∀ h r c, placeOf x ≠ some (.own h r c)) ∨
    stepsInRange s 3 (domFmt s.domainAhead.domain) s.domainAhead.width x) : s.millStep x tileOnly = .ok () := by
  unfold State.millStep
  rcases h with ⟨rfl, hne⟩ | h
  · split
    next hp => exact absurd hp (hne _ _ _)
    next htrue _ => cases htrue
    next => rfl
  · split
    next => exact stepOk_ok h
    next => exact stepOk_ok h
    next => rfl

/-! ### The issue of the M slot (R199) -/

/-- The command that an M-slot operation puts in the queue: its operands, advance, tokens and EFR, nothing of it begun. -/
def issuedCmd (s : State) (o : MOp) (i : Instr) : MillCmd :=
  { ord := s.bank.ord, kd := o.kd.toNat, instr := i, caps := mputs 0 [] 0 [capOf s 3 o.xa, capOf s 3 o.xb, capOf s 3 o.xc], adv := s.adv 3,
    deps := [o.k1, o.k2, o.k3].map s.depOf, efr := s.efrWord 3, bundle := s.bank.bundleAt, wid := s.bank.id.wid,
    started := false, waiting := false, captured := false, k0 := 0, base := (0, 0), aRows := [], bRows := [], full := false,
    tag := none, rows := [], dom := (0, 0), fed := 0, stat := 0, late := 0, value := none, fail := (0, 0), recorded := false }

/-- The state after the issue: the command queued, its token register pending. -/
def millIssued (s : State) (o : MOp) (i : Instr) : State :=
  (s.newOrd.2.upd fun b => { b with cmds := b.cmds ++ [issuedCmd s o i] }).markTok o.kd s.bank.ord (s.cursor 3).fresh

/-- An issue that every check lets pass queues the command. -/
theorem mIssue_ok {s : State} {o : MOp} {i : Instr} {ok : Bool} {places : List (XReg × Bool)} (hmill : s.bank.id.mill = true)
    (hok : ok = true) (hroom : s.bank.cmds.length < 8) (htakes : Takes s 3 [o.xa, o.xb, o.xc] o.kd)
    (htok : tokensSound s [o.k1, o.k2, o.k3]) (hsrc : ∀ a ∈ places, a.1 ∈ [o.xa, o.xb, o.xc])
    (hstep : ∀ a ∈ places, (a.2 = true ∧ ∀ h r c, placeOf (capOf s 3 a.1) ≠ some (.own h r c)) ∨
      stepsInRange s 3 (domFmt s.domainAhead.domain) s.domainAhead.width (capOf s 3 a.1)) :
    s.mIssue o i ok places = .ok (millIssued s o i) := by
  unfold State.mIssue
  rw [legal_bind hmill, legal_bind hok, await_bind (decide_eq_true hroom), scap_ok htakes (a := o.xa) (by simp), ok_bind,
    scap_ok htakes (a := o.xb) (by simp), ok_bind, scap_ok htakes (a := o.xc) (by simp), ok_bind]
  dsimp only
  rw [tokensGood_ok htok, ok_bind, await_bind (tokenFree htakes), forIn_ok, ok_bind]
  · rfl
  · intro a ha
    rw [scap_ok htakes (hsrc a ha), ok_bind, millStep_ok (hstep a ha), ok_bind]
    rfl

/-- With 8 commands queued the operation waits. -/
theorem mIssue_full {s : State} {o : MOp} {i : Instr} {ok : Bool} {places : List (XReg × Bool)} (hmill : s.bank.id.mill = true)
    (hok : ok = true) (hfull : 8 ≤ s.bank.cmds.length) : s.mIssue o i ok places = stall := by
  unfold State.mIssue
  rw [legal_bind hmill, legal_bind hok, await_stall (decide_eq_false (Nat.not_lt.mpr hfull))]

/-- A kernel without a Mill, or an operation that its entry does not allow. -/
theorem mIssue_illegal {s : State} {o : MOp} {i : Instr} {ok : Bool} {places : List (XReg × Bool)}
    (h : s.bank.id.mill = false ∨ ok = false) : s.mIssue o i ok places = illegal := by
  unfold State.mIssue
  by_cases hmill : s.bank.id.mill = true
  · rw [legal_bind hmill, illegal_bind (h.resolve_left (by simp [hmill]))]
  · rw [illegal_bind (Bool.eq_false_iff.mpr hmill)]

section Forms

variable {s : State} {i : Instr} {o : MOp} (h : mopOf i = some o)
include h

/-- Each of the thirteen instructions is one issue, with the limits of its entry and its places. -/
theorem exec_eq_mIssue : exec i s = run s (s.mIssue o i (millLegal s i) (millPlaces i)) := by
  cases i with
  | mlease | mrel | mmode | mloadp | mflow | mskew | mclr | mpre | mfeed | mfeedr | mdrain | mstat | mresume => cases h; rfl
  | _ => cases h

/-- The places of an M-slot instruction are among its captured operands. -/
theorem millPlaces_captured : ∀ a ∈ millPlaces i, a.1 ∈ [o.xa, o.xb, o.xc] := by
  cases i with
  | mlease | mrel | mmode | mloadp | mflow | mskew | mclr | mpre | mfeed | mfeedr | mdrain | mstat | mresume => cases h; simp [millPlaces]
  | _ => cases h

end Forms

/-- A captured operand of the issued command. -/
theorem issuedCmd_cap (s : State) (o : MOp) (i : Instr) : (issuedCmd s o i).cap 0 = capOf s 3 o.xa ∧
    (issuedCmd s o i).cap 1 = capOf s 3 o.xb ∧ (issuedCmd s o i).cap 2 = capOf s 3 o.xc := by
  simp [MillCmd.cap, issuedCmd, mputs, mget_mset]

/-- Settles O39: the checks of the issue pass and the command stands at the end of the queue; with the queue full the operation waits, and
the first two checks answer ILLEGAL_OPERAND (R22, R55, R72, R199, R272). -/
theorem millIssuesComplete : Obligations.MillIssuesComplete := by
  intro s i o h
  rw [exec_eq_mIssue h]
  refine ⟨fun hmill hok hroom htakes htok hstep => ?_, fun hmill hok hfull => ?_, fun hbad => ?_⟩
  · obtain ⟨ha, hb, hc⟩ := issuedCmd_cap s o i
    exact ⟨millIssued s o i, issuedCmd s o i, run_done (mIssue_ok hmill hok hroom htakes htok (millPlaces_captured h) hstep),
      rfl, rfl, rfl, ha, hb, hc, rfl, rfl, rfl, rfl, rfl, rfl, rfl, rfl, rfl, rfl, rfl⟩
  · rw [mIssue_full hmill hok hfull]
    rfl
  · rw [mIssue_illegal hbad]
    rfl

end Sys2Proof.Machine
end

section
/-! PROOFS. The Mill's commands start, complete and capture the array, and leases and PAIR windows end (R191 to R209). -/

namespace Sys2Proof.Machine

open Sys2Proof.Claims

/-! ### The Mill as a command finds it (R195, R198) -/

@[simp] theorem millWorks_cur (u : State) : u.millWorks.cur = u.cur := by
  unfold State.millWorks
  split <;> rfl

@[simp] theorem millWorks_bank (u : State) : u.millWorks.bank = u.bank := by
  unfold State.millWorks
  split <;> rfl

/-- What counts the idle time changes no more of a Mill. -/
theorem millWorks_mill (u : State) : ∃ idle mark, (u.millWorks.mg (mgOf u.cur)).mill =
    { (u.mg (mgOf u.cur)).mill with idle := idle, mark := mark } := by
  unfold State.millWorks
  split
  · exact ⟨_, _, rfl⟩
  · rw [State.modMill, State.modMg_mg_same]
    dsimp only
    split
    · exact ⟨_, _, rfl⟩
    · exact ⟨_, _, rfl⟩

/-- Outside PAIR mode a bank's Mill is that of its group. -/
theorem millOf_normal {s : State} {b : Nat} (h : (s.mg (mgOf b)).mill.pair = false) : s.millOf b = (s.mg (mgOf b)).mill := by
  have hhalf : s.secondHalf b = false := by rw [State.secondHalf, h, Bool.false_and]
  rw [State.millOf, hhalf]
  rfl

/-- The Mill at work for a further counted command (R195). -/
def millCounts (u : State) : State := u.millWorks.modMill (mgOf u.cur) fun m => { m with count := m.count + 1 }

/-- The count and the idle time are all of the Mill that differs. -/
theorem millCounts_mill (u : State) : ∃ idle mark, ((millCounts u).mg (mgOf (millCounts u).cur)).mill =
    { (u.mg (mgOf u.cur)).mill with idle := idle, mark := mark, count := (u.mg (mgOf u.cur)).mill.count + 1 } := by
  obtain ⟨idle, mark, h⟩ := millWorks_mill u
  refine ⟨idle, mark, ?_⟩
  rw [millCounts, State.modMill_cur, millWorks_cur, State.modMill, State.modMg_mg_same, h]

/-! ### The start of a command (R195, R199) -/

section Start

variable {s u : State} {b : Nat} {c : MillCmd}

theorem millCommandStart_eq (hu : s.focus b = u) (h : u.nextStart = some c) :
    exec (.millCommandStart b) s = .next ((u.millStart c).focus s.cur) := by
  dsimp only [exec, execMillCommandStart, State.onBank]
  rw [hu, h]

/-- A failed token cancels the command (R199). -/
theorem millStart_cancels (h : depsFail c.deps = true) : u.millStart c = u.millWorks.cmdCancel c := by
  unfold State.millStart
  rw [h]
  rfl

theorem cmdCancel_eq (u : State) (c : MillCmd) : u.millWorks.cmdCancel c =
    (if counted c.instr = true ∧ (u.mg (mgOf u.cur)).mill.pair = false ∧ (u.mg (mgOf u.cur)).mill.holder = some u.cur ∧
      (u.mg (mgOf u.cur)).mill.count < 64 then millCounts u else u.millWorks).cmdValue c (failVal cDEP_FAILED 0 0) := by
  obtain ⟨idle, mark, hm⟩ := millWorks_mill u
  simp only [State.cmdCancel, millWorks_cur, hm]
  rfl

variable (hdeps : depsFail c.deps = false) (hsusp : u.bank.susp = none) (hpair : (u.mg (mgOf u.cur)).mill.pair = false)
include hdeps hsusp hpair

/-- In NORMAL mode a command whose tokens hold, none of its bank suspended, is judged by the lease, but for MLEASE and MMODE (R195). -/
theorem millStart_leased (h : needsNoLease c = false) : u.millStart c = u.millWorks.startLeased c := by
  obtain ⟨idle, mark, hm⟩ := millWorks_mill u
  dsimp only [State.millStart]
  rw [hdeps, millWorks_bank, hsusp, millWorks_cur, hm, if_neg (by simp), if_neg (by simp [hpair])]
  unfold needsNoLease at h
  split
  next hi => rw [hi] at h; cases h
  next hi => rw [hi] at h; cases h
  next => rfl

/-- A bank that does not hold the lease and has lost none (R195). -/
theorem millStart_noLease (hholder : (u.mg (mgOf u.cur)).mill.holder ≠ some u.cur) (hlost : u.bank.lost = 0) (h : needsNoLease c = false) :
    u.millStart c = (u.millWorks.upd fun b => { b with lost := 0 }).cmdValue c (failVal cLEASE_FAULT 1 0) := by
  obtain ⟨idle, mark, hm⟩ := millWorks_mill u
  rw [millStart_leased hdeps hsusp hpair h]
  dsimp only [State.startLeased]
  rw [millWorks_bank, millWorks_cur, hm, if_neg (by simp [hpair]), if_pos hholder, hlost]
  rfl

variable (hholder : (u.mg (mgOf u.cur)).mill.holder = some u.cur) (hcount : (u.mg (mgOf u.cur)).mill.count < 64)
  (hloaded : (u.mg (mgOf u.cur)).mill.loaded = true)
include hholder hcount hloaded

/-- A counted command of the holder, its program loaded and its run in the state it wants, takes effect (R194, R195). -/
theorem millStart_counted {t : State} (hc : counted c.instr = true)
    (hrun : runWanted c.instr = none ∨ runWanted c.instr = some (u.mg (mgOf u.cur)).mill.open_)
    (ht : (millCounts u).startEffect c = .ok t) : u.millStart c = t := by
  have hlease : needsNoLease c = false := by
    unfold needsNoLease
    split
    next hi => rw [hi] at hc; cases hc
    next hi => rw [hi] at hc; cases hc
    next => rfl
  obtain ⟨idle, mark, hm⟩ := millWorks_mill u
  obtain ⟨idle', mark', hm'⟩ := millCounts_mill u
  have hmill : (millCounts u).millOf (millCounts u).cur = ((millCounts u).mg (mgOf (millCounts u).cur)).mill :=
    millOf_normal (by rw [hm']; exact hpair)
  have hheld : (millCounts u).startHeld c = .ok t := by
    unfold State.startHeld
    rw [hmill, hm']
    dsimp only
    rw [if_neg (by simp [hloaded])]
    rcases hrun with hrun | hrun
    · rw [hrun]
      exact ht
    · rw [hrun]
      dsimp only
      rw [if_neg (not_not_intro rfl)]
      exact ht
  rw [millStart_leased hdeps hsusp hpair hlease]
  dsimp only [State.startLeased]
  rw [millWorks_cur, hm, if_neg (by simp [hpair]), if_neg (by simp [hholder]), if_pos hc, if_neg (by dsimp only; omega)]
  exact congrArg _ hheld

/-- MFLOW sets the flow at once (R204). -/
theorem millStart_mflow {o : MOp} (hi : c.instr = .mflow o) (hopen : (u.mg (mgOf u.cur)).mill.open_ = false) : u.millStart c =
    ((millCounts u).modMillOf (millCounts u).cur fun m => { m with flow := c.mod % 4 }).cmdValue c 0 := by
  obtain ⟨idle, mark, hm⟩ := millCounts_mill u
  refine millStart_counted hdeps hsusp hpair hholder hcount hloaded (by rw [hi]; rfl) (.inr (by rw [hi, hopen]; rfl)) ?_
  unfold State.startEffect
  rw [hi]
  dsimp only
  rw [hm, if_neg (by simp [hpair])]

/-- MSKEW sets the skews and the delay at once (R204). -/
theorem millStart_mskew {o : MOp} (hi : c.instr = .mskew o) (hopen : (u.mg (mgOf u.cur)).mill.open_ = false) : u.millStart c =
    ((millCounts u).modMillOf (millCounts u).cur fun m =>
      { m with sA := c.mod % 4, sB := c.mod / 4 % 4, skd := c.mod / 16 % 256 }).cmdValue c 0 := by
  refine millStart_counted hdeps hsusp hpair hholder hcount hloaded (by rw [hi]; rfl) (.inr (by rw [hi, hopen]; rfl)) ?_
  unfold State.startEffect
  rw [hi]

/-- MCLR clears the array and opens a run (R205). -/
theorem millStart_mclr {o : MOp} (hi : c.instr = .mclr o) : u.millStart c = (millCounts u).startClr c := by
  refine millStart_counted hdeps hsusp hpair hholder hcount hloaded (by rw [hi]; rfl) (.inl (by rw [hi]; rfl)) ?_
  unfold State.startEffect
  rw [hi]

/-- MFEED of an open run begins once its operands pass (R207). -/
theorem millStart_mfeed {o : MOp} {t : State} (hi : c.instr = .mfeed o) (hopen : (u.mg (mgOf u.cur)).mill.open_ = true)
    (ht : (millCounts u).startFeed c = .ok t) : u.millStart c = t := by
  refine millStart_counted hdeps hsusp hpair hholder hcount hloaded (by rw [hi]; rfl) (.inr (by rw [hi, hopen]; rfl)) ?_
  unfold State.startEffect
  rw [hi]
  exact ht

end Start

/-! ### Completion and capture (R199, R208) -/

section Work

variable {s u : State} {b : Nat} {c : MillCmd} {cs : List MillCmd} (hu : s.focus b = u) (hw : working u c cs)
include hu hw

theorem millCommandComplete_eq : exec (.millCommandComplete b) s = .next ((u.millComplete c).focus s.cur) := by
  obtain ⟨hcmds, hwindow, hheld⟩ := hw
  dsimp only [exec, execMillCommandComplete, State.onBank]
  rw [hu, hcmds]
  dsimp only [List.head?_cons]
  rw [hwindow, hheld]
  rfl

/-- A command whose value is known completes with it. -/
theorem millCommandComplete_value {v : Word} (hv : c.value = some v) :
    exec (.millCommandComplete b) s = .next ((u.cmdEnd c v 0).focus s.cur) := by
  rw [millCommandComplete_eq hu hw, State.millComplete, hv]

variable (hv : c.value = none) (hstarted : c.started = true) (hbad : (u.millOf u.cur).bad = false)
include hv hstarted hbad

/-- MDRAIN takes the array into a free drain buffer (R208). -/
theorem mdrainCapture_captures {o : MOp} (hi : c.instr = .mdrain o) (hcap : c.captured = false)
    (hdrain : (u.millOf u.cur).drain = none) : exec (.mdrainCapture b) s = .next (((u.modMillOf u.cur fun m =>
      { m with drain := some ((u.cur, c.ord), m.captured (c.mod / 2 ^ 12)) }).modCmd u.cur c.ord fun c =>
        { c with captured := true, dom := ((u.millOf u.cur).domain, (u.millOf u.cur).efr) }).focus s.cur) := by
  obtain ⟨hcmds, hwindow, hheld⟩ := hw
  dsimp only [exec, execMdrainCapture, State.onBank]
  rw [hu, hcmds]
  dsimp only [List.head?_cons]
  rw [hi]
  dsimp only
  rw [hstarted, hcap, hv, hdrain, hwindow, hheld, hbad]
  rfl

variable (hwait : c.waiting = false) (hrec : c.recorded = false) (hfail : c.fail = (0, 0))
include hwait hrec hfail

/-- MREL ends the lease that its bank still holds (R201). -/
theorem millCommandComplete_mrel {o : MOp} (hi : c.instr = .mrel o) : exec (.millCommandComplete b) s =
    .next ((if (u.mg (mgOf u.cur)).mill.holder = some u.cur then (u.cmdEnd c 0 0).leaseEnd (mgOf u.cur) 0 else u.cmdEnd c 0 0).focus s.cur) := by
  rw [millCommandComplete_eq hu hw]
  dsimp only [State.millComplete]
  rw [hv]
  dsimp only
  rw [if_neg (by simp [hstarted, hwait, hrec]), if_neg (by simp [hbad]), if_neg (by simp [hfail]), hi]

/-- An MFEED whose rows are all there completes with their steps (R207). -/
theorem millCommandComplete_mfeed {o : MOp} (hi : c.instr = .mfeed o) (hfull : c.full = true) :
    exec (.millCommandComplete b) s = .next ((u.feedDone (u.millOf u.cur) c).focus s.cur) := by
  rw [millCommandComplete_eq hu hw]
  dsimp only [State.millComplete]
  rw [hv]
  dsimp only
  rw [if_neg (by simp [hstarted, hwait, hrec]), if_neg (by simp [hbad]), if_neg (by simp [hfail]), hi]
  dsimp only
  rw [hfull]
  rfl

end Work

/-! ### Leases and windows (R195, R198) -/

section Lease

variable {s : State} {mg h : Nat} (hholder : (s.mg mg).mill.holder = some h) (hbusy : (s.getBank h).millBusy = false)
include hholder hbusy

theorem leaseCountLimit_ends (hcount : (s.mg mg).mill.count = 64) (hopen : (s.mg mg).mill.open_ = false) :
    exec (.leaseCountLimit mg) s = .next (s.leaseEnd mg 3) := by
  dsimp only [exec, execLeaseCountLimit]
  rw [hholder]
  exact congrArg Host.Outcome.next (if_pos (by simp [hcount, hopen, hbusy]))

theorem leaseIdleLimit_ends (hidle : 65536 ≤ (s.mg mg).mill.idle + (s.cycle - (s.mg mg).mill.mark)) :
    exec (.leaseIdleLimit mg) s = .next (s.leaseEnd mg 6) := by
  dsimp only [exec, execLeaseIdleLimit]
  rw [hholder]
  exact congrArg Host.Outcome.next (if_pos (by simp [hidle, hbusy]))

end Lease

theorem pairWindow_passes {s : State} {mg : Nat} (hpair : (s.mg mg).mill.pair = true) (hend : (s.mg mg).mill.window + 64 ≤ s.cycle) :
    exec (.pairWindow mg) s = .next (s.modMill mg fun m => { m with window := m.window + 64, half := !m.half }) :=
  congrArg Host.Outcome.next (if_pos ⟨hpair, hend⟩)

/-- Settles O51: each step takes the branch of its rule that the conditions name; a start leaves the lease and the run of its Mill but for
the count and the idle time (R195, R198, R199, R201, R204, R205, R207, R208). -/
theorem millStepsComplete : Obligations.MillStepsComplete := by
  refine ⟨fun s b c => ?_, fun s b c cs => ?_, fun s mg h => ?_, fun s mg => pairWindow_passes⟩ <;> dsimp only
  · intro hnext
    rw [millCommandStart_eq rfl hnext]
    refine ⟨fun hfail => ?_, fun hdeps hsusp hpair hholder hlost hlease => ?_, fun hdeps hsusp hpair hholder hcount hloaded => ?_⟩
    · rw [millStart_cancels hfail, cmdCancel_eq]
      exact ⟨fun hc => by rw [if_pos hc]; rfl, fun hc => by rw [if_neg hc]⟩
    · rw [millStart_noLease hdeps hsusp hpair hholder hlost hlease]
    · refine ⟨fun o hi hopen => ?_, fun o hi hopen => ?_, fun o hi => ?_, fun o t hi hopen ht => ?_⟩
      · rw [millStart_mflow hdeps hsusp hpair hholder hcount hloaded hi hopen]
        rfl
      · rw [millStart_mskew hdeps hsusp hpair hholder hcount hloaded hi hopen]
        rfl
      · rw [millStart_mclr hdeps hsusp hpair hholder hcount hloaded hi]
        rfl
      · rw [millStart_mfeed hdeps hsusp hpair hholder hcount hloaded hi hopen ht]
  · intro hw
    refine ⟨fun v hv => millCommandComplete_value rfl hw hv, fun hv hstarted hwait hrec hbad hfail => ?_⟩
    refine ⟨fun o hi => ?_, fun o hi hfull => millCommandComplete_mfeed rfl hw hv hstarted hbad hwait hrec hfail hi hfull,
      fun o hi hcap hdrain => mdrainCapture_captures rfl hw hv hstarted hbad hi hcap hdrain⟩
    rw [millCommandComplete_mrel rfl hw hv hstarted hbad hwait hrec hfail hi]
    exact ⟨fun hholder => by rw [if_pos hholder], fun hholder => by rw [if_neg hholder]⟩
  · exact fun hholder hbusy => ⟨leaseCountLimit_ends hholder hbusy, leaseIdleLimit_ends hholder hbusy⟩

end Sys2Proof.Machine
end

section
/-! PROOFS. The issue of a C-slot operation to its engine's queue (R53 to R55, R212, R214). -/

namespace Sys2Proof.Machine

open Sys2Proof.Claims

/-! ### The operands and the queue entry (R53, R212) -/

/-- The operands that a C-slot issue takes: xs, xt and xn as captured. -/
def takenOperands (s : State) (o : COp) : Word × Word × Word :=
  (capOf s (cslot o.sl) o.xs, capOf s (cslot o.sl) o.xt, capOf s (cslot o.sl) o.xn)

section Taken

variable {s : State} {o : COp}

theorem cTake_ok (h : engineReady s o) : s.cTake o = .ok (takenOperands s o) := by
  obtain ⟨hroom, htakes, htok⟩ := h
  unfold State.cTake
  dsimp only
  rw [await_bind (decide_eq_true hroom), scap_ok htakes (a := o.xs) (by simp), ok_bind, scap_ok htakes (a := o.xt) (by simp), ok_bind,
    scap_ok htakes (a := o.xn) (by simp), ok_bind, tokensGood_ok htok, ok_bind, await_bind (tokenFree htakes)]
  rfl

theorem cTake_full (h : 16 ≤ s.bank.engLoad o.sl.toNat) : s.cTake o = stall :=
  await_stall (decide_eq_false (Nat.not_lt.mpr h)) _

end Taken

/-- An operation with the operands taken stands at the end of its queue, nothing else of the bank but its token register changed. -/
theorem engineQueued_cPush (s : State) (o : COp) (i : Instr) (recs : List Byte) :
    engineQueued s (s.cPush o i (takenOperands s o) recs) o i := by
  refine ⟨_, rfl, rfl, rfl, rfl, rfl, rfl, ?_, ?_, ?_, rfl, rfl, rfl, rfl, rfl, rfl, rfl, rfl, rfl, rfl⟩ <;>
    simp [EngOp.cap, takenOperands, mputs, mget_mset]

/-! ### Issues that check their entry and take their operands -/

section Issue

variable {s : State} {o : COp} {ok : Bool}

theorem run_refused (hok : ok = false) (f : Unit → M State) : run s (legal ok >>= f) = .next (illegalTaken s) := by
  rw [illegal_bind hok]
  rfl

/-- With 16 entries in its engine's queue an operation waits. -/
theorem run_queueFull (hok : ok = true) (hfull : 16 ≤ s.bank.engLoad o.sl.toNat) (f : Word × Word × Word → M State) :
    run s (legal ok >>= fun _ => s.cTake o >>= f) = .next (waits s) := by
  rw [legal_bind hok, cTake_full hfull]
  rfl

/-- With its operands taken an operation goes on to its own checks. -/
theorem run_taken (hok : ok = true) (hready : engineReady s o) (f : Word × Word × Word → M State) :
    run s (legal ok >>= fun _ => s.cTake o >>= f) = run s (f (takenOperands s o)) := by
  rw [legal_bind hok, cTake_ok hready, ok_bind]

end Issue

/-! ### The copy and probe instructions (R225 to R228, R241, R371) -/

/-- A copy whose stepped places stay in their ranges is queued. -/
theorem copyIssue_done {s : State} {o : COp} {i : Instr} {f : Nat} {ok two : Bool} (hok : ok = true) (hready : engineReady s o)
    (hxs : stepsInRange s (cslot o.sl) f (fmtWidth f (s.efr (cslot o.sl))) (capOf s (cslot o.sl) o.xs))
    (hxt : two = true → stepsInRange s (cslot o.sl) f (fmtWidth f (s.efr (cslot o.sl))) (capOf s (cslot o.sl) o.xt)) :
    copyIssue o i f ok s two = .next (done (s.cPush o i (takenOperands s o) [])) := by
  rw [copyIssue, run_taken hok hready]
  refine run_done ?_
  dsimp only [takenOperands]
  rw [stepOk_ok hxs, ok_bind]
  cases two with
  | false => rfl
  | true => rw [if_pos rfl, stepOk_ok (hxt rfl)]; rfl

/-- Each of the eight instructions is one copy issue in its format, of one place or of two. -/
theorem exec_eq_copyIssue {i : Instr} {o : COp} {f : Nat} {ok : Bool} (h : copyForm i = some (o, f, ok)) (s : State) :
    ∃ two : Bool, exec i s = copyIssue o i f ok s two ∧ o.xs ∈ copyPlaces i o ∧ (two = true → o.xt ∈ copyPlaces i o) := by
  cases i with
  | cpy | cpyt | gth | sct | cpyg => cases h; exact ⟨true, rfl, by simp [copyPlaces], fun _ => by simp [copyPlaces]⟩
  | pfill | pwb | pinv => cases h; exact ⟨false, rfl, by simp [copyPlaces], fun h => nomatch h⟩
  | _ => cases h

/-! ### RADV, CXADD, CWAITE (R236, R321, R322) -/

/-- Each of the three is queued as soon as its operands are taken. -/
theorem exec_eq_queued {i : Instr} {o : COp} {ok : Bool} (h : otherForm i = some (o, ok)) (s : State) :
    exec i s = run s (legal ok >>= fun _ => s.cTake o >>= fun v => pure (s.cPush o i v [])) := by
  cases i with
  | radv | cxadd | cwaite => cases h; rfl
  | _ => cases h

/-! ### CPYS (R227) -/

/-- The two kennel offsets of xn: fields of 16 bits, aligned to 8 bytes. -/
theorem cpysOffsets_ok {n : Nat} (hlt : n < 2 ^ 32) (hlo : n % 8 = 0) (hhi : n / 2 ^ 16 % 8 = 0) :
    bitsOf n 15 0 = n % 2 ^ 16 ∧ bitsOf n 31 16 = n / 2 ^ 16 ∧
      (decide (n < 2 ^ 32) && n % 8 == 0 && bitsOf n 31 16 % 8 == 0) = true := by
  have hfield : bitsOf n 31 16 = n / 2 ^ 16 := by rw [bitsOf_eq_div]; omega
  refine ⟨by rw [bitsOf_eq_div, Nat.pow_zero, Nat.div_one], hfield, ?_⟩
  rw [hfield, decide_eq_true hlt, hlo, hhi]
  rfl

/-- What CPYS keeps of the kennel: its two pattern records and the bias vectors of its stages. -/
def cpysRecords (rs rt : List Byte) (bias : Map Nat) : List Byte :=
  rs ++ rt ++ (List.range 4).flatMap fun k => leBytes 256 (mget 0 bias k)

/-- Settles O40: an entry that is not allowed is refused before the queue is looked at; a full queue stalls cTake, and with room and its
places in range the operation is what cPush puts at the end of the queue (R212, R220, R225 to R228, R236, R241, R321, R322, R371). -/
theorem engineIssuesComplete : Obligations.EngineIssuesComplete := by
  refine ⟨fun s i o f ok h => ?_, fun s i o ok h => ?_, fun s o rs rt bias => ?_⟩
  · obtain ⟨two, hexec, hxs, hxt⟩ := exec_eq_copyIssue h s
    rw [hexec]
    exact ⟨fun hok => run_refused hok _,
      fun hok hready hstep => ⟨_, copyIssue_done hok hready (hstep _ hxs) fun h => hstep _ (hxt h), engineQueued_cPush s o i []⟩,
      fun hok hfull => run_queueFull hok hfull _⟩
  · rw [exec_eq_queued h s]
    exact ⟨fun hok => run_refused hok _, fun hok hready => ⟨_, run_taken hok hready _, engineQueued_cPush s o i []⟩,
      fun hok hfull => run_queueFull hok hfull _⟩
  · intro slot xn p q hready hlt hlo hhi hrs hrt hok hbias hxs hxt
    obtain ⟨hlow, hhigh, hlegal⟩ := cpysOffsets_ok hlt hlo hhi
    refine ⟨s.cPush o (.cpys o) (takenOperands s o) (cpysRecords rs rt bias), run_done ?_, engineQueued_cPush s o _ _⟩
    rw [cTake_ok hready, ok_bind]
    dsimp only [takenOperands]
    rw [legal_bind hlegal, hlow, hrs, ok_bind, hhigh, hrt, ok_bind, legal_bind hok, hbias, ok_bind, stepOk_ok hxs, ok_bind, stepOk_ok hxt,
      ok_bind]
    rfl

end Sys2Proof.Machine
end

section
/-! PROOFS. SBIND and SUNB at their issue (R229, R231, R234). -/

namespace Sys2Proof.Machine

open Sys2Proof.Claims

/-- The stream bound to a register bears its number. -/
theorem streamOf_num {b : Bank} {n : Nat} {x : Stream} (h : b.streamOf n = some x) : x.num = n := by
  unfold Bank.streamOf at h
  cases hlast : (b.streams.filter fun t => t.num == n && t.since ≤ b.bundles).getLast? with
  | none => rw [hlast] at h; cases h
  | some t =>
    simp only [hlast] at h
    obtain ⟨-, h⟩ := Option.ite_none_right_eq_some.mp h
    cases h
    have hmem := List.mem_of_getLast? hlast
    simp only [List.mem_filter, Bool.and_eq_true, beq_iff_eq] at hmem
    exact hmem.2.1

/-! ### SBIND (R231) -/

/-- The stream that an SBIND begins: its record and biases as read at the issue, bound from the next bundle on, nothing of it moved. -/
def begunStream (s : State) (o : COp) (r : List Byte) (bias : Map Nat) : Stream :=
  { num := o.mod.toNat % 16, since := s.bank.bundles + 1, untl := none, recd := r, bias := bias, efr := s.efrWord (cslot o.sl),
    out := (patOf r).flags == 1, race := (patOf r).race, next := 0, used := 0, ord := s.bank.ord, kd := o.kd.toNat, fail := none,
    unb := none, bundle := s.bank.bundleAt, wid := s.bank.id.wid, waitd := none, got := none, vals := [], inb := [], outb := [],
    failed := false, engine := o.sl.toNat, uengine := 0, begun := false, ubegun := false, tokDone := false,
    deps := [o.k1, o.k2, o.k3].map s.depOf, udeps := [], more := [], err := (0, 0) }

/-- The state after an SBIND: the stream begun, its race locked to it, its token register pending. -/
def streamBegun (s : State) (o : COp) (st : Stream) (t : Tile) : State :=
  ((s.newOrd.2.upd fun b => { b with streams := b.streams ++ [st] }).setTile st.race (some { t with lock := some st.num })).markTok
    o.kd s.bank.ord true

theorem tile_setTile (s : State) (h j : Nat) (t : Option Tile) : (s.setTile h t).tile j = if j = h then t else s.tile j :=
  mget_mset _ _ _ _ _

@[simp] theorem tile_markTok (s : State) (k : XReg) (n : Nat) (fresh : Bool) (h : Nat) : (s.markTok k n fresh).tile h = s.tile h := rfl

theorem streamBegun_tile (s : State) (o : COp) (st : Stream) (t : Tile) (h : Nat) :
    (streamBegun s o st t).tile h = if h = st.race then some { t with lock := some st.num } else s.tile h := by
  rw [streamBegun, tile_markTok, tile_setTile]
  rfl

/-- An offset of the kennel that is aligned to 8 bytes. -/
theorem kennelOffset_ok {n : Nat} (hlt : n < 2 ^ 16) (halign : n % 8 = 0) : (decide (n < 2 ^ 16) && n % 8 == 0) = true := by
  rw [decide_eq_true hlt, halign]
  rfl

section Bind

variable {s : State} {o : COp} (hready : engineReady s o) (hlt : (takenOperands s o).1.toNat < 2 ^ 16)
  (halign : (takenOperands s o).1.toNat % 8 = 0)
include hready hlt halign

theorem sbind_bound (hbound : s.bank.streamOf (o.mod.toNat % 16) ≠ none) : exec (.sbind o) s = .next (illegalTaken s) := by
  dsimp only [exec, execSbind]
  rw [cTake_ok hready, ok_bind, legal_bind (kennelOffset_ok hlt halign),
    illegal_bind (Option.isNone_eq_false_iff.mpr (Option.isSome_iff_ne_none.mpr hbound))]
  rfl

theorem sbind_begins {r : List Byte} {t : Tile} {bias : Map Nat} (hfree : s.bank.streamOf (o.mod.toNat % 16) = none)
    (hr : s.kennelBytes (takenOperands s o).1.toNat 64 = .ok r) (ht : s.tile (patOf r).race = some t)
    (hok : s.sbindOk (s.efr (cslot o.sl)) (patOf r) t = .ok ()) (hbias : s.biases (patOf r) = .ok bias) :
    exec (.sbind o) s = .next (done (streamBegun s o (begunStream s o r bias) t)) := by
  refine run_done ?_
  dsimp only
  rw [cTake_ok hready, ok_bind, legal_bind (kennelOffset_ok hlt halign), legal_bind (Option.isNone_iff_eq_none.mpr hfree), hr, ok_bind]
  simp only [ht, hok, hbias, ok_bind]
  rfl

end Bind

/-! ### SUNB (R234) -/

/-- The stream after an SUNB: the first of a bundle unbinds it, and a further one leaves its token with it. -/
def unboundStream (s : State) (o : COp) (x : Stream) : Stream :=
  if x.unb.isSome then
    { x with more := x.more ++ [(o.sl.toNat, o.kd.toNat, s.bank.ord)], udeps := x.udeps ++ [o.k1, o.k2, o.k3].map s.depOf }
  else
    { x with untl := some s.bank.bundles, unb := some (o.kd.toNat, s.bank.ord), uengine := o.sl.toNat,
             udeps := [o.k1, o.k2, o.k3].map s.depOf }

section Unbind

variable {s : State} {o : COp} {x : Stream}

theorem unboundStream_frame (s : State) (o : COp) (x : Stream) :
    (unboundStream s o x).num = x.num ∧ (unboundStream s o x).ord = x.ord ∧ (unboundStream s o x).next = x.next := by
  unfold unboundStream
  split <;> exact ⟨rfl, rfl, rfl⟩

theorem unboundStream_first (h : x.unb = none) : (unboundStream s o x).untl = some s.bank.bundles ∧
    (unboundStream s o x).unb = some (o.kd.toNat, s.bank.ord) ∧ (unboundStream s o x).more = x.more := by
  rw [unboundStream, if_neg (by simp [h])]
  exact ⟨rfl, rfl, rfl⟩

theorem unboundStream_again (h : x.unb ≠ none) : (unboundStream s o x).untl = x.untl ∧ (unboundStream s o x).unb = x.unb ∧
    (unboundStream s o x).more = x.more ++ [(o.sl.toNat, o.kd.toNat, s.bank.ord)] := by
  rw [unboundStream, if_pos (Option.isSome_iff_ne_none.mpr h)]
  exact ⟨rfl, rfl, rfl⟩

theorem sunb_unbinds (hready : engineReady s o) (hx : s.bank.streamOf (o.mod.toNat % 16) = some x) :
    exec (.sunb o) s = .next (done ((s.newOrd.2.upd fun b => b.setStream (unboundStream s o x)).markTok o.kd s.bank.ord true)) := by
  refine run_done ?_
  simp only [cTake_ok hready, ok_bind, hx]
  rfl

theorem sunb_unbound (hready : engineReady s o) (hnone : s.bank.streamOf (o.mod.toNat % 16) = none) :
    exec (.sunb o) s = .next (illegalTaken s) := by
  dsimp only [exec, execSunb]
  simp only [cTake_ok hready, ok_bind, hnone]
  rfl

end Unbind

end Sys2Proof.Machine
end

section
/-! PROOFS. PROBE at its issue: a row found, its fill awaited, or a fill begun (R237, R238, R240). -/

namespace Sys2Proof.Machine

open Sys2Proof.Claims

/-! ### Tag entries (R238) -/

section Entries

variable {s : State} {r j : Nat}

@[simp] theorem probe_setProbe_same (p : Probe) : (s.setProbe r p).probe r = p := mget_mset_same _ _ _ _

theorem probe_setProbe_ne (p : Probe) (h : j ≠ r) : (s.setProbe r p).probe j = s.probe j := mget_mset_ne _ _ _ h

@[simp] theorem probe_markTok (k : XReg) (n : Nat) (fresh : Bool) : (s.markTok k n fresh).probe r = s.probe r := rfl

@[simp] theorem probe_newOrd : s.newOrd.2.probe r = s.probe r := rfl

/-- A row made recent keeps all but its age. -/
theorem probe_recent_waits : ((s.recent r).probe r).waits = (s.probe r).waits := by simp [State.recent]

theorem probe_recent_ne (h : j ≠ r) : (s.recent r).probe j = s.probe j := probe_setProbe_ne _ h

end Entries

theorem extCheck_ok {s : State} {n len : Nat} {off : Int} {write : Bool} (h : (s.ext n).permits off len write = true) :
    s.extCheck n off len write = .ok () := if_pos h

/-! ### PROBE (R240) -/

/-- The PROBE of xd waits for the fill of a row, which it makes recent. -/
def probeWaits (s : State) (xd : XReg) (r : Nat) : State :=
  let t := (s.recent r).newOrd.2
  (t.setProbe r { t.probe r with waits := (t.probe r).waits ++ [(xd.toNat, s.bank.ord)] }).markTok xd s.bank.ord true

/-- The PROBE of xd begins the fill of a row with a block, and waits for it. -/
def probeFills (s : State) (xd : XReg) (r : Nat) (k : Block) : State :=
  (s.newOrd.2.probeBegin r k s.bank.ord [(xd.toNat, s.bank.ord)]).markTok xd s.bank.ord true

section Rows

variable (s : State) (xd : XReg) (r : Nat)

theorem probeWaits_row : ((probeWaits s xd r).probe r).waits = (s.probe r).waits ++ [(xd.toNat, s.bank.ord)] := by
  simp [probeWaits, probe_recent_waits]

theorem probeWaits_ne {j : Nat} (h : j ≠ r) : (probeWaits s xd r).probe j = s.probe j := by
  simp [probeWaits, probe_setProbe_ne _ h, probe_recent_ne h]

theorem probeFills_row (k : Block) : (probeFills s xd r k).probe r =
    { valid := false, dirty := false, fill := true, blk := k,
      vic := if (s.probe r).valid = true ∧ (s.probe r).dirty = true then some (s.probe r).blk else none, since := s.bank.ord,
      age := (s.probe r).age, waits := [(xd.toNat, s.bank.ord)], clob := false } := by
  simp [probeFills, State.probeBegin]

theorem probeFills_ne {j : Nat} (k : Block) (h : j ≠ r) : (probeFills s xd r k).probe j = s.probe j := by
  simp [probeFills, State.probeBegin, probe_setProbe_ne _ h]

end Rows

section Probe

variable {s : State} {o : SbOp}

section Block

variable {h sets n off : Nat} (hread : Readable s [o.xb] o.xa) (htile : s.probeTile = some (h, sets))
  (hplace : placeOf (s.rx o.xb) = some (.ext n off)) (hperm : (s.ext n).permits off 1 false = true)
include hread htile hplace hperm

theorem probe_hit {w : Nat} (hway : s.probeWay (s.extVa n off / 1024 % sets) (s.extVa n off / 1024) = some w)
    (hfill : (s.probe (8 * (s.extVa n off / 1024 % sets) + w)).fill = false) :
    exec (.probe o) s = .next (done ((s.recent (8 * (s.extVa n off / 1024 % sets) + w)).setX o.xa
      (BitVec.ofNat 64 (8 * (s.extVa n off / 1024 % sets) + w)))) := by
  refine run_done ?_
  simp only [operands_of_readable hread, ok_bind, htile, hplace, extCheck_ok hperm, hway, hfill]
  rfl

theorem probe_pendingFill {w : Nat} (hway : s.probeWay (s.extVa n off / 1024 % sets) (s.extVa n off / 1024) = some w)
    (hfill : (s.probe (8 * (s.extVa n off / 1024 % sets) + w)).fill = true) :
    exec (.probe o) s = .next (done (probeWaits s o.xa (8 * (s.extVa n off / 1024 % sets) + w))) := by
  refine run_done ?_
  simp only [operands_of_readable hread, ok_bind, htile, hplace, extCheck_ok hperm, hway, hfill]
  rfl

theorem probe_noVictim (hway : s.probeWay (s.extVa n off / 1024 % sets) (s.extVa n off / 1024) = none)
    (hvictim : s.probeVictim (s.extVa n off / 1024 % sets) = none) : exec (.probe o) s = .next (waits s) := by
  dsimp only [exec, execProbe]
  simp only [operands_of_readable hread, ok_bind, htile, hplace, extCheck_ok hperm, hway, hvictim]
  rfl

theorem probe_miss {w : Nat} (hway : s.probeWay (s.extVa n off / 1024 % sets) (s.extVa n off / 1024) = none)
    (hvictim : s.probeVictim (s.extVa n off / 1024 % sets) = some w) (hcanon : canonical (away s o.off.toInt) = true) :
    exec (.probe o) s = .next (done (goes (probeFills s o.xa (8 * (s.extVa n off / 1024 % sets) + w)
      (s.blockOf n (s.extVa n off / 1024))) (away s o.off.toInt))) := by
  refine run_done ?_
  simp only [operands_of_readable hread, ok_bind, htile, hplace, extCheck_ok hperm, hway, hvictim]
  rw [target_eq_away]
  exact jump_canonical hcanon

end Block

/-- Without a probe cache in use, or a place of an extent. -/
theorem probe_illegal (hread : Readable s [o.xb] o.xa)
    (hbad : s.probeTile = none ∨ ∀ n off, placeOf (s.rx o.xb) ≠ some (.ext n off)) : exec (.probe o) s = .next (illegalTaken s) := by
  dsimp only [exec, execProbe]
  rw [operands_of_readable hread, ok_bind]
  split
  next htile hplace => exact absurd hplace (hbad.resolve_left (by simp [htile]) _ _)
  next => rfl

end Probe

/-- Settles O41: the checks of each issue pass and its effect is the state that the lemmas above name: a stream begun or unbound, a row
found, waited for or filled (R229, R231, R234, R237, R238, R240). -/
theorem streamsAndProbesComplete : Obligations.StreamsAndProbesComplete := by
  refine ⟨fun s o r t0 bias => ?_, fun s o hready => ?_, fun s o h sets n off hread htile hplace hperm => ?_, fun s o => probe_illegal⟩
  · intro slot off n hready hlt halign
    refine ⟨sbind_bound hready hlt halign, fun hfree hr ht hok hbias => ?_⟩
    exact ⟨_, begunStream s o r bias, sbind_begins hready hlt halign hfree hr ht hok hbias, rfl, rfl, rfl, rfl, rfl, rfl, rfl, rfl, rfl,
      rfl, (streamBegun_tile s o _ t0 _).trans (if_pos rfl), fun h hne => (streamBegun_tile s o _ t0 h).trans (if_neg hne), rfl, rfl⟩
  · refine ⟨fun x hx => ?_, sunb_unbound hready⟩
    obtain ⟨hnum, hord, hnext⟩ := unboundStream_frame s o x
    refine ⟨_, unboundStream s o x, sunb_unbinds hready hx, ?_, hnum.trans (streamOf_num hx), hord, hnext, unboundStream_first,
      unboundStream_again, rfl, rfl, rfl⟩
    rw [← hord]
    rfl
  · intro tag set
    refine ⟨fun w => probe_hit hread htile hplace hperm, fun w hway hfill => ?_, probe_noVictim hread htile hplace hperm,
      fun w hway hvictim hcanon => ?_⟩
    · exact ⟨_, probe_pendingFill hread htile hplace hperm hway hfill, rfl, probeWaits_row s o.xa _,
        fun r hr => probeWaits_ne s o.xa _ hr, rfl, rfl⟩
    · refine ⟨_, probe_miss hread htile hplace hperm hway hvictim hcanon, rfl, rfl, rfl, ?_⟩
      rw [probeFills_row]
      exact ⟨rfl, rfl, rfl, rfl, rfl, fun r hr => probeFills_ne s o.xa _ _ hr⟩

end Sys2Proof.Machine
end

section
/-! PROOFS. The steps of the memory system: fills of a far cache, the queued stores, fences, marks, adds and launches of a bank,
write-throughs, the age of far-cache lines, block writes (R131, R132, R246 to R248, R285, R316, R332, R339, R340, R346). -/

namespace Sys2Proof.Machine

open Sys2Proof.Claims

/-! ### Fills (R246 to R248) -/

/-- A request and its answer between two dies change links, and may tell Lorso of a key (R380, R387). -/
theorem round_eq {s t : State} {a b v r : Nat} (h : s.round a b v r = .ok t) : ∃ ls ns, t = { s with links := ls, notices := ns } := by
  unfold State.round at h
  split at h
  · cases h
  · split at h
    next w hw =>
      cases h
      obtain ⟨u, hu, ht⟩ := Option.bind_eq_some_iff.mp hw
      obtain ⟨_, _, rfl⟩ := cross_eq hu
      obtain ⟨ls, ns, rfl⟩ := cross_eq ht
      exact ⟨ls, ns, rfl⟩
    next => cases h

/-- The accesses of a read are counted at their die alone (R423). -/
theorem readRows_eq (s : State) (line : Nat) : ∃ ds, s.readRows line = { s with dies := ds } := by
  dsimp only [State.readRows]
  split
  · exact ⟨s.dies, rfl⟩
  · exact ⟨_, rfl⟩

theorem mget_modDie_far_same (s : State) (d line : Nat) (m : Die → Map (Option FarLine)) (l : Option FarLine) :
    mget none ((s.modDie d fun x => { x with far := mset none (m x) line l }).die d).far line = l := by
  rw [State.modDie_die_same]
  exact mget_mset_same none _ line l

/-- A line that can be filled stands in the far cache as its home holds it; only dies, links and notices have changed (R246, R247). -/
theorem fillLine_of_canFill {s : State} {d line : Nat} (c : Nat) (h : canFill s d line) :
    ∃ t, s.fillLine d line c = .ok t ∧ mget none (t.die d).far line = some ⟨s.lineBits line, s.cycle, c⟩ ∧
      t.mem = s.mem ∧ t.bank = s.bank ∧ t.ctxs = s.ctxs ∧ t.blocks = s.blocks := by
  obtain ⟨hway, hprep, hbank, ⟨u, hround⟩, hgood⟩ := h
  have hfill : s.fillLine d line c = .ok ((u.readRows line).modDie d fun x =>
      { x with far := mset none (farRoom x.far s.tick) line (some ⟨s.lineBits line, s.cycle, c⟩) }) := by
    unfold State.fillLine
    rw [hway, hprep, hbank, hround, ok_bind, hgood]
    rfl
  refine ⟨_, hfill, mget_modDie_far_same _ _ _ (fun x => farRoom x.far s.tick) _, ?_⟩
  obtain ⟨ls, ns, rfl⟩ := round_eq hround
  obtain ⟨ds, hrows⟩ := readRows_eq { s with links := ls, notices := ns } line
  rw [hrows]
  exact ⟨rfl, rfl, rfl, rfl⟩

theorem loadDataReturn_fills {s : State} {die line : Nat} (hdie : die < 4) (hhome : s.home (line * 64) ≠ die)
    (hmiss : s.farLine die line = none) (hcan : canFill s die line) :
    ∃ t : State, exec (.loadDataReturn die line) s = .next t ∧
      mget none (t.die die).far line = some ⟨s.lineBits line, s.cycle, (s.frameOf (line * 64)).ctx⟩ ∧
      t.mem = s.mem ∧ t.bank = s.bank ∧ t.ctxs = s.ctxs ∧ t.blocks = s.blocks := by
  obtain ⟨t, hfill, hline, hframe⟩ := fillLine_of_canFill (s.frameOf (line * 64)).ctx hcan
  refine ⟨t.ticked, ?_, hline, hframe⟩
  dsimp only [exec, execLoadDataReturn]
  rw [if_neg (by simp [Nat.not_le.mpr hdie, hhome, hmiss]), hfill]

/-- The drop of one line keeps every other listed one (R248). -/
theorem dropFar_line (s : State) (d line : Nat) : (s.dropFar d fun k _ => k == line) =
    s.modDie d fun x => { x with far := x.far.filter fun e => e.1 != line && e.2.isSome } := by
  unfold State.dropFar
  congr
  funext x
  congr
  funext ⟨k, o⟩
  cases o with
  | none => exact (Bool.and_false _).symm
  | some _ => exact (Bool.and_true _).symm

theorem farCacheAgeExpiry_drops {s : State} {die line : Nat} {l : FarLine} (hl : mget none (s.die die).far line = some l)
    (hage : l.born + 2 ^ 20 ≤ s.cycle) :
    exec (.farCacheAgeExpiry die line) s = .next (s.modDie die fun x => { x with far := x.far.filter fun e =>
      e.1 != line && e.2.isSome }) := by
  rw [← dropFar_line]
  dsimp only [exec, execFarCacheAgeExpiry]
  rw [hl]
  exact congrArg Host.Outcome.next (if_pos hage)

/-! ### Writes at their homes (R247, R332, R339) -/

/-- Writes that no page, line or bank holds perform without waiting (R342, R359, R423). -/
theorem heldUp_of_unheld {s : State} {ws : List AWrite} (h : unheld s ws) : s.heldUp ws = false := by
  obtain ⟨hbytes, hblocks⟩ := h
  have hw : (ws.any fun w => s.wpAt w.1 || s.prepHeld (w.1 / 64)) = false :=
    List.any_eq_false.mpr fun w hw => by simp [hbytes w hw]
  have hb : (blocksOf ws).any s.blockWaits = false := List.any_eq_false.mpr fun b hb => by simp [hblocks b hb]
  unfold State.heldUp
  rw [hw, hb]
  rfl

theorem homeForce_of_softWrite {s t : State} {rsv : List (Nat × Nat)} {ws : List AWrite} {hint : Bool}
    (h : s.softWrite .reserve rsv ws hint = some t) : s.homeForce rsv ws hint = t := by
  unfold State.homeForce
  rw [h]

/-- A write-through whose lines and banks stand free crosses and is encoded at its home (R247, R359, R380). -/
theorem arrive_of_softWrite {s t v : State} {w : WThru} (hprep : ∀ x ∈ w.ws, s.prepHeld (x.1 / 64) = false)
    (hbank : ∀ b ∈ blocksOf w.ws, s.blockWaits b = false) (hcross : s.cross w.src w.home w.vc = some t)
    (hwrite : t.softWrite .reserve w.rsv w.ws w.hint = some v) :
    s.arrive w = some (reported
      { v with wts := v.wts.map fun x => if x.num = w.num then { x with arrived := true } else x } w.ws) := by
  have hp : (w.ws.any fun x => s.prepHeld (x.1 / 64)) = false := List.any_eq_false.mpr fun x hx => by simp [hprep x hx]
  have hb : (blocksOf w.ws).any s.blockWaits = false := List.any_eq_false.mpr fun b hb => by simp [hbank b hb]
  unfold State.arrive
  rw [hp, hb, hcross, Option.map_some, homeForce_of_softWrite hwrite]
  rfl

theorem writeThroughArrival_arrives {s t v : State} {src home : Nat} {w : WThru}
    (hw : (s.wts.find? fun x => x.src == src && x.home == home && !x.arrived) = some w)
    (hprep : ∀ x ∈ w.ws, s.prepHeld (x.1 / 64) = false) (hbank : ∀ b ∈ blocksOf w.ws, s.blockWaits b = false)
    (hcross : s.cross src home w.vc = some t) (hwrite : t.softWrite .reserve w.rsv w.ws w.hint = some v) :
    exec (.writeThroughArrival src home) s = .next (reported
      { v with wts := v.wts.map fun x => if x.num = w.num then { x with arrived := true } else x } w.ws) := by
  have hends : (w.src = src ∧ w.home = home) ∧ w.arrived = false := by simpa using List.find?_some hw
  obtain ⟨⟨rfl, rfl⟩, -⟩ := hends
  dsimp only [exec, execWriteThroughArrival]
  rw [hw]
  dsimp only
  rw [arrive_of_softWrite hprep hbank hcross hwrite, Option.getD_some]

theorem writeThroughAck_settles {s t : State} {src home : Nat} {w : WThru}
    (hw : (s.wts.find? fun x => x.src == src && x.home == home) = some w) (harrived : w.arrived = true)
    (hcross : s.cross home src 1 = some t) :
    exec (.writeThroughAck src home) s = .next { t with wts := t.wts.filter (·.num != w.num) } := by
  dsimp only [exec, execWriteThroughAck]
  rw [hw]
  dsimp only
  rw [if_pos harrived, hcross]

section BlockWrite

variable {s : State} {ws : List AWrite} {lv : Level} {hint : Bool} (hfree : unheld s ws)
include hfree

/-- Granted writes perform and are reported dirty (R332, R346). -/
theorem homeStore_granted {t : State} (h : s.softWrite lv [] ws hint = some t) : s.homeStore lv ws hint = .ok (reported t ws) := by
  unfold State.homeStore
  rw [heldUp_of_unheld hfree, h]
  rfl

/-- Refused writes write nothing (R339). -/
theorem homeStore_refused (h : s.softWrite lv [] ws hint = none) : s.homeStore lv ws hint = raise cOUT_OF_SPACE 0 := by
  unfold State.homeStore
  rw [heldUp_of_unheld hfree, h]
  rfl

end BlockWrite

section BlockWriteStep

variable {s : State} {lv : Level} {addr : Nat} {data : List Byte} (hend : addr + data.length < 2 ^ 48)
  (hblock : addr % 512 + data.length ≤ 512) (hfree : unheld s (wholeBytes addr data))
include hend hblock hfree

theorem blockWrite_granted {t : State} (h : s.softWrite lv [] (wholeBytes addr data) = some t) :
    exec (.blockWrite lv addr data) s = .next (reported t (wholeBytes addr data)) := by
  dsimp only [exec, execBlockWrite]
  rw [if_neg (by omega), homeStore_granted hfree h]

theorem blockWrite_refused (h : s.softWrite lv [] (wholeBytes addr data) = none) : exec (.blockWrite lv addr data) s = .next s := by
  dsimp only [exec, execBlockWrite]
  rw [if_neg (by omega), homeStore_refused hfree h]
  rfl

end BlockWriteStep

/-! ### A store whose turn has come (R166, R247, R339, R340) -/

section PerformStore

variable {u : State} {e : SqEntry} {ws : List BWrite} {g : List (Nat × Nat)}

theorem performStore_tiles (hmem : memWrites ws = []) :
    u.performStore e ws g = (((tileWrites ws).map (·.1)).eraseDups.foldl (fun (s : State) h =>
      s.tileWrite s.cur h (((tileWrites ws).filter fun w => w.1 == h).map (·.2))) u).popSq := if_pos hmem

variable (hmem : memWrites ws ≠ []) (hfree : unheld u (memWrites ws)) (hgrant : u.ungranted (memWrites ws) g = [])
  (hlink : u.storeLink (memWrites ws) = none)
include hmem hfree hgrant hlink

/-- A store that enters the view is reported dirty and leaves the queue. -/
theorem performStore_enters {t : State} (hview : u.enterView (dieOf u.cur) u.cur none g (memWrites ws) e.hint = some t)
    (hgood : u.writePoison (memWrites ws) = false) : u.performStore e ws g = (reported t (memWrites ws)).popSq := by
  dsimp only [State.performStore]
  rw [if_neg hmem, heldUp_of_unheld hfree, if_neg Bool.false_ne_true, if_neg (not_not_intro hgrant), hlink, hview, hgood]
  dsimp only
  rw [if_neg (fun h => Bool.false_ne_true h.2), if_neg Bool.false_ne_true]
  rfl

/-- A store that the pools refuse is held, and its bank faults. -/
theorem performStore_noSpace (hview : u.enterView (dieOf u.cur) u.cur none g (memWrites ws) e.hint = none)
    (hrun : u.bank.run ≠ .faulted) : u.performStore e ws g = u.storeFault e cOUT_OF_SPACE 0 e.done fun x => x.ord == e.ord := by
  dsimp only [State.performStore]
  rw [if_neg hmem, heldUp_of_unheld hfree, if_neg Bool.false_ne_true, if_neg (not_not_intro hgrant), hlink, hview]
  exact if_neg hrun

end PerformStore

/-! ### The head of a store queue (R131, R132, R247, R285, R316) -/

section Head

variable {u : State} {e : SqEntry} (hhead : headEntry u e)
include hhead

theorem performHead_store {ws : List BWrite} {g : List (Nat × Nat)} (hkind : e.kind = .store ws g false)
    (hover : u.bank.issueOver e = true) : u.performHead = u.performStore e ws g := by
  obtain ⟨_, hsq⟩ := List.head?_eq_some_iff.mp hhead
  simp only [State.performHead, hsq, hkind, hover, Bool.not_true, Bool.or_self, Bool.false_eq_true, if_false]

theorem performHead_relFence {scope mark : Nat} (hkind : e.kind = .fence scope 1 mark) (hmet : u.fenceMet scope 1 mark = true) :
    u.performHead = u.popSq := by
  obtain ⟨_, hsq⟩ := List.head?_eq_some_iff.mp hhead
  simp only [State.performHead, hsq, hkind, hmet, if_true]

theorem performHead_acqFence {scope kind mark : Nat} (hkind : e.kind = .fence scope kind mark)
    (hmet : u.fenceMet scope kind mark = true) (hacq : kind ≠ 1) : u.performHead = (u.popSq.acquire scope).freeAcqs := by
  obtain ⟨_, hsq⟩ := List.head?_eq_some_iff.mp hhead
  simp only [State.performHead, hsq, hkind, hmet, if_true, if_neg hacq]

theorem performHead_mark {reg : Nat} (hkind : e.kind = .mark reg) (hmade : u.addsMade = true) :
    u.performHead = (u.popSq.completeTok u.cur reg e.ord true 0).freeAcqs := by
  obtain ⟨_, hsq⟩ := List.head?_eq_some_iff.mp hhead
  simp only [State.performHead, hsq, hkind, hmade, if_true]

theorem performHead_cadd {id amount : Word} {scope : Nat} {i : CtrId} (hkind : e.kind = .cadd id amount scope)
    (hdone : u.earlierDone scope = true) (hctr : u.bankCtr id true = .ok i) :
    u.performHead = u.popSq.sendAdd (dieOf u.cur) u.bank.id.ctx
      ⟨i, amount, .cadd u.cur e.ord, id, e.bundle, e.wid, u.bank.id.kid, e.hint, u.bank.id.ctx, u.vaOf id⟩ := by
  obtain ⟨_, hsq⟩ := List.head?_eq_some_iff.mp hhead
  simp only [State.performHead, hsq, hkind, hdone, if_true, State.performCadd, hctr]

theorem performHead_launch {va q : Word} {reg : Nat} (hkind : e.kind = .release 0 va q reg) (hdone : u.earlierDone 3 = true) :
    u.performHead = u.popSq.modCtx u.bank.id.ctx fun x => { x with launchq := x.launchq ++ [(reg, va, q.toNat, u.cur, e.ord)] } := by
  obtain ⟨_, hsq⟩ := List.head?_eq_some_iff.mp hhead
  simp only [State.performHead, hsq, hkind, hdone, if_true, State.performRelease]

/-- The next block's sectors are granted to the head store over the die link (R247, R339). -/
theorem requestSectors_grants {t v : State} {ws : List BWrite} {g rs : List (Nat × Nat)} {r : Nat × Nat}
    (hkind : e.kind = .store ws g false) (hneed : u.ungranted (memWrites ws) g = r :: rs)
    (hround : u.round (dieOf u.cur) (u.home (r.1 * 512)) 0 1 = .ok t) (hgrant : t.reserve .bank [r] = some v) :
    u.requestSectors = v.modSq fun x => { x with kind := .store ws (g ++ [r]) false } := by
  obtain ⟨_, hsq⟩ := List.head?_eq_some_iff.mp hhead
  simp only [State.requestSectors, hsq, hkind, hneed, hround, hgrant]

end Head

/-- STORE_PERFORM gives back the focus after what the head of the bank's queue does. -/
theorem storePerform_of_performHead {s t : State} {b : Nat} (h : (s.focus b).performHead = t) :
    exec (.storePerform b) s = .next (State.settleHost (t.focus s.cur)) := by
  subst h
  rfl

theorem sectorReservationRequest_of_requestSectors {s t : State} {b : Nat} (h : (s.focus b).requestSectors = t) :
    exec (.sectorReservationRequest b) s = .next (t.focus s.cur) := by
  subst h
  rfl

/-- Settles O44: a step of the memory system whose conditions hold makes its change, clause by clause by the lemmas above (R131, R132, R246
to R248, R285, R316, R332, R339, R340, R346). -/
theorem storesAndFillsPerform : Obligations.StoresAndFillsPerform := by
  refine ⟨fun s die line => loadDataReturn_fills, fun s b e => ?_, fun s t v b e ws g r rs => ?_,
    fun s t v src home w => writeThroughArrival_arrives, fun s t src home w => writeThroughAck_settles,
    fun s die line l => farCacheAgeExpiry_drops, fun s lv addr data hend hblock hfree => ?_⟩
  · intro u hhead
    refine ⟨fun ws g hkind hover hmem => ?_, fun ws g hkind hover hmem hfree hgrant hlink => ?_,
      fun scope kind mark hkind hmet => ?_, fun reg hkind hmade => ?_, fun id amount scope i hkind hdone hctr => ?_,
      fun va q reg hkind hdone => ?_⟩
    · exact storePerform_of_performHead ((performHead_store hhead hkind hover).trans (performStore_tiles hmem))
    · have hstore := performHead_store hhead hkind hover
      exact ⟨fun t hview hgood =>
          storePerform_of_performHead (hstore.trans (performStore_enters hmem hfree hgrant hlink hview hgood)),
        fun hview hrun => storePerform_of_performHead (hstore.trans (performStore_noSpace hmem hfree hgrant hlink hview hrun))⟩
    · refine ⟨fun hrel => ?_, fun hacq => storePerform_of_performHead (performHead_acqFence hhead hkind hmet hacq)⟩
      subst hrel
      exact storePerform_of_performHead (performHead_relFence hhead hkind hmet)
    · exact storePerform_of_performHead (performHead_mark hhead hkind hmade)
    · exact storePerform_of_performHead (performHead_cadd hhead hkind hdone hctr)
    · exact storePerform_of_performHead (performHead_launch hhead hkind hdone)
  · intro u hhead hkind hneed hround hgrant
    exact sectorReservationRequest_of_requestSectors (requestSectors_grants hhead hkind hneed hround hgrant)
  · exact ⟨fun t => blockWrite_granted hend hblock hfree, blockWrite_refused hend hblock hfree⟩

end Sys2Proof.Machine
end

section
/-! PROOFS. LAUNCH, COLRDY and QCTL take their place in the store queue, and KSTAT gives a kernel's word (R285, R286, R301, R404). -/

namespace Sys2Proof.Machine

open Sys2Proof.Claims

variable {s : State} {o : SrOp}

/-! ### Releases (R285, R301, R404) -/

theorem launch_queued (h : Readable s [o.xa, o.xb] o.xd) : exec (.launch o) s = .next (done (released s 0 (s.rx o.xa) (s.rx o.xb) o.xd)) :=
  run_operands h _

theorem colrdy_queued (h : Readable s [o.xa] o.xd) (hn : (s.rx o.xa).toNat < 2 ^ 12) :
    exec (.colrdy o) s = .next (done (released s 2 (s.rx o.xa) 0 o.xd)) := by
  dsimp only [exec, execColrdy]
  rw [run_operands h, legal_bind (decide_eq_true hn)]
  rfl

theorem colrdy_illegal (h : Readable s [o.xa] o.xd) (hn : 2 ^ 12 ≤ (s.rx o.xa).toNat) : exec (.colrdy o) s = .next (illegalTaken s) := by
  dsimp only [exec, execColrdy]
  rw [run_operands h, illegal_bind (decide_eq_false (by omega))]
  rfl

/-- The seven QCTL operations are one meaning with their number (R301). -/
theorem exec_eq_qctl {i : Instr} {op : Nat} (h : qctlOp i = some (o, op)) : exec i s = qctl o s op := by
  cases i with
  | qctlQuery | qctlSetmode | qctlDrain | qctlHalt | qctlResume | qctlAbort | qctlReset => cases h; rfl
  | _ => cases h

theorem qctl_atTask (op : Nat) (hsys : s.bank.id.sys = false) : qctl o s op = .next (illegalTaken s) := by
  rw [qctl, illegal_bind hsys]
  rfl

/-- The second operand is a mode for SETMODE and zero for the others. -/
theorem qctl_queued {op : Nat} (h : Readable s [o.xa, o.xb] o.xd) (hsys : s.bank.id.sys = true) (hq : (s.rx o.xa).toNat < 64)
    (hmode : op = 1 → (s.rx o.xb).toNat < 2) (hzero : op ≠ 1 → s.rx o.xb = 0) : qctl o s op =
      .next (done (released s 1 (BitVec.ofNat 64 ((s.rx o.xa).toNat + op * 64)) (s.rx o.xb) o.xd)) := by
  have hsecond : (if op = 1 then decide ((s.rx o.xb).toNat < 2) else s.rx o.xb == 0) = true := by
    split
    next hop => exact decide_eq_true (hmode hop)
    next hop => exact beq_iff_eq.mpr (hzero hop)
  rw [qctl, legal_bind hsys, run_operands h, legal_bind (decide_eq_true hq), legal_bind hsecond]
  rfl

/-! ### KSTAT (R286) -/

/-- A kernel id has 32 bits, of which bits 15 to 12 are zero (R266). -/
theorem kernelId_wellFormed {id : Nat} (h : id < 2 ^ 63) : (bitsOf id 62 32 == 0 && bitsOf id 15 12 == 0) =
    decide (¬ (id / 2 ^ 32 ≠ 0 ∨ id / 2 ^ 12 % 2 ^ 4 ≠ 0)) := by
  rw [Bool.eq_iff_iff]
  simp only [bitsOf_eq_div, Bool.and_eq_true, beq_iff_eq, decide_eq_true_eq]
  omega

/-- What stands above its bits 15 to 0 is the generation (R266). -/
theorem kernelId_gen {id : Nat} (h : id / 2 ^ 32 = 0) : bitsOf id 31 16 = id / 2 ^ 16 := by
  rw [bitsOf_eq_div]
  omega

section Kstat

variable {id : Nat} (h : Readable s [o.xa] o.xd) (hid : (s.rx o.xa).toNat % 2 ^ 63 = id)
include h hid

theorem kstat_illegal (hw : id / 2 ^ 32 ≠ 0 ∨ id / 2 ^ 12 % 2 ^ 4 ≠ 0) : exec (.kstat o) s = .next (illegalTaken s) := by
  dsimp only [exec, execKstat]
  rw [hid, kernelId_wellFormed (hid ▸ Nat.mod_lt _ (by decide)), illegal_bind (decide_eq_false (not_not_intro hw))]
  exact scalar_illegal h

theorem kstat_done (hw : ¬ (id / 2 ^ 32 ≠ 0 ∨ id / 2 ^ 12 % 2 ^ 4 ≠ 0)) :
    exec (.kstat o) s = .next (done (s.setX o.xd (kstatWord (s.kernel s.bank.id.ctx (id % 4096)) id))) := by
  dsimp only [exec, execKstat]
  rw [hid, kernelId_wellFormed (hid ▸ Nat.mod_lt _ (by decide)), legal_bind (decide_eq_true hw)]
  exact scalar_done h _

end Kstat

section Word

variable {k : Kernel} {id : Nat}

/-- A slot taken again knows the earlier kernel no more. -/
theorem kstatWord_otherGen (h : k.gen ≠ bitsOf id 31 16) : kstatWord (some k) id = 15 := if_pos h

variable (hgen : k.gen = bitsOf id 31 16) (hended : k.ended < 2 ^ 32)
include hgen hended

theorem kstatWord_stopped (hst : k.st = .faulted ∨ k.st = .aborted) : kstatWord (some k) id = BitVec.ofNat 64
    (k.st.code + k.cause * 2 ^ 8 + k.detail * 2 ^ 16 + k.queue * 2 ^ 24 + k.ended * 2 ^ 32) := by
  dsimp only [kstatWord]
  rw [if_neg (not_not_intro hgen), if_pos hst, min_eq_left (by omega), ← Nat.add_assoc]

theorem kstatWord_unstopped (hst : ¬ (k.st = .faulted ∨ k.st = .aborted)) : kstatWord (some k) id = BitVec.ofNat 64
    (k.st.code + k.queue * 2 ^ 24 + k.ended * 2 ^ 32) := by
  dsimp only [kstatWord]
  rw [if_neg (not_not_intro hgen), if_neg hst, min_eq_left (by omega), Nat.add_zero]

end Word

/-- Settles O37: releases are queued once their operands are judged, and KSTAT of a well-formed id gives the word of the kernel in its slot
(R285, R286, R301, R302, R404). -/
theorem launchAndQueueControlComplete : Obligations.LaunchAndQueueControlComplete := by
  refine ⟨fun s o => launch_queued, fun s o h => ⟨colrdy_queued h, colrdy_illegal h⟩, fun i s o op hop => ?_, fun s o h => ?_⟩
  · rw [exec_eq_qctl hop]
    exact ⟨qctl_atTask op, fun hsys h => qctl_queued h hsys⟩
  · intro id wrong
    refine ⟨kstat_illegal h rfl, fun hw hk => ?_, fun k hw hk => ?_⟩ <;> rw [kstat_done h rfl hw, hk]
    · rfl
    · have hgen : bitsOf id 31 16 = id / 2 ^ 16 := kernelId_gen (not_not.mp (not_or.mp hw).1)
      refine ⟨fun hg => ?_, fun hg hf ha he => ?_, fun hg hst he => ?_⟩
      · rw [kstatWord_otherGen (hgen ▸ hg)]
      · rw [kstatWord_unstopped (hg.trans hgen.symm) he (not_or.mpr ⟨hf, ha⟩)]
      · rw [kstatWord_stopped (hg.trans hgen.symm) he hst]

end Sys2Proof.Machine
end

section
/-! PROOFS. The fantail answers and queues launches, watches dependences, ages, selects and translates kernels and completes them (R265,
R267, R273, R274, R284, R294, R295, R300, R464). -/

namespace Sys2Proof.Machine

open Sys2Proof.Claims

variable {s t : State} {c k : Nat} {x : Kernel}

/-! ### Launches (R265, R285, R299, R300) -/

/-- The first launch is decided once the posted writes before it are performed: its new kernel or its refusal is answered. -/
theorem launchAcceptance_answers {src q b ord : Nat} {va : Word} {rest : List (Nat × Word × Nat × Nat × Nat)}
    (hq : (s.ctx c).launchq = (src, va, q, b, ord) :: rest) (hsent : src < 64 ∨ (s.fn (src - 64)).posted = [])
    (ht : (s.modCtx c fun y => { y with launchq := rest }) = t) :
    (∀ kid u, t.launch c va q (src == 64) = .ok (kid, u) →
      exec (.launchAcceptance c) s = .next (u.launchAnswer src b ord true (BitVec.ofNat 64 (2 ^ 63 + kid)))) ∧
    (∀ f, t.launch c va q (src == 64) = .error (.fault f) →
      exec (.launchAcceptance c) s = .next ((t.metError f).launchAnswer src b ord false (failVal f.cause f.detail 0))) := by
  have hfollows : ¬ (64 ≤ src ∧ (s.fn (src - 64)).posted ≠ []) := fun ⟨hhost, hposted⟩ =>
    hsent.elim (fun hreg => by omega) hposted
  dsimp only [exec, execLaunchAcceptance]
  rw [hq]
  dsimp only
  rw [if_neg hfollows, ht]
  exact ⟨fun kid u h => by rw [h]; rfl, fun f h => by rw [h]⟩

section HostWindow

variable {fn : Nat} {v : Word} (hfn : fn < 17)
include hfn

theorem hlwGo_overrun (hbusy : (s.fn fn).busy = true) : exec (.hlwGo fn v) s = .next (s.modFn fn fun f => { f with ovr := true }) := by
  dsimp only [exec, execHlwGo]
  rw [if_neg (by omega), if_pos hbusy]

theorem hlwGo_queued (hbusy : (s.fn fn).busy = false) (hv : v.toNat < 64) (hstage : s.boot.stage = 7) (hbound : (s.fn fn).bound = some c)
    (hfree : (s.ctx c).st ≠ .free) (hdestroyed : (s.ctx c).st ≠ .destroyed) :
    exec (.hlwGo fn v) s = .next ((s.modFn fn fun f => { f with busy := true, queue := v, go := some v }).modCtx c fun y =>
      { y with launchq := y.launchq ++ [(64 + fn, (s.fn fn).addr, v.toNat, 0, 0)] }) := by
  have hwindow : s.fnBound fn = some c := (if_pos hstage).trans hbound
  dsimp only [exec, execHlwGo]
  rw [if_neg (by omega), if_neg (by simp [hbusy]), if_neg (not_not_intro hstage), if_neg (by omega), hwindow, Nat.mod_eq_of_lt hv]
  dsimp only
  rw [if_neg (not_or.mpr ⟨hfree, hdestroyed⟩)]

end HostWindow

/-! ### Dependences (R464) -/

theorem leafOf_of_absent {va : Nat} (h : s.walk c va = .absent) : s.leafOf c va = none := by
  rw [State.leafOf, h]

section Dependence

variable {d n off v : Nat} {e : Word × Word} {va : Word} {r : Region} (hk : kernelAt s c k x .pending) (hd : d < 4)
  (he : x.hdr.deps[d]?.getD (0, 0) = e) (hused : depUsed e = true) (hplace : placeOf e.1 = some (.ext n off))
  (hregion : x.hdr.regionFor n = some r) (hword : mget none x.depFrm d = none) (hstop : mget none x.depFrm (16 + d) = none)
  (hva : r.base + BitVec.ofNat 64 off = va) (hv : va.toNat % 2 ^ 55 = v) (hwalk : s.walkWaits c v = false)
include hk hd he hused hplace hregion hword hstop hva hv hwalk

/-- A memory-form dependence of a PENDING kernel, neither watched nor stopped yet: its word is watched or its kernel stops with FETCH_FAULT. -/
theorem dependenceTranslation_walks :
    (∀ l, s.leafOf c v = some l → l.pte.st ≠ 1 → l.pte.r = true →
      exec (.dependenceTranslation c k d) s = .next (((s.walked c v).setA c l).modKernel c k fun y =>
        { y with depFrm := mset none y.depFrm d (some ((l.frame + (v / 65536 - l.vpn)) * 65536 + v % 65536)) })) ∧
    (s.walk c v = .absent → exec (.dependenceTranslation c k d) s = .next
      ((s.modKernel c k fun y => { y with depFrm := mset none y.depFrm (16 + d) (some 1) }).ctxFault c
        (kernRec (x.kid k) cFETCH_FAULT 3 0 va) (.kernel c k))) := by
  obtain ⟨hkernel, hst⟩ := hk
  dsimp only [exec, execDependenceTranslation]
  rw [hkernel]
  dsimp only
  rw [he, if_neg (by simpa [hst, hused] using hd), hplace]
  dsimp only
  rw [hregion]
  dsimp only
  rw [hword, hstop, if_neg (by decide), hva, hv, hwalk, if_neg (by decide)]
  refine ⟨fun l hl hevicted hr => ?_, fun habsent => ?_⟩
  · rw [hl]
    dsimp only
    rw [if_neg hevicted, hr]
    rfl
  · rw [leafOf_of_absent habsent, habsent]

end Dependence

/-! ### Aging and selection (R294, R295) -/

section Aging

variable {q : Nat} (hhead : s.head c q = some (k, x)) (hready : s.headWait c k x = 0)
include hhead hready

/-- The interval of a ready head begins, or its full ones gain levels. -/
theorem ageHead_ready : s.ageHead c q =
    if x.aged = 0 then s.modKernel c k fun y => { y with aged := s.cycle + 2 ^ 25 }
    else if (s.cycle + 2 ^ 25 - x.aged) / s.aging = 0 then s
    else s.modKernel c k fun y => { y with prio := min 7 (y.prio + (s.cycle + 2 ^ 25 - x.aged) / s.aging),
                                           aged := y.aged + (s.cycle + 2 ^ 25 - x.aged) / s.aging * s.aging } := by
  rw [State.ageHead, hhead]
  exact if_neg (not_not_intro hready)

theorem agingInterval_notes (h : x.aged = 0) :
    exec (.agingInterval c q) s = .next (s.modKernel c k fun x => { x with aged := s.cycle + 2 ^ 25 }) := by
  dsimp only [exec, execAgingInterval]
  rw [ageHead_ready hhead hready, if_pos h]

theorem agingInterval_gains {n : Nat} (h : x.aged ≠ 0) (hn : n = (s.cycle + 2 ^ 25 - x.aged) / s.aging) (hfull : n ≠ 0) :
    exec (.agingInterval c q) s =
      .next (s.modKernel c k fun x => { x with prio := min 7 (x.prio + n), aged := x.aged + n * s.aging }) := by
  subst hn
  dsimp only [exec, execAgingInterval]
  rw [ageHead_ready hhead hready, if_neg h, if_neg hfull]

end Aging

/-- The head selected among the aged ones enters DISPATCHING, fewer than four being there. -/
theorem kernelSelect_dispatches {q : Nat} (ht : (s.staleAll c).ageCtx c = t) (hrun : (t.ctx c).st = .running)
    (hroom : ((t.kernelList c).countP fun e => e.2.st == .dispatching) < 4) (hsel : t.selection c = some (q, k, x)) :
    exec (.kernelSelect c) s = .next ((t.modCtx c fun y => { y with rr := mset 63 y.rr x.prio q }).modKernel c k fun y =>
      { y with st := .dispatching, aged := 0, consumer := t.pairOf c x }) := by
  dsimp only [exec, execKernelSelect]
  rw [ht, if_neg (not_or.mpr ⟨not_not_intro hrun, by omega⟩), hsel]

/-! ### Translation at dispatch (R267, R273, R274) -/

section Translation

variable (hk : kernelAt s c k x .dispatching) (hstop : x.stop = none) (hadd : x.adding = false)
  (hwalks : ∀ r ∈ x.hdr.regions, s.regionWaits c r = false)
include hk hstop hadd hwalks

/-- With every page mapped a kernel is RUNNING, but one of no points makes its completion add; a page that cannot be mapped stops it with a
record. -/
theorem regionTranslationEnd_translates :
    (∀ n fs t, s.transRegions c x.hdr.regions.zipIdx x.frames = (.done, n, fs, t) →
      (x.hdr.n ≠ 0 → exec (.regionTranslationEnd c k) s = .next
        ((t.modKernel c k fun x => { x with frames := fs }).modKernel c k fun x => { x with st := .running })) ∧
      (x.hdr.n = 0 → exec (.regionTranslationEnd c k) s = .next ((t.modKernel c k fun x => { x with frames := fs }).completion c k))) ∧
    (∀ d va n fs t, s.transRegions c x.hdr.regions.zipIdx x.frames = (.fault d va, n, fs, t) →
      exec (.regionTranslationEnd c k) s = .next ((t.modKernel c k fun x => { x with frames := fs, stop := some n }).ctxFault c
        (kernRec (x.kid k) cFETCH_FAULT d n (BitVec.signExtend 64 (BitVec.ofNat 55 va))) (.kernel c k))) := by
  obtain ⟨hkernel, hst⟩ := hk
  dsimp only [exec, execRegionTranslationEnd]
  rw [hkernel]
  dsimp only
  rw [if_neg (by simpa [hst, hstop, hadd] using hwalks)]
  refine ⟨fun n fs t h => ?_, fun d va n fs t h => ?_⟩ <;> rw [h]
  exact ⟨fun hn => congrArg _ (if_neg hn), fun hn => congrArg _ (if_pos hn)⟩

end Translation

/-! ### Completion (R263, R283, R284) -/

/-- A kernel without a completion add is DONE at once (R263). -/
theorem completion_without_add (hkernel : s.kernel c k = some x) (h : x.hdr.doneAmt = 0) : s.completion c k = s.finish c k .done 0 0 := by
  rw [State.completion, hkernel]
  exact if_pos h

theorem counterTreeComplete_completes (hk : kernelAt s c k x .running ∨ kernelAt s c k x .edge) (hadd : x.adding = false)
    (hended : x.ended = x.hdr.ntasks) : exec (.counterTreeComplete c k) s = .next (s.completion c k) := by
  have hkernel : s.kernel c k = some x := hk.elim And.left And.left
  have hst : x.st = .running ∨ x.st = .edge := hk.imp And.right And.right
  dsimp only [exec, execCounterTreeComplete]
  rw [hkernel]
  exact congrArg _ (if_pos ⟨hst, by simp [hadd], hended⟩)

theorem completionAddPerformed_ends {cause detail : Nat} (hkernel : s.kernel c k = some x) (hadd : x.adding = true)
    (hres : x.addRes = some (cause, detail)) :
    (cause = 0 → exec (.completionAddPerformed c k) s = .next (s.finish c k .done 0 0)) ∧
    (cause ≠ 0 → exec (.completionAddPerformed c k) s = .next (s.kernelFault c k cause detail 0 x.hdr.doneId)) := by
  dsimp only [exec, execCompletionAddPerformed, State.completed]
  rw [hkernel]
  dsimp only
  rw [hadd, hres]
  cases cause with
  | zero => exact ⟨fun _ => rfl, fun h => absurd rfl h⟩
  | succ => exact ⟨nofun, fun _ => rfl⟩

/-- Settles O47: each step of the fantail whose conditions hold makes its change, by the lemmas above (R263, R265, R267, R273, R274, R284,
R285, R294, R295, R299, R300, R464). -/
theorem kernelStepsComplete : Obligations.KernelStepsComplete := by
  refine ⟨fun s c src va q b ord rest hq hsent => launchAcceptance_answers hq hsent rfl,
    fun s fn v hfn => ⟨hlwGo_overrun hfn, fun c => hlwGo_queued hfn⟩,
    fun s c k d x n off r => ?_,
    fun s c q k x hhead hready => ⟨agingInterval_notes hhead hready, fun n => agingInterval_gains hhead hready⟩,
    fun s c q k x => kernelSelect_dispatches rfl,
    fun s c k x => regionTranslationEnd_translates,
    fun s c k x hk hadd hended => ?_,
    fun s c k x cause detail => completionAddPerformed_ends⟩
  · intro e va v hk hd hused hplace hregion hword hstop hwalk
    exact dependenceTranslation_walks hk hd rfl hused hplace hregion hword hstop rfl rfl hwalk
  · rw [counterTreeComplete_completes hk hadd hended]
    exact ⟨fun hnone => by rw [completion_without_add (hk.elim And.left And.left) hnone], fun _ => rfl⟩

end Sys2Proof.Machine
end

section
/-! PROOFS. Counters are allocated and freed: the first free entry of a table, what a retired counter leaves, and what its waiters' answers
leave alone (R307, R308, R314, R315). -/

namespace Sys2Proof.Machine

open Sys2Proof.Claims

variable {s t u : State}

/-! ### The first free entry (R307, R314) -/

/-- The index found in a table whose keys rise is free, and every earlier one is taken. -/
theorem freeIndex_first {m : List (Nat × CtrEnt)} (h : mwf CtrEnt.free m = true) (lo : Nat) :
    lo ≤ freeIndex lo m ∧ (mget CtrEnt.free m (freeIndex lo m)).st = 0 ∧
      ∀ j, lo ≤ j → j < freeIndex lo m → (mget CtrEnt.free m j).st ≠ 0 := by
  induction m generalizing lo with
  | nil => exact ⟨le_rfl, rfl, fun j hlo hj => absurd hj (Nat.not_lt.mpr hlo)⟩
  | cons x m ih =>
    obtain ⟨a, e⟩ := x
    obtain ⟨-, habove⟩ := Bool.and_eq_true_iff.mp h
    have hm : mwf CtrEnt.free m = true := mwf_of_above habove
    have hskip {j : Nat} (hj : a ≠ j) : mget CtrEnt.free ((a, e) :: m) j = mget CtrEnt.free m j := if_neg hj
    unfold freeIndex
    split
    next hlt =>
      obtain ⟨hge, hfree, htaken⟩ := ih hm lo
      refine ⟨hge, ?_, fun j hlo hj => ?_⟩
      · rw [hskip (by omega)]
        exact hfree
      · rw [hskip (by omega)]
        exact htaken j hlo hj
    next hge =>
      split
      next hused =>
        obtain ⟨rfl, hst⟩ := hused
        obtain ⟨hgt, hfree, htaken⟩ := ih hm (a + 1)
        refine ⟨by omega, ?_, fun j hlo hj => ?_⟩
        · rw [hskip (by omega)]
          exact hfree
        · rcases Nat.eq_or_lt_of_le hlo with rfl | hlt
          · rw [show mget CtrEnt.free ((a, e) :: m) a = e from if_pos rfl]
            exact hst
          · rw [hskip (by omega)]
            exact htaken j hlt hj
      next hunused =>
        refine ⟨le_rfl, ?_, fun j hlo hj => absurd hj (Nat.not_lt.mpr hlo)⟩
        by_cases ha : a = lo
        · rw [show mget CtrEnt.free ((a, e) :: m) lo = e from if_pos ha]
          exact not_not.mp fun hst => hunused ⟨ha, hst⟩
        · rw [hskip ha, mget_of_above habove (by omega)]

theorem freeIndex_of_firstFree {c d k : Nat} (h : firstFree s c d k) : freeIndex (ctrKey d 0) (s.ctx c).ctrs = k := by
  obtain ⟨hwf, hlo, -, hfree, htaken⟩ := h
  obtain ⟨hge, hst, hbefore⟩ := freeIndex_first hwf (ctrKey d 0)
  rcases Nat.lt_trichotomy (freeIndex (ctrKey d 0) (s.ctx c).ctrs) k with hlt | heq | hgt
  · exact absurd hst (htaken _ hge hlt)
  · exact heq
  · exact absurd hfree (hbefore k hlo hgt)

/-! ### CALLOC (R314) -/

/-- An entry that was free in SLOT with a value, an SRAM slot of the die with it. -/
def counterTaken (s : State) (d k : Nat) (v : Word) : State :=
  ((s.modDie d fun x => { x with slots := x.slots + 1 }).modCtr s.bank.id.ctx k fun e =>
    { e with st := 1, val := v, used := s.tick }).ticked

theorem modCtr_ctrEnt_same (s : State) (c k : Nat) (f : CtrEnt → CtrEnt) : (s.modCtr c k f).ctrEnt c k = f (s.ctrEnt c k) := by
  simp [State.modCtr, State.ctrEnt]

theorem modCtr_ctrEnt_ne (s : State) (c : Nat) {k j : Nat} (f : CtrEnt → CtrEnt) (h : j ≠ k) :
    (s.modCtr c k f).ctrEnt c j = s.ctrEnt c j := by
  simp [State.modCtr, State.ctrEnt, mget_mmod_ne _ _ _ h]

theorem modCtr_aliasNo (s : State) (c k : Nat) (f : CtrEnt → CtrEnt) : ((s.modCtr c k f).ctx c).aliasNo = (s.ctx c).aliasNo := by
  simp [State.modCtr]

theorem counterTaken_allocated (s : State) (d k : Nat) (v : Word) : allocatedCtr s (counterTaken s d k v) s.bank.id.ctx k v := by
  have hsame : (counterTaken s d k v).ctrEnt s.bank.id.ctx k = { s.ctrEnt s.bank.id.ctx k with st := 1, val := v, used := s.tick } :=
    modCtr_ctrEnt_same _ _ _ _
  rw [allocatedCtr, hsame]
  exact ⟨rfl, rfl, rfl, fun j hj => modCtr_ctrEnt_ne _ _ _ hj, rfl, rfl, rfl⟩

theorem calloc_first {d k : Nat} (v : Word) (h : firstFree s s.bank.id.ctx d k) (hslots : (s.die d).slots < 65536) :
    s.calloc d v = (ctrPlace s d k, counterTaken s d k v) := by
  have hk : ¬ ctrKey d (s.ctrSize s.bank.id.ctx d) ≤ k := Nat.not_le.mpr h.2.2.1
  have hsram : s.takeSram d = (true, s.modDie d fun x => { x with slots := x.slots + 1 }) := if_pos hslots
  unfold State.calloc
  simp only [freeIndex_of_firstFree h, hsram]
  rw [if_neg hk]
  exact congrArg₂ Prod.mk (congrArg (fun a => (Place.ctr (a * 4 + d) _ (k % 2 ^ 24)).word) (modCtr_aliasNo _ _ _ _)) rfl

theorem calloc_full {d : Nat} (v : Word) (hwf : mwf CtrEnt.free (s.ctx s.bank.id.ctx).ctrs = true)
    (hall : ∀ j, ctrKey d 0 ≤ j → j < ctrKey d (s.ctrSize s.bank.id.ctx d) → (s.ctrEnt s.bank.id.ctx j).st ≠ 0) :
    s.calloc d v = (failVal cNOSLOT 0 0 + 2 ^ 63, s) := by
  obtain ⟨hge, hfree, -⟩ := freeIndex_first hwf (ctrKey d 0)
  have hnone : ctrKey d (s.ctrSize s.bank.id.ctx d) ≤ freeIndex (ctrKey d 0) (s.ctx s.bank.id.ctx).ctrs :=
    Nat.not_lt.mp fun hlt => hall _ hge hlt hfree
  unfold State.calloc
  rw [if_pos hnone]
  exact congrArg (·, s) (by decide +kernel)

theorem calloc_done {o : SrOp} {w : Word} (h : Readable s [o.xa] o.xd) (hc : s.calloc (dieOf s.cur) (s.rx o.xa) = (w, t)) :
    exec (.calloc o) s = .next (done (t.setX o.xd w)) := by
  dsimp only [exec]
  unfold execCalloc
  rw [run_operands h, hc]
  rfl

theorem callocDie_done {o : SrOp} {w : Word} (h : Readable s [o.xa, o.xb] o.xd) (hd : (s.rx o.xb).toNat < 4)
    (hu : s.reachDie (s.rx o.xb).toNat = .ok u) (hc : u.calloc (s.rx o.xb).toNat (s.rx o.xa) = (w, t)) :
    exec (.callocDie o) s = .next (done (t.setX o.xd w)) := by
  dsimp only [exec]
  unfold execCallocDie
  rw [run_operands h, legal_bind (decide_eq_true hd), hu, ok_bind, hc]
  rfl

theorem callocDie_illegal {o : SrOp} (h : Readable s [o.xa, o.xb] o.xd) (hd : 4 ≤ (s.rx o.xb).toNat) :
    exec (.callocDie o) s = .next (illegalTaken s) := by
  dsimp only [exec]
  unfold execCallocDie
  rw [run_operands h, illegal_bind (decide_eq_false (by omega))]
  rfl

/-! ### What an answer changes (R309, R316, R372, R380) -/

/-- A packet that leaves, or that is held at the gateway, changes links, notices, the gateway, what has left and the tick alone. -/
theorem post_eq (s : State) (ports : List Nat) (p : Packet) : ∃ ls ns g os n,
    s.post ports p = { s with links := ls, notices := ns, gate := g, outbox := os, tick := n } := by
  dsimp only [State.post]
  split
  · exact ⟨s.links, s.notices, _, s.outbox, s.tick, rfl⟩
  · next l _ =>
    obtain ⟨ls, ns, h⟩ := sendGroup_eq s l (vcKey l p.vc (devOf p.dst))
    rw [h]
    exact ⟨ls, ns, s.gate, _, _, rfl⟩

theorem depart_eq (s : State) (die : Nat) (ports : List Nat) (p : Packet) : ∃ ls ns g os n,
    s.depart die ports p = { s with links := ls, notices := ns, gate := g, outbox := os, tick := n } := by
  unfold State.depart
  split
  · next t ht =>
    obtain ⟨ls, ns, rfl⟩ := cross_eq ht
    exact post_eq _ ports p
  · exact ⟨s.links, s.notices, _, s.outbox, s.tick, rfl⟩

theorem emit_eq (s : State) (die dst dom v : Nat) (body : Payload) : ∃ ls ns g os n,
    s.emit die dst dom v body = { s with links := ls, notices := ns, gate := g, outbox := os, tick := n } := by
  obtain ⟨ls, ns, g, os, n, h⟩ := depart_eq _ die _ _
  exact ⟨ls, ns, g, os, n, h⟩

/-- An answer is taken by the one that asked, over the links or as the failure that they give, or waits at its die (R387, R390). -/
theorem giveBack_cases (s : State) (b : Back) :
    (∃ ls ns a, s.giveBack b = ({ s with links := ls, notices := ns } : State).taken { b with ans := a }) ∨
    ∃ g, s.giveBack b = { s with gate := g } := by
  unfold State.giveBack
  split
  · exact .inl ⟨s.links, s.notices, _, rfl⟩
  · split
    · exact .inr ⟨_, rfl⟩
    · split
      · next t ht =>
        obtain ⟨ls, ns, rfl⟩ := cross_eq ht
        exact .inl ⟨ls, ns, b.ans, rfl⟩
      · exact .inr ⟨_, rfl⟩

theorem modBank_keeps (s : State) (b : Nat) (f : Bank → Bank) :
    ∃ k ks, s.modBank b f = { s with bank := k, parked := ks } := by
  unfold State.modBank State.setBank
  split
  · exact ⟨_, s.parked, rfl⟩
  · exact ⟨s.bank, _, rfl⟩

theorem modBank_mem (s : State) (b : Nat) (f : Bank → Bank) : (s.modBank b f).mem = s.mem := by
  obtain ⟨k, ks, h⟩ := modBank_keeps s b f
  rw [h]

/-! ### Answers leave the counter tables (R307, R315) -/

/-- No kernel of a context is PENDING. -/
def nonePending (s : State) (c : Nat) : Prop := ∀ e ∈ s.kernelList c, e.2.st ≠ .pending

/-- Every counter table is the same, and no kernel has become PENDING. -/
def countersKept (s t : State) : Prop := ∀ c, (t.ctx c).ctrs = (s.ctx c).ctrs ∧ (nonePending s c → nonePending t c)

theorem countersKept_trans (h : countersKept s t) (h' : countersKept t u) : countersKept s u := fun c =>
  ⟨(h' c).1.trans (h c).1, fun hs => (h' c).2 ((h c).2 hs)⟩

theorem countersKept_of_ctxs (h : t.ctxs = s.ctxs) : countersKept s t := by
  intro c
  have hc : t.ctx c = s.ctx c := by rw [State.ctx, h]; rfl
  have hk : t.kernelList c = s.kernelList c := by rw [State.kernelList, hc]; rfl
  exact ⟨by rw [hc], fun hs e he => hs e (hk ▸ he)⟩

theorem countersKept_modCtx (s : State) (c : Nat) {f : Ctx → Ctx} (hc : ∀ x, (f x).ctrs = x.ctrs) (hk : ∀ x, (f x).kernels = x.kernels) :
    countersKept s (s.modCtx c f) := by
  intro j
  by_cases h : j = c
  · subst h
    have hl : (s.modCtx j f).kernelList j = s.kernelList j := by rw [State.kernelList, State.modCtx_ctx_same, hk]; rfl
    exact ⟨by rw [State.modCtx_ctx_same, hc], fun hs e he => hs e (hl ▸ he)⟩
  · have hj : (s.modCtx c f).ctx j = s.ctx j := State.modCtx_ctx_ne s f h
    have hl : (s.modCtx c f).kernelList j = s.kernelList j := by rw [State.kernelList, hj]; rfl
    exact ⟨by rw [hj], fun hs e he => hs e (hl ▸ he)⟩

theorem mem_of_mget {α : Type} {d v : α} {m : Map α} {k : Nat} (h : mget d m k = v) (hv : v ≠ d) : (k, v) ∈ m := by
  induction m with
  | nil => exact absurd h.symm hv
  | cons x m ih =>
    obtain ⟨a, y⟩ := x
    unfold mget at h
    split at h
    · next ha =>
      subst ha h
      exact List.mem_cons_self
    · exact List.mem_cons_of_mem _ (ih h)

theorem mem_merase {α : Type} {m : Map α} {k : Nat} {e : Nat × α} (h : e ∈ merase m k) : e ∈ m := by
  induction m with
  | nil => exact h
  | cons x m ih =>
    obtain ⟨a, y⟩ := x
    unfold merase at h
    split at h
    · exact List.mem_cons_of_mem _ (ih h)
    · rcases List.mem_cons.mp h with rfl | h
      · exact List.mem_cons_self
      · exact List.mem_cons_of_mem _ (ih h)

theorem mem_minsert {α : Type} {m : Map α} {k : Nat} {v : α} {e : Nat × α} (h : e ∈ minsert m k v) : e = (k, v) ∨ e ∈ m := by
  induction m with
  | nil => exact .inl (List.mem_singleton.mp h)
  | cons x m ih =>
    obtain ⟨a, y⟩ := x
    unfold minsert at h
    split at h
    · exact List.mem_cons.mp h
    · split at h
      · exact (List.mem_cons.mp h).imp_right (List.mem_cons_of_mem _)
      · rcases List.mem_cons.mp h with rfl | h
        · exact .inr List.mem_cons_self
        · exact (ih h).imp_right (List.mem_cons_of_mem _)

theorem mem_mset {α : Type} [DecidableEq α] {d : α} {m : Map α} {k : Nat} {v : α} {e : Nat × α} (h : e ∈ mset d m k v) :
    e = (k, v) ∨ e ∈ m := by
  unfold mset at h
  split at h
  · exact .inr (mem_merase h)
  · exact mem_minsert h

theorem mem_kernelList {c : Nat} {e : Nat × Kernel} : e ∈ s.kernelList c ↔ (e.1, some e.2) ∈ (s.ctx c).kernels ∧ e.1 < 4096 := by
  unfold State.kernelList
  rw [List.mem_filterMap]
  constructor
  · rintro ⟨⟨k, x⟩, hx, he⟩
    obtain ⟨hx, hk⟩ := List.mem_filter.mp hx
    obtain ⟨y, rfl, rfl⟩ := Option.map_eq_some_iff.mp he
    exact ⟨hx, of_decide_eq_true hk⟩
  · rintro ⟨hx, hk⟩
    exact ⟨(e.1, some e.2), List.mem_filter.mpr ⟨hx, decide_eq_true hk⟩, rfl⟩

/-- A change of one kernel that leaves its state. -/
theorem countersKept_modKernel (s : State) (c k : Nat) {f : Kernel → Kernel} (hf : ∀ x, (f x).st = x.st) :
    countersKept s (s.modKernel c k f) := by
  intro j
  unfold State.modKernel
  by_cases hj : j = c
  · subst hj
    refine ⟨by rw [State.modCtx_ctx_same], fun hs e he => ?_⟩
    rw [mem_kernelList, State.modCtx_ctx_same] at he
    obtain ⟨he, hk⟩ := he
    rcases mem_mset he with he | he
    · obtain ⟨rfl, hx⟩ := Prod.mk.inj he
      obtain ⟨x, hx, hy⟩ := Option.map_eq_some_iff.mp hx.symm
      rw [← hy, hf]
      exact hs (e.1, x) (mem_kernelList.mpr ⟨mem_of_mget hx (by simp), hk⟩)
    · exact hs e (mem_kernelList.mpr ⟨he, hk⟩)
  · have hc : (s.modCtx c fun x => { x with kernels := mmod none x.kernels k (Option.map f) }).ctx j = s.ctx j :=
      State.modCtx_ctx_ne s _ hj
    refine ⟨by rw [hc], fun hs e he => hs e ?_⟩
    rw [mem_kernelList, hc] at he
    exact mem_kernelList.mpr he

theorem countersKept_ctxPut (s : State) (c : Nat) (r : FaultRec) (who : FaultWho) : countersKept s (s.ctxPut c r who) := by
  unfold State.ctxPut
  extract_lets x r' u
  have hpoke : countersKept s u := countersKept_of_ctxs (faultView_iff.mp (poke_faultView _ _ _)).2.2.1
  refine countersKept_trans (countersKept_trans hpoke ?_) (countersKept_of_ctxs (State.notify_ctxs _ _))
  exact countersKept_modCtx u c (fun _ => rfl) fun _ => rfl

theorem countersKept_ctxFault (s : State) (c : Nat) (r : FaultRec) (who : FaultWho) : countersKept s (s.ctxFault c r who) := by
  unfold State.ctxFault
  split
  · exact countersKept_ctxPut s c r who
  · exact countersKept_modCtx s c (fun _ => rfl) fun _ => rfl

theorem countersKept_ctxEvent (s : State) (c d : Nat) (r : FaultRec) : countersKept s (s.eventFault (.ctx c) d r) := by
  dsimp only [State.eventFault]
  split
  · exact countersKept_ctxPut s c r .event
  · split
    · exact countersKept_modCtx s c (fun _ => rfl) fun _ => rfl
    · exact countersKept_modCtx s c (fun _ => rfl) fun _ => rfl

theorem countersKept_hand (s : State) (who : Asker) (a : RemoteAns) : countersKept s (s.hand who a) := by
  have hbank (b : Nat) (f : Bank → Bank) : countersKept s (s.modBank b f) := by
    obtain ⟨k, ks, h⟩ := modBank_keeps s b f
    rw [h]
    exact countersKept_of_ctxs rfl
  unfold State.hand
  split
  case h_1 | h_2 | h_3 | h_4 => exact hbank _ _
  case h_5 => exact countersKept_modKernel s _ _ fun _ => rfl
  case h_6 => exact countersKept_modCtx s _ (fun _ => rfl) fun _ => rfl
  case h_7 | h_8 => exact countersKept_of_ctxs rfl

theorem countersKept_heard (s : State) (a : CtrAdd) (cause detail : Nat) : countersKept s (s.heard a cause detail) := by
  unfold State.heard
  extract_lets r
  split
  · split
    · exact countersKept_of_ctxs rfl
    · exact countersKept_ctxFault s _ _ _
  · exact countersKept_hand s _ _
  · refine countersKept_modKernel s _ _ fun k => ?_
    split <;> rfl
  · split
    · exact countersKept_of_ctxs rfl
    · exact countersKept_ctxEvent s _ _ _
  · exact countersKept_of_ctxs rfl
  · exact countersKept_of_ctxs rfl

theorem countersKept_taken (s : State) (b : Back) : countersKept s (s.taken b) := by
  unfold State.taken
  extract_lets give
  have hgive (s : State) (w : Asker) : countersKept s (give s w) := by
    dsimp only [give]
    split
    · exact countersKept_heard s _ _ _
    · exact countersKept_hand s _ _
  split
  · exact hgive s _
  · split
    · exact countersKept_of_ctxs rfl
    · split
      · exact countersKept_of_ctxs rfl
      · refine countersKept_trans ?_ (hgive _ _)
        exact countersKept_of_ctxs rfl

theorem countersKept_giveBack (s : State) (b : Back) : countersKept s (s.giveBack b) := by
  rcases giveBack_cases s b with ⟨ls, ns, a, h⟩ | ⟨g, h⟩
  · rw [h]
    refine countersKept_trans ?_ (countersKept_taken _ _)
    exact countersKept_of_ctxs rfl
  · rw [h]
    exact countersKept_of_ctxs rfl

theorem countersKept_answerWaiter (s : State) (cause detail : Nat) (v : Word) (w : Waiter) :
    countersKept s (s.answerWaiter cause detail v w) := by
  unfold State.answerWaiter
  split
  · unfold State.reply
    split
    · exact countersKept_giveBack s _
    · obtain ⟨_, _, _, _, _, h⟩ := emit_eq s (keyDie (w.slot.getD 0)) _ _ _ _
      rw [h]
      exact countersKept_of_ctxs rfl
  · exact countersKept_giveBack s _

/-- An answer to an operation of a bank changes banks, links, notices and the gateway. -/
theorem answerWaiter_mem (s : State) (cause detail : Nat) (v : Word) {w : Waiter} (h : w.remote = none) :
    (s.answerWaiter cause detail v w).mem = s.mem := by
  have hhand (s : State) (b ord : Nat) (a : RemoteAns) : (s.hand (.bank b) a).mem = s.mem ∧ (s.hand (.op b ord) a).mem = s.mem :=
    ⟨modBank_mem s b _, modBank_mem s b _⟩
  unfold State.answerWaiter
  rw [h]
  dsimp only
  split
  next =>
    rcases giveBack_cases s _ with ⟨ls, ns, a, h⟩ | ⟨g, h⟩ <;> rw [h]
    exact (hhand _ _ 0 _).1
  next ord _ =>
    rcases giveBack_cases s _ with ⟨ls, ns, a, h⟩ | ⟨g, h⟩ <;> rw [h]
    exact (hhand _ _ ord _).2

/-! ### CFREE (R307, R308, R315) -/

theorem foldl_unchanged {σ β : Type} {f : σ → β → σ} {s : σ} {l : List β} (h : ∀ x ∈ l, f s x = s) : l.foldl f s = s := by
  induction l with
  | nil => rfl
  | cons x l ih =>
    rw [List.foldl_cons, h x List.mem_cons_self]
    exact ih fun y hy => h y (List.mem_cons_of_mem x hy)

/-- Where no kernel is PENDING none becomes stale. -/
theorem staleAll_of_nonePending {c : Nat} (h : nonePending s c) : s.staleAll c = s := by
  refine foldl_unchanged fun e he => ?_
  unfold State.staleCheck
  split
  · rfl
  · next x hx => exact if_pos (h (e.1, x) (mem_kernelList.mpr ⟨mem_of_mget hx (by simp), (mem_kernelList.mp he).2⟩))

/-- What an access to a live entry leaves: memory, the waiters, which kernels are PENDING, and every generation. -/
def gensKept (s t : State) : Prop := t.mem = s.mem ∧ (∀ d, (t.die d).waiters = (s.die d).waiters) ∧ (∀ c, nonePending s c → nonePending t c) ∧
  ∀ c k, (t.ctrEnt c k).gen = (s.ctrEnt c k).gen

theorem gensKept_trans (h : gensKept s t) (h' : gensKept t u) : gensKept s u :=
  ⟨h'.1.trans h.1, fun d => (h'.2.1 d).trans (h.2.1 d), fun c hs => h'.2.2.1 c (h.2.2.1 c hs), fun c k => (h'.2.2.2 c k).trans (h.2.2.2 c k)⟩

theorem gensKept_refl (s : State) : gensKept s s := ⟨rfl, fun _ => rfl, fun _ h => h, fun _ _ => rfl⟩

theorem modDie_waiters (s : State) (d : Nat) {f : Die → Die} (hf : ∀ x, (f x).waiters = x.waiters) (j : Nat) :
    ((s.modDie d f).die j).waiters = (s.die j).waiters := by
  by_cases h : j = d
  · rw [h, State.modDie_die_same, hf]
  · rw [State.modDie_die_ne s f h]

theorem gensKept_modDie (s : State) (d : Nat) {f : Die → Die} (hf : ∀ x, (f x).waiters = x.waiters) : gensKept s (s.modDie d f) :=
  ⟨rfl, modDie_waiters s d hf, fun _ h => h, fun _ _ => rfl⟩

theorem modCtr_nonePending (s : State) (c k : Nat) (f : CtrEnt → CtrEnt) {j : Nat} (h : nonePending s j) : nonePending (s.modCtr c k f) j := by
  have hk : ((s.modCtr c k f).ctx j).kernels = (s.ctx j).kernels := by
    unfold State.modCtr
    by_cases hj : j = c
    · rw [hj, State.modCtx_ctx_same]
    · rw [State.modCtx_ctx_ne s _ hj]
  intro e he
  rw [mem_kernelList, hk] at he
  exact h e (mem_kernelList.mpr he)

theorem gensKept_modCtr (s : State) (c k : Nat) {f : CtrEnt → CtrEnt} (hf : ∀ e, (f e).gen = e.gen) : gensKept s (s.modCtr c k f) := by
  refine ⟨rfl, fun _ => rfl, fun j => modCtr_nonePending s c k f, fun j n => ?_⟩
  by_cases hj : j = c
  · subst hj
    by_cases hn : n = k
    · rw [hn, modCtr_ctrEnt_same, hf]
    · rw [modCtr_ctrEnt_ne s j f hn]
  · unfold State.ctrEnt State.modCtr
    rw [State.modCtx_ctx_ne s _ hj]

/-- An SRAM slot is taken with a spill at most, which leaves the entry its generation (R308). -/
theorem takeSram_gensKept (s : State) (d : Nat) : gensKept s (s.takeSram d).2 := by
  unfold State.takeSram
  split
  · exact gensKept_modDie s d fun _ => rfl
  · split
    · exact gensKept_modCtr s _ _ fun _ => rfl
    · exact gensKept_refl s

theorem ctrTouch_gensKept (s : State) (c k : Nat) : gensKept s (s.ctrTouch c k) := by
  unfold State.ctrTouch
  extract_lets u
  have hload : gensKept s u := by
    have hsram := takeSram_gensKept s (keyDie k)
    dsimp only [u]
    split
    · split
      · next v hv => exact gensKept_trans (by rw [hv] at hsram; exact hsram) (gensKept_modCtr v c k fun _ => rfl)
      · next v hv => rw [hv] at hsram; exact hsram
    · exact gensKept_refl s
  have hused : gensKept u (u.modCtr c k fun e => { e with used := u.tick }) := gensKept_modCtr u c k fun _ => rfl
  exact gensKept_trans hload hused

/-- A live entry retired: its generation rises, it is free again unless its generations are used up, and its SRAM slot is given back. -/
def counterRetired (s : State) (c k : Nat) : State :=
  let t := (s.ctrTouch c k).modCtr c k fun e =>
    { e with st := if e.gen + 1 < 0xFFFF then 0 else 3, gen := e.gen + 1, val := 0, used := 0 }
  if ((s.ctrTouch c k).ctrEnt c k).st == 1 then t.modDie (keyDie k) fun d => { d with slots := d.slots - 1 } else t

theorem counterRetired_spec (s : State) (c k : Nat) : (counterRetired s c k).mem = s.mem ∧
    (∀ d, ((counterRetired s c k).die d).waiters = (s.die d).waiters) ∧ (∀ j, nonePending s j → nonePending (counterRetired s c k) j) ∧
    ((counterRetired s c k).ctrEnt c k).gen = (s.ctrEnt c k).gen + 1 ∧
    ((counterRetired s c k).ctrEnt c k).st = if (s.ctrEnt c k).gen + 1 < 0xFFFF then 0 else 3 := by
  obtain ⟨hmem, hwaiters, hpending, hgen⟩ := ctrTouch_gensKept s c k
  unfold counterRetired
  extract_lets t
  have hent : t.ctrEnt c k = _ := modCtr_ctrEnt_same _ c k _
  have ht (u : State) (hm : u.mem = t.mem) (hc : u.ctxs = t.ctxs) (hw : ∀ d, (u.die d).waiters = (t.die d).waiters) : u.mem = s.mem ∧
      (∀ d, (u.die d).waiters = (s.die d).waiters) ∧ (∀ j, nonePending s j → nonePending u j) ∧
      (u.ctrEnt c k).gen = (s.ctrEnt c k).gen + 1 ∧ (u.ctrEnt c k).st = if (s.ctrEnt c k).gen + 1 < 0xFFFF then 0 else 3 := by
    have hu : u.ctrEnt c k = t.ctrEnt c k := by rw [State.ctrEnt, State.ctx, hc]; rfl
    rw [hu, hent, ← hgen c k]
    exact ⟨hm.trans hmem, fun d => (hw d).trans (hwaiters d),
      fun j hj => (countersKept_of_ctxs hc j).2 (modCtr_nonePending _ c k _ (hpending j hj)), rfl, rfl⟩
  split
  · exact ht _ rfl rfl (modDie_waiters t _ fun _ => rfl)
  · exact ht t rfl rfl fun _ => rfl

theorem ctrLive_ok {c k : Nat} (hk : k % 2 ^ 24 < s.ctrSize c (keyDie k)) (hst : (s.ctrEnt c k).st = 1 ∨ (s.ctrEnt c k).st = 2) :
    s.ctrLive c k (s.ctrEnt c k).gen = .ok (s.ctrTouch c k) :=
  if_pos (by
    simp only [Bool.and_eq_true, Bool.or_eq_true, decide_eq_true_eq, beq_iff_eq]
    exact ⟨⟨hk, trivial⟩, hst⟩)

theorem cfree_eq {c k : Nat} (hk : k % 2 ^ 24 < s.ctrSize c (keyDie k)) (hst : (s.ctrEnt c k).st = 1 ∨ (s.ctrEnt c k).st = 2) :
    s.cfree c k (s.ctrEnt c k).gen = .ok (((counterRetired s c k).answerWaiters (keyDie k) (fun w => w.isOn (.slot c k (s.ctrEnt c k).gen))
      cCOUNTER_FAULT 3 0).staleAll c) := by
  unfold State.cfree
  rw [ctrLive_ok hk hst]
  rfl

theorem answerWaiters_countersKept (s : State) (d : Nat) (f : Waiter → Bool) (cause detail : Nat) (v : Word) :
    countersKept s (s.answerWaiters d f cause detail v) := by
  unfold State.answerWaiters
  extract_lets ws
  have hfold (ws : List Waiter) (s : State) : countersKept s (ws.foldl (fun s w => s.answerWaiter cause detail v w) s) := by
    induction ws generalizing s with
    | nil => exact countersKept_of_ctxs rfl
    | cons w ws ih => exact countersKept_trans (countersKept_answerWaiter s cause detail v w) (ih _)
  refine countersKept_trans ?_ (hfold ws _)
  exact countersKept_of_ctxs rfl

theorem answerWaiters_mem {d : Nat} {f : Waiter → Bool} (cause detail : Nat) (v : Word)
    (h : ∀ w ∈ (s.die d).waiters, f w = true → w.remote = none) : (s.answerWaiters d f cause detail v).mem = s.mem := by
  unfold State.answerWaiters
  extract_lets ws
  have hws : ∀ w ∈ ws, w.remote = none := fun w hw => h w (List.mem_filter.mp hw).1 (List.mem_filter.mp hw).2
  have hfold (ws : List Waiter) (hws : ∀ w ∈ ws, w.remote = none) (s : State) :
      (ws.foldl (fun s w => s.answerWaiter cause detail v w) s).mem = s.mem := by
    induction ws generalizing s with
    | nil => rfl
    | cons w ws ih =>
      rw [List.foldl_cons, ih (fun x hx => hws x (List.mem_cons_of_mem w hx)), answerWaiter_mem s cause detail v (hws w List.mem_cons_self)]
  exact hfold ws hws _

/-- A live counter retired, in a context without PENDING kernels. -/
theorem cfree_retires {c k : Nat} (hk : k % 2 ^ 24 < s.ctrSize c (keyDie k)) (hst : (s.ctrEnt c k).st = 1 ∨ (s.ctrEnt c k).st = 2)
    (hpending : nonePending s c) : ∃ t, s.cfree c k (s.ctrEnt c k).gen = .ok t ∧ (t.ctrEnt c k).gen = (s.ctrEnt c k).gen + 1 ∧
      (t.ctrEnt c k).st = (if (s.ctrEnt c k).gen + 1 < 0xFFFF then 0 else 3) ∧
      ((∀ w ∈ (s.die (keyDie k)).waiters, w.isOn (.slot c k (s.ctrEnt c k).gen) = true → w.remote = none) → t.mem = s.mem) := by
  obtain ⟨hmem, hwaiters, hnone, hgen, hstate⟩ := counterRetired_spec s c k
  obtain ⟨hctrs, hkept⟩ := answerWaiters_countersKept (counterRetired s c k) (keyDie k)
    (fun w => w.isOn (.slot c k (s.ctrEnt c k).gen)) cCOUNTER_FAULT 3 0 c
  refine ⟨_, cfree_eq hk hst, ?_⟩
  rw [staleAll_of_nonePending (hkept (hnone c hpending)), State.ctrEnt, hctrs]
  refine ⟨hgen, hstate, fun h => ?_⟩
  rw [← hwaiters] at h
  rw [answerWaiters_mem _ _ _ h, hmem]

theorem placeOf_ctr_slot {w : Word} {node gen k : Nat} (h : placeOf w = some (.ctr node gen k)) : k < 2 ^ 24 := by
  unfold placeOf at h
  dsimp only at h
  split at h
  case h_5 =>
    split at h
    · cases h
      rw [bitsOf_eq_div]
      exact Nat.mod_lt _ (by decide)
    · cases h
  case h_2 | h_4 => split at h <;> cases h
  all_goals cases h

theorem ctrKey_slot {d k : Nat} (h : k < 2 ^ 24) : keyDie (ctrKey d k) = d ∧ ctrKey d k % 2 ^ 24 = k := by
  unfold keyDie ctrKey
  omega

theorem bankCtr_own {w : Word} {node gen k : Nat} (h : placeOf w = some (.ctr node gen k)) (hown : s.ownNode s.bank.id.ctx node = true)
    (write : Bool) : s.bankCtr w write = .ok (.slot s.bank.id.ctx (ctrKey (dieOfNode node) k) gen) := by
  unfold State.bankCtr
  rw [h]
  exact if_pos hown

theorem cfree_done {o : SrOp} {node gen k : Nat} (h : Readable s [o.xa] 0) (hplace : placeOf (s.rx o.xa) = some (.ctr node gen k))
    (hidle : s.bank.swait = .none) (hown : s.ownNode s.bank.id.ctx node = true) (hu : s.reachDie (dieOfNode node) = .ok u)
    (hbehind : s.ctrBehind (.slot s.bank.id.ctx (ctrKey (dieOfNode node) k) gen) = false)
    (ht : u.cfree s.bank.id.ctx (ctrKey (dieOfNode node) k) gen = .ok t) : exec (.cfree o) s = .next (done t) := by
  dsimp only [exec]
  unfold execCfree
  rw [hidle]
  dsimp only
  rw [operands_of_readable h, ok_bind, hplace]
  dsimp only
  rw [bankCtr_own hplace hown, ok_bind, await_bind (by rw [hbehind]; rfl), if_pos hown, hu, ok_bind, ht, atPlace_ok]
  rfl

/-- Settles O35: an allocation takes the first free entry, and a live counter is retired under its next generation; that a retired entry is
FREE in the same step is the model's choice (R307, R308, R314, R315, log 38). -/
theorem counterAllocationCompletes : Obligations.CounterAllocationCompletes := by
  refine ⟨fun s o k h => ⟨fun hfirst hslots => ?_, fun hwf hall => ?_⟩, fun s o k h => ⟨fun u hd hu hfirst hslots => ?_, callocDie_illegal h⟩,
    fun s u o node gen k h hplace hidle hown hu => ?_⟩
  · exact ⟨_, calloc_done h (calloc_first _ hfirst hslots), counterTaken_allocated _ _ _ _⟩
  · exact calloc_done h (calloc_full _ hwf hall)
  · obtain ⟨ls, ns, rfl⟩ := round_eq hu
    exact ⟨_, callocDie_done h hd hu (calloc_first (s := { s with links := ls, notices := ns }) _ hfirst hslots), counterTaken_allocated _ _ _ _⟩
  · intro c key hbehind hk hgen hst hpending
    subst hgen
    obtain ⟨hdie, hslot⟩ := ctrKey_slot (d := dieOfNode node) (placeOf_ctr_slot hplace)
    obtain ⟨ls, ns, rfl⟩ := round_eq hu
    have hin : key % 2 ^ 24 < s.ctrSize c (keyDie key) := by
      rw [hdie, hslot]
      exact hk
    obtain ⟨t, ht, hgen, hstate, hmem⟩ := cfree_retires (s := { s with links := ls, notices := ns }) hin hst hpending
    rw [hdie] at hmem
    exact ⟨done t, cfree_done h hplace hidle hown hu hbehind ht, rfl, hgen, hstate, hmem⟩

end Sys2Proof.Machine
end

section
/-! PROOFS. CADD, CWAIT, CRD and ATOM (R256, R316 to R320). -/

namespace Sys2Proof.Machine

open Sys2Proof.Claims

variable {s t u : State}

/-! ### CADD (R316) -/

theorem cadd_queued {o : SgOp} {id : CtrId} (h : Readable s [o.xd, o.xb] 0) (hscope : o.fn.toNat < 5) (hguard : s.sgGuard o = .ok true)
    (hid : s.bankCtr (s.rx o.xd) true = .ok id) :
    exec (.cadd o) s = .next (done (s.enqueue (.cadd (s.rx o.xd) (s.rx o.xb) o.fn.toNat) 0 (s.rx o.xd))) := by
  dsimp only [exec]
  unfold execCadd
  rw [run_operands h, legal_bind (decide_eq_true hscope), hguard, ok_bind, if_pos rfl, hid, atPlace_ok]
  rfl

theorem cadd_unguarded {o : SgOp} (h : Readable s [o.xd, o.xb] 0) (hscope : o.fn.toNat < 5) (hguard : s.sgGuard o = .ok false) :
    exec (.cadd o) s = .next (done s) := by
  dsimp only [exec]
  unfold execCadd
  rw [run_operands h, legal_bind (decide_eq_true hscope), hguard]
  rfl

theorem ule_iff {a b : Word} : a.ule b = true ↔ a.toNat ≤ b.toNat := decide_eq_true_iff

/-! ### CWAIT and CRD (R256, R317, R318) -/

section Waits

variable {o : SrOp} {id : CtrId} {v : Word} (hidle : s.bank.swait = .none) (hid : s.bankCtr (s.rx o.xa) false = .ok id)
  (hown : ∀ n w, id ≠ .remote n w) (hsettled : s.ctrSettled (dieOf s.cur) id = true) (hu : s.reachDie (s.ctrDie id) = .ok u)
  (hread : u.ctrRead id = .ok (v, t))
include hidle hid hown hsettled hu hread

/-- A CWAIT on a counter of the device ends with its value, or its bank waits. -/
theorem cwait_eq (h : Readable s [o.xa, o.xb] o.xd) (hscope : o.fn.toNat % 8 < 5) (hdrained : s.drained = true) : exec (.cwait o) s =
    runW s (.ok (if (s.rx o.xb).ule v then (true, (t.ctrDrop (dieOf s.cur) id).cwaitEnd o.xd (o.fn.toNat % 8) v)
      else (false, s.cwaitStay id (s.rx o.xb) (cwaitBound o.fn.toNat)))) := by
  dsimp only [exec]
  unfold execCwait
  rw [hidle]
  dsimp only
  rw [operands_of_readable h, ok_bind, legal_bind (decide_eq_true hscope), hid, atPlace_ok, ok_bind,
    await_bind (by rw [hdrained, hsettled]; rfl)]
  cases id with
  | remote n w => exact absurd rfl (hown n w)
  | slot | word =>
    dsimp only
    rw [hu, ok_bind, hread, atPlace_ok, ok_bind]
    split <;> rfl

theorem crd_done (h : Readable s [o.xa] o.xd) (hheld : s.bank.heldBack = false) (hbehind : s.ctrBehind id = false) :
    exec (.crd o) s = .next (done ((t.refreshFar (dieOf s.cur) id).setX o.xd v)) := by
  dsimp only [exec]
  unfold execCrd
  rw [hidle]
  dsimp only
  rw [operands_of_readable h, ok_bind, hid, atPlace_ok, ok_bind, await_bind (by rw [hheld, hbehind, hsettled]; rfl)]
  cases id with
  | remote n w => exact absurd rfl (hown n w)
  | slot | word =>
    dsimp only
    rw [hu, ok_bind, hread, atPlace_ok, ok_bind]
    rfl

end Waits

/-- A bank that stays in its CWAIT waits, with its waiter on the way to the counter's die. -/
theorem cwaitStay_registers {id : CtrId} (hown : ∀ n w, id ≠ .remote n w) (target : Word) (bound : Nat) :
    (s.cwaitStay id target bound).bank.run = .waiting ∧ (s.cwaitStay id target bound).bank.regs = s.bank.regs ∧
      (s.cwaitStay id target bound).mem = s.mem ∧ ∃ w, ((s.cwaitStay id target bound).die (s.ctrDie id)).regs_ =
        (s.die (s.ctrDie id)).regs_ ++ [w] ∧ w.bank = s.cur ∧ w.ctr = id ∧ w.target = target := by
  cases id with
  | remote n w => exact absurd rfl (hown n w)
  | slot | word => exact ⟨rfl, rfl, rfl, _, congrArg Die.regs_ (State.modDie_die_same _ _ _), rfl, rfl, rfl⟩

/-! ### ATOM (R319, R320) -/

/-- Only the minimum and the maximum have signed forms. -/
theorem atom_legal {sg : Bool} {op : Nat} (hsigned : sg = true → op = 1 ∨ op = 2) : (!sg || op == 1 || op == 2) = true := by
  cases sg with
  | false => rfl
  | true => simpa using hsigned rfl

section Atom

variable {o : SgOp} {op size n off : Nat} {sg : Bool} (hop : o.fn.toNat % 8 = op) (hsize : (if bitAt o.fn.toNat 3 then 8 else 4) = size)
  (hsg : bitAt o.fn.toNat 4 = sg) (h : Readable s ([o.xb, o.xd] ++ if op = 7 then [casReg o.xd] else []) o.xd)
  (hsigned : sg = true → op = 1 ∨ op = 2) (hidle : s.bank.swait = .none)
include hop hsize hsg h hsigned hidle

theorem atom_unguarded (hguard : s.sgGuard o = .ok false) : exec (.atom o) s = .next (done s) := by
  dsimp only [exec]
  unfold execAtom
  rw [hop, hsize, hsg, hidle]
  dsimp only
  rw [operands_of_readable h, ok_bind, legal_bind (atom_legal hsigned), hguard]
  rfl

variable (hguard : s.sgGuard o = .ok true) (hplace : placeOf (s.rx o.xb) = some (.ext n off))
include hguard hplace

theorem atom_misaligned (hoff : off % size ≠ 0) :
    exec (.atom o) s = .next (s.takeFault { cause := cILLEGAL_OPERAND, detail := 1, place := s.rx o.xb }) := by
  dsimp only [exec]
  unfold execAtom
  rw [hop, hsize, hsg, hidle]
  dsimp only
  rw [operands_of_readable h, ok_bind, legal_bind (atom_legal hsigned), hguard, ok_bind, if_neg (by decide), hplace]
  dsimp only
  rw [if_pos hoff]
  rfl

/-- An aligned access that nothing holds up is performed at the home of its word. -/
theorem atom_performs {a : Nat} {old : Word} {bad : Bool} (hoff : off % size = 0) (hr : (s.ext n).permits off size false = true)
    (hw : (s.ext n).permits off size true = true) (hdrained : s.drained = true) (haddr : s.extAddr n off = .ok a)
    (hsettled : s.lineSettled (dieOf s.cur) a = true) (hu : s.reachVc (s.home a) 0 = .ok u)
    (hat : u.atomAt a size op sg (if op = 7 then s.rx (casReg o.xd) else s.rx o.xd) (s.rx o.xd) (bitAt (s.ext n).flags 5) = .ok (old, bad, t)) :
    exec (.atom o) s = runAtom s (s.rx o.xb)
      (.ok (true, bad, ((t.dropLine (dieOf s.cur) a).efcTouch n [off]).setX o.xd (atomResult size sg old))) := by
  dsimp only [exec]
  unfold execAtom
  rw [hop, hsize, hsg, hidle]
  dsimp only
  rw [operands_of_readable h, ok_bind, legal_bind (atom_legal hsigned), hguard, ok_bind, if_neg (by decide), hplace]
  dsimp only
  rw [if_neg (not_not_intro hoff), extCheck_ok hr, ok_bind, extCheck_ok hw, ok_bind, await_bind hdrained, haddr, ok_bind,
    await_bind hsettled, hu, atPlace_ok, ok_bind, hat, atPlace_ok, ok_bind]
  rfl

end Atom

/-- Settles O36: an add is queued, a wait ends or registers its waiter, a relaxed read and an atomic give the counter's value (R256, R316 to
R320). -/
theorem counterUseCompletes : Obligations.CounterUseCompletes := by
  refine ⟨fun s o h hscope => ⟨fun id => cadd_queued h hscope, cadd_unguarded h hscope⟩,
    fun s u t o id v hidle hid hown hsettled hu hread => ⟨fun h hscope hdrained => ?_, crd_done hidle hid hown hsettled hu hread⟩,
    fun s u t o n off a old bad => ?_⟩
  · rw [cwait_eq hidle hid hown hsettled hu hread h hscope hdrained]
    refine ⟨fun hmet => ?_, fun hunmet => ?_⟩
    · rw [if_pos (ule_iff.mpr hmet)]
      rfl
    · rw [if_neg (mt ule_iff.mp (Nat.not_le.mpr hunmet))]
      obtain ⟨hrun, hregs, hmem, hw⟩ := cwaitStay_registers hown (s.rx o.xb) (cwaitBound o.fn.toNat)
      exact ⟨_, rfl, hrun, rfl, hregs, hmem, hw⟩
  · intro op size sg h hsigned hidle
    refine ⟨atom_unguarded rfl rfl rfl h hsigned hidle, fun hguard hplace => ⟨atom_misaligned rfl rfl rfl h hsigned hidle hguard hplace,
      fun hoff hr hw hdrained haddr hsettled hu hat => ?_⟩⟩
    rw [atom_performs rfl rfl rfl h hsigned hidle hguard hplace hoff hr hw hdrained haddr hsettled hu hat]
    refine ⟨fun hbad => ?_, fun hbad => ?_⟩ <;> subst hbad <;> rfl

end Sys2Proof.Machine
end

section
/-! PROOFS. Adds and waiters at their counters, the bound of a CWAIT, and the host's counter windows, writes and reads (R246, R259, R304,
R306, R309, R310, R317, R324, R341). -/

namespace Sys2Proof.Machine

open Sys2Proof.Claims

variable {s t u : State}

/-! ### Adds and waiters (R304, R306, R309, R310) -/

section Adds

variable {die : Nat} {a : CtrAdd} {as : List CtrAdd} (hadds : (s.die die).adds = a :: as)
  (hcross : (s.modDie die fun d => { d with adds := as }).cross (a.src.origin die) die 4 = some t)
include hadds hcross

/-- The first add is made when it has crossed and does not wait. -/
theorem counterAdd_first (h : t.oneAdd a = some u) : exec (.counterAdd die) s = .next (State.settleHost u) := by
  dsimp only [exec, execCounterAdd]
  rw [hadds, State.takeAdd, List.any_nil, if_neg (by decide), List.nil_append, hcross, Option.bind_some, h]

end Adds

/-- What the completion add of a kernel leads to, and the die whose line of the counter is dropped. -/
def addEnds (src : AddSrc) (x : State) : State := match src with
  | .done c k => x.completed c k
  | _ => x

def addDrops (a : CtrAdd) (x : State) : State := match a.src.die with
  | some d => x.ctrDrop d a.id
  | none => x

theorem oneAdd_late {a : CtrAdd} (h : t.addLate a = true) : t.oneAdd a = some t := if_pos h

theorem oneAdd_made {a : CtrAdd} (h : t.addLate a = false) (hadd : t.ctrAdd a.id a.amount a.hint = .ok u) :
    t.oneAdd a = some (addEnds a.src ((addDrops a u).addDone a)) := by
  unfold State.oneAdd
  rw [if_neg (by simp [h]), hadd]
  rfl

theorem oneAdd_failed {a : CtrAdd} {f : Flt} (h : t.addLate a = false) (hadd : t.ctrAdd a.id a.amount a.hint = .error (.fault f)) :
    t.oneAdd a = some (addEnds a.src ((addDrops a (t.metError f)).addAnswer a f.cause f.detail)) := by
  unfold State.oneAdd
  rw [if_neg (by simp [h]), hadd]
  rfl

section Waiters

variable {die : Nat} {w : Waiter} {ws : List Waiter} {v : Word} (hregs : (s.die die).regs_ = w :: ws)
  (hcross : (s.modDie die fun d => { d with regs_ := ws }).cross (if w.remote.isSome then 4 else dieOf w.bank) die 4 = some t)
  (hsettled : w.remote = none → t.ctrSettled (dieOf w.bank) w.ctr = true) (hread : t.ctrRead w.ctr = .ok (v, u))

include hregs hcross in
theorem waiterRegister_first {x : State} (h : t.oneWaiter die w = some x) : exec (.waiterRegister die) s = .next x := by
  dsimp only [exec, execWaiterRegister]
  rw [hregs]
  unfold State.takeWaiter
  dsimp only
  rw [List.nil_append, hcross, Option.bind_some, h]
  rfl

include hsettled in
theorem waiter_notHeld : ¬ (w.remote.isNone && !t.ctrSettled (dieOf w.bank) w.ctr) = true := by
  cases hw : w.remote with
  | none => simp [hsettled hw]
  | some r => simp

include hsettled hread

theorem oneWaiter_reached (h : w.target.toNat ≤ v.toNat) : t.oneWaiter die w = some (u.answerWaiter 0 0 v w) := by
  unfold State.oneWaiter
  rw [if_neg (waiter_notHeld hsettled), hread]
  exact if_pos (ule_iff.mpr h)

theorem oneWaiter_below (h : v.toNat < w.target.toNat) (hlocal : w.remote = none) :
    t.oneWaiter die w = some (u.modDie die fun d => { d with waiters := d.waiters ++ [w] }) := by
  unfold State.oneWaiter
  rw [if_neg (waiter_notHeld hsettled), hread]
  dsimp only
  rw [if_neg (mt ule_iff.mp (Nat.not_le.mpr h)), hlocal]

end Waiters

theorem waiterResendTimer_sends {die node tag at_ : Nat} {r : RemoteReq} {q : Asked}
    (hr : ((s.die die).resend.find? fun x => x.2.2.2 + 4096 ≤ s.cycle) = some (node, tag, r, at_))
    (hq : (s.gate.asked.find? fun x => x.tag == tag) = some q) (ht : (s.modDie die fun d => { d with resend := d.resend.erase (node, tag, r, at_) }) = t) :
    exec (.waiterResendTimer die) s = .next (t.emit die node (t.ctx (t.askerCtx q.who)).dom 4 (.request tag r)) := by
  subst ht
  dsimp only [exec, execWaiterResendTimer]
  rw [hr]
  dsimp only
  rw [hq]

/-- The bound of a CWAIT has passed: the bank takes the value that the counter then holds. -/
theorem cwaitBoundExpiry_ends {b since bound : Nat} {id : CtrId} {v : Word} (hu : s.focus b = u) (hwait : u.bank.swait = .counter since bound)
    (hctr : u.cwaitCtr = some id) (hbound : bound ≠ 0) (hpast : since + bound ≤ u.cycle) (hrun : u.bank.run = .waiting)
    (hown : ∀ n w, id ≠ .remote n w) (hread : u.ctrRead id = .ok (v, t)) :
    exec (.cwaitBoundExpiry b) s = .next (((t.dropCwait t.cur).hand (.bank t.cur) ⟨0, 0, v, [], false⟩).focus s.cur) := by
  dsimp only [exec, execCwaitBoundExpiry, State.onBank]
  rw [hu, hwait, hctr]
  dsimp only
  rw [if_neg (by simp [hbound, hrun, Nat.not_lt.mpr hpast])]
  cases id with
  | remote n w => exact absurd rfl (hown n w)
  | slot | word =>
    dsimp only
    rw [hread]

/-! ### Maps written twice -/

theorem minsert_minsert_same {α : Type} (m : Map α) (k : Nat) (v w : α) : minsert (minsert m k v) k w = minsert m k w := by
  induction m with
  | nil => simp [minsert]
  | cons x m ih =>
    obtain ⟨a, y⟩ := x
    by_cases hlt : k < a
    · simp [minsert, hlt]
    · by_cases heq : a = k
      · simp [minsert, heq]
      · simp [minsert, hlt, heq, ih]

theorem merase_minsert_same {α : Type} (m : Map α) (k : Nat) (v : α) : merase (minsert m k v) k = merase m k := by
  induction m with
  | nil => simp [minsert, merase]
  | cons x m ih =>
    obtain ⟨a, y⟩ := x
    by_cases hlt : k < a
    · simp [minsert, merase, hlt]
    · by_cases heq : a = k
      · simp [minsert, merase, heq]
      · simp [minsert, merase, hlt, heq, ih]

theorem mset_mset_same {α : Type} [DecidableEq α] {d v : α} (hv : v ≠ d) (m : Map α) (k : Nat) (w : α) :
    mset d (mset d m k v) k w = mset d m k w := by
  unfold mset
  rw [if_neg hv]
  split
  · exact merase_minsert_same m k v
  · exact minsert_minsert_same m k v w

/-- A change of a function's windows on another, where the first leaves the function other than it is at reset. -/
theorem modFn_modFn (s : State) (n : Nat) {f : HostFn → HostFn} (hf : f (s.fn n) ≠ HostFn.reset) (g : HostFn → HostFn) :
    (s.modFn n f).modFn n g = s.modFn n (g ∘ f) := by
  have h : mset HostFn.reset (mset HostFn.reset s.fns n (f (s.fn n))) n (g ((s.modFn n f).fn n)) =
      mset HostFn.reset s.fns n (g (f (s.fn n))) := by
    rw [mset_mset_same hf, State.modFn_fn_same]
  exact congrArg (fun m => { s with fns := m }) h

/-! ### The host's counter window (R259, R324) -/

theorem hostCtr_modFn {n : Nat} {f : HostFn → HostFn} (hf : (f (s.fn n)).bound = (s.fn n).bound) (w : Word) (write : Bool) :
    (s.modFn n f).hostCtr n w write = s.hostCtr n w write := by
  have hbound : (s.modFn n f).fnBound n = s.fnBound n := by
    unfold State.fnBound
    rw [State.modFn_fn_same, hf]
    rfl
  unfold State.hostCtr
  rw [hbound]
  rfl

theorem hostDrain_one {n : Nat} {p : Nat × List Byte × Option Word} (hp : (s.fn n).posted = [p]) (h : s.hostGo n [p] = ([], t)) :
    s.hostDrain n = t.modFn n fun f => { f with posted := [] } := by
  unfold State.hostDrain
  rw [hp, h]

theorem hostPost_first {n : Nat} {p : Nat × List Byte × Option Word} (hnone : (s.fn n).posted = [])
    (h : (s.modFn n fun f => { f with posted := f.posted ++ [p] }).hostGo n [p] = ([], t)) :
    s.hostPost n p = t.modFn n fun f => { f with posted := [] } := by
  unfold State.hostPost
  rw [if_pos hnone]
  exact hostDrain_one (by rw [State.modFn_fn_same, hnone, List.nil_append]) h

theorem hostPost_behind {n : Nat} {p : Nat × List Byte × Option Word} (h : (s.fn n).posted ≠ []) :
    s.hostPost n p = s.modFn n fun f => { f with posted := f.posted ++ [p] } := if_neg h

theorem sendAdd_here {die c : Nat} {a : CtrAdd} (hown : ∀ n p, a.id ≠ .remote n p) (h : s.dieFails die (s.ctrDie a.id) 4 = none) :
    s.sendAdd die c a = s.modDie (s.ctrDie a.id) fun d => { d with adds := d.adds ++ [a] } := by
  unfold State.sendAdd
  split
  · next n p hid => exact absurd hid (hown n p)
  · dsimp only
    rw [h]

/-- A host add at a counter of the device joins those on their way to its die. -/
theorem hostAdd_here {n : Nat} {w v : Word} {id : CtrId} (hid : s.hostCtr n w true = .ok id) (hown : ∀ n p, id ≠ .remote n p)
    (h : s.dieFails sheepdog (s.ctrDie id) 4 = none) : s.hostAdd n w v =
      s.modDie (s.ctrDie id) fun d => { d with adds := d.adds ++ [⟨id, v, .host n, w, 0, 0, 0, false, (s.fn n).bound.getD 0, none⟩] } := by
  unfold State.hostAdd
  rw [hid]
  exact sendAdd_here hown h

theorem hostGo_add {n : Nat} {w v : Word} (h : s.hostAdd n w v = t) : s.hostGo n [(w.toNat, [], some v)] = ([], t) := by
  have hw : BitVec.ofNat 64 w.toNat = w := by simp
  unfold State.hostGo
  rw [hw, h]
  rfl

section HostWindow

variable {fn : Nat} {v : Word} (hfn : fn < 17)
include hfn

theorem hcaAdd_eq : exec (.hcaAdd fn v) s =
    .next (State.settleHost ((s.modFn fn fun f => { f with hcaAmt := v }).hostPost fn ((s.fn fn).hcaId.toNat, [], some v))) := by
  dsimp only [exec, execHcaAdd]
  rw [if_neg (Nat.not_le.mpr hfn)]

theorem hcaAdd_queued (hposted : (s.fn fn).posted ≠ []) : exec (.hcaAdd fn v) s = .next (State.settleHost (s.modFn fn fun f =>
    { f with hcaAmt := v, posted := f.posted ++ [((s.fn fn).hcaId.toNat, [], some v)] })) := by
  have hposted' : ((s.modFn fn fun f => { f with hcaAmt := v }).fn fn).posted ≠ [] := by
    rw [State.modFn_fn_same]
    exact hposted
  rw [hcaAdd_eq hfn, hostPost_behind hposted', modFn_modFn]
  · rfl
  · exact fun h => hposted (congrArg HostFn.posted h)

/-- The bound context of the function of an add is the one at its arrival. -/
theorem hcaAdd_sent {id : CtrId} (hnone : (s.fn fn).posted = []) (hid : s.hostCtr fn (s.fn fn).hcaId true = .ok id)
    (hown : ∀ n p, id ≠ .remote n p) (hlink : s.dieFails sheepdog (s.ctrDie id) 4 = none) :
    exec (.hcaAdd fn v) s = .next (State.settleHost (((s.modFn fn fun f => { f with hcaAmt := v }).modDie (s.ctrDie id) fun d =>
        { d with adds := d.adds ++ [⟨id, v, .host fn, (s.fn fn).hcaId, 0, 0, 0, false, (s.fn fn).bound.getD 0, none⟩] }).modFn fn fun f =>
          { f with posted := [] })) := by
  have hsend := hostAdd_here (s := (s.modFn fn fun f => { f with hcaAmt := v }).modFn fn fun f =>
    { f with posted := f.posted ++ [((s.fn fn).hcaId.toNat, [], some v)] }) (v := v)
    ((hostCtr_modFn rfl _ _).trans ((hostCtr_modFn rfl _ _).trans hid)) hown hlink
  rw [hcaAdd_eq hfn, hostPost_first (by rw [State.modFn_fn_same]; exact hnone) (hostGo_add hsend)]
  have hagain : ((s.modFn fn fun f => { f with hcaAmt := v }).modFn fn fun f =>
      { f with posted := f.posted ++ [((s.fn fn).hcaId.toNat, [], some v)] }).modFn fn (fun f => { f with posted := [] }) =
      (s.modFn fn fun f => { f with hcaAmt := v }).modFn fn fun f => { f with posted := [] } :=
    modFn_modFn _ fn (fun h => List.append_ne_nil_of_right_ne_nil _ (List.cons_ne_nil _ _) (congrArg HostFn.posted h)) _
  have hdie (x : State) (f : HostFn → HostFn) : (x.modFn fn f).ctrDie id = x.ctrDie id := rfl
  have hcomm (x : State) (d : Nat) (f : Die → Die) (g : HostFn → HostFn) : (x.modDie d f).modFn fn g = (x.modFn fn g).modDie d f := rfl
  rw [hdie, hdie, hcomm, hcomm, hagain]
  simp only [State.modFn_fn_same]

theorem hcaVal_answers {id : CtrId} {w : Word} (hid : s.hostCtr fn (s.fn fn).hcaId false = .ok id) (hown : ∀ n p, id ≠ .remote n p)
    (hu : s.round sheepdog (s.ctrDie id) 4 4 = .ok u) (hread : u.ctrRead id = .ok (w, t)) :
    exec (.hcaVal fn) s = .next (t.hand (.host fn) ⟨0, 0, w, [], false⟩) := by
  dsimp only [exec, execHcaVal, State.hostRead, State.hcaRead]
  rw [if_neg (Nat.not_le.mpr hfn), hid]
  cases id with
  | remote n p => exact absurd rfl (hown n p)
  | slot | word =>
    dsimp only
    rw [hu, ok_bind, hread]
    rfl

theorem hcaVal_fails {f : Flt} (hid : s.hostCtr fn (s.fn fn).hcaId false = .error (.fault f)) :
    exec (.hcaVal fn) s = .next (s.hand (.host fn) ⟨f.cause, f.detail, 0, [], false⟩) := by
  dsimp only [exec, execHcaVal, State.hostRead, State.hcaRead]
  rw [if_neg (Nat.not_le.mpr hfn), hid]
  rfl

end HostWindow

/-! ### The host's writes and reads (R246, R259, R341) -/

theorem inMemory_of_le {addr len : Nat} (h : addr + len ≤ 2 ^ 48) : inMemory addr len = true := decide_eq_true h

theorem hostWrite_posts {fn addr : Nat} {data : List Byte} (hfn : fn < 17) (h : addr + data.length ≤ 2 ^ 48) :
    exec (.hostWrite fn addr data) s = .next (State.settleHost (s.hostPost fn (addr, data, none))) := by
  dsimp only [exec, execHostWrite]
  rw [inMemory_of_le h, if_neg (by simpa using hfn)]

/-- A posted write that the links carry and its homes take is performed. -/
theorem hostGo_write {n addr : Nat} {data : List Byte}
    (hlinks : s.rounds sheepdog (s.homesOf ((List.range data.length).map (addr + ·))) 0 1 = .ok u)
    (hstore : u.homeStore .bank (wholeBytes addr data) = .ok t) : s.hostGo n [(addr, data, none)] = ([], t) := by
  unfold State.hostGo
  rw [hlinks, ok_bind, hstore]
  rfl

theorem rounds_keeps {a v r : Nat} {bs : List Nat} (h : s.rounds a bs v r = .ok t) :
    ∃ ls ns, t = { s with links := ls, notices := ns } := by
  induction bs generalizing s with
  | nil => cases h; exact ⟨_, _, rfl⟩
  | cons b bs ih =>
    obtain ⟨w, hw, h⟩ := bind_ok.mp (show (s.round a b v r >>= fun w => w.rounds a bs v r) = .ok t from h)
    obtain ⟨_, _, rfl⟩ := round_eq hw
    obtain ⟨ls, ns, rfl⟩ := ih h
    exact ⟨ls, ns, rfl⟩

theorem readRows_all_eq (ls : List Nat) (s : State) : ∃ ds, ls.foldl State.readRows s = { s with dies := ds } := by
  induction ls generalizing s with
  | nil => exact ⟨s.dies, rfl⟩
  | cons l ls ih =>
    obtain ⟨ds, hds⟩ := readRows_eq s l
    obtain ⟨es, hes⟩ := ih (s.readRows l)
    exact ⟨es, by rw [List.foldl_cons, hes, hds]⟩

section Reads

variable {addr len : Nat}

theorem mem_linesOf {l : Nat} : l ∈ (((List.range len).map (addr + ·)).map (· / 64)).eraseDups ↔ ∃ i < len, (addr + i) / 64 = l := by
  simp [List.mem_eraseDups]

variable (hfree : ∀ i, i < len → s.prepHeld ((addr + i) / 64) = false ∧ s.lineWaits ((addr + i) / 64) = false)
include hfree

theorem linesOf_free :
    ((((List.range len).map (addr + ·)).map (· / 64)).eraseDups.any fun l => s.prepHeld l || s.lineWaits l) = false := by
  rw [List.any_eq_false]
  intro l hl
  obtain ⟨i, hi, rfl⟩ := mem_linesOf.mp hl
  simp [hfree i hi]

theorem homeRead_bytes (hgood : ∀ i, i < len → s.linePoison ((addr + i) / 64 * 64) = false) :
    ∃ ds, s.homeRead ((List.range len).map (addr + ·)) =
      .ok ((List.range len).map fun i => s.byteAt (addr + i), { s with dies := ds }) := by
  obtain ⟨ds, hds⟩ := readRows_all_eq (((List.range len).map (addr + ·)).map (· / 64)).eraseDups s
  refine ⟨ds, ?_⟩
  have hnone : ((((List.range len).map (addr + ·)).map (· / 64)).eraseDups.find? fun l => s.linePoison (l * 64)) = none := by
    rw [List.find?_eq_none]
    intro l hl
    obtain ⟨i, hi, rfl⟩ := mem_linesOf.mp hl
    simp [hgood i hi]
  dsimp only [State.homeRead]
  rw [if_neg (Bool.eq_false_iff.mp (linesOf_free hfree)), hnone, hds, List.map_map]
  rfl

theorem homeRead_poisoned (hbad : ∃ i, i < len ∧ s.linePoison ((addr + i) / 64 * 64) = true) :
    ∃ l, s.homeRead ((List.range len).map (addr + ·)) = raiseMet l := by
  obtain ⟨i, hi, hpoison⟩ := hbad
  obtain ⟨l, hl⟩ := Option.isSome_iff_exists.mp (List.find?_isSome.mpr
    ⟨(addr + i) / 64, mem_linesOf.mpr ⟨i, hi, rfl⟩, hpoison⟩ :
      ((((List.range len).map (addr + ·)).map (· / 64)).eraseDups.find? fun l => s.linePoison (l * 64)).isSome = true)
  refine ⟨l, ?_⟩
  dsimp only [State.homeRead]
  rw [if_neg (Bool.eq_false_iff.mp (linesOf_free hfree)), hl]

omit hfree in
theorem hostRead_of_memRead {fn : Nat} (hfn : fn < 17) (hin : addr + len ≤ 2 ^ 48) (h : s.memRead addr len = some t) :
    exec (.hostRead fn addr len) s = .next t := by
  dsimp only [exec, execHostRead, State.hostRead]
  rw [inMemory_of_le hin, if_neg (by simpa using hfn), h]
  rfl

variable (hlinks : s.rounds sheepdog (s.homesOf ((List.range len).map (addr + ·))) 0 1 = .ok u)
include hlinks

theorem memRead_bytes (hgood : ∀ i, i < len → s.linePoison ((addr + i) / 64 * 64) = false) :
    ∃ t : State, s.memRead addr len = some (t.notify (.bytes ((List.range len).map fun i => s.byteAt (addr + i)))) ∧
      t.mem = s.mem ∧ t.bank = s.bank := by
  obtain ⟨ls, ns, rfl⟩ := rounds_keeps hlinks
  obtain ⟨ds, hread⟩ := homeRead_bytes (s := { s with links := ls, notices := ns }) hfree hgood
  refine ⟨{ s with links := ls, notices := ns, dies := ds }, ?_, rfl, rfl⟩
  · dsimp only [State.memRead]
    rw [hlinks, ok_bind, hread]
    rfl

theorem memRead_poisoned (hbad : ∃ i, i < len ∧ s.linePoison ((addr + i) / 64 * 64) = true) :
    ∃ t : State, s.memRead addr len = some (t.notify (.refused cMEMORY_ERROR 0)) ∧ t.mem = s.mem ∧ t.bank = s.bank := by
  obtain ⟨ls, ns, rfl⟩ := rounds_keeps hlinks
  obtain ⟨l, hread⟩ := homeRead_poisoned (s := { s with links := ls, notices := ns }) hfree hbad
  obtain ⟨hview, hmem⟩ := metError_keeps s ⟨cMEMORY_ERROR, 0, 0, 0, false, false, false, some l⟩
  obtain ⟨-, hbank, -, -⟩ := faultView_iff.mp hview
  refine ⟨s.metError ⟨cMEMORY_ERROR, 0, 0, 0, false, false, false, some l⟩, ?_, hmem, hbank⟩
  dsimp only [State.memRead]
  rw [hlinks, ok_bind, hread]
  rfl

end Reads

/-- Settles O49: each step by the lemma of its form. A read of the host is answered by a notice (the model's choice, log 52). -/
theorem counterAndHostStepsComplete : Obligations.CounterAndHostStepsComplete := by
  refine ⟨?adds, ?waiters, ?resend, ?bound, ?window, ?writes, ?reads⟩
  case adds =>
    intro s t die a as hadds hcross
    refine ⟨fun hlate => ?_, fun u hlate hadd => ?_, fun f hlate hadd => ?_⟩
    · exact counterAdd_first hadds hcross (oneAdd_late hlate)
    · exact counterAdd_first hadds hcross (oneAdd_made hlate hadd)
    · exact counterAdd_first hadds hcross (oneAdd_failed hlate hadd)
  case waiters =>
    intro s t u die w ws v hregs hcross hsettled hread
    refine ⟨fun h => ?_, fun h hlocal => ?_⟩
    · exact waiterRegister_first hregs hcross (oneWaiter_reached hsettled hread h)
    · exact waiterRegister_first hregs hcross (oneWaiter_below hsettled hread h hlocal)
  case resend =>
    intro s die node tag at_ r q hr hq
    exact waiterResendTimer_sends hr hq rfl
  case bound =>
    intro s t b since bound id v u hwait hctr hbound hpast hrun hown hread
    exact cwaitBoundExpiry_ends rfl hwait hctr hbound hpast hrun hown hread
  case window =>
    intro s fn v hfn
    exact ⟨fun id hnone hid hown hlink => hcaAdd_sent hfn hnone hid hown hlink, hcaAdd_queued hfn,
      fun id w u t hid hown hu hread => hcaVal_answers hfn hid hown hu hread, fun f hid => hcaVal_fails hfn hid⟩
  case writes =>
    intro s fn addr data hfn hin
    refine ⟨fun h => ?_, fun _ => hostWrite_posts hfn hin, fun u t hnone hlinks hstore => hostPost_first hnone (hostGo_write hlinks hstore)⟩
    rw [hostWrite_posts hfn hin, hostPost_behind h]
  case reads =>
    intro s fn addr len hfn hin ⟨u, hlinks⟩ hfree
    refine ⟨fun hgood => ?_, fun hbad => ?_⟩
    · obtain ⟨t, ht, hkept⟩ := memRead_bytes hfree hlinks hgood
      exact ⟨t, hostRead_of_memRead hfn hin ht, hkept⟩
    · obtain ⟨t, ht, hkept⟩ := memRead_poisoned hfree hlinks hbad
      exact ⟨t, hostRead_of_memRead hfn hin ht, hkept⟩

end Sys2Proof.Machine
end

section
/-! PROOFS. The steps of the compression controllers (R334 to R338). -/

namespace Sys2Proof.Machine

open Sys2Proof.Claims

variable {s t : State} {die : Nat}

/-! ### Learning and tables (R334, R335, R337) -/

theorem resampleInterval_starts (hset : (s.die die).cmp.resamp ≠ 0)
    (hpast : (s.die die).cmp.sampAt + (s.die die).cmp.resamp * 2 ^ 20 ≤ s.cycle) (hidle : (s.die die).cmp.learn = false)
    (hnone : (s.die die).cmp.next = none) : exec (.resampleInterval die) s = .next (s.modDie die fun x =>
      { x with cmp := { x.cmp with learn := true, counts := [], nblk := 0, learnAt := s.cycle, sampAt := x.cmp.sampAt + x.cmp.resamp * 2 ^ 20 } }) := by
  dsimp only [exec, execResampleInterval]
  rw [if_neg (not_or_intro hset (Nat.not_lt.mpr hpast)), if_neg (by simp [hidle, hnone])]

/-- A waiting table is installed at once when no other precedes the current one. -/
theorem installTable_first {x : Table} (hnext : (s.die die).cmp.next = some x) (hprev : (s.die die).cmp.prev = none) :
    s.installTable die = s.modDie die fun x => { x with cmp := { x.cmp with prev := x.cmp.cur, cur := (s.die die).cmp.next, next := none } } := by
  unfold State.installTable
  simp only [hnext, hprev]

/-- The generation of a new table follows on the current one's. -/
def nextGen (c : Cmp) : Nat := (match c.cur with
  | some x => x.gen + 1
  | none => 0) % 2 ^ 16

/-- The state in which a phase has ended and its table waits. -/
def phaseOver (s : State) (die : Nat) : State := s.modDie die fun x => { x with cmp := { x.cmp with
  learn := false, counts := [], nblk := 0, next := some (learnedTable (nextGen (s.die die).cmp) (s.die die).cmp.counts), nextAt := s.cycle } }

theorem learningPhaseEnd_over (hlearn : (s.die die).cmp.learn = true) (hpast : (s.die die).cmp.learnAt + 2 ^ 20 ≤ s.cycle) :
    exec (.learningPhaseEnd die) s = .next ((phaseOver s die).installTable die) := by
  dsimp only [exec, execLearningPhaseEnd]
  rw [if_neg (not_or_intro (by simp [hlearn]) (Nat.not_lt.mpr hpast))]
  rfl

theorem phaseOver_installs (hprev : (s.die die).cmp.prev = none) :
    let t := (phaseOver s die).installTable die
    (t.die die).cmp.learn = false ∧ (t.die die).cmp.next = none ∧ (t.die die).cmp.prev = (s.die die).cmp.cur ∧
      (t.die die).cmp.cur = some (learnedTable (nextGen (s.die die).cmp) (s.die die).cmp.counts) ∧ t.mem = s.mem ∧ t.blocks = s.blocks := by
  have hdie : (phaseOver s die).die die = { s.die die with cmp := { (s.die die).cmp with
      learn := false, counts := [], nblk := 0, next := some (learnedTable (nextGen (s.die die).cmp) (s.die die).cmp.counts),
      nextAt := s.cycle } } := State.modDie_die_same ..
  intro t
  have ht : t = _ := installTable_first (x := learnedTable (nextGen (s.die die).cmp) (s.die die).cmp.counts) (by rw [hdie]) (by rw [hdie]; exact hprev)
  rw [ht, State.modDie_die_same, hdie]
  exact ⟨rfl, rfl, rfl, rfl, rfl, rfl⟩

theorem tableWaitExpiry_sets (hnext : (s.die die).cmp.next.isSome = true) (hpast : (s.die die).cmp.nextAt + 2 ^ 24 ≤ s.cycle) :
    exec (.tableWaitExpiry die) s = .next (s.modDie die fun x => { x with cmp := { x.cmp with evt := x.cmp.evt ||| 4 } }) := by
  dsimp only [exec, execTableWaitExpiry]
  rw [if_pos ⟨hnext, hpast⟩]

/-! ### The retriever (R338) -/

/-- The retriever's pass over a die: blocks re-encoded, folded, pages of zeros, entries ballooned, each until the pool has reached its mark. -/
def retrieved (s : State) (die : Nat) : State :=
  let a := State.recover die (fun s b => s.shrink die b) (s.blocksOn die) s
  let b := State.recover die State.fold (a.blocksOn die) a
  let z := if (b.die die).cmp.high ≤ (b.die die).cmp.free then b else b.zeroPages
  State.recover die (fun s i => s.balloon die i) (List.range ((z.die die).cmp.bln.toNat / 2 ^ 48)) z

/-- The balloon list's length is the upper field of its register. -/
theorem bln_count (w : Word) : bitsOf w.toNat 63 48 = w.toNat / 2 ^ 48 := by
  rw [bitsOf_eq_div, Nat.mod_eq_of_lt (by have := w.isLt; omega)]

theorem plenty_iff (x : State) : x.plenty die = true ↔ (x.die die).cmp.high ≤ (x.die die).cmp.free := decide_eq_true_iff

section Run

variable (hretr : (s.die die).cmp.retr = true) (hnext : (s.die die).cmp.next = none)
include hretr hnext

theorem retrieverRun_eq : exec (.retrieverRun die) s = .next (State.settleHost (let c := retrieved s die
    if c.plenty die then c.modDie die fun x => { x with cmp := { x.cmp with retr := false } }
    else if (c.die die).cmp.evt.getLsbD 1 then c
    else (c.modDie die fun x => { x with cmp := { x.cmp with evt := x.cmp.evt ||| 2 } }).notify (.evict die))) := by
  have hput : s.installTable die = s := by
    unfold State.installTable
    simp only [hnext]
  dsimp only [exec, execRetrieverRun]
  rw [hput, if_neg (by simp [hretr])]
  simp only [bln_count, plenty_iff]
  rfl

theorem retrieverRun_done (h : ((retrieved s die).die die).cmp.high ≤ ((retrieved s die).die die).cmp.free) :
    exec (.retrieverRun die) s =
      .next (State.settleHost ((retrieved s die).modDie die fun x => { x with cmp := { x.cmp with retr := false } })) := by
  rw [retrieverRun_eq hretr hnext]
  dsimp only
  rw [if_pos ((plenty_iff _).mpr h)]

theorem retrieverRun_asks (h : ((retrieved s die).die die).cmp.free < ((retrieved s die).die die).cmp.high)
    (hclear : ((retrieved s die).die die).cmp.evt.getLsbD 1 = false) :
    exec (.retrieverRun die) s = .next (State.settleHost
      (((retrieved s die).modDie die fun x => { x with cmp := { x.cmp with evt := x.cmp.evt ||| 2 } }).notify (.evict die))) := by
  rw [retrieverRun_eq hretr hnext]
  dsimp only
  rw [if_neg (mt (plenty_iff _).mp (Nat.not_le.mpr h)), if_neg (Bool.eq_false_iff.mp hclear)]

end Run

/-! ### Watermarks (R337) -/

/-- The marks of a pool with one of them replaced. -/
def marked (c : Cmp) (v : Nat) : Watermark → Nat × Nat × Nat
  | .rsv => (v, c.low, c.high)
  | .low => (c.rsv, v, c.high)
  | .high => (c.rsv, c.low, v)

theorem cmpWatermarkWrite_eq (w : Watermark) (v : Nat) : exec (.cmpWatermarkWrite die w v) s =
    let c := (s.die die).cmp
    let m := marked c v w
    .next (if s.boot.stage ≠ 8 ∧ v < 2 ^ 32 ∧ m.1 < m.2.1 ∧ m.2.1 < m.2.2 then
      s.modDie die fun x => { x with cmp := ({ c with rsv := m.1, low := m.2.1, high := m.2.2 } : Cmp).setFree c.free } else s.refuse) := by
  cases w <;> rfl

/-- Settles O45: each step by the lemma of its form. That an interval follows on the one passed is the model's choice (log 107). -/
theorem compressionStepsComplete : Obligations.CompressionStepsComplete := by
  refine ⟨fun s die => resampleInterval_starts, ?_, fun s die => tableWaitExpiry_sets, ?_, ?_⟩
  · intro s die hlearn hpast hprev
    exact ⟨_, learningPhaseEnd_over hlearn hpast, phaseOver_installs hprev⟩
  · intro s die hretr hnext
    exact ⟨retrieverRun_done hretr hnext, retrieverRun_asks hretr hnext⟩
  · intro s die w v
    refine ⟨fun hboot hv hlow hhigh => ?_, fun hnot => ?_⟩
    · exact (cmpWatermarkWrite_eq w v).trans (congrArg _ (if_pos ⟨hboot, hv, hlow, hhigh⟩))
    · exact (cmpWatermarkWrite_eq w v).trans (congrArg _ (if_neg hnot))

end Sys2Proof.Machine
end

section
/-! PROOFS. GOPEN, GCOMMIT, GABORT and GSTAT (R351, R355, R363, R366 to R370). -/

namespace Sys2Proof.Machine

open Sys2Proof.Claims

variable {s t : State}

/-! ### The group unit's entries and the focus bank -/

@[simp] theorem setGent_gent_same (s : State) (d i : Nat) (e : GEntry) : (s.setGent d i e).gent d i = e := by
  unfold State.gent State.setGent
  rw [State.modDie_die_same, mget_mset_same]

theorem setGent_gent_ne (s : State) (d : Nat) {i j : Nat} (e : GEntry) (h : j ≠ i) : (s.setGent d i e).gent d j = s.gent d j := by
  unfold State.gent State.setGent
  rw [State.modDie_die_same, mget_mset_ne _ _ _ h]

@[simp] theorem modGroup_gent_same (s : State) (d i : Nat) (f : Group → Group) :
    (s.modGroup d i f).gent d i = { s.gent d i with grp := (s.gent d i).grp.map f } := setGent_gent_same ..

theorem modBank_cur (s : State) (f : Bank → Bank) : s.modBank s.cur f = s.upd f := by
  unfold State.modBank State.setBank State.getBank
  rw [if_pos rfl, if_pos rfl]
  rfl

theorem getBank_cur (s : State) : s.getBank s.cur = s.bank := if_pos rfl

theorem setBind_gbinds_same (k : Bank) (n : Nat) (x : Option GBind) : mget none (k.setBind n x).gbinds n = x :=
  mget_mset_same none k.gbinds n x

/-! ### Answers to a register (R22, R57) -/

/-- A register marked for one issue only, whose issue completes. -/
theorem mark_complete (r : Regs) {k : XReg} (hk : k ≠ 0) (n : Nat) (v : Word) : (r.mark k n true).complete k.toNat n true v =
    { r with tok := mset Tok.idle (mset Tok.idle r.tok k.toNat { Tok.idle with out := [n] }) k.toNat { Tok.idle with okv := v },
             x := mset 0 r.x k.toNat v } := by
  have hmark : r.mark k n true = { r with tok := mset Tok.idle r.tok k.toNat { Tok.idle with out := [n] } } := if_neg hk
  have hout : ([n] : List Nat).erase n = [] := by simp
  unfold Regs.complete
  simp only [hmark, mget_mset_same, List.mem_singleton, if_true, hout]
  rfl

theorem mark_complete_pending (r : Regs) (k : XReg) (n : Nat) (v : Word) :
    ((r.mark k n true).complete k.toNat n true v).pending k = false := by
  by_cases hk : k = 0
  · rw [hk]
    rfl
  · unfold Regs.pending
    rw [mark_complete r hk, mget_mset_same]
    simp

theorem mark_complete_value (r : Regs) {k : XReg} (hk : k ≠ 0) (n : Nat) (v : Word) :
    mget 0 ((r.mark k n true).complete k.toNat n true v).x k.toNat = v := by
  rw [mark_complete r hk, mget_mset_same]

theorem completeTok_regs {b : Bank} {k : Nat} (hk : k ≠ 0) (n : Nat) (ok : Bool) (v : Word) :
    (b.completeTok k n ok v).regs = b.regs.complete k n ok v := by
  unfold Bank.completeTok
  rw [if_neg hk]

theorem completeTok_groups (b : Bank) (k n : Nat) (ok : Bool) (v : Word) :
    (b.completeTok k n ok v).gbinds = b.gbinds ∧ (b.completeTok k n ok v).gpend = b.gpend := by
  unfold Bank.completeTok
  split
  · exact ⟨rfl, rfl⟩
  · exact ⟨rfl, rfl⟩

theorem toNat_ne_zero {k : XReg} (hk : k ≠ 0) : k.toNat ≠ 0 := fun h => hk (BitVec.eq_of_toNat_eq h)

/-! ### GOPEN (R367) -/

section Open

variable {o : SrOp} (hr : Readable s [o.xa] o.xd)
include hr

theorem gopen_refused (h0 : (s.rx o.xa).toNat ≠ 0) (h : (s.rx o.xa).toNat < 10 ∨ s.cgTmax < (s.rx o.xa).toNat) :
    exec (.gopen o) s = .next (s.takeFault { cause := cILLEGAL_OPERAND, detail := 2 }) := by
  have hbad : (decide ((s.rx o.xa).toNat = 0) || (decide (10 ≤ (s.rx o.xa).toNat) && decide ((s.rx o.xa).toNat ≤ s.cgTmax))) = false := by
    simp only [Bool.or_eq_false_iff, Bool.and_eq_false_iff, decide_eq_false_iff_not]
    omega
  dsimp only [exec, execGopen]
  rw [run_operands hr, hbad]
  exact run_fault s rfl

variable (hlimit : (s.rx o.xa).toNat = 0 ∨ (10 ≤ (s.rx o.xa).toNat ∧ (s.rx o.xa).toNat ≤ s.cgTmax))
include hlimit

theorem gopen_eq : exec (.gopen o) s = .next (done (s.gopen o.xd o.fn.toNat (s.rx o.xa).toNat)) := by
  dsimp only [exec, execGopen]
  rw [run_operands hr, need_bind (by simpa using hlimit)]
  rfl

theorem gopen_bound (h : mget none s.bank.gbinds o.fn.toNat ≠ none) :
    exec (.gopen o) s = .next (done (answered s o.xd false (failVal cILLEGAL_OPERAND 1 0))) := by
  rw [gopen_eq hr hlimit]
  unfold State.gopen
  rw [if_pos (Option.isSome_iff_ne_none.mpr h)]
  rfl

variable (hfree : mget none s.bank.gbinds o.fn.toNat = none)
include hfree

theorem gopen_noslot (h : s.freeGents (dieOf s.cur) = []) :
    exec (.gopen o) s = .next (done (answered s o.xd false (failVal cNOSLOT 0 0))) := by
  rw [gopen_eq hr hlimit]
  unfold State.gopen
  rw [if_neg (by simp [hfree])]
  dsimp only
  rw [h]
  rfl

omit hr hlimit hfree in
theorem pickFree_mem {free : List Nat} (h : free ≠ []) : ∃ i ∈ free, s.pickFree free = some i :=
  ⟨_, List.getElem_mem (Nat.mod_lt _ (List.length_pos_iff.mpr h)), List.getElem?_eq_getElem _⟩

/-- The group that GOPEN opens. -/
def openedGroup (s : State) (n timeout : Nat) : Group :=
  { st := 1, bank := s.cur, ctx := s.bank.id.ctx, bind := n, cause := 0, detail := 0, weirs := [], ready := [], report := [],
    poison := false, timeout := if timeout = 0 then s.cgDef else timeout, since := 0, halted := false, auto := false }

/-- The state in which entry i of the unit holds the opened group, bound by the slot. -/
def groupOpened (s : State) (i n timeout : Nat) : State :=
  ((s.setGent (dieOf s.cur) i { s.gent (dieOf s.cur) i with grp := some (openedGroup s n timeout) }).ticked).setBind s.cur n
    (some ⟨groupId (s.gent (dieOf s.cur) i) i, (s.ctx s.bank.id.ctx).aliasNo * 4 + dieOf s.cur, false⟩)

omit hr hlimit hfree in
theorem groupOpened_eq (s : State) (i n timeout : Nat) : groupOpened s i n timeout =
    (s.setGent (dieOf s.cur) i { s.gent (dieOf s.cur) i with grp := some (openedGroup s n timeout) }).ticked.upd fun k =>
      k.setBind n (some ⟨groupId (s.gent (dieOf s.cur) i) i, (s.ctx s.bank.id.ctx).aliasNo * 4 + dieOf s.cur, false⟩) := by
  unfold groupOpened State.setBind
  exact modBank_cur (State.ticked _) _

theorem gopen_opens {i : Nat} (h : s.pickFree (s.freeGents (dieOf s.cur)) = some i) :
    exec (.gopen o) s = .next (done (answered (groupOpened s i o.fn.toNat (s.rx o.xa).toNat) o.xd true (BitVec.ofNat 64
      (groupId (s.gent (dieOf s.cur) i) i + ((s.ctx s.bank.id.ctx).aliasNo * 4 + dieOf s.cur) * 2 ^ 16 + o.fn.toNat * 2 ^ 29 + 2 ^ 63)))) := by
  rw [gopen_eq hr hlimit]
  unfold State.gopen
  rw [if_neg (by simp [hfree])]
  dsimp only
  rw [h]
  rfl

end Open

/-! ### The end of a group (R355, R363, R368, R369) -/

/-- The bank after the tokens of the group of a binding have completed with 0 and the binding is released. -/
def unbound (n : Nat) (reg ord : Nat) (k : Bank) : Bank := (({ k with gpend := [] } : Bank).completeTok reg ord true 0).setBind n none

theorem endPends_one {k : Bank} {p : GPend} (hp : k.gpend = [p]) {vc va : Word} (hv : (if p.commit then vc else va) = 0) :
    (k.endPends p.bind vc va).setBind p.bind none = unbound p.bind p.reg p.ord k := by
  unfold Bank.endPends unbound
  simp only [hp, List.filter_cons, List.filter_nil, beq_self_eq_true, bne_self_eq_false, if_true, Bool.false_eq_true, if_false,
    List.foldl_cons, List.foldl_nil, hv]

/-- A group that its bank has bound ends with no weir left to report: its entry is free and the bank's token completes. -/
theorem settleGroup_own {d i : Nat} {g : Group} {p : GPend} (hgrp : (t.gent d i).grp = some g)
    (hover : (g.st = 4 ∧ p.commit = true) ∨ (g.st = 5 ∧ p.commit = false)) (hreport : g.report = []) (hpoison : g.poison = false)
    (hhalted : g.halted = false) (hctx : g.ctx = t.bank.id.ctx) (hbind : g.bind = p.bind) (hpend : t.bank.gpend = [p])
    (hbinds : mget none t.bank.gbinds p.bind = some ⟨groupId (t.gent d i) i, (t.ctx t.bank.id.ctx).aliasNo * 4 + d, false⟩) :
    t.settleGroup d i = (t.upd (unbound p.bind p.reg p.ord)).setGent d i ⟨((t.gent d i).gen + 1) % 16, none⟩ := by
  have hover' : ((g.st == 4 || g.st == 5) && g.report == []) = true := by
    rcases hover with ⟨h, -⟩ | ⟨h, -⟩ <;> simp [h, hreport]
  have hbinder : t.binder d i g = some (.inl t.cur) := by
    unfold State.binder
    rw [hctx, hbind]
    exact if_pos (by simp [hbinds])
  have hv : (if p.commit then (if g.st = 4 then (if g.poison then failVal cMEMORY_ERROR 1 0 else 0) else failVal g.cause g.detail 0)
      else if g.halted then failVal g.cause g.detail 0 else (0 : Word)) = 0 := by
    rcases hover with ⟨h, hc⟩ | ⟨-, hc⟩
    · rw [if_pos hc, if_pos h, if_neg (Bool.eq_false_iff.mp hpoison)]
    · rw [if_neg (Bool.eq_false_iff.mp hc), if_neg (Bool.eq_false_iff.mp hhalted)]
  have hheld : t.held g.ctx (.inl t.cur) = t.bank := getBank_cur t
  unfold State.settleGroup
  simp only [hgrp, hover', Bool.not_true, Bool.false_eq_true, if_false, hbinder, hheld, hpend, List.any_cons, hbind, beq_self_eq_true,
    Bool.true_or, if_true, State.modHeld, modBank_cur]
  have hends := endPends_one hpend hv
  simp only [State.upd, hends]
  rfl


/-- What a binding that names a group says of it (R363). -/
theorem boundGroup_some {x : GBind} {d i : Nat} {g : Group} (h : s.boundGroup x = some (d, i, g)) :
    (s.gent d i).grp = some g ∧ x.id = groupId (s.gent d i) i ∧ x.marked = false := by
  unfold State.boundGroup at h
  dsimp only at h
  split at h
  · next g' hg =>
    split at h
    · next hid =>
      cases h
      exact ⟨hg, hid.1.symm, hid.2⟩
    · cases h
  · cases h

/-- The group has ended over some last form of its entry, and the token of its commit or abort is complete. -/
def groupOver (t : State) (d i : Nat) (last : GEntry) (p : GPend) : State :=
  ((t.setGent d i last).upd (unbound p.bind p.reg p.ord)).setGent d i ⟨((t.gent d i).gen + 1) % 16, none⟩

/-- The bank's commit or abort has been taken by its group unit. -/
def pendTaken (t : State) (p : GPend) : State := t.upd fun k => { k with gpend := [{ p with taken := true }] }

/-- A group of the bank set to its last state ends at once. -/
theorem settle_taken {d i : Nat} {g : Group} {p : GPend} {f : Group → Group} {x : GBind}
    (hx : mget none t.bank.gbinds p.bind = some x) (hgroup : t.boundGroup x = some (d, i, g))
    (hnode : x.node = (t.ctx t.bank.id.ctx).aliasNo * 4 + d)
    (hover : ((f g).st = 4 ∧ p.commit = true) ∨ ((f g).st = 5 ∧ p.commit = false)) (hreport : (f g).report = [])
    (hpoison : (f g).poison = false) (hhalted : (f g).halted = false) (hctx : (f g).ctx = t.bank.id.ctx) (hbind : (f g).bind = p.bind) :
    ∃ e, ((pendTaken t p).modGroup d i f).settleGroup d i = groupOver t d i e p := by
  obtain ⟨hgrp, hid, hmark⟩ := boundGroup_some hgroup
  have hgent : ((pendTaken t p).modGroup d i f).gent d i = { t.gent d i with grp := some (f g) } := by
    rw [modGroup_gent_same]
    exact congrArg (GEntry.mk _) (congrArg (Option.map f) hgrp)
  refine ⟨{ t.gent d i with grp := (t.gent d i).grp.map f }, ?_⟩
  rw [settleGroup_own (p := { p with taken := true }) (congrArg GEntry.grp hgent) hover hreport hpoison hhalted hctx hbind rfl, hgent]
  · rfl
  · rw [hgent]
    refine hx.trans (congrArg some ?_)
    cases x
    cases hmark
    cases hid
    cases hnode
    rfl

theorem takePend_own {d i : Nat} {g : Group} {p : GPend} {x : GBind} (hpend : t.bank.gpend = [p])
    (hx : mget none t.bank.gbinds p.bind = some x) (hgroup : t.boundGroup x = some (d, i, g))
    (hnode : x.node = (t.ctx t.bank.id.ctx).aliasNo * 4 + d) (hopen : g.st = 1) (hweirs : g.weirs = []) (hreport : g.report = [])
    (hpoison : g.poison = false) (hhalted : g.halted = false) (hctx : g.ctx = t.bank.id.ctx) (hbind : g.bind = p.bind) :
    ∃ e, t.takePend t.cur p = groupOver t d i e p := by
  obtain ⟨hgrp, hid, hmark⟩ := boundGroup_some hgroup
  have htaken : (t.modBank t.cur fun k => { k with gpend := k.gpend.map fun q => if q.ord = p.ord then { q with taken := true } else q }) =
      pendTaken t p := by
    rw [modBank_cur]
    simp only [State.upd, hpend, List.map_cons, List.map_nil, if_true]
    rfl
  unfold State.takePend
  rw [getBank_cur, hx]
  dsimp only
  rw [if_neg (Bool.eq_false_iff.mp hmark), hgroup]
  dsimp only
  rw [htaken]
  by_cases hc : p.commit = true
  · rw [if_pos hc]
    unfold State.commitGroup
    rw [if_pos hopen]
    simp only [hweirs, List.map_nil, if_true]
    exact settle_taken hx hgroup hnode (f := fun g => { g with st := 4 }) (.inl ⟨rfl, hc⟩) hreport hpoison hhalted hctx hbind
  · rw [if_neg hc, if_pos (.inl hopen)]
    have hgrp' : ((pendTaken t p).gent d i).grp = some g := hgrp
    unfold State.abortGroup
    rw [hgrp']
    simp only [hweirs, List.map_nil, List.foldl_nil]
    exact settle_taken hx hgroup hnode (f := fun g' => { g' with st := 5, cause := _, detail := _, report := [], ready := [] })
      (.inr ⟨rfl, Bool.eq_false_iff.mpr hc⟩) rfl hpoison hhalted hctx hbind

theorem takePends_one {p : GPend} (hpend : t.bank.gpend = [p]) (hfree : p.taken = false)
    (hcpyg : t.bank.cpygBefore p.bind p.ord = false) : t.takePends t.cur = t.takePend t.cur p := by
  unfold State.takePends
  simp [getBank_cur, hpend, hfree, hcpyg]

theorem unbound_groups (n reg ord : Nat) (k : Bank) :
    mget none (unbound n reg ord k).gbinds n = none ∧ (unbound n reg ord k).gpend = [] :=
  ⟨setBind_gbinds_same _ n none, (completeTok_groups _ _ _ _ _).2⟩

theorem unbound_regs (n : Nat) {reg : Nat} (h : reg ≠ 0) (ord : Nat) (k : Bank) :
    (unbound n reg ord k).regs = k.regs.complete reg ord true 0 := completeTok_regs h ord true 0

section Over

variable {d i : Nat} {e : GEntry} {p : GPend}

theorem groupOver_gent : (groupOver t d i e p).gent d i = ⟨((t.gent d i).gen + 1) % 16, none⟩ := setGent_gent_same ..

/-- The token of a register marked for the group's end holds 0 and nothing is pending in it. -/
theorem groupOver_regs {k : XReg} {r : Regs} (hreg : p.reg = k.toNat) (hregs : t.bank.regs = r.mark k p.ord true) :
    (groupOver t d i e p).bank.regs.pending k = false ∧ (k ≠ 0 → mget 0 (groupOver t d i e p).bank.regs.x k.toNat = 0) := by
  have hover (hk : k ≠ 0) : (groupOver t d i e p).bank.regs = (r.mark k p.ord true).complete k.toNat p.ord true 0 := by
    have h := unbound_regs p.bind (toNat_ne_zero hk) p.ord t.bank
    rw [← hreg, hregs] at h
    rwa [← hreg]
  refine ⟨?_, fun hk => ?_⟩
  · by_cases hk : k = 0
    · rw [hk]
      rfl
    · rw [hover hk]
      exact mark_complete_pending r k p.ord 0
  · rw [hover hk]
    exact mark_complete_value r hk p.ord 0

end Over

/-! ### GCOMMIT and GABORT (R366, R368, R369) -/

/-- A GCOMMIT or GABORT. -/
def endsGroup (i : Instr) (o : SrOp) (commit : Bool) : Prop := (i = .gcommit o ∧ commit = true) ∨ (i = .gabort o ∧ commit = false)

/-- The state in which the end of the group of slot n is pending for a register. -/
def endPending (s : State) (o : SrOp) (n : Nat) (commit : Bool) : State :=
  ((s.upd fun b => { b with ord := b.ord + 1 }).markTok o.xd s.bank.ord true).upd fun b =>
    { b with gpend := b.gpend ++ [⟨n, o.xd.toNat, s.bank.ord, commit, false⟩] }

section Ends

variable {i : Instr} {o : SrOp} {commit : Bool} (hi : endsGroup i o commit) (hr : Readable s [o.xa] o.xd)
include hi hr

theorem exec_endsGroup : exec i s = .next (done (s.groupEnd o commit)) := by
  rcases hi with ⟨rfl, rfl⟩ | ⟨rfl, rfl⟩
  · dsimp only [exec, execGcommit]
    rw [run_operands hr]
    rfl
  · dsimp only [exec, execGabort]
    rw [run_operands hr]
    rfl

theorem groupEnd_malformed (h : handleFields (s.rx o.xa) = none) :
    exec i s = .next (done (answered s o.xd false (failVal cGROUP_FAULT 3 0))) := by
  rw [exec_endsGroup hi hr]
  unfold State.groupEnd
  rw [h]
  rfl

variable {id node n : Nat} (h : handleFields (s.rx o.xa) = some (id, node, n))
include h

theorem groupEnd_foreign (hx : ∀ x, mget none s.bank.gbinds n = some x → x.id ≠ id ∨ x.node ≠ node) :
    exec i s = .next (done (answered s o.xd false (failVal cGROUP_FAULT 3 0))) := by
  rw [exec_endsGroup hi hr]
  unfold State.groupEnd
  rw [h]
  dsimp only
  cases hb : mget none s.bank.gbinds n with
  | none => rfl
  | some x =>
    dsimp only
    rw [if_pos (hx x hb)]
    rfl

variable {x : GBind} (hx : mget none s.bank.gbinds n = some x) (hid : x.id = id) (hnode : x.node = node)
include hx hid hnode

theorem groupEnd_own : exec i s = .next (done ((endPending s o n commit).takePends s.cur)) := by
  rw [exec_endsGroup hi hr]
  unfold State.groupEnd
  rw [h]
  dsimp only
  rw [hx]
  dsimp only
  rw [if_neg (by simp [hid, hnode])]
  rfl

theorem groupEnd_untouched {d e : Nat} {g : Group} (hgroup : s.boundGroup x = some (d, e, g)) (hopen : g.st = 1) (hweirs : g.weirs = [])
    (hreport : g.report = []) (hpoison : g.poison = false) (hhalted : g.halted = false) (hbind : g.bind = n)
    (hctx : g.ctx = s.bank.id.ctx) (hown : node = (s.ctx s.bank.id.ctx).aliasNo * 4 + d) (hnone : s.bank.gpend = [])
    (hcpyg : s.bank.cpygBefore n s.bank.ord = false) :
    ∃ t, exec i s = .next (done t) ∧ (t.gent d e).grp = none ∧ (t.gent d e).gen = ((s.gent d e).gen + 1) % 16 ∧
      mget none t.bank.gbinds n = none ∧ t.bank.gpend = [] ∧ t.bank.regs.pending o.xd = false ∧
      (o.xd ≠ 0 → mget 0 t.bank.regs.x o.xd.toNat = 0) ∧ t.mem = s.mem := by
  have hpend : (endPending s o n commit).bank.gpend = [⟨n, o.xd.toNat, s.bank.ord, commit, false⟩] := by
    exact congrArg (· ++ [_]) hnone
  have htakes : (endPending s o n commit).takePends s.cur = _ := takePends_one hpend rfl hcpyg
  obtain ⟨last, hover⟩ := takePend_own hpend hx hgroup (hnode.trans hown) hopen hweirs hreport hpoison hhalted hctx hbind
  obtain ⟨hpending, hvalue⟩ := groupOver_regs (t := endPending s o n commit) (d := d) (i := e) (e := last)
    (p := ⟨n, o.xd.toNat, s.bank.ord, commit, false⟩) (k := o.xd) (r := s.bank.regs) rfl rfl
  obtain ⟨hgone, hnopend⟩ := unbound_groups n o.xd.toNat s.bank.ord (endPending s o n commit).bank
  have hexec := groupEnd_own hi hr h hx hid hnode
  rw [htakes, hover] at hexec
  exact ⟨groupOver (endPending s o n commit) d e last ⟨n, o.xd.toNat, s.bank.ord, commit, false⟩, hexec,
    congrArg GEntry.grp groupOver_gent, congrArg GEntry.gen groupOver_gent, hgone, hnopend, hpending, hvalue, rfl⟩

end Ends

/-! ### GSTAT (R363, R370) -/

theorem foldl_add_eq_sum {α : Type} (f : α → Nat) (l : List α) (n : Nat) : l.foldl (fun n w => n + f w) n = n + (l.map f).sum := by
  induction l generalizing n with
  | nil => rfl
  | cons x l ih => rw [List.foldl_cons, ih, List.map_cons, List.sum_cons, Nat.add_assoc]

theorem group_word (g : Group) : g.word = BitVec.ofNat 64 (g.st + g.cause * 2 ^ 8 + g.detail * 2 ^ 16 + min g.weirs.length 64 * 2 ^ 24 +
    min (g.weirs.map (·.2 - 1)).sum (2 ^ 32 - 1) * 2 ^ 32) := by
  unfold Group.word
  rw [foldl_add_eq_sum (fun w : Nat × Nat => w.2 - 1), Nat.zero_add]

section Status

variable {o : SrOp} (hr : Readable s [o.xa] o.xd)
include hr

theorem gstat_malformed (h : handleFields (s.rx o.xa) = none) :
    exec (.gstat o) s = .next (done (answered s o.xd false (failVal cGROUP_FAULT 3 0))) := by
  dsimp only [exec, execGstat]
  rw [run_operands hr, h]
  rfl

variable {id node n : Nat} (h : handleFields (s.rx o.xa) = some (id, node, n))
include h

theorem gstat_stale (hx : ∀ x, mget none s.bank.gbinds n = some x → x.id ≠ id ∨ x.node ≠ node) :
    exec (.gstat o) s = .next (done (answered s o.xd true 0)) := by
  dsimp only [exec, execGstat]
  rw [run_operands hr, h]
  dsimp only
  cases hb : mget none s.bank.gbinds n with
  | none => rfl
  | some x =>
    dsimp only
    rw [if_pos (hx x hb)]
    rfl

variable {x : GBind} (hx : mget none s.bank.gbinds n = some x) (hid : x.id = id) (hnode : x.node = node)
include hx hid hnode

theorem gstat_own : exec (.gstat o) s = .next (done (if x.marked then s.answerTok o.xd true (BitVec.ofNat 64 (5 + cHALTED * 2 ^ 8))
    else match s.boundGroup x with
      | some (_, _, g) => s.answerTok o.xd true g.word
      | none => s.answerTok o.xd true 0)) := by
  dsimp only [exec, execGstat]
  rw [run_operands hr, h]
  dsimp only
  rw [hx]
  exact congrArg (fun t => Host.Outcome.next (done t)) (if_neg (by simp [hid, hnode]))

theorem gstat_marked (hm : x.marked = true) :
    exec (.gstat o) s = .next (done (answered s o.xd true (BitVec.ofNat 64 (5 + cHALTED * 2 ^ 8)))) := by
  rw [gstat_own hr h hx hid hnode, if_pos hm]
  rfl

theorem gstat_gone (hm : x.marked = false) (hgroup : s.boundGroup x = none) :
    exec (.gstat o) s = .next (done (answered s o.xd true 0)) := by
  rw [gstat_own hr h hx hid hnode, if_neg (Bool.eq_false_iff.mp hm), hgroup]
  rfl

theorem gstat_group {d i : Nat} {g : Group} (hgroup : s.boundGroup x = some (d, i, g)) :
    exec (.gstat o) s = .next (done (answered s o.xd true (BitVec.ofNat 64
      (g.st + g.cause * 2 ^ 8 + g.detail * 2 ^ 16 + min g.weirs.length 64 * 2 ^ 24 +
        min (g.weirs.map (·.2 - 1)).sum (2 ^ 32 - 1) * 2 ^ 32)))) := by
  obtain ⟨-, -, hm⟩ := boundGroup_some hgroup
  rw [gstat_own hr h hx hid hnode, if_neg (Bool.eq_false_iff.mp hm), hgroup, ← group_word]
  rfl

end Status

/-- Settles O38: each instruction by the lemma of its form. -/
theorem commitGroupInstructionsComplete : Obligations.CommitGroupInstructionsComplete := by
  refine ⟨?opens, ?ends, ?status⟩
  case opens =>
    intro s o hr
    refine ⟨gopen_refused hr, fun hlimit => ⟨gopen_bound hr hlimit, gopen_noslot hr hlimit, fun hfree hsome => ?_⟩⟩
    obtain ⟨i, hi, hpick⟩ := pickFree_mem (s := s) hsome
    have hgent : (groupOpened s i o.fn.toNat (s.rx o.xa).toNat).gent (dieOf s.cur) i =
        { s.gent (dieOf s.cur) i with grp := some (openedGroup s o.fn.toNat (s.rx o.xa).toNat) } := by
      rw [groupOpened_eq]
      exact setGent_gent_same s ..
    refine ⟨groupOpened s i o.fn.toNat (s.rx o.xa).toNat, i, openedGroup s o.fn.toNat (s.rx o.xa).toNat, hi,
      gopen_opens hr hlimit hfree hpick, congrArg GEntry.grp hgent, (congrArg GEntry.gen hgent :), fun j hj => ?_, rfl, rfl, rfl, rfl, rfl, ?_, ?_, ?_⟩
    · rw [groupOpened_eq]
      exact setGent_gent_ne s _ _ hj
    · rw [groupOpened_eq]
      exact setBind_gbinds_same s.bank _ _
    · rw [groupOpened_eq]
      rfl
    · rw [groupOpened_eq]
      rfl
  case ends =>
    intro s o i commit hi hr
    refine ⟨groupEnd_malformed hi hr, fun id node n h => ⟨groupEnd_foreign hi hr h, fun x hx hid hnode => ⟨groupEnd_own hi hr h hx hid hnode, ?_⟩⟩⟩
    intro d e g hgroup hopen hweirs hreport hpoison hhalted hbind hctx hown hnone hcpyg
    exact groupEnd_untouched hi hr h hx hid hnode hgroup hopen hweirs hreport hpoison hhalted hbind hctx hown hnone hcpyg
  case status =>
    intro s o hr
    refine ⟨gstat_malformed hr, fun id node n h => ⟨gstat_stale hr h, fun x hx hid hnode => ⟨gstat_marked hr h hx hid hnode,
      gstat_gone hr h hx hid hnode, fun d i g => gstat_group hr h hx hid hnode⟩⟩⟩

end Sys2Proof.Machine
end

section
/-! PROOFS. The commit protocol at weirs and origins, and requests of other devices (R352 to R363, R377, R379). -/

namespace Sys2Proof.Machine

open Sys2Proof.Claims

variable {s t u : State} {die : Nat} {g : GroupName}

/-! ### Staging (R352, R354, R358) -/

section Stage

variable {l : StagedLine} (hdie : die < 4) (hhome : s.home l.addr = die) (halign : l.addr % 64 = 0) (hin : l.addr < 2 ^ 48)
  (hstage : s.stagingHalted (s.frameOf l.addr).ctx = false)
include hdie hhome halign hin

theorem weirStageLine_eq : exec (.weirStageLine die g l) s = .next (match s.stageLine die g (s.frameOf l.addr).ctx l with
    | .ok (_, t) => t
    | .error (.fault f) => s.notify (.refused f.cause f.detail)
    | .error .stall => s) := by
  dsimp only [exec, execWeirStageLine]
  exact congrArg Host.Outcome.next (if_neg (by simp only [not_or]; omega))

include hstage

theorem weirStageLine_opens (hnone : s.weirOf die g = none)
    (hroom : ((s.die die).weir.foldl (fun n w => n + w.lines.length) 0) < 262144) :
    exec (.weirStageLine die g l) s = .next (s.setWeir die g (some
      { name := g, called := 0, ctx := (s.frameOf l.addr).ctx, prepared := false, lines := [l], rsv := [], since := 0, queries := 0,
        recd := false })) := by
  rw [weirStageLine_eq hdie hhome halign hin]
  unfold State.stageLine
  rw [if_neg (Bool.eq_false_iff.mp hstage)]
  dsimp only
  rw [hnone]
  dsimp only
  rw [if_pos (decide_eq_true hroom)]

variable {w : WeirGroup} (hw : s.weirOf die g = some w)
include hw

theorem weirStageLine_prepared (hprep : w.prepared = true) :
    exec (.weirStageLine die g l) s = .next (s.notify (.refused cGROUP_FAULT 7)) := by
  rw [weirStageLine_eq hdie hhome halign hin]
  unfold State.stageLine
  rw [if_neg (Bool.eq_false_iff.mp hstage)]
  dsimp only
  rw [hw]
  dsimp only
  rw [if_pos hprep]
  rfl

theorem weirStageLine_merges (hopen : w.prepared = false) (hheld : ∃ x ∈ w.lines, x.addr = l.addr) :
    exec (.weirStageLine die g l) s =
      .next (s.setWeir die g (some { w with lines := w.lines.map fun x => if x.addr = l.addr then mergeLine x l else x })) := by
  rw [weirStageLine_eq hdie hhome halign hin]
  unfold State.stageLine
  rw [if_neg (Bool.eq_false_iff.mp hstage)]
  dsimp only
  rw [hw]
  dsimp only
  rw [if_neg (Bool.eq_false_iff.mp hopen), if_pos (by simpa using hheld)]

end Stage

/-! ### PREPARE (R357 to R359) -/

section Prepare

variable {dom w n : Nat} {x : WeirGroup} (hmsg : s.takeMsg die asPrepare = some (dom, (g, w, n), t)) (hx : t.weirOf die g = some x)
  (hopen : x.prepared = false)
include hmsg hx hopen

theorem weirPrepare_eq : exec (.weirPrepare die) s = .next (match t.prepare die g w n with
    | .ok u => State.settleHost (u.sendCommit die dom g.node (.ready g w))
    | .error (c, d) => (t.setWeir die g none).sendCommit die dom g.node (.refusal g w c d)) := by
  dsimp only [exec, execWeirPrepare]
  rw [hmsg]
  dsimp only
  rw [hx]
  exact congrArg Host.Outcome.next (if_neg (by simp [hopen]))

theorem weirPrepare_ready (h : t.prepare die g w n = .ok u) :
    exec (.weirPrepare die) s = .next (State.settleHost (u.sendCommit die dom g.node (.ready g w))) := by
  rw [weirPrepare_eq hmsg hx hopen, h]

theorem weirPrepare_refuses {c d : Nat} (h : t.prepare die g w n = .error (c, d)) :
    exec (.weirPrepare die) s = .next ((t.setWeir die g none).sendCommit die dom g.node (.refusal g w c d)) := by
  rw [weirPrepare_eq hmsg hx hopen, h]

end Prepare

section Checks

variable {called n : Nat} {x : WeirGroup} (hx : t.weirOf die g = some x)
include hx

/-- A weir that holds another number of lines than the PREPARE says refuses it. -/
theorem prepare_miscounted (h : x.lines.length ≠ n) : t.prepare die g called n = .error (cGROUP_FAULT, 7) := by
  unfold State.prepare
  rw [hx]
  exact if_pos h

/-- A weir refuses a group one of whose lines is in no page that it may write. -/
theorem prepare_unmapped (h : x.lines.length = n) (hbad : ∃ l ∈ x.lines, t.stagedPage l.addr = false)
    (hclear : ∀ y ∈ (t.die die).weir, y.name ≠ g → y.prepared = true → ∀ a ∈ y.lines, ∀ b ∈ x.lines, a.addr ≠ b.addr) :
    t.prepare die g called n = .error (cGROUP_FAULT, 8) := by
  have hconflict : ((t.die die).weir.any fun y => y.name != g && y.prepared && y.lines.any fun a => x.lines.any fun b => a.addr == b.addr) =
      false := by
    rw [List.any_eq_false]
    intro y hy hall
    simp only [Bool.and_eq_true, bne_iff_ne, List.any_eq_true, beq_iff_eq] at hall
    obtain ⟨⟨hname, hprep⟩, a, ha, b, hb, hab⟩ := hall
    exact hclear y hy hname hprep a ha b hb hab
  have hpages : (!x.lines.all fun l => t.stagedPage l.addr) = true := by
    obtain ⟨l, hl, hpage⟩ := hbad
    rw [Bool.not_eq_true', List.all_eq_false]
    exact ⟨l, hl, Bool.eq_false_iff.mp hpage⟩
  unfold State.prepare
  rw [hx]
  dsimp only
  rw [if_neg (not_not.mpr h), if_neg (Bool.eq_false_iff.mp hconflict), if_pos hpages]

end Checks

/-! ### Outcomes at a weir (R349, R358, R359) -/

section Outcomes

variable {dom w : Nat} {x : WeirGroup}

theorem weirCommitPacket_unknown (hmsg : s.takeMsg die asCommit = some (dom, (g, w), t)) (hx : t.weirOf die g = none) :
    exec (.weirCommitPacket die) s = .next (t.sendCommit die dom g.node (.published g w false)) := by
  dsimp only [exec, execWeirCommitPacket]
  rw [hmsg]
  dsimp only
  rw [hx]

theorem weirCommitPacket_publishes (hmsg : s.takeMsg die asCommit = some (dom, (g, w), t)) (hx : t.weirOf die g = some x)
    (hprep : x.prepared = true) (hfree : ∀ l ∈ x.lines, s.wpAt l.addr = false ∧ s.blockWaits (l.addr / 512) = false) :
    let ws := x.lines.flatMap lineWrites
    let held := (blocksOf ws).foldl (fun (u : State) b => u.dset (b * 512)) (t.setWeir die g none)
    exec (.weirCommitPacket die) s = .next (State.settleHost
      ((((held.publish x.rsv x.lines).unreserve (x.rsv.filter fun r => !(blocksOf ws).contains r.1)).heldSub x.rsv).sendCommit die dom g.node
        (.published g w (x.lines.any fun l => t.linePoison l.addr)))) := by
  have hgo : (x.lines.any fun l => s.wpAt l.addr || s.blockWaits (l.addr / 512)) = false := by
    rw [List.any_eq_false]
    intro l hl
    simp [hfree l hl]
  dsimp only [exec, execWeirCommitPacket]
  rw [hmsg]
  dsimp only
  rw [hx]
  dsimp only
  rw [if_neg (by simp [hprep]), if_neg (Bool.eq_false_iff.mp hgo)]

theorem weirDiscard_drops (hmsg : s.takeMsg die asDiscard = some (dom, (g, w), t)) (hx : t.weirOf die g = some x) :
    exec (.weirDiscard die) s =
      .next (State.settleHost ((((t.setWeir die g none).unreserve x.rsv).heldSub x.rsv).sendCommit die dom g.node (.discarded g w))) := by
  dsimp only [exec, execWeirDiscard]
  rw [hmsg]
  dsimp only
  rw [hx]

end Outcomes

/-! ### The origin (R355, R359 to R362) -/

section Origin

variable {dom w i : Nat} {x : Group} (hx : t.groupAt die g = some (i, x))
include hx

section Ready

variable (hmsg : s.takeMsg die asReady = some (dom, (g, w), t)) (hst : x.st = 2)
include hmsg hst

theorem readyReport_eq : exec (.readyReport die) s = .next (if x.ready.erase w ≠ [] then t.modGroup die i fun y => { y with ready := x.ready.erase w }
    else (x.weirs.map (·.1)).foldl (fun u n => u.sendCommit die (u.ctx x.ctx).dom n (.commit g n))
      (t.modGroup die i fun y => { y with st := 3, ready := [], report := x.weirs.map (·.1) })) := by
  dsimp only [exec, execReadyReport]
  rw [hmsg]
  dsimp only
  rw [hx]
  dsimp only
  rw [if_neg (not_not.mpr hst)]

theorem readyReport_counts (h : x.ready.erase w ≠ []) :
    exec (.readyReport die) s = .next (t.modGroup die i fun y => { y with ready := x.ready.erase w }) := by
  rw [readyReport_eq hx hmsg hst, if_pos h]

theorem readyReport_commits (h : x.ready.erase w = []) : exec (.readyReport die) s = .next ((x.weirs.map (·.1)).foldl
    (fun u n => u.sendCommit die (u.ctx x.ctx).dom n (.commit g n))
    (t.modGroup die i fun y => { y with st := 3, ready := [], report := x.weirs.map (·.1) })) := by
  rw [readyReport_eq hx hmsg hst, if_neg (not_not.mpr h)]

end Ready

theorem weirRefusal_aborts {c d : Nat} (hmsg : s.takeMsg die asRefusal = some (dom, (g, c, d), t)) (hst : x.st = 2) :
    exec (.weirRefusal die) s = .next (t.abortGroup die i c d) := by
  dsimp only [exec, execWeirRefusal]
  rw [hmsg]
  dsimp only
  rw [hx]
  dsimp only
  rw [if_pos hst]

theorem publicationReport_last {p : Bool} (hmsg : s.takeMsg die asPublished = some (dom, (g, w, p), t)) (hst : x.st = 3)
    (hlast : x.report.erase w = []) : exec (.publicationReport die) s =
      .next (((t.reported (.commit g w)).modGroup die i fun y => { y with report := [], poison := y.poison || p, st := 4 }).settleGroup die i) := by
  dsimp only [exec, execPublicationReport]
  rw [hmsg]
  dsimp only
  rw [hx]
  dsimp only
  rw [if_neg (not_not.mpr hst), hlast]
  rfl

theorem discardReport_counts (hmsg : s.takeMsg die asDiscarded = some (dom, (g, w), t)) (hst : x.st = 5) :
    exec (.discardReport die) s =
      .next (((t.reported (.discard g w)).modGroup die i fun y => { y with report := y.report.erase w }).settleGroup die i) := by
  dsimp only [exec, execDiscardReport]
  rw [hmsg]
  dsimp only
  rw [hx]
  dsimp only
  rw [if_neg (not_not.mpr hst)]

section Query

variable (hmsg : s.takeMsg die asQuery = some (dom, (g, w), t))
include hmsg

theorem groupQuery_committed (hst : x.st = 3 ∨ x.st = 4) :
    exec (.groupQuery die) s = .next (t.sendCommit die dom w (.commit g w)) := by
  dsimp only [exec, execGroupQuery]
  rw [hmsg]
  dsimp only
  rw [hx]
  dsimp only
  rw [if_pos hst]

theorem groupQuery_aborted (hst : x.st = 5) : exec (.groupQuery die) s = .next (t.sendCommit die dom w (.discard g w)) := by
  dsimp only [exec, execGroupQuery]
  rw [hmsg]
  dsimp only
  rw [hx]
  dsimp only
  rw [if_neg (by omega), if_pos hst]

end Query

end Origin

theorem prepareTimeout_aborts {idx : Nat} {x : Group} (hx : (s.gent die idx).grp = some x) (hst : x.st = 2)
    (hpast : x.since + usCycles x.timeout ≤ s.cycle) : exec (.prepareTimeout die idx) s = .next (s.abortGroup die idx cGROUP_FAULT 5) := by
  dsimp only [exec, execPrepareTimeout]
  rw [hx]
  dsimp only
  rw [if_pos ⟨hst, hpast⟩]

/-- A weir that has waited four timeouts queries the origin: its first query is due, and so is a later one. -/
theorem weirQueryTimeout_queries {w : WeirGroup} (hw : s.weirOf die g = some w) (hprep : w.prepared = true) (hfew : w.queries < 8)
    (hpast : w.since + 4 * usCycles (s.weirTimeout g) ≤ s.cycle) :
    let u := s.setWeir die g (some { w with since := s.cycle, queries := w.queries + 1 })
    exec (.weirQueryTimeout die g) s = .next (u.sendCommit die (u.ctx w.ctx).dom g.node (.query g w.called)) := by
  have hnow : (decide (8 ≤ w.queries) && !w.recd) = false := by
    rw [decide_eq_false (Nat.not_le.mpr hfew), Bool.false_and]
  have hdue : ¬ (s.cycle < w.since + if w.queries = 0 then 4 * usCycles (s.weirTimeout g) else usCycles (s.weirTimeout g)) := by
    split <;> omega
  dsimp only [exec, execWeirQueryTimeout]
  rw [hw]
  dsimp only
  rw [if_neg (not_or_intro (by simp [hprep]) hdue), hnow, Bool.or_false, if_neg Bool.false_ne_true]

/-! ### Requests of other devices (R377, R379) -/

theorem dieFails_of_cross {a b v : Nat} (h : s.cross a b v = some t) : s.dieFails a b v = none := by
  unfold State.cross at h
  dsimp only at h
  split at h
  · next hab => exact if_pos hab
  · split at h
    · cases h
    · next hgood =>
      simp only [Bool.or_eq_true, not_or, Bool.not_eq_true, Option.isSome_eq_false_iff, Option.isNone_iff_eq_none] at hgood
      exact hgood.1.1

section Request

variable {tag : Nat} {p : Packet} {ps : List Packet} {r : RemoteReq} (hreqs : (s.die die).reqs = p :: ps) (hbody : p.body = .request tag r)
  (hcross : (s.modDie die fun d => { d with reqs := ps }).cross (s.fromDie p.src) die p.vc = some t)
include hreqs hbody hcross

/-- The first request that has crossed is answered. -/
theorem remoteRequest_first (h : t.oneRequest die p = some u) : exec (.remoteRequest die) s = .next (State.settleHost u) := by
  have htry : (s.modDie die fun d => { d with reqs := ps }).tryRequest die p = some u := by
    unfold State.tryRequest
    rw [show (s.modDie die fun d => { d with reqs := ps }).fromDie p.src = s.fromDie p.src from rfl, dieFails_of_cross hcross, hbody, hcross]
    exact h
  dsimp only [exec, execRemoteRequest]
  rw [hreqs]
  unfold State.takeRequest
  rw [if_neg (by simp), List.nil_append, htry]

theorem remoteRequest_answers {a : RemoteAns} (h : t.serve die p tag r = .ok (some a, u)) :
    exec (.remoteRequest die) s = .next (State.settleHost (u.reply die p.src p.dom p.vc tag a)) := by
  refine remoteRequest_first hreqs hbody hcross ?_
  unfold State.oneRequest
  rw [hbody]
  dsimp only
  rw [h]

theorem remoteRequest_faults {f : Flt} (h : t.serve die p tag r = .error (.fault f)) : exec (.remoteRequest die) s =
    .next (State.settleHost ((t.metError f).reply die p.src p.dom p.vc tag ⟨f.cause, f.detail, 0, [], false⟩)) := by
  refine remoteRequest_first hreqs hbody hcross ?_
  unfold State.oneRequest
  rw [hbody]
  dsimp only
  rw [h]

end Request

/-- Settles O52: each step by the lemma of its form. The timeout by which a weir counts is the model's choice (log 39). -/
theorem weirStepsComplete : Obligations.WeirStepsComplete := by
  refine ⟨?stage, ?prepare, ?unknown, ?publish, ?discard, ?origin, ?timer, ?query, ?request⟩
  case stage =>
    intro s die g l hdie hhome halign hin hstage
    refine ⟨weirStageLine_opens hdie hhome halign hin hstage, fun w hw => ⟨?_, ?_⟩⟩
    · exact weirStageLine_prepared hdie hhome halign hin hstage hw
    · exact weirStageLine_merges hdie hhome halign hin hstage hw
  case prepare =>
    intro s t die dom w n g x hmsg hx hopen
    refine ⟨fun u => weirPrepare_ready hmsg hx hopen, fun hn => ?_, fun hn hbad hclear => ?_⟩
    · exact weirPrepare_refuses hmsg hx hopen (prepare_miscounted hx hn)
    · exact weirPrepare_refuses hmsg hx hopen (prepare_unmapped hx hn hbad hclear)
  case unknown =>
    intro s t die dom w g hmsg hx
    exact weirCommitPacket_unknown hmsg hx
  case publish =>
    intro s t die dom w g x hmsg hx hprep hfree
    exact weirCommitPacket_publishes hmsg hx hprep hfree
  case discard =>
    intro s t die dom w g x hmsg hx
    exact weirDiscard_drops hmsg hx
  case origin =>
    intro s t die dom i g x hx
    refine ⟨fun w hmsg hst => ⟨readyReport_counts hx hmsg hst, readyReport_commits hx hmsg hst⟩,
      fun c d hmsg hst => weirRefusal_aborts hx hmsg hst, fun w p hmsg hst hlast => publicationReport_last hx hmsg hst hlast,
      fun w hmsg hst => discardReport_counts hx hmsg hst, fun w hmsg => ⟨groupQuery_committed hx hmsg, groupQuery_aborted hx hmsg⟩⟩
  case timer =>
    intro s die idx x hx hst hpast
    exact prepareTimeout_aborts hx hst hpast
  case query =>
    intro s die g w hw hprep hfew _ hpast
    exact weirQueryTimeout_queries hw hprep hfew hpast
  case request =>
    intro s t die tag p ps r hreqs hbody hcross
    exact ⟨fun a u h => remoteRequest_answers hreqs hbody hcross h, fun f h => remoteRequest_faults hreqs hbody hcross h⟩

end Sys2Proof.Machine
end

section
/-! PROOFS. The gateway's packets, links and their VCs, and the windows that other devices reach (R373, R374, R378, R382 to R390). -/

namespace Sys2Proof.Machine

open Sys2Proof.Claims

variable {s t : State}

/-! ### Packets at the gateway (R374, R382, R383) -/

/-- What the gateway sends may be held there; what it has received of the fabric stays. -/
theorem post_gate (s : State) (ports : List Nat) (p : Packet) :
    (s.post ports p).gate.early = s.gate.early ∧ (s.post ports p).gate.seqIn = s.gate.seqIn := by
  dsimp only [State.post]
  split
  · exact ⟨rfl, rfl⟩
  · next l _ =>
    obtain ⟨ls, ns, h⟩ := sendGroup_eq s l (vcKey l p.vc (devOf p.dst))
    rw [h]
    exact ⟨rfl, rfl⟩

/-- The number expected is not an old one (R382). -/
theorem seqOld_self {n : Nat} (h : n < 2 ^ 32) : seqOld n n = false := by
  unfold seqOld
  rw [Nat.mod_eq_of_lt h, Nat.add_sub_cancel_left, Nat.mod_self]
  rfl

/-- The gateway that passes on the packet it has expected next. -/
def passedOn (s : State) (p : Packet) : State :=
  { s with gate := { s.gate with early := [], seqIn := mset 0 s.gate.seqIn (seqKey p.src p.dst p.vc) ((p.seq + 1) % 2 ^ 32) } }

section Order

variable {p : Packet} (hord : orderedVc p.vc = true)
include hord

theorem order_old (h : seqOld p.seq (mget 0 s.gate.seqIn (seqKey p.src p.dst p.vc)) = true) : s.order p = s := by
  unfold State.order
  rw [if_pos hord, if_pos (.inl h)]

theorem order_next (hseq : p.seq < 2 ^ 32) (hearly : s.gate.early = []) (h : p.seq = mget 0 s.gate.seqIn (seqKey p.src p.dst p.vc)) :
    s.order p = (passedOn s p).deliver p := by
  have hnew : ¬ (seqOld p.seq (mget 0 s.gate.seqIn (seqKey p.src p.dst p.vc)) = true ∨ s.gate.early.contains p = true) := by
    rw [← h, seqOld_self hseq, hearly]
    simp
  have herase : ([p] : List Packet).erase p = [] := by simp
  unfold State.order
  rw [if_pos hord, if_neg hnew]
  simp only [hearly, List.nil_append, List.length_singleton]
  unfold State.passEarly
  simp only [← h, List.find?_cons, beq_self_eq_true, Bool.and_self, herase]
  rfl

end Order

section Receive

variable {p : Packet} (hdst : devOf p.dst = s.fabric) (hsrc : devOf p.src ≠ s.fabric) (hbody : ∀ v n, p.body ≠ .ack v n)

/-- The gateway after it has acknowledged a packet. -/
def ackSent (s : State) (p : Packet) : State :=
  s.post (s.route p.dom (devOf p.src)).2 { dst := p.src, src := p.dst, dom := p.dom, vc := 1, seq := 0, body := .ack p.vc p.seq }

theorem ackSent_gate (s : State) (p : Packet) :
    (ackSent s p).gate.early = s.gate.early ∧ (ackSent s p).gate.seqIn = s.gate.seqIn := post_gate ..

include hdst hsrc hbody

theorem receivePacket_acks : s.receivePacket p = (ackSent s p).order p := by
  unfold State.receivePacket
  rw [if_neg (not_not.mpr hdst), if_neg hsrc]
  cases hb : p.body with
  | ack v n => exact absurd hb (hbody v n)
  | _ => rfl

theorem fabricPacketReceive_next (hord : orderedVc p.vc = true) (hseq : p.seq < 2 ^ 32) (hearly : s.gate.early = [])
    (h : p.seq = mget 0 s.gate.seqIn (seqKey p.src p.dst p.vc)) : exec (.fabricPacketReceive p) s =
      .next (State.settleHost ((passedOn (ackSent s p) p).deliver p)) := by
  obtain ⟨he, hs⟩ := ackSent_gate s p
  dsimp only [exec, execFabricPacketReceive]
  rw [receivePacket_acks hdst hsrc hbody, order_next hord hseq (he.trans hearly) (h.trans (congrArg (mget 0 · _) hs.symm))]

theorem fabricPacketReceive_old (hord : orderedVc p.vc = true) (h : seqOld p.seq (mget 0 s.gate.seqIn (seqKey p.src p.dst p.vc)) = true) :
    exec (.fabricPacketReceive p) s = .next (State.settleHost (ackSent s p)) := by
  obtain ⟨-, hs⟩ := ackSent_gate s p
  dsimp only [exec, execFabricPacketReceive]
  rw [receivePacket_acks hdst hsrc hbody, order_old hord ((congrArg (fun m => seqOld p.seq (mget 0 m _)) hs).trans h)]

end Receive

theorem ethernetFrameReceive_packet {port : Nat} {p : Packet} (hport : ethPort port = true) :
    exec (.ethernetFrameReceive port s.ethType p) s = exec (.fabricPacketReceive p) s := by
  dsimp only [exec, execEthernetFrameReceive, execFabricPacketReceive]
  rw [if_neg (by simp [hport]), if_neg (not_not.mpr rfl)]

theorem ethernetFrameReceive_drops {port ty : Nat} {p : Packet} (hport : ethPort port = true) (hty : ty ≠ s.ethType) :
    exec (.ethernetFrameReceive port ty p) s = .next (s.modLink port fun l => { l with drops := l.drops + 1 }) := by
  dsimp only [exec, execEthernetFrameReceive]
  rw [if_neg (by simp [hport]), if_pos hty]

section Retry

variable {ends : NodePair} {vc seq : Nat} {u : Unacked} (hu : (s.gate.unack.find? fun u =>
  u.pkt.src == ends.src && u.pkt.dst == ends.dst && u.pkt.vc == vc && u.pkt.seq == seq) = some u)
include hu

theorem gatewayRetryTimeout_early (h : s.cycle < u.at_ + 45000) : exec (.gatewayRetryTimeout ends vc seq) s = .next s := by
  dsimp only [exec, execGatewayRetryTimeout]
  rw [hu]
  exact congrArg _ (if_pos h)

theorem gatewayRetryTimeout_resends (h : u.at_ + 45000 ≤ s.cycle) (hack : u.acked = false) (htries : u.tries < 8) :
    exec (.gatewayRetryTimeout ends vc seq) s = .next (({ s with gate := { s.gate with unack := s.gate.unack.map fun x =>
      if x = u then { x with tries := x.tries + 1, at_ := s.cycle } else x } } : State).post (s.route u.pkt.dom u.named).2 u.pkt) := by
  have hdue : ¬ (s.cycle < u.at_ + usCycles 20) := Nat.not_lt.mpr h
  dsimp only [exec, execGatewayRetryTimeout]
  rw [hu]
  dsimp only
  rw [if_neg hdue, if_neg (Bool.eq_false_iff.mp hack), if_pos htries]

end Retry

/-! ### Groups, keys and modes of a VC (R384 to R388, R390) -/

/-- Off the Ethernet ports a receiver takes the next group only (R385). -/
theorem takes_next (x : Vc) (counter : Nat) : x.takes false counter = if counter = x.rcnt then some (x.accepted counter) else none := rfl

section Flit

variable {link counter : Nat} {w : VcWay} {tagOk : Bool} (hvc : w.vc < 8) (heth : ethPort link = false)
  (hmode : ((s.link link).vc (vcKey link w.vc w.way)).mode ≠ 0) (hst : ((s.link link).vc (vcKey link w.vc w.way)).st < 2)

include hvc heth hmode hst

/-- Off the Ethernet ports a group is taken when its tag and its counter are right. -/
theorem flitGroupReceive_taken (htag : tagOk = true) (hcnt : counter = ((s.link link).vc (vcKey link w.vc w.way)).rcnt) :
    exec (.flitGroupReceive link w counter tagOk) s = .next (s.modVc link (vcKey link w.vc w.way) fun x =>
      if link < 10 then { x with bad := 0 } else ((s.link link).vc (vcKey link w.vc w.way)).accepted counter) := by
  have htakes : ((s.link link).vc (vcKey link w.vc w.way)).takes (ethPort link) counter =
      some (((s.link link).vc (vcKey link w.vc w.way)).accepted counter) := by
    rw [heth, takes_next, if_pos hcnt]
  dsimp only [exec, execFlitGroupReceive]
  rw [if_neg (by simp only [not_or]; omega), if_pos htag, htakes]

theorem flitGroupReceive_wrong (hbad : tagOk = false ∨ counter ≠ ((s.link link).vc (vcKey link w.vc w.way)).rcnt) :
    exec (.flitGroupReceive link w counter tagOk) s = .next (if ((s.link link).vc (vcKey link w.vc w.way)).bad = 7 then
      (s.modVc link (vcKey link w.vc w.way) fun x => { x with bad := 0 }).quarantine link (vcKey link w.vc w.way)
      else s.modVc link (vcKey link w.vc w.way) fun x => { x with bad := x.bad + 1 }) := by
  have hnone : (if tagOk = true then ((s.link link).vc (vcKey link w.vc w.way)).takes (ethPort link) counter else none) = none := by
    rcases hbad with h | h
    · exact if_neg (by simp [h])
    · rw [heth, takes_next, if_neg h, ite_self]
  dsimp only [exec, execFlitGroupReceive]
  rw [if_neg (by simp only [not_or]; omega), hnone]

end Flit

section Rekey

variable {link : Nat} {w : VcWay}

theorem rekeyDeadline_quarantines (hvc : w.vc < 8) (hstop : ((s.link link).vc (vcKey link w.vc w.way)).stop = true)
    (hpast : ((s.link link).vc (vcKey link w.vc w.way)).since + 2250 * (s.link link).rkdl ≤ s.cycle) :
    exec (.rekeyDeadline link w) s = .next (State.settleHost (s.quarantine link (vcKey link w.vc w.way))) := by
  dsimp only [exec, execRekeyDeadline]
  rw [if_pos ⟨hvc, hstop, hpast⟩]

theorem rekeyDeadline_early (hpast : s.cycle < ((s.link link).vc (vcKey link w.vc w.way)).since + 2250 * (s.link link).rkdl) :
    exec (.rekeyDeadline link w) s = .next s := by
  dsimp only [exec, execRekeyDeadline]
  rw [if_neg (fun h => Nat.not_lt.mpr h.2.2 hpast)]

end Rekey

section Keyload

variable {link n : Nat} {w : VcWay} {recv : Bool} {key : BitVec 256} {salt : BitVec 32}

theorem keyload_below (h : n < (if recv then ((s.link link).vc (vcKey link w.vc w.way)).rcnt else ((s.link link).vc (vcKey link w.vc w.way)).cnt)) :
    exec (.keyload link w recv key salt n) s = .next s.refuse := by
  dsimp only [exec, execKeyload]
  rw [if_pos (.inr (.inr (.inl h)))]

variable (hboot : s.boot.stage ≠ 8) (hvc : w.vc < 8) (hn : n ≤ 2 ^ 32 - 1)
  (hle : (if recv then ((s.link link).vc (vcKey link w.vc w.way)).rcnt else ((s.link link).vc (vcKey link w.vc w.way)).cnt) ≤ n)
  (hnone : (if recv then ((s.link link).vc (vcKey link w.vc w.way)).rnext else ((s.link link).vc (vcKey link w.vc w.way)).next) = none)
  (hst : ((s.link link).vc (vcKey link w.vc w.way)).st < 2)
include hboot hvc hn hle hnone hst

/-- A key at or above the present count, with none standing, is taken at once or kept for its count. -/
theorem keyload_takes : exec (.keyload link w recv key salt n) s = .next (
    if n = (if recv then ((s.link link).vc (vcKey link w.vc w.way)).rcnt else ((s.link link).vc (vcKey link w.vc w.way)).cnt) then
      ((s.modVc link (vcKey link w.vc w.way) fun x => if recv then x.rswitch ⟨key, salt⟩ else x.switch ⟨key, salt⟩).vcsUp link).postHeld
    else s.modVc link (vcKey link w.vc w.way) fun x =>
      let y := if recv then { x with rnext := some (⟨key, salt⟩, n) } else { x with next := some (⟨key, salt⟩, n) }
      { y with st := if x.st = 0 then 1 else x.st }) := by
  have hgo : ¬ (s.boot.stage = 8 ∨ 8 ≤ w.vc ∨
      n < (if recv then ((s.link link).vc (vcKey link w.vc w.way)).rcnt else ((s.link link).vc (vcKey link w.vc w.way)).cnt) ∨ 2 ^ 32 - 1 < n ∨
      (if recv then ((s.link link).vc (vcKey link w.vc w.way)).rnext else ((s.link link).vc (vcKey link w.vc w.way)).next).isSome) := by
    rw [hnone]
    simp only [not_or, Option.isSome_none, Bool.false_eq_true, not_false_eq_true, and_true]
    omega
  dsimp only [exec, execKeyload]
  rw [if_neg hgo, if_neg (by omega)]

end Keyload

section Reset

variable {link : Nat} {w : VcWay}

/-- A quarantined VC with keys for both ends. -/
def renewable (s : State) (link k : Nat) : Bool :=
  ((s.link link).vc k).st == 2 && ((s.link link).vc k).next.isSome && ((s.link link).vc k).rnext.isSome

theorem vcreset_renews (h : ∀ k ∈ twins link (vcKey link w.vc w.way), renewable s link k = true) :
    exec (.vcreset link w) s =
      .next ((twins link (vcKey link w.vc w.way)).foldl (fun s k => s.modVc link k Vc.renewed) s).postHeld := by
  dsimp only [exec, execVcreset]
  exact congrArg _ (if_pos (List.all_eq_true.mpr h))

theorem vcreset_noRow (h : ∃ k ∈ twins link (vcKey link w.vc w.way), renewable s link k = false) :
    exec (.vcreset link w) s = .next s.noRow := by
  dsimp only [exec, execVcreset]
  refine congrArg _ (if_neg fun hall => ?_)
  obtain ⟨k, hk, hbad⟩ := h
  exact Bool.eq_false_iff.mp hbad (List.all_eq_true.mp hall k hk)

end Reset

section Modes

variable {link : Nat} {v : Word}

/-- A word may set the mode that it gives VC n. -/
def modeOk (s : State) (link : Nat) (v : Word) (n : Nat) : Bool :=
  vcpMode v n != 3 && (vcpMode v n != 1 || link < 10 || (fabricPort link && bitAt v.toNat 16)) &&
    (vcpMode v n == ((s.link link).vc n).nmode.getD ((s.link link).vc n).mode || !s.vcBusy link n)

theorem lnkVcpWrite_eq (hboot : s.boot.stage ≠ 8) : exec (.lnkVcpWrite link v) s = .next (
    if v.toNat / 2 ^ 17 ≠ 0 ∨ (bitAt v.toNat 16 && !fabricPort link) = true ∨ (!vcNumbers.all (modeOk s link v)) = true then s.refuse
    else (vcNumbers.foldl (fun t n => (t.vcKeys link n).foldl (fun t k => t.modVc link k fun x => x.setMode (vcpMode v n)) t)
      (s.modLink link fun k => { k with encl := bitAt v.toNat 16 })).vcsUp link) := by
  dsimp only [exec, execLnkVcpWrite]
  simp only [hboot, false_or]
  rfl

theorem lnkVcpWrite_refused (hboot : s.boot.stage ≠ 8) (h : 131072 ≤ v.toNat ∨ (∃ n < 8, vcpMode v n = 3) ∨
    (bitAt v.toNat 16 = true ∧ fabricPort link = false) ∨ (∃ n < 8, vcpMode v n = 1 ∧ 10 ≤ link ∧ bitAt v.toNat 16 = false)) :
    exec (.lnkVcpWrite link v) s = .next s.refuse := by
  have hone {n : Nat} (hn : n < 8) (hbad : modeOk s link v n = false) : (!vcNumbers.all (modeOk s link v)) = true := by
    rw [Bool.not_eq_true', List.all_eq_false]
    exact ⟨n, List.mem_range.mpr hn, Bool.eq_false_iff.mp hbad⟩
  rw [lnkVcpWrite_eq hboot, if_pos]
  rcases h with hv | ⟨n, hn, hmode⟩ | ⟨hencl, hport⟩ | ⟨n, hn, hmode, hlink, hencl⟩
  · exact .inl (by omega)
  · exact .inr (.inr (hone hn (by simp [modeOk, hmode])))
  · exact .inr (.inl (by rw [hencl, hport]; rfl))
  · exact .inr (.inr (hone hn (by simp [modeOk, hmode, hencl, Nat.not_lt.mpr hlink])))

theorem lnkVcpWrite_sets (hboot : s.boot.stage ≠ 8) (hv : v.toNat < 131072) (hencl : bitAt v.toNat 16 = true → fabricPort link = true)
    (hall : ∀ n < 8, vcpMode v n ≠ 3 ∧ (vcpMode v n = 1 → link < 10 ∨ bitAt v.toNat 16 = true) ∧
      (vcpMode v n = ((s.link link).vc n).nmode.getD ((s.link link).vc n).mode ∨ s.vcBusy link n = false)) :
    exec (.lnkVcpWrite link v) s =
      .next ((vcNumbers.foldl (fun t n => (t.vcKeys link n).foldl (fun t k => t.modVc link k fun x => x.setMode (vcpMode v n)) t)
        (s.modLink link fun k => { k with encl := bitAt v.toNat 16 })).vcsUp link) := by
  have hok : vcNumbers.all (modeOk s link v) = true := by
    rw [List.all_eq_true]
    intro n hn
    obtain ⟨hmode, hone, hidle⟩ := hall n (List.mem_range.mp hn)
    have hport : vcpMode v n ≠ 1 ∨ link < 10 ∨ (fabricPort link = true ∧ bitAt v.toNat 16 = true) := by
      by_cases h : vcpMode v n = 1
      · exact .inr ((hone h).imp_right fun h => ⟨hencl h, h⟩)
      · exact .inl h
    unfold modeOk
    simp only [Bool.and_eq_true, Bool.or_eq_true, bne_iff_ne, decide_eq_true_eq, beq_iff_eq, Bool.not_eq_true']
    exact ⟨⟨hmode, or_assoc.mpr hport⟩, hidle⟩
  rw [lnkVcpWrite_eq hboot, if_neg]
  rintro (h | h | h)
  · exact h (by omega)
  · simp only [Bool.and_eq_true, Bool.not_eq_true'] at h
    exact Bool.eq_false_iff.mp h.2 (hencl h.1)
  · rw [hok] at h
    cases h

end Modes

/-! ### Training, loss and pause (R373, R390) -/

section Training

variable {link lanes : Nat}

theorem linkTrainingEnd_eq (r : Training) (h : (s.link link).phys = 0) : exec (.linkTrainingEnd link r lanes) s = .next (match r with
      | .allLanes => (((s.modLink link fun k => { k with phys := 1, lanes := linkWidth link }).vcsUp link).postHeld)
      | .reduced => (((s.modLink link fun k => { k with phys := 2, lanes := lanes }).linkEvt link 16).vcsUp link).postHeld
      | .failed => (s.modLink link fun k => { k with phys := 3, lanes := 0 }).linkEvt link 17) := by
  dsimp only [exec, execLinkTrainingEnd]
  exact congrArg Host.Outcome.next (if_neg (not_not.mpr h))

theorem linkLaneLoss_degrades (h : (s.link link).phys = 1) : exec (.linkLaneLoss link lanes) s =
    .next ((s.modLink link fun k => { k with phys := 2, lanes := lanes }).linkEvt link 16) := by
  dsimp only [exec, execLinkLaneLoss]
  rw [if_pos h]

theorem linkLanesRestored_restores (h : (s.link link).phys = 2) : exec (.linkLanesRestored link) s =
    .next (s.modLink link fun k => { k with phys := 1, lanes := linkWidth link }) := by
  dsimp only [exec, execLinkLanesRestored]
  rw [if_pos h]

theorem linkRetrain_restarts (h : (s.link link).phys = 3) (hboot : s.boot.stage ≠ 8) :
    exec (.linkRetrain link) s = .next (s.modLink link fun k => { k with phys := 0 }) := by
  dsimp only [exec, execLinkRetrain]
  rw [if_pos ⟨h, hboot⟩]

theorem linkRetrain_noRow (h : (s.link link).phys ≠ 3) : exec (.linkRetrain link) s = .next s.noRow := by
  dsimp only [exec, execLinkRetrain]
  rw [if_neg fun hdown => h hdown.1]

/-- The link as LINK_DOWN leaves it before the items of its VCs fail: every VC is DOWN without a key. -/
def linkLost (s : State) (link : Nat) : State :=
  let t := (s.modLink link fun k => { k with phys := 3, lanes := 0 }).linkEvt link 17
  let t := t.modLink link fun k => { k with vcs := k.vcs.filter (·.1 < 16) }
  (vcNumbers.flatMap (t.vcKeys link)).foldl (fun t v => t.modVc link v fun x =>
    { x with st := 3, key := none, rkey := none, next := none, rnext := none, stop := false, mode := x.nmode.getD x.mode, nmode := none }) t

theorem linkDown_fails (h : (s.link link).phys = 1 ∨ (s.link link).phys = 2) : exec (.linkDown link) s =
    .next (State.settleHost (vcNumbers.foldl (fun t v => t.failVc link v 3) (linkLost s link))) := by
  dsimp only [exec, execLinkDown]
  rw [if_neg (by omega)]
  rfl

theorem fabricVcPause_eq {port vc : Nat} (hport : fabricPort port = true ∨ ethPort port = true) (hvc : vc < 8) (raised : Bool) :
    exec (.fabricVcPause port vc raised) s = .next (if raised then s.modVc port vc fun x => { x with pause := raised }
      else (s.modVc port vc fun x => { x with pause := raised }).postHeld) := by
  have hgo : ¬ ((!(fabricPort port || ethPort port)) = true ∨ 8 ≤ vc) := by
    rw [Bool.or_eq_true _ _ |>.mpr hport]
    simp only [Bool.not_true, Bool.false_eq_true, false_or]
    omega
  dsimp only [exec, execFabricVcPause]
  rw [if_neg hgo]

end Training

/-! ### Windows that other devices reach (R378) -/

section Window

variable {c n : Nat} {v : Word}

/-- The range of a window of a length. -/
def windowRange (w : Window) (v : Word) : Region :=
  { base := w.base, len := v, access := (if w.r then 1 else 0) + (if w.w then 2 else 0), edge := 0, shared := false,
    hint := false, fwdH := 0, fwdN := 0, ext := 0 }

theorem windowOpen_long (h : 2 ^ 44 ≤ v.toNat) : exec (.windowOpen c n v) s = .next s.refuse := by
  dsimp only [exec, execWindowOpen]
  rw [if_pos (.inr (.inl h))]

variable (hn : n < 16) (hfree : (s.ctx c).st ≠ .free) (hgone : (s.ctx c).st ≠ .destroyed)
include hn hfree hgone

theorem windowOpen_closes : exec (.windowOpen c n 0) s = .next (s.modCtx c fun x => { x with
    wins := mset Window.closed x.wins n { mget Window.closed (s.ctx c).wins n with len := 0, frames := [], waits := [] } }) := by
  have hgo : ¬ (16 ≤ n ∨ 2 ^ 44 ≤ (0 : Word).toNat ∨ (s.ctx c).st = .free ∨ (s.ctx c).st = .destroyed) := by
    simp [hfree, hgone, hn]
  dsimp only [exec, execWindowOpen]
  rw [if_neg hgo, if_pos (by simp)]

theorem windowOpen_opens (h0 : v ≠ 0) (hv : v.toNat < 2 ^ 44) (hrange : (windowRange (mget Window.closed (s.ctx c).wins n) v).rangeOk = true) :
    let w := mget Window.closed (s.ctx c).wins n
    let a := w.base.toNat % 2 ^ 55
    let last := (a + v.toNat - 1) / 65536
    let pages := s.windowPages c (windowRange w v) last (last + 1 - a / 65536) (a / 65536) [] []
    exec (.windowOpen c n v) s = .next (pages.2.2.modCtx c fun x => { x with
      wins := mset Window.closed x.wins n { w with len := v.toNat, frames := pages.1, waits := pages.2.1 } }) := by
  have hgo : ¬ (16 ≤ n ∨ 2 ^ 44 ≤ v.toNat ∨ (s.ctx c).st = .free ∨ (s.ctx c).st = .destroyed) := by
    simp only [hfree, hgone, or_false]
    omega
  have hlen : v.toNat ≠ 0 := fun h => h0 (BitVec.eq_of_toNat_eq h)
  have hbad : ¬ (!(windowRange (mget Window.closed (s.ctx c).wins n) v).rangeOk) = true := by simp [hrange]
  dsimp only [exec, execWindowOpen]
  rw [if_neg hgo, if_neg hlen]
  exact congrArg _ (if_neg hbad)

end Window

/-- Settles O53: each step by the lemma of its form. The lanes of a link (log 30), the two ends of VCRESET (log 50), encryption on the
fabric's links only (log 60) and when a mode takes effect (log 85) are the model's choices. -/
theorem linkStepsComplete : Obligations.LinkStepsComplete := by
  refine ⟨?packets, ?frames, ?retry, ?flits, ?rekey, ?keyload, ?reset, ?modes, ?training, ?lanes, ?pause, ?windows⟩
  case packets =>
    intro s p hdst hsrc hbody hord hseq hearly
    exact ⟨fabricPacketReceive_next hdst hsrc hbody hord hseq hearly, fabricPacketReceive_old hdst hsrc hbody hord⟩
  case frames =>
    intro s port ty p hport
    refine ⟨fun hty => ?_, ethernetFrameReceive_drops hport⟩
    rw [hty, ethernetFrameReceive_packet hport]
  case retry =>
    intro s ends vc seq u hu
    exact ⟨gatewayRetryTimeout_early hu, gatewayRetryTimeout_resends hu⟩
  case flits =>
    intro s link counter w tagOk hvc heth k x hmode hst
    refine ⟨fun htag hcnt hlink => ?_, fun htag hcnt hlink => ?_, fun hbad h => ?_, fun hbad h => ?_⟩
    · rw [flitGroupReceive_taken hvc heth hmode hst htag hcnt]
      simp only [if_neg (Nat.not_lt.mpr hlink)]
      rfl
    · rw [flitGroupReceive_taken hvc heth hmode hst htag hcnt]
      simp only [if_pos hlink]
      rfl
    · exact (flitGroupReceive_wrong hvc heth hmode hst hbad).trans (congrArg _ (if_neg h))
    · exact (flitGroupReceive_wrong hvc heth hmode hst hbad).trans (congrArg _ (if_pos h))
  case rekey =>
    intro s link w
    exact ⟨rekeyDeadline_quarantines, rekeyDeadline_early⟩
  case keyload =>
    intro s link n w recv key salt hboot hvc hn
    refine ⟨keyload_below, fun hcnt hnone hst => ?_, fun hcnt hnone hst => ?_, fun hcnt hnone hst => ?_, fun hcnt hnone hst => ?_⟩
    · exact (keyload_takes (recv := false) hboot hvc hn (Nat.le_of_eq hcnt) hnone hst).trans (congrArg _ (if_pos hcnt.symm))
    · exact (keyload_takes (recv := true) hboot hvc hn (Nat.le_of_eq hcnt) hnone hst).trans (congrArg _ (if_pos hcnt.symm))
    · exact (keyload_takes (recv := false) hboot hvc hn (Nat.le_of_lt hcnt) hnone hst).trans (congrArg _ (if_neg (Nat.ne_of_gt hcnt)))
    · exact (keyload_takes (recv := true) hboot hvc hn (Nat.le_of_lt hcnt) hnone hst).trans (congrArg _ (if_neg (Nat.ne_of_gt hcnt)))
  case reset =>
    intro s link w
    refine ⟨fun h => vcreset_renews fun k hk => ?_, fun ⟨k, hk, h⟩ => vcreset_noRow ⟨k, hk, ?_⟩⟩
    · obtain ⟨hst, hnext, hrnext⟩ := h k hk
      simp [renewable, hst, hnext, hrnext]
    · rcases h with h | h | h <;> simp [renewable, h]
  case modes =>
    intro s link v hboot
    exact ⟨lnkVcpWrite_refused hboot, lnkVcpWrite_sets hboot⟩
  case training =>
    intro s link lanes h
    exact ⟨linkTrainingEnd_eq .allLanes h, linkTrainingEnd_eq .reduced h, linkTrainingEnd_eq .failed h⟩
  case lanes =>
    intro s link lanes
    exact ⟨linkLaneLoss_degrades, linkLanesRestored_restores, linkRetrain_restarts, linkRetrain_noRow, linkDown_fails⟩
  case pause =>
    intro s port vc hport hvc
    exact ⟨fabricVcPause_eq hport hvc true, fabricVcPause_eq hport hvc false⟩
  case windows =>
    intro s c n v hn hfree hgone
    refine ⟨fun h0 => ?_, windowOpen_long, fun h0 hv => windowOpen_opens hn hfree hgone h0 hv⟩
    rw [h0]
    exact windowOpen_closes hn hfree hgone

end Sys2Proof.Machine
end

section
/-! PROOFS. Collective entries, the life of a context, dispositions of records (R393 to R402, R409 to R417, R422). -/

namespace Sys2Proof.Machine

open Sys2Proof.Claims

variable {s t u : State} {c e : Nat}

/-! ### Loading a collective entry (R393, R395) -/

section Load

variable {r : List Byte}

theorem colset_eq (hc : c < 32) (he : e < 4096) (hst : (s.ctx c).st ≠ .free) (hunloaded : (s.coll c e).st = 0) (hok : collOk r = true)
    (hnew : (s.ctx c).colsets.any (·.1 == e) = false)
    (hctrs : s.collCtrOk c (recWord r 0x28) = true ∧ s.collCtrOk c (recWord r 0x30) = true ∧ s.collCtrOk c (recWord r 0x38) = true) :
    exec (.colset c e r) s = .next (if 2 ^ 25 < s.collUsed + s.collPending + collBuffer r then s.notify (.refused cNOSLOT 0)
      else (s.modCtx c fun x => { x with colsets := x.colsets ++ [(e, r)] }).colsetGo c e r) := by
  obtain ⟨h1, h2, h3⟩ := hctrs
  have hgo : ¬ (32 ≤ c ∨ 4096 ≤ e ∨ (s.ctx c).st = .free ∨ (s.coll c e).st ≠ 0 ∨ (s.ctx c).colsets.any (·.1 == e) = true ∨
      (!collOk r) = true ∨
      (!(s.collCtrOk c (recWord r 0x28) && s.collCtrOk c (recWord r 0x30) && s.collCtrOk c (recWord r 0x38))) = true) := by
    rw [hnew, hok, h1, h2, h3]
    simp only [hst, hunloaded, ne_eq, not_true_eq_false, Bool.false_eq_true, Bool.not_true, Bool.and_self, or_false]
    omega
  dsimp only [exec, execColset]
  rw [if_neg hgo]

variable (hwait : ∀ g ∈ collRegions r, s.regionWaits c g = false) {n : Nat} {fs : List FrameEnt}
include hwait

theorem regions_free : ¬ (collRegions r).any (s.regionWaits c) = true := by
  rw [List.any_eq_true]
  rintro ⟨g, hg, hbad⟩
  rw [hwait g hg] at hbad
  cases hbad

/-- A record that meets an EVICTED page waits. -/
theorem colsetGo_evicted (h : s.transRegions c (collRegions r).zipIdx [] = (.evicted, n, fs, t)) : s.colsetGo c e r = t := by
  unfold State.colsetGo
  dsimp only
  rw [if_neg (regions_free hwait), h]

theorem colsetGo_loads {ws : List Nat} (h : s.transRegions c (collRegions r).zipIdx [] = (.done, n, fs, t))
    (hws : t.memberWords c e r fs = some ws) : s.colsetGo c e r =
      (t.modCtx c fun x => { x with colsets := x.colsets.filter (·.1 != e) }).modColl c e fun _ =>
        { Coll.unloaded with st := 1, recd := r, frames := fs, members := ws } := by
  unfold State.colsetGo
  dsimp only
  rw [if_neg (regions_free hwait), h]
  dsimp only
  rw [hws]

end Load

/-! ### An entry's events (R393, R398 to R402) -/

/-- A change of an entry is what it makes of the entry that stands. -/
theorem modColl_congr {f g : Coll → Coll} (h : f (s.coll c e) = g (s.coll c e)) : s.modColl c e f = s.modColl c e g := by
  have hm : mmod Coll.unloaded (s.ctx c).colls e f = mmod Coll.unloaded (s.ctx c).colls e g :=
    congrArg (mset Coll.unloaded (s.ctx c).colls e) h
  exact congrArg (fun m => { s with ctxs := mset Ctx.reset s.ctxs c { s.ctx c with colls := m } }) hm

@[simp] theorem coll_modColl_same (s : State) (c e : Nat) (f : Coll → Coll) : (s.modColl c e f).coll c e = f (s.coll c e) := by
  unfold State.coll State.modColl
  rw [State.modCtx_ctx_same, mget_mmod_same]

theorem colclr_unloads (h : (s.coll c e).st = 1 ∨ (s.coll c e).st = 4) :
    exec (.colclr c e) s = .next (s.modColl c e fun _ => Coll.unloaded) := by
  dsimp only [exec, execColclr]
  rw [if_pos h]

theorem colclr_refused (h : (s.coll c e).st ≠ 1 ∧ (s.coll c e).st ≠ 4) : exec (.colclr c e) s = .next s.refuse := by
  dsimp only [exec, execColclr]
  rw [if_neg (not_or.mpr h)]

section Ranks

variable {q : Nat} (hq : otherRank (s.coll c e) q)
include hq

theorem chunkLineReceive_enters {n : Nat} {d : List Byte} (hlo : 1 ≤ (s.coll c e).st) (hhi : (s.coll c e).st ≤ 3)
    (hslot : mget none (s.coll c e).chans (64 * q + n % (s.coll c e).depth) = none) :
    exec (.chunkLineReceive c e q n ((s.coll c e).r % 2 ^ 24) d) s = .next (State.settleHost ((s.modColl c e fun x =>
      { x with chans := mset none x.chans (64 * q + n % x.depth) (some (n, d)), since := s.cycle }).collGo c e)) := by
  dsimp only [exec, execChunkLineReceive]
  rw [if_pos ⟨hlo, hhi, hq.1, hq.2, rfl, by rw [hslot]; rfl⟩]
  exact congrArg (fun x : State => Host.Outcome.next (State.settleHost (x.collGo c e))) (modColl_congr rfl)

omit hq in
theorem chunkLineReceive_drops {n m : Nat} {d : List Byte} (h : m ≠ (s.coll c e).r % 2 ^ 24) :
    exec (.chunkLineReceive c e q n m d) s = .next { s with colDrop := s.colDrop + 1 } := by
  dsimp only [exec, execChunkLineReceive]
  rw [if_neg fun hall => h hall.2.2.2.2.1]

/-- The entry after a release of its firing. -/
def releasedBy (s : State) (c e q n : Nat) : State := s.modColl c e fun x =>
  { x with released := if x.st = 2 then mset 0 x.released q (max (mget 0 x.released q) (n + 1)) else x.released, since := s.cycle }

theorem releaseReport_enters {n r : Nat} (hst : (s.coll c e).st = 2 ∨ (s.coll c e).st = 3) (hr : r = (s.coll c e).firing) :
    exec (.releaseReport c e q ⟨n, r⟩) s = .next (State.settleHost ((releasedBy s c e q n).collGo c e)) := by
  dsimp only [exec, execReleaseReport]
  rw [if_pos ⟨hst, hq.1, hq.2, hr⟩]
  rfl

omit hq in
theorem releaseReport_ignored {f : FiringStep} (h : f.r ≠ (s.coll c e).firing) : exec (.releaseReport c e q f) s = .next s := by
  dsimp only [exec, execReleaseReport]
  rw [if_neg fun hall => h hall.2.2.2]

theorem finishReport_enters {r : Nat} (hst : (s.coll c e).st = 2 ∨ (s.coll c e).st = 3) (hnew : (q, r) ∉ (s.coll c e).finish) :
    exec (.finishReport c e q r) s =
      .next (State.settleHost ((s.modColl c e fun x => { x with finish := x.finish ++ [(q, r)], since := s.cycle }).collGo c e)) := by
  dsimp only [exec, execFinishReport]
  rw [if_pos ⟨hst, hq.1, hq.2, by simp [hnew]⟩]

theorem failureNotice_fails : exec (.failureNotice c e q) s = .next (s.collFail c e cREMOTE_FAULT 7) := by
  dsimp only [exec, execFailureNotice]
  exact congrArg Host.Outcome.next (if_pos hq)

end Ranks

section Firing

variable (hst : (s.coll c e).st = 2 ∨ (s.coll c e).st = 3)
include hst

theorem sourceReadComplete_adds (hread : (s.coll c e).read = (s.coll c e).steps) (hnew : (s.coll c e).srcAdded = false) :
    exec (.sourceReadComplete c e) s =
      .next (State.settleHost ((s.collAdd c e 0x28).modColl c e fun x => { x with srcAdded := true })) := by
  dsimp only [exec, execSourceReadComplete]
  rw [if_pos ⟨hst, hread, by simp [hnew]⟩]

theorem collectiveTimeout_eq : exec (.collectiveTimeout c e) s = .next (
    if (s.ctx c).st = .halting ∧ (s.ctx c).haltAt ≤ (s.coll c e).since then
      (if decide ((s.ctx c).haltAt + usCycles s.colTmo ≤ s.cycle) = true then s.collFail c e cHALTED 0 else s)
    else if decide ((s.coll c e).since + usCycles s.colTmo ≤ s.cycle) = true then s.collFail c e cLINK_FAULT 4 else s) := by
  dsimp only [exec, execCollectiveTimeout]
  rw [if_neg (by omega)]

theorem collectiveTimeout_halts (h : (s.ctx c).st = .halting ∧ (s.ctx c).haltAt ≤ (s.coll c e).since)
    (hpast : (s.ctx c).haltAt + usCycles s.colTmo ≤ s.cycle) : exec (.collectiveTimeout c e) s = .next (s.collFail c e cHALTED 0) := by
  rw [collectiveTimeout_eq hst, if_pos h, if_pos (decide_eq_true hpast)]

theorem collectiveTimeout_fails (h : ¬ ((s.ctx c).st = .halting ∧ (s.ctx c).haltAt ≤ (s.coll c e).since))
    (hpast : (s.coll c e).since + usCycles s.colTmo ≤ s.cycle) : exec (.collectiveTimeout c e) s = .next (s.collFail c e cLINK_FAULT 4) := by
  rw [collectiveTimeout_eq hst, if_neg h, if_pos (decide_eq_true hpast)]

theorem collectiveTimeout_early (hlast : s.cycle < (s.coll c e).since + usCycles s.colTmo)
    (hhalt : s.cycle < (s.ctx c).haltAt + usCycles s.colTmo) : exec (.collectiveTimeout c e) s = .next s := by
  rw [collectiveTimeout_eq hst, if_neg (c := decide _ = true) (by simpa using hhalt), if_neg (c := decide _ = true) (by simpa using hlast), ite_self]

end Firing

/-! ### Commands to a context (R409) -/

/-- A command to an idle context is taken at once. -/
theorem command_taken {k : CtxCmd} (hidle : idle s c) (h : s.takeCmd c k = some u) : s.command c k = u := by
  unfold State.command
  dsimp only
  rw [if_neg (by simp [hidle.1, hidle.2]), h]
  rfl

/-- A command that cannot be taken yet waits. -/
theorem command_kept {k : CtxCmd} (hidle : idle s c) (h : s.takeCmd c k = none) :
    s.command c k = s.modCtx c fun y => { y with cmds := y.cmds ++ [k] } := by
  unfold State.command
  dsimp only
  rw [if_neg (by simp [hidle.1, hidle.2]), h]
  rfl

/-- A command behind another waits. -/
theorem command_queued (k : CtxCmd) (h : ¬ idle s c) : s.command c k = s.modCtx c fun y => { y with cmds := y.cmds ++ [k] } := by
  have hbusy : s.ctxBusy c = true ∨ (s.ctx c).cmds ≠ [] := by
    by_cases hb : s.ctxBusy c = true
    · exact .inl hb
    · exact .inr fun hc => h ⟨Bool.eq_false_iff.mpr hb, hc⟩
  exact if_pos hbusy

theorem ctxCreate_creates (hc : c < 32) (hst : (s.ctx c).st = .free) :
    s.ctxCreate c = s.modCtx c fun y => { Ctx.reset with st := .created, aliasNo := s.fabric, cmds := y.cmds } :=
  if_neg (not_or_intro (Nat.not_le.mpr hc) (not_not.mpr hst))

theorem ctxCreate_noRow (hst : (s.ctx c).st ≠ .free) : s.ctxCreate c = s.noRow := if_pos (.inr hst)

theorem ctxReady_runs (hst : (s.ctx c).st = .created) (hw : (s.ctx c).wrote = 7) :
    s.ctxReady c = s.modCtx c fun x => { x with st := .runnable } := if_neg (not_or_intro (not_not.mpr hst) (not_not.mpr hw))

theorem ctxReady_noRow (hst : (s.ctx c).st ≠ .created) : s.ctxReady c = s.noRow := if_pos (.inl hst)

section Place

variable {cl : List Nat}

theorem ctxPlace_places (hst : (s.ctx c).st = .runnable) (hfree : s.setFree c cl = true) :
    s.ctxPlace c cl = (s.modCtx c fun x => { x with st := .running, clusters := cl }).recheck c :=
  if_neg (not_or_intro (not_not.mpr hst) (by simp [hfree]))

theorem ctxPlace_noRow (hst : (s.ctx c).st ≠ .runnable) : s.ctxPlace c cl = s.noRow := if_pos (.inl hst)

theorem ctxSwapOut_stops (hst : (s.ctx c).st = .running) :
    s.ctxSwapOut c = (((s.pauseAging c).modCtx c fun x => { x with st := .preempted }).stopAll c).afterSave c :=
  if_neg (not_not.mpr hst)

theorem ctxSwapOut_noRow (hst : (s.ctx c).st ≠ .running) : s.ctxSwapOut c = s.noRow := if_pos hst

theorem ctxSwapIn_places (hst : (s.ctx c).st = .preempted) (hnone : (s.ctx c).clusters = []) (hfree : s.setFree c cl = true) :
    s.ctxSwapIn c cl = ((((s.dropOn c cl).resumeAging c).modCtx c fun x => { x with st := .running, clusters := cl }).recheck c).redeliver c :=
  if_neg (by simp [hst, hnone, hfree])

theorem ctxSwapIn_noRow (hst : (s.ctx c).st ≠ .preempted) : s.ctxSwapIn c cl = s.noRow := if_pos (.inl hst)

end Place

section Halt

variable {n : Nat}

/-- The context while a halt of n microseconds goes on. -/
def haltBegun (s : State) (n : Nat) (x : Ctx) : Ctx :=
  { x with st := .halting, former := x.st, haltAt := s.cycle, held := x.clusters, haltTmo := s.cycle + 2250 * n }

theorem ctxHalt_begins (hlo : 100 ≤ n) (hhi : n ≤ 100000) (hst : (s.ctx c).st = .running ∨ (s.ctx c).st = .preempted) :
    s.ctxHalt c n = (((if (s.ctx c).st = .running then s.pauseAging c else s).modCtx c (haltBegun s n)).stopAll c) := by
  have hn : (if n = 0 then 10000 else n) = n := if_neg (by omega)
  unfold State.ctxHalt
  simp only [hn]
  rw [if_neg (fun h => hst.elim h.1 h.2), if_neg (by omega)]
  rfl

theorem ctxHalt_running (hlo : 100 ≤ n) (hhi : n ≤ 100000) (hst : (s.ctx c).st = .running) :
    s.ctxHalt c n = ((s.pauseAging c).modCtx c (haltBegun s n)).stopAll c := by
  rw [ctxHalt_begins hlo hhi (.inl hst), if_pos hst]

theorem ctxHalt_preempted (hlo : 100 ≤ n) (hhi : n ≤ 100000) (hst : (s.ctx c).st = .preempted) :
    s.ctxHalt c n = (s.modCtx c (haltBegun s n)).stopAll c := by
  rw [ctxHalt_begins hlo hhi (.inr hst), if_neg (by simp [hst])]

theorem ctxHalt_noRow (hst : (s.ctx c).st ≠ .running ∧ (s.ctx c).st ≠ .preempted) : s.ctxHalt c n = s.noRow := if_pos hst

end Halt

section Image

variable {a : Nat} (hst : (s.ctx c).st = .halted)
include hst

/-- The image of a context written to host memory. -/
def imageWritten (s : State) (c a : Nat) (b : List Byte) : State :=
  let t : State := { s with host := mputs 0 s.host a b }
  State.settleHost (({ t with images := t.images ++ [⟨b, (t.ctx c).imaged⟩] } : State).modCtx c fun x => { x with st := .imaged })

theorem ctxImage_host : s.ctxImage c a true =
    (s.haul (s.imageWays c a (s.imageBytes c).length true)).map fun u => imageWritten u c a (s.imageBytes c) := by
  unfold State.ctxImage
  rw [if_neg (not_not.mpr hst)]
  rfl

theorem ctxImage_writes (h : s.haul (s.imageWays c a (s.imageBytes c).length true) = some u) :
    s.ctxImage c a true = some (imageWritten u c a (s.imageBytes c)) := by
  rw [ctxImage_host hst, h]
  rfl

theorem ctxImage_waits (h : s.haul (s.imageWays c a (s.imageBytes c).length true) = none) : s.ctxImage c a true = none := by
  rw [ctxImage_host hst, h]
  rfl

end Image

theorem ctxImage_noRow {a : Nat} {h : Bool} (hst : (s.ctx c).st ≠ .halted) : s.ctxImage c a h = some s.noRow := if_pos hst

theorem ctxContinue_resumes (hst : (s.ctx c).st = .halted ∨ (s.ctx c).st = .imaged)
    (hfree : ∀ k ∈ (s.ctx c).held, s.clusterTaken c k = false) : s.ctxContinue c =
      (((s.dropOn c (s.ctx c).held).resumeAging c).modCtx c fun y => { y with st := .running, clusters := y.held }).resumeInPlace c := by
  have hnone : ¬ (s.ctx c).held.any (s.clusterTaken c) = true := by
    rw [List.any_eq_true]
    rintro ⟨k, hk, hbad⟩
    rw [hfree k hk] at hbad
    cases hbad
  exact if_neg (not_or_intro (fun h => hst.elim h.1 h.2) hnone)

theorem ctxContinue_noRow (hst : (s.ctx c).st ≠ .halted ∧ (s.ctx c).st ≠ .imaged) : s.ctxContinue c = s.noRow := if_pos (.inl hst)

section Restore

variable {a : Nat} {h : Bool} {cl : List Nat} {root fa : Word}

theorem ctxRestore_noRow (hst : (s.ctx c).st ≠ .free) : s.ctxRestore c a h cl root fa = s.noRow := if_pos (.inr hst)

variable (hc : c < 32) (hst : (s.ctx c).st = .free)
include hc hst

theorem ctxRestore_badRegs (hbad : rootOk root = false ∨ faOk fa = false) : s.ctxRestore c a h cl root fa = s.refuse := by
  have hregs : (!(rootOk root && faOk fa)) = true := by
    rcases hbad with hbad | hbad <;> simp [hbad]
  unfold State.ctxRestore
  rw [if_neg (not_or_intro (Nat.not_le.mpr hc) (not_not.mpr hst)), if_pos hregs]

variable (hroot : rootOk root = true) (hfa : faOk fa = true)
include hroot hfa

theorem ctxRestore_refused {r : Nat}
    (hcheck : s.restoreCheck c (s.imageAt a (leNat (s.imageAt (a + 0x10) 8 h)) h) cl = .error r) :
    s.ctxRestore c a h cl root fa = s.notify (.restore c r) := by
  unfold State.ctxRestore
  rw [if_neg (not_or_intro (Nat.not_le.mpr hc) (not_not.mpr hst)), if_neg (by simp [hroot, hfa]), hcheck]

theorem ctxRestore_loads {y : Ctx} (hcheck : s.restoreCheck c (s.imageAt a (leNat (s.imageAt (a + 0x10) 8 h)) h) cl = .ok y) :
    ∃ z : Ctx, s.ctxRestore c a h cl root fa = (s.modCtx c fun _ => z) ∧ z.st = .resuming ∧ z.root = root ∧ z.fa = fa ∧
      z.fseq = 0 ∧ z.kernels = y.kernels ∧ z.colls = y.colls := by
  unfold State.ctxRestore
  rw [if_neg (not_or_intro (Nat.not_le.mpr hc) (not_not.mpr hst)), if_neg (by simp [hroot, hfa]), hcheck]
  exact ⟨_, rfl, rfl, rfl, rfl, rfl, rfl, rfl⟩

end Restore

theorem ctxDestroy_ends (hst : (s.ctx c).st = .created ∨ (s.ctx c).st = .runnable ∨ (s.ctx c).st = .preempted ∨ (s.ctx c).st = .halted ∨
    (s.ctx c).st = .imaged ∨ (s.ctx c).st = .faulted) : s.ctxDestroy c =
      State.settleHost ((((s.abortKernels c 3).dropCached c 0 (2 ^ 39)).dropCounters c).modCtx c fun x =>
        { x with st := .destroyed, wins := [], colls := [], colsets := [] }) := if_pos hst

theorem ctxDestroy_noRow (hst : (s.ctx c).st = .free ∨ (s.ctx c).st = .destroyed ∨ (s.ctx c).st = .running ∨ (s.ctx c).st = .halting ∨
    (s.ctx c).st = .resuming) : s.ctxDestroy c = s.noRow := by
  refine if_neg ?_
  rcases hst with h | h | h | h | h <;> simp [h]

/-! ### The end of a halt, of a restore and of a context (R402, R409, R412, R413) -/

theorem haltSequenceComplete_halts (hst : (s.ctx c).st = .halting) (hbanks : s.banksOf c = []) (hadds : s.addsDone c = true)
    (hgroups : ∀ g ∈ s.groupsOf c, g.2.2.st ≠ 1 ∧ g.2.2.st ≠ 6) (hsettled : s.haltSettled c = true) :
    exec (.haltSequenceComplete c) s =
      .next (((s.countersOut c).modCtx c fun x => { x with st := .halted, clusters := [] }).notify (.halt c 0 [])) := by
  have hover : ¬ ((s.groupsOf c).any fun g => g.2.2.st = 1 ∨ g.2.2.st = 6) = true := by
    rw [List.any_eq_true]
    rintro ⟨g, hg, hbad⟩
    exact (of_decide_eq_true hbad).elim (hgroups g hg).1 (hgroups g hg).2
  dsimp only [exec, execHaltSequenceComplete]
  rw [if_neg (by simp [hst, hbanks, hadds]), if_neg hover, if_neg (by simp [hsettled])]

theorem haltTimeout_undoes (hst : (s.ctx c).st = .halting) (hpast : (s.ctx c).haltTmo ≤ s.cycle) (hbanks : s.banksOf c ≠ []) :
    exec (.haltTimeout c) s = .next (((s.modCtx c fun y => { y with st := (s.ctx c).former }).haltUndone c).notify
      (.halt c 8 ((s.banksOf c).map coreOf).eraseDups)) := by
  dsimp only [exec, execHaltTimeout]
  rw [if_neg (by simp [hst, hbanks, hpast])]
  rfl

/-- The kernels and loaded entries of a restored context with their pages pinned again; none while one of them waits. -/
def repinnedAll (s : State) (c : Nat) : Option State :=
  ((s.kernelList c).foldlM (fun (t : State) e => t.reframe c e.1) s).bind fun t =>
    ((s.ctx c).colls.filter fun e => e.2.st != 0).foldlM (fun (t : State) e => t.recoll c e.1) t

theorem restoreLoadComplete_loaded (hst : (s.ctx c).st = .resuming) (h : repinnedAll s c = some t) :
    exec (.restoreLoadComplete c) s = .next ((t.modCtx c fun x => { x with st := .preempted }).notify (.restore c 0)) := by
  unfold repinnedAll at h
  dsimp only [exec, execRestoreLoadComplete]
  rw [if_neg (not_not.mpr hst), h]

theorem restoreLoadComplete_waits (hst : (s.ctx c).st = .resuming) (h : repinnedAll s c = none) :
    exec (.restoreLoadComplete c) s = .next s := by
  unfold repinnedAll at h
  dsimp only [exec, execRestoreLoadComplete]
  rw [if_neg (not_not.mpr hst), h]

theorem contextReleased_frees (hst : (s.ctx c).st = .destroyed) (hbanks : s.banksOf c = []) (hgroups : s.groupsOf c = [])
    (hadds : s.addsDone c = true) (hweirs : ∀ d < 4, ∀ w ∈ (s.die d).weir, w.ctx ≠ c) :
    exec (.contextReleased c) s = .next (s.modCtx c fun y => { Ctx.reset with cmds := y.cmds }) := by
  have hnone : ([0, 1, 2, 3].any fun d => (s.die d).weir.any fun w => w.ctx == c) = false := by
    rw [List.any_eq_false]
    intro d hd hbad
    obtain ⟨w, hw, heq⟩ := List.any_eq_true.mp hbad
    exact hweirs d (by simp only [List.mem_cons, List.not_mem_nil, or_false] at hd; omega) w hw (beq_iff_eq.mp heq)
  dsimp only [exec, execContextReleased]
  rw [hnone, if_neg (by simp [hst, hbanks, hgroups, hadds])]

/-! ### Dispositions (R16, R418, R420, R422) -/

theorem fdisp_ctx {seq : Nat} {h : FaultHeld} (hrec : s.recordAt (.ctx c) seq = some h) (resume : Bool) (f : Nat → FaultHeld → State → State) :
    s.fdisp (.ctx c) seq resume f = State.settleHost (f c h (s.unrecord (.ctx c) seq)) := by
  unfold State.fdisp
  rw [hrec]

theorem fdisp_dev {seq : Nat} {h : FaultHeld} (hrec : s.recordAt .dev seq = some h) (resume : Bool) (f : Nat → FaultHeld → State → State) :
    s.fdisp .dev seq resume f = if resume then s.unrecord .dev seq else s.refuse := by
  unfold State.fdisp
  rw [hrec]

theorem fdisp_none {a : Area} {seq : Nat} (hrec : s.recordAt a seq = none) (resume : Bool) (f : Nat → FaultHeld → State → State) :
    s.fdisp a seq resume f = s.refuse := by
  unfold State.fdisp
  rw [hrec]

/-- Settles O54: each step by the lemma of its form. That IMAGE waits for the bulk VC (log 104) and COLSET for an EVICTED page (log 45) are
the model's choices. -/
theorem contextStepsComplete : Obligations.ContextStepsComplete := by
  refine ⟨?colset, ?entries, ?contexts, ?records, ?missing, ?device⟩
  case colset =>
    intro s c e r hc he hst hunloaded hok hnew hctrs room u
    have heq := colset_eq hc he hst hunloaded hok hnew hctrs
    refine ⟨fun hroom hwait n fs t => ⟨fun h => ?_, fun ws h hws => ?_⟩, fun hfull => ?_⟩
    · rw [heq, if_neg (Nat.not_lt.mpr hroom), colsetGo_evicted hwait h]
    · rw [heq, if_neg (Nat.not_lt.mpr hroom), colsetGo_loads hwait h hws]
    · rw [heq, if_pos (Nat.not_le.mp hfull)]
  case entries =>
    intro s c e x
    refine ⟨colclr_unloads, colclr_refused, fun q hq => ⟨fun n d => chunkLineReceive_enters hq, fun n d m => chunkLineReceive_drops,
      fun n hst => ?_, fun n hst => ?_, fun f => releaseReport_ignored, fun r => finishReport_enters hq, failureNotice_fails hq⟩,
      sourceReadComplete_adds, fun hst => ⟨collectiveTimeout_halts hst, collectiveTimeout_fails hst, collectiveTimeout_early hst⟩⟩
    · have hentry : (releasedBy s c e q n).coll c e =
          { x with released := mset 0 x.released q (max (mget 0 x.released q) (n + 1)), since := s.cycle } := by
        rw [releasedBy, coll_modColl_same, if_pos hst]
      refine ⟨releasedBy s c e q n, releaseReport_enters hq (.inl hst) ?_, ?_, ?_, ?_, rfl⟩
      · exact (if_neg fun h => absurd (h.symm.trans hst) (by decide)).symm
      · rw [hentry, mget_mset_same]
      · rw [hentry]
      · rw [hentry]
    · have hrun : (s.coll c e).st ≠ 2 := fun h => absurd (h.symm.trans hst) (by decide)
      have hentry : (releasedBy s c e q n).coll c e = { x with since := s.cycle } := by
        rw [releasedBy, coll_modColl_same, if_neg hrun]
      exact ⟨releasedBy s c e q n, releaseReport_enters hq (.inr hst) (if_pos hst).symm, hentry, rfl⟩
  case contexts =>
    intro s c x halted
    refine ⟨fun hidle => ?taken, fun hbusy => ?queued, haltSequenceComplete_halts, haltTimeout_undoes,
      fun hst => ⟨fun v => restoreLoadComplete_loaded hst, restoreLoadComplete_waits hst⟩, contextReleased_frees, fun hidle => ?noRow⟩
    case taken =>
      have htake (k : CtxCmd) {u : State} (h : s.takeCmd c k = some u) : (Host.Outcome.next (s.command c k) : Out) = .next u :=
        congrArg _ (command_taken hidle h)
      refine ⟨fun hc hst hboot => ?_, fun hst hboot => ?_, fun hst hw => ?_, fun cl hst hfree => ?_, fun hst => ?_, fun cl hst hnone hfree => ?_,
        fun n hlo hhi => ⟨fun hst => ?_, fun hst => ?_⟩, fun a u hst => ?_, fun a hst hhaul => ?_, fun hst hfree => ?_,
        fun a h cl root fa hc hst hboot => ?restore, fun hst => ?_⟩
      · exact (congrArg _ (if_neg hboot)).trans (htake .create (congrArg some (ctxCreate_creates hc hst)))
      · exact (congrArg _ (if_neg hboot)).trans (htake .create (congrArg some (ctxCreate_noRow hst)))
      · exact htake .ready (congrArg some (ctxReady_runs hst hw))
      · exact htake (.place cl) (congrArg some (ctxPlace_places hst hfree))
      · exact htake .swapOut (congrArg some (ctxSwapOut_stops hst))
      · exact htake (.swapIn cl) (congrArg some (ctxSwapIn_places hst hnone hfree))
      · exact htake (.halt n) (congrArg some (ctxHalt_running hlo hhi hst))
      · exact htake (.halt n) (congrArg some (ctxHalt_preempted hlo hhi hst))
      · intro b hhaul
        exact htake (.image a true) (ctxImage_writes hst hhaul)
      · exact congrArg _ (command_kept hidle (k := .image a true) (ctxImage_waits hst hhaul))
      · exact htake .resume (congrArg some (ctxContinue_resumes hst hfree))
      case restore =>
        have hexec {u : State} (hu : s.ctxRestore c a h cl root fa = u) : exec (.restore c a h cl root fa) s = .next u :=
          (congrArg _ (if_neg hboot)).trans (htake (.restore a h cl root fa) (congrArg some hu))
        refine ⟨fun hbad => hexec (ctxRestore_badRegs hc hst hbad), fun hroot hfa => ⟨fun r hr => ?_, fun y hy => ?_⟩⟩
        · exact hexec (ctxRestore_refused hc hst hroot hfa hr)
        · obtain ⟨z, hz, hkept⟩ := ctxRestore_loads hc hst hroot hfa hy
          exact ⟨z, hexec hz, hkept⟩
      · exact htake .destroy (congrArg some (ctxDestroy_ends hst))
    case queued =>
      have hqueue (k : CtxCmd) : (Host.Outcome.next (s.command c k) : Out) = .next (s.modCtx c fun y => { y with cmds := y.cmds ++ [k] }) :=
        congrArg _ (command_queued k hbusy)
      exact ⟨hqueue .ready, hqueue .swapOut, hqueue .resume, hqueue .destroy, fun cl => ⟨hqueue (.place cl), hqueue (.swapIn cl)⟩,
        fun n => hqueue (.halt n), fun a h => hqueue (.image a h)⟩
    case noRow =>
      have htake (k : CtxCmd) (h : s.takeCmd c k = some s.noRow) : (Host.Outcome.next (s.command c k) : Out) = .next s.noRow :=
        congrArg _ (command_taken hidle h)
      refine ⟨fun hst => ?_, fun cl hst => ?_, fun hst => ?_, fun cl hst => ?_, fun n hst => ?_, fun a h hst => ?_, fun hst => ?_,
        fun a h cl root fa hst hboot => ?_, fun hst => ?_⟩
      · exact htake .ready (congrArg some (ctxReady_noRow hst))
      · exact htake (.place cl) (congrArg some (ctxPlace_noRow hst))
      · exact htake .swapOut (congrArg some (ctxSwapOut_noRow hst))
      · exact htake (.swapIn cl) (congrArg some (ctxSwapIn_noRow hst))
      · exact htake (.halt n) (congrArg some (ctxHalt_noRow hst))
      · exact htake (.image a h) (ctxImage_noRow hst)
      · exact htake .resume (congrArg some (ctxContinue_noRow hst))
      · exact (congrArg _ (if_neg hboot)).trans (htake (.restore a h cl root fa) (congrArg some (ctxRestore_noRow hst)))
      · exact htake .destroy (congrArg some (ctxDestroy_noRow hst))
  case records =>
    intro s c seq h hrec t
    have hdisp (resume : Bool) (f : Nat → FaultHeld → State → State) :
        (Host.Outcome.next (s.fdisp (.ctx c) seq resume f) : Out) = .next (State.settleHost (f c h t)) := congrArg _ (fdisp_ctx hrec resume f)
    refine ⟨hdisp true fun c h s => s.dispose c h false, hdisp false fun c h s => s.dispose c h true,
      hdisp false fun c h s => s.killKernel c h, hdisp false fun c _ s => s.terminateCtx c, ?_⟩
    exact congrArg Ctx.faults (State.modCtx_ctx_same s c fun x => { x with faults := x.faults.filter (·.recd.seq != seq) })
  case missing =>
    intro s a seq hrec
    have hdisp (resume : Bool) (f : Nat → FaultHeld → State → State) :
        (Host.Outcome.next (s.fdisp a seq resume f) : Out) = .next s.refuse := congrArg _ (fdisp_none hrec resume f)
    exact ⟨hdisp true fun c h s => s.dispose c h false, hdisp false fun c h s => s.dispose c h true,
      hdisp false fun c h s => s.killKernel c h, hdisp false fun c _ s => s.terminateCtx c⟩
  case device =>
    intro s seq h hrec
    exact ⟨congrArg Host.Outcome.next (fdisp_dev hrec true fun c h s => s.dispose c h false),
      congrArg Host.Outcome.next (fdisp_dev hrec false fun c h s => s.dispose c h true)⟩

end Sys2Proof.Machine
end

section
/-! PROOFS. The pages of a context: entries, invalidation, eviction, return, migration, splitting and dirty tracking (R326 to R330, R342 to
R349, R365). -/

namespace Sys2Proof.Machine

open Sys2Proof.Claims

variable {s t u : State} {c va : Nat} {l : Leaf}

/-! ### What changes of frames and caches leave (R327, R329, R330, R348) -/

/-- What a change of a page's frames leaves, beside its contents: the focus bank, the contexts and the cores' caches. -/
def State.pageView (s : State) : Bank × Map Ctx × Map Core := (s.bank, s.ctxs, s.cores)

theorem pageView_iff : t.pageView = s.pageView ↔ t.bank = s.bank ∧ t.ctxs = s.ctxs ∧ t.cores = s.cores := by simp [State.pageView]

theorem resize_pageView (s : State) (blk n : Nat) (raw : Bool) (p : BitVec 8) (rsv : Nat) : (s.resize blk n raw p rsv).pageView = s.pageView := by
  unfold State.resize
  cases h : s.regrant blk n raw p rsv with
  | none => rfl
  | some t =>
    obtain ⟨x, -, rfl⟩ := Option.map_eq_some_iff.mp h
    rfl

theorem freeFrames_pageView (s : State) (frame n : Nat) : (s.freeFrames frame n).pageView = s.pageView := by
  unfold State.freeFrames
  exact foldl_keeps State.pageView (fun s b => resize_pageView s b 0 false 0 0) _ s

theorem setFrames_keeps {α : Type} {p : State → α} (hp : ∀ (s : State) (m : Map Frame), p { s with frames := m } = p s) (s : State)
    (frame n : Nat) (f : Nat → Frame) : p (s.setFrames frame n f) = p s := foldl_keeps p (fun s _ => hp s _) _ s

theorem pokePte_bank (s : State) (c a : Nat) (w : Word) : (s.pokePte c a w).bank = s.bank := by
  unfold State.pokePte
  split
  · rfl
  · exact (faultView_iff.mp (poke_faultView s a _)).2.1

/-- A write of a table entry by the device leaves the commands under way for pages. -/
theorem pokePte_pageOps (s : State) (c a : Nat) (w : Word) : ((s.pokePte c a w).ctx c).pageOps = (s.ctx c).pageOps := by
  unfold State.pokePte
  split
  · rw [State.modCtx_ctx_same]
  · exact congrArg (fun m : Map Ctx => (mget Ctx.reset m c).pageOps) (faultView_iff.mp (poke_faultView s a _)).2.2.1

/-- A table with a function over its values that leaves the default. -/
theorem mget_map {α : Type} {d : α} {f : α → α} (hf : f d = d) (m : Map α) (k : Nat) :
    mget d (m.map fun x => (x.1, f x.2)) k = f (mget d m k) := by
  induction m with
  | nil => exact hf.symm
  | cons x m ih =>
    obtain ⟨a, y⟩ := x
    by_cases h : a = k
    · simp [mget, h]
    · simp [mget, h, ih]

theorem core_dropItc (s : State) (c vpn n k : Nat) : (s.dropItc c vpn n).core k =
    { s.core k with itc := (s.core k).itc.filter fun e => !(itcKey c vpn ≤ e.1 && e.1 < itcKey c vpn + n) } :=
  mget_map (f := fun x : Core => { x with itc := x.itc.filter fun e => !(itcKey c vpn ≤ e.1 && e.1 < itcKey c vpn + n) }) rfl s.cores k

theorem core_dropEfc (s : State) (c vpn n k : Nat) : (s.dropEfc c vpn n).core k =
    { s.core k with efc := (s.core k).efc.filter fun e => !(e.ctx == c && e.ent.touches vpn n) } :=
  mget_map (f := fun x : Core => { x with efc := x.efc.filter fun e => !(e.ctx == c && e.ent.touches vpn n) }) rfl s.cores k

theorem dropCached_uncached (s : State) (c vpn n : Nat) : uncached (s.dropCached c vpn n) c vpn n vpn n := by
  intro k
  unfold State.dropCached
  rw [core_dropEfc, core_dropItc]
  refine ⟨fun e he => ?_, fun e he => ?_⟩
  · rintro ⟨hlo, hhi⟩
    have hkept := (List.mem_filter.mp he).2
    simp [hlo, hhi] at hkept
  · rintro ⟨hctx, htouch⟩
    have hkept := (List.mem_filter.mp he).2
    simp [hctx, htouch] at hkept

theorem uncached_of_cores {first count vpn n : Nat} (h : uncached s c first count vpn n) (ht : t.cores = s.cores) :
    uncached t c first count vpn n := by
  intro k
  have hk : t.core k = s.core k := congrArg (fun m => mget Core.reset m k) ht
  rw [hk]
  exact h k

/-! ### Entries written by system software (R327, R329) -/

section Write

variable {entry : Word} {a : Nat}

theorem pteWrite_busy (hl : (s.asWritten c).leafOf c va = some l) (hbusy : (s.asWritten c).pageBusy c l = true) :
    exec (.pteWrite c va entry) s = .next s.refuse := by
  dsimp only [exec, execPteWrite]
  rw [hl]
  exact congrArg Host.Outcome.next (if_pos hbusy)

section Idle

variable (hl : (s.asWritten c).leafOf c va = some l) (hidle : (s.asWritten c).pageBusy c l = false)
include hl hidle

theorem pteWrite_over (hv : (pteOf entry).v = true) : exec (.pteWrite c va entry) s = .next s.noRow := by
  dsimp only [exec, execPteWrite]
  rw [hl]
  dsimp only
  rw [if_neg (Bool.eq_false_iff.mp hidle), if_pos hv]

theorem pteWrite_clears (hv : (pteOf entry).v = false) :
    exec (.pteWrite c va entry) s = .next (if (s.asWritten c).pinned c l then s.refuse else s.softPte c l.at_ entry) := by
  dsimp only [exec, execPteWrite]
  rw [hl]
  dsimp only
  rw [if_neg (Bool.eq_false_iff.mp hidle), if_neg (Bool.eq_false_iff.mp hv)]

end Idle

section Empty

variable (hl : (s.asWritten c).leafOf c va = none)
include hl

theorem pteWrite_ballooned (hv : (pteOf entry).v = false) (ha : (s.asWritten c).balloonedAt c va = some a) :
    exec (.pteWrite c va entry) s = .next (s.softPte c a entry) := by
  dsimp only [exec, execPteWrite]
  rw [hl]
  dsimp only
  rw [if_pos (by simp [hv]), ha]

theorem pteWrite_leaf (hv : (pteOf entry).v = true) (ha : (s.asWritten c).pteSlot c va ((pteOf entry).size == 1) = some a)
    (hleaf : (pteOf entry).large = true ∧ ptrFrame ((s.asWritten c).pteWord c a) = none ∨ (pteOf entry).small = true)
    (hst : (pteOf entry).st = 0 ∨ (pteOf entry).st = 2)
    (hin : s.exposed (pteOf entry).frame (if (pteOf entry).size = 1 then 2 ^ 13 else 1) = true) :
    exec (.pteWrite c va entry) s = .next (s.newLeaf c va a entry) := by
  have hkind : ¬ (!((pteOf entry).large || (pteOf entry).small)) = true := by
    rcases hleaf with ⟨h, -⟩ | h <;> simp [h]
  have hrow : ¬ ((pteOf entry).size = 1 ∧ (ptrFrame ((s.asWritten c).pteWord c a)).isSome = true ∨ (pteOf entry).st = 1 ∨ (pteOf entry).st = 3) := by
    rintro (⟨hsize, hptr⟩ | h | h)
    · rcases hleaf with ⟨-, hnone⟩ | hsmall
      · rw [hnone] at hptr
        cases hptr
      · simp only [Pte.small, Bool.and_eq_true, beq_iff_eq] at hsmall
        exact absurd (hsmall.1.2.symm.trans hsize) (by decide)
    · omega
    · omega
  dsimp only [exec, execPteWrite]
  rw [hl]
  dsimp only
  rw [if_neg (by simp [hv]), ha]
  dsimp only
  rw [if_neg hkind, if_neg hrow, if_neg (by rw [hin]; decide)]

end Empty

/-- Walks see the word that stood before a change by system software (R327). -/
theorem softPte_pteWord (h : s.pteWord c a ≠ entry) : (s.softPte c a entry).pteWord c a = s.pteWord c a := by
  have hctxs : (s.softPte c a entry).ctxs = (s.staled c a entry).ctxs := (faultView_iff.mp (poke_faultView _ a _)).2.2.1
  have hctx : (s.softPte c a entry).ctx c = (s.staled c a entry).ctx c := congrArg (fun m => mget Ctx.reset m c) hctxs
  have hstale : mget none ((s.staled c a entry).ctx c).stale a = some (s.pteWord c a) := by
    unfold State.staled
    rw [State.modCtx_ctx_same]
    exact (mget_mset_same ..).trans (if_neg h)
  unfold State.pteWord at hstale ⊢
  rw [hctx, hstale]
  rfl

theorem newLeaf_pteWord (hst : (pteOf entry).st = 0) (h : s.pteWord c a ≠ entry) : (s.newLeaf c va a entry).pteWord c a = s.pteWord c a := by
  unfold State.newLeaf
  dsimp only
  rw [if_neg (by omega), setFrames_keeps (p := fun t => t.pteWord c a) (fun _ _ => rfl), softPte_pteWord h]

end Write

/-! ### The invalidation command (R327) -/

/-- The entry at an address is seen as memory holds it. -/
def Seen (t : State) (c a : Nat) : Prop := mget none (t.ctx c).stale a = none

/-- Walks see the entry at an address, if there is one, as memory holds it. -/
def State.unstaleAt (s : State) (c : Nat) : Option Nat → State
  | some a => s.modCtx c fun x => { x with stale := mset none x.stale a none }
  | none => s

theorem unstaleAt_seen {a : Nat} {o : Option Nat} (h : Seen s c a ∨ o = some a) : Seen (s.unstaleAt c o) c a := by
  cases o with
  | none => exact h.resolve_right (by simp)
  | some b =>
    unfold Seen State.unstaleAt
    rw [State.modCtx_ctx_same, mget_mset]
    rcases h with h | h
    · rw [h, ite_self]
    · exact if_pos (Option.some.inj h).symm

theorem pteWord_seen {a : Nat} (h : Seen s c a) : s.pteWord c a = s.wordAt a 8 := by
  unfold State.pteWord
  rw [h]
  rfl

theorem unstaleAt_rootSlot (o : Option Nat) : (s.unstaleAt c o).rootSlot c va = s.rootSlot c va := by
  cases o with
  | none => rfl
  | some a =>
    unfold State.rootSlot State.unstaleAt
    rw [State.modCtx_ctx_same]

/-- What walks see of entries that are seen already stays. -/
theorem unstaleAt_pteWord {a : Nat} {o : Option Nat} (h : Seen s c a) : (s.unstaleAt c o).pteWord c a = s.pteWord c a := by
  rw [pteWord_seen h, pteWord_seen (unstaleAt_seen (.inl h))]
  cases o with
  | none => rfl
  | some b => rfl

theorem pteSlot_large (s : State) (c va : Nat) :
    s.pteSlot c va true = (ptrFrame (s.pteWord c (s.rootSlot c va))).map fun f2 => f2 * 65536 + 8 * bitsOf va 41 29 := by
  unfold State.pteSlot State.rootSlot
  cases ptrFrame (s.pteWord c (bitsOf (s.ctx c).root.toNat 47 16 * 65536 + 8 * bitsOf va 54 42)) with
  | none => rfl
  | some f2 => rfl

theorem pteSlot_small (s : State) (c va : Nat) : s.pteSlot c va false = (s.pteSlot c va true).bind fun a2 =>
    (ptrFrame (s.pteWord c a2)).map fun f3 => f3 * 65536 + 8 * bitsOf va 28 16 := by
  unfold State.pteSlot
  cases ptrFrame (s.pteWord c (bitsOf (s.ctx c).root.toNat 47 16 * 65536 + 8 * bitsOf va 54 42)) with
  | none => rfl
  | some f2 => rfl

section Slots

variable {o : Option Nat} (h : Seen s c (s.rootSlot c va))
include h

theorem unstaleAt_pteSlot_large : (s.unstaleAt c o).pteSlot c va true = s.pteSlot c va true := by
  rw [pteSlot_large, pteSlot_large, unstaleAt_rootSlot, unstaleAt_pteWord h]

theorem unstaleAt_pteSlot_small (h2 : ∀ a, s.pteSlot c va true = some a → Seen s c a) :
    (s.unstaleAt c o).pteSlot c va false = s.pteSlot c va false := by
  rw [pteSlot_small, pteSlot_small, unstaleAt_pteSlot_large h]
  cases ha : s.pteSlot c va true with
  | none => rfl
  | some a =>
    dsimp only [Option.bind_some]
    rw [unstaleAt_pteWord (h2 a ha)]

end Slots

/-- The root's entry is seen. -/
def unstaleRoot (s : State) (c va : Nat) : State := s.unstaleAt c (some (s.rootSlot c va))

/-- The entries of levels 1 and 2 are seen. -/
def unstaleLarge (s : State) (c va : Nat) : State := (unstaleRoot s c va).unstaleAt c ((unstaleRoot s c va).pteSlot c va true)

theorem unstale_eq (s : State) (c va : Nat) : s.unstale c va = (unstaleLarge s c va).unstaleAt c ((unstaleLarge s c va).pteSlot c va false) := rfl

theorem unstaleRoot_seen (s : State) (c va : Nat) : Seen (unstaleRoot s c va) c ((unstaleRoot s c va).rootSlot c va) := by
  unfold unstaleRoot
  rw [unstaleAt_rootSlot]
  exact unstaleAt_seen (.inr rfl)

theorem unstaleLarge_seen (s : State) (c va : Nat) : Seen (unstaleLarge s c va) c ((unstaleLarge s c va).rootSlot c va) := by
  unfold unstaleLarge
  rw [unstaleAt_rootSlot]
  exact unstaleAt_seen (.inl (unstaleRoot_seen s c va))

theorem unstaleLarge_seen_large {a : Nat} (h : (unstaleLarge s c va).pteSlot c va true = some a) : Seen (unstaleLarge s c va) c a := by
  unfold unstaleLarge at h ⊢
  rw [unstaleAt_pteSlot_large (unstaleRoot_seen s c va)] at h
  exact unstaleAt_seen (.inr h)

/-- Walks see the three entries of a page as memory holds them (R327). -/
theorem unstale_seen_root (s : State) (c va : Nat) : Seen (s.unstale c va) c (s.rootSlot c va) := by
  have h := unstaleLarge_seen s c va
  rw [unstaleLarge, unstaleAt_rootSlot, unstaleRoot, unstaleAt_rootSlot] at h
  exact unstaleAt_seen (.inl h)

theorem unstale_seen {large : Bool} {a : Nat} (h : (s.unstale c va).pteSlot c va large = some a) : Seen (s.unstale c va) c a := by
  rw [unstale_eq] at h ⊢
  cases large with
  | true =>
    rw [unstaleAt_pteSlot_large (unstaleLarge_seen s c va)] at h
    exact unstaleAt_seen (.inl (unstaleLarge_seen_large h))
  | false =>
    rw [unstaleAt_pteSlot_small (unstaleLarge_seen s c va) fun a => unstaleLarge_seen_large] at h
    exact unstaleAt_seen (.inr h)

/-- The first of the pages that an invalidation command concerns. -/
def pagesFrom (s : State) (c va : Nat) : Nat := va / 65536 / s.pagesUnder c va * s.pagesUnder c va

/-- The context after its caches have dropped some pages and its frame arrays hold what the table says. -/
def refreshed (s : State) (c lo n : Nat) : State := (s.dropCached c lo n).modCtx c fun x => x.fixFrames fun fs =>
  fs.filterMap fun e => if e.touches lo n then (s.dropCached c lo n).refreshEntry c e else some e

/-- A frame that no page is mapped to any more is FREE. -/
def frameFreed (t : State) (f : Nat × Frame) : State := (t.freeFrames f.1 1).setFrames f.1 1 fun _ => Frame.none

theorem invalidationCommand_frees (s : State) (c va : Nat) : ∃ gone : Map Frame, exec (.invalidationCommand c va) s =
    .next (State.settleHost (gone.foldl frameFreed (refreshed (s.unstale c va) c (pagesFrom s c va) (s.pagesUnder c va)))) := ⟨_, rfl⟩

theorem frameFreed_pageView (t : State) (f : Nat × Frame) : (frameFreed t f).pageView = t.pageView :=
  (setFrames_keeps (fun _ _ => rfl) _ _ _ _).trans (freeFrames_pageView t f.1 1)

theorem refreshed_stale (s : State) (c lo n : Nat) : ((refreshed s c lo n).ctx c).stale = (s.ctx c).stale := by
  unfold refreshed
  rw [State.modCtx_ctx_same]
  rfl

theorem invalidationCommand_drops (s : State) (c va : Nat) : ∃ t : State, exec (.invalidationCommand c va) s = .next (State.settleHost t) ∧
    uncached t c (pagesFrom s c va) (s.pagesUnder c va) (pagesFrom s c va) (s.pagesUnder c va) ∧ Seen t c (s.rootSlot c va) ∧
    ∀ large a, (s.unstale c va).pteSlot c va large = some a → Seen t c a := by
  obtain ⟨gone, hexec⟩ := invalidationCommand_frees s c va
  obtain ⟨-, hctxs, hcores⟩ := pageView_iff.mp
    (foldl_keeps State.pageView frameFreed_pageView gone (refreshed (s.unstale c va) c (pagesFrom s c va) (s.pagesUnder c va)))
  have hseen {a : Nat} (h : Seen (s.unstale c va) c a) :
      Seen (gone.foldl frameFreed (refreshed (s.unstale c va) c (pagesFrom s c va) (s.pagesUnder c va))) c a := by
    unfold Seen State.ctx at h ⊢
    rw [hctxs]
    exact (congrArg (fun m => mget none m a) (refreshed_stale ..)).trans h
  exact ⟨_, hexec, uncached_of_cores (dropCached_uncached (s.unstale c va) c _ _) hcores, hseen (unstale_seen_root s c va),
    fun large a h => hseen (unstale_seen h)⟩

/-! ### Eviction and return (R329, R365, R375) -/

section Evict

variable {dest : EvictSlot} (hl : s.leafOf c va = some l)

/-- What makes a page evictable, taken apart. -/
theorem evictable_iff : evictable s c l dest = true ↔ s.pageBusy c l = false ∧ (l.pte.st = 0 ∨ l.pte.st = 2) ∧
    ¬ (l.n ≠ 1 ∨ s.pinned c l = true ∨ s.stagedIn l.frame 1 = true ∨ 2 ^ 32 ≤ dest.slot ∨ 2 ^ 64 < dest.host + 65536) := by
  unfold evictable
  simp only [Bool.and_eq_true, Bool.or_eq_true, beq_iff_eq, Bool.not_eq_true', decide_eq_true_eq, not_or, not_not, Nat.not_le, Nat.not_lt,
    Bool.not_eq_true]
  tauto

include hl

theorem pageEvict_eq (h : evictable s c l dest = true) : exec (.pageEvict c va dest) s = .next (match broughtOut s l.frame with
    | none => s.refuse
    | some t => State.settleHost (match t.leafOf c va with
      | some l => t.evictTo c dest.slot dest.host l
      | none => t)) := by
  obtain ⟨hidle, hst, hmay⟩ := evictable_iff.mp h
  dsimp only [exec, execPageEvict]
  rw [hl]
  dsimp only
  rw [if_neg (Bool.eq_false_iff.mp hidle), if_neg (fun h => hst.elim h.1 h.2)]
  exact congrArg Host.Outcome.next (if_neg hmay)

theorem pageEvict_stays (h : evictable s c l dest = true) (hout : broughtOut s l.frame = none) :
    exec (.pageEvict c va dest) s = .next s.refuse := by
  rw [pageEvict_eq hl h, hout]

theorem pageEvict_refused (h : evictable s c l dest = false) (hrow : l.pte.st = 0 ∨ l.pte.st = 2 ∨ s.pageBusy c l = true) :
    exec (.pageEvict c va dest) s = .next s.refuse := by
  dsimp only [exec, execPageEvict]
  rw [hl]
  dsimp only
  by_cases hbusy : s.pageBusy c l = true
  · rw [if_pos hbusy]
  · have hst : l.pte.st = 0 ∨ l.pte.st = 2 := (or_assoc.mpr hrow).resolve_right hbusy
    have hmay := mt (fun hmay => evictable_iff.mpr ⟨Bool.eq_false_iff.mpr hbusy, hst, hmay⟩) (Bool.eq_false_iff.mp h)
    rw [if_neg hbusy, if_neg (fun h => hst.elim h.1 h.2), if_pos (not_not.mp hmay)]

end Evict

theorem reframed_slot {slot : Nat} (h : slot < 2 ^ 32) (w : Word) : reframed w slot = BitVec.ofNat 64 (w.toNat % 2 ^ 16 + slot * 2 ^ 16) := by
  unfold reframed
  rw [Nat.mod_eq_of_lt h]

theorem pageEvict_evicts {dest : EvictSlot} {l' : Leaf} (hl : s.leafOf c va = some l) (h : evictable s c l dest = true)
    (hout : broughtOut s l.frame = some t) (hl' : t.leafOf c va = some l') : exec (.pageEvict c va dest) s = .next (State.settleHost
      ((frameGone { t.toHost l'.frame dest.host with evicted := mset none t.evicted dest.slot (some (Claims.slotOf t l'.frame dest.host)) } c l'
        l'.frame).putPte c l' (pteState (reframed l'.w dest.slot) 1))) := by
  have hslot : dest.slot < 2 ^ 32 := by
    obtain ⟨-, -, hmay⟩ := evictable_iff.mp h
    omega
  rw [pageEvict_eq hl h, hout]
  dsimp only
  rw [hl', reframed_slot hslot]
  rfl

section Return

variable {frame : Nat} (hl : s.leafOf c va = some l) (hidle : s.pageBusy c l = false) (hn : l.n = 1) (hst : l.pte.st = 1)
  (hin : s.exposed frame 1 = true)
  (hhaul : ((s.freeFrames frame 1).setFrames frame 1 fun _ => ownFrame c l).haul
    (((mget none s.evicted l.pte.frame).getD ⟨0, [], []⟩).held.map fun i => (sheepdog, s.blockHome frame i)) = some u)
include hl hidle hn hst hin hhaul

theorem pageReturn_eq : exec (.pageReturn c va frame) s = .next (
    match u.fillFrame .bank frame (s.hostCells ((mget none s.evicted l.pte.frame).getD ⟨0, [], []⟩)) with
    | none => s.notify (.refused cOUT_OF_SPACE 0)
    | some t => State.settleHost ((({ t with evicted := mset none t.evicted l.pte.frame none } : State).putPte c l
        (pteState (reframed l.w frame) 0)).winsReturn c l.vpn frame l.pte)) := by
  unfold ownFrame at hhaul
  dsimp only [exec, execPageReturn]
  rw [hl]
  dsimp only
  rw [if_neg (Bool.eq_false_iff.mp hidle), if_neg (not_not.mpr hst), if_neg (by simp [hn, hin]), hhaul]
  rfl

theorem pageReturn_returns
    (hfill : u.fillFrame .bank frame (s.hostCells ((mget none s.evicted l.pte.frame).getD ⟨0, [], []⟩)) = some t) :
    exec (.pageReturn c va frame) s = .next (State.settleHost
      ((({ t with evicted := mset none t.evicted l.pte.frame none } : State).putPte c l (pteState (reframed l.w frame) 0)).winsReturn c l.vpn
        frame l.pte)) := by
  rw [pageReturn_eq hl hidle hn hst hin hhaul, hfill]

theorem pageReturn_refused
    (hfill : u.fillFrame .bank frame (s.hostCells ((mget none s.evicted l.pte.frame).getD ⟨0, [], []⟩)) = none) :
    exec (.pageReturn c va frame) s = .next (s.notify (.refused cOUT_OF_SPACE 0)) := by
  rw [pageReturn_eq hl hidle hn hst hin hhaul, hfill]

end Return

/-! ### Migration (R342, R343) -/

section Migrate

variable {frame : Nat}

/-- What makes a page movable, taken apart. -/
theorem movable_iff : movable s c l frame = true ↔ s.pageBusy c l = false ∧ l.pte.st = 0 ∧
    ¬ (l.n ≠ 1 ∨ s.stagedIn l.frame 1 = true ∨ (!s.exposed frame 1) = true) := by
  unfold movable
  simp only [Bool.and_eq_true, beq_iff_eq, Bool.not_eq_true', not_or, not_not, Bool.not_eq_true, Bool.not_eq_false]
  tauto

theorem migrate_marks (hl : s.leafOf c va = some l) (h : movable s c l frame = true) : exec (.migrate c va frame) s = .next
    ((((s.putPte c l (pteWp l.w true)).modEntries c l.vpn 1 fun e => { e with wp := true }).frameWp l.frame 1 true).modCtx c fun x =>
      { x with pageOps := x.pageOps ++ [⟨l.vpn * 65536, false, frame, 0, none, none, none⟩] }) := by
  obtain ⟨hidle, hst, hmay⟩ := movable_iff.mp h
  dsimp only [exec, execMigrate]
  rw [hl]
  dsimp only
  rw [if_neg (Bool.eq_false_iff.mp hidle), if_neg (not_not.mpr hst), if_neg hmay]

theorem migrate_refused (hl : s.leafOf c va = some l) (h : movable s c l frame = false) (hrow : l.pte.st = 0 ∨ s.pageBusy c l = true) :
    exec (.migrate c va frame) s = .next s.refuse := by
  dsimp only [exec, execMigrate]
  rw [hl]
  dsimp only
  by_cases hbusy : s.pageBusy c l = true
  · rw [if_pos hbusy]
  · have hst : l.pte.st = 0 := hrow.resolve_right hbusy
    have hmay := mt (fun hmay => movable_iff.mpr ⟨Bool.eq_false_iff.mpr hbusy, hst, hmay⟩) (Bool.eq_false_iff.mp h)
    rw [if_neg hbusy, if_neg (not_not.mpr hst), if_pos (not_not.mp hmay)]

end Migrate

section Move

variable {p : PageOp} (hp : s.pageOp c (va / 65536 * 65536) = some p) (hl : s.leafOf c (va / 65536 * 65536) = some l) (hsplit : p.split = false)
include hp hl hsplit

theorem migrationCopyComplete_repoints (hstage : p.stage = 0)
    (hwts : s.wts.any (fun w => !w.arrived && w.ws.any fun x => x.1 / 65536 == l.frame) = false)
    (hhaul : ((s.freeFrames p.target 1).setFrames p.target 1 fun _ => s.frameOf (l.frame * 65536)).haul
      ((s.heldBlocks l.frame).map fun i => (s.blockHome l.frame i, s.blockHome p.target i)) = some u)
    (hfill : u.fillFrame .reserve p.target (s.frameCells l.frame) = some t) :
    exec (.migrationCopyComplete c va) s = .next (State.settleHost
      ((((((t.putPte c l (pteWp (reframed l.w p.target) false)).modCtx c fun x => x.mapFrames fun e =>
        if e.touches l.vpn 1 && e.pages == 1 then { e with frame := p.target, wp := false } else e).follow l.frame p.target).rehome).dropFrames
        l.frame 1).modCtx c fun x => { x with pageOps := x.pageOps.map fun q =>
          if q.va = va / 65536 * 65536 then { q with stage := 1, target := l.frame } else q })) := by
  dsimp only [exec, execMigrationCopyComplete]
  rw [hp, hl]
  dsimp only
  rw [if_neg (not_or_intro (Bool.eq_false_iff.mp hsplit) (not_not.mpr hstage)), if_neg (Bool.eq_false_iff.mp hwts), hhaul]
  dsimp only
  rw [hfill]
  rfl

theorem migrationInvalidateComplete_frees (hstage : p.stage = 1) : exec (.migrationInvalidateComplete c va) s = .next (State.settleHost (opOver
    (((((((s.dropCached c (va / 65536 * 65536 / 65536) 1).dropFrames p.target 1).follow p.target l.frame).rehome).freeFrames p.target 1).setFrames
      p.target 1 fun _ => Frame.none).frameWp l.frame 1 false) c (va / 65536 * 65536))) := by
  dsimp only [exec, execMigrationInvalidateComplete]
  rw [hp, hl]
  dsimp only
  rw [if_neg (not_or_intro (Bool.eq_false_iff.mp hsplit) (not_not.mpr hstage))]
  rfl

end Move

theorem migrationCancel_releases (hl : s.leafOf c (va / 65536 * 65536) = some l) (hst : l.pte.st = 0) (hwp : l.pte.wp = true)
    (hsplit : (s.ctx c).pageOps.any (fun p => p.split && p.va == va / 65536 * 65536 / 2 ^ 29 * 2 ^ 29) = false) :
    exec (.migrationCancel c va) s = .next (State.settleHost (opOver
      (((s.putPte c l (pteWp l.w false)).modEntries c l.vpn l.n fun e => { e with wp := false }).frameWp l.frame l.n false) c
        (va / 65536 * 65536))) := by
  dsimp only [exec, execMigrationCancel]
  rw [hl]
  dsimp only
  rw [hsplit, if_neg (by simp [hst, hwp])]
  rfl

/-! ### Splitting (R344) -/

theorem split_begins {table : Nat} {r w wp : Option Bool} (hl : s.leafOf c va = some l) (hn : l.n ≠ 1) (hst : l.pte.st = 0)
    (hidle : s.pageBusy c l = false) (hstaged : s.stagedIn l.frame l.n = false) (hin : s.exposed table 1 = true)
    (hread : l.pte.r = false ∨ r.getD l.pte.r = true ∨ s.regionNeeds c l false = false)
    (hwrite : l.pte.w = false ∨ w.getD l.pte.w = true ∨ s.regionNeeds c l true = false) :
    exec (.split c va table r w wp) s = .next ((s.putPte c l (pteState l.w 3)).modCtx c fun x =>
      { x with pageOps := x.pageOps ++ [⟨l.vpn * 65536, true, table, 0, r, w, wp⟩] }) := by
  have hloses {a b n : Bool} (h : a = false ∨ b = true ∨ n = false) : ¬ (a && !b && n) = true := by
    rcases h with h | h | h <;> simp [h]
  have hmay : ¬ (s.stagedIn l.frame l.n = true ∨ (!s.exposed table 1) = true ∨
      (l.pte.r && !r.getD l.pte.r && s.regionNeeds c l false) = true ∨ (l.pte.w && !w.getD l.pte.w && s.regionNeeds c l true) = true) := by
    rw [hstaged, hin]
    simp only [Bool.false_eq_true, Bool.not_true, false_or, not_or]
    exact ⟨hloses hread, hloses hwrite⟩
  dsimp only [exec, execSplit]
  rw [hl]
  dsimp only
  rw [if_neg (Bool.eq_false_iff.mp hidle), if_neg (by simp [hst, hn]), if_neg hmay]

/-- The caches after every entry of a split page has been dropped, and the far-cache lines of its frames. -/
def splitDropped (s : State) (c page : Nat) : State :=
  [0, 1, 2, 3].foldl (fun t d => t.dropFar d fun k _ =>
    ((s.frames.filter fun f => f.2.ctx == c && f.2.va / 2 ^ 29 * 2 ^ 29 == page).map (·.1)).contains (k / 1024))
    (s.dropCached c (page / 65536) (2 ^ 13))

section SplitComplete

variable {p : PageOp} (hp : ((s.ctx c).pageOps.find? fun q => q.va == va / 2 ^ 29 * 2 ^ 29 && q.split) = some p)
include hp

theorem splitComplete_updates (hstage : p.stage = 0) (hl : s.leafOf c (va / 2 ^ 29 * 2 ^ 29) = some l) :
    exec (.splitComplete c va) s = .next (s.splitGo c l p) := by
  dsimp only [exec, execSplitComplete]
  rw [hp]
  dsimp only
  rw [if_pos hstage, hl]

/-- The next completion ends the split: the caches have dropped every entry of the page. -/
theorem splitComplete_ends (hstage : p.stage ≠ 0) : ∃ t : State, exec (.splitComplete c va) s = .next (t.modCtx c fun x =>
      { x with pageOps := x.pageOps.filter fun q => !(q.va == va / 2 ^ 29 * 2 ^ 29 && q.split) }) ∧
    t.mem = s.mem ∧ t.ctxs = s.ctxs ∧ t.blocks = s.blocks ∧
    uncached t c (va / 2 ^ 29 * 2 ^ 29 / 65536) (2 ^ 13) (va / 2 ^ 29 * 2 ^ 29 / 65536) (2 ^ 13) := by
  refine ⟨splitDropped s c (va / 2 ^ 29 * 2 ^ 29), ?_, ?_⟩
  · dsimp only [exec, execSplitComplete]
    rw [hp]
    exact congrArg Host.Outcome.next (if_neg hstage)
  · exact ⟨rfl, rfl, rfl, uncached_of_cores (dropCached_uncached s c _ _) rfl⟩

end SplitComplete

/-- The update of a split leaves the other commands under way, and writes the table and the pointer to it. -/
theorem splitGo_keeps (s : State) (c : Nat) (l : Leaf) (p : PageOp) :
    ((s.splitGo c l p).ctx c).pageOps = (s.ctx c).pageOps.map (fun q => if q.va = p.va ∧ q.split then { q with stage := 1 } else q) ∧
    (s.splitGo c l p).mem = ((s.poke (p.target * 65536) ((List.range l.n).flatMap fun i => leBytes 8 (smallLeaf l.w i (p.r.getD l.pte.r)
      (p.w.getD l.pte.w) (p.wp.getD l.pte.wp)))).putPte c l (BitVec.ofNat 64 (p.target * 2 ^ 16 + 1))).mem := by
  unfold State.splitGo
  dsimp only
  refine ⟨?_, ?_⟩
  · rw [State.modCtx_ctx_same]
    exact congrArg (List.map _) ((setFrames_keeps (p := fun t => (t.ctx c).pageOps) (fun _ _ => rfl) _ _ _ _).trans
      ((pokePte_pageOps _ c l.at_ _).trans
        (congrArg (fun m : Map Ctx => (mget Ctx.reset m c).pageOps) (faultView_iff.mp (poke_faultView s _ _)).2.2.1)))
  · exact setFrames_keeps (p := State.mem) (fun _ _ => rfl) _ _ _ _

/-! ### Dirty tracking (R346) -/

theorem dirtyDSet_reports (hl : s.leafOf c va = some l) (hv : l.pte.v = true) (hst : l.pte.st ≠ 1) :
    exec (.dirtyDSet c va) s = .next (s.dset ((l.frame + (va / 65536 - l.vpn)) * 65536)) := by
  dsimp only [exec, execDirtyDSet]
  rw [hl]
  dsimp only
  rw [if_pos (by simp [hv, hst])]

/-- A frame-array entry whose page has not been reported. -/
def unreported (e : FrameEnt) : FrameEnt := { e with reported := false }

/-- The D bit of a leaf clear. -/
def dirtyCleared (c : Nat) (t : State) (x : Nat × Word) : State :=
  if (pteOf x.2).d then t.pokePte c x.1 (x.2 &&& ~~~0x20#64) else t

/-- The reported bit of a frame's home controller clear. -/
def frameUnreported (t : State) (f : Nat × Frame) : State :=
  { t with frames := mmod Frame.none t.frames f.1 fun e => { e with reported := false } }

theorem dirtyRoundStart_eq (s : State) (c : Nat) : ∃ fs : Map Frame, exec (.dirtyRoundStart c) s =
    .next ((fs.foldl frameUnreported ((s.leafWords c).foldl (dirtyCleared c) s)).mapFrames c unreported) := ⟨_, rfl⟩

theorem dirtyCleared_bank (c : Nat) (t : State) (x : Nat × Word) : (dirtyCleared c t x).bank = t.bank := by
  unfold dirtyCleared
  split
  · exact pokePte_bank t c x.1 _
  · rfl

theorem dirtyRoundStart_clears (s : State) (c : Nat) :
    ∃ t : State, exec (.dirtyRoundStart c) s = .next (t.mapFrames c unreported) ∧ t.bank = s.bank := by
  obtain ⟨fs, h⟩ := dirtyRoundStart_eq s c
  exact ⟨_, h, (foldl_keeps State.bank (f := frameUnreported) (fun _ _ => rfl) fs _).trans (foldl_keeps State.bank (dirtyCleared_bank c) _ s)⟩

theorem ctx_mapFrames (t : State) (c : Nat) (f : FrameEnt → FrameEnt) : (t.mapFrames c f).ctx c = (t.ctx c).mapFrames f :=
  State.modCtx_ctx_same t c fun x => x.mapFrames f

theorem mem_unreported {fs : List FrameEnt} {e : FrameEnt} (h : e ∈ fs.map unreported) : e.reported = false := by
  obtain ⟨x, -, rfl⟩ := List.mem_map.mp h
  rfl

theorem mapFrames_unreported (t : State) (c : Nat) :
    (∀ k ∈ (t.mapFrames c unreported).kernelList c, ∀ e ∈ k.2.frames, e.reported = false) ∧
    (∀ w ∈ ((t.mapFrames c unreported).ctx c).wins, ∀ e ∈ w.2.frames, e.reported = false) ∧
    (∀ x ∈ ((t.mapFrames c unreported).ctx c).colls, ∀ e ∈ x.2.frames, e.reported = false) := by
  refine ⟨fun k hk e he => ?_, fun w hw e he => ?_, fun x hx e he => ?_⟩
  · have hmem := (mem_kernelList.mp hk).1
    rw [ctx_mapFrames] at hmem
    obtain ⟨y, -, hy⟩ := List.mem_map.mp hmem
    obtain ⟨z, -, hz⟩ := Option.map_eq_some_iff.mp (congrArg Prod.snd hy)
    rw [← hz] at he
    exact mem_unreported he
  · rw [ctx_mapFrames] at hw
    obtain ⟨y, -, rfl⟩ := List.mem_map.mp hw
    exact mem_unreported he
  · rw [ctx_mapFrames] at hx
    obtain ⟨y, -, rfl⟩ := List.mem_map.mp hx
    exact mem_unreported he

/-- Settles O46: each command by the lemma of its form. The two stages of SPLIT_COMPLETE (log 75), the refusal of a PAGE_EVICT that cannot
cross (log 104), the refusals beyond the exposed space (log 60) and walks that see a change after the invalidation command (log 86) are the
model's choices. -/
theorem pageStepsComplete : Obligations.PageStepsComplete := by
  refine ⟨?write, ?invalidate, ?evict, ?returns, ?migrate, ?copy, ?old, ?cancel, ?split, ?splitEnd, ?dset, ?round⟩
  case write =>
    intro s c va entry m
    refine ⟨fun l hl => pteWrite_busy hl, fun l hl hidle => pteWrite_over hl hidle, fun l hl hidle => pteWrite_clears hl hidle,
      fun a hl => pteWrite_ballooned hl, fun a hl hv ha hleaf hst hin => ?_⟩
    exact ⟨_, pteWrite_leaf hl hv ha hleaf hst hin, rfl, newLeaf_pteWord⟩
  case invalidate =>
    intro s c va
    exact invalidationCommand_drops s c va
  case evict =>
    intro s c va dest l hl
    exact ⟨fun t l' h hout hl' => pageEvict_evicts hl h hout hl', pageEvict_stays hl, pageEvict_refused hl⟩
  case returns =>
    intro s c va frame l hl hidle hn hst hin e u hhaul
    exact ⟨fun t => pageReturn_returns hl hidle hn hst hin hhaul, pageReturn_refused hl hidle hn hst hin hhaul⟩
  case migrate =>
    intro s c va frame l hl
    exact ⟨migrate_marks hl, migrate_refused hl⟩
  case copy =>
    intro s u t c va p l page hp hl hsplit hstage hwts hhaul hfill
    exact migrationCopyComplete_repoints hp hl hsplit hstage hwts hhaul hfill
  case old =>
    intro s c va p l page hp hl hsplit hstage
    exact migrationInvalidateComplete_frees hp hl hsplit hstage
  case cancel =>
    intro s c va l page hl hst hwp hsplit
    exact migrationCancel_releases hl hst hwp hsplit
  case split =>
    intro s c va table r w wp l hl hn hst hidle hstaged hin hread hwrite
    exact split_begins hl hn hst hidle hstaged hin hread hwrite
  case splitEnd =>
    intro s c va p page hp
    exact ⟨fun l hstage hl => ⟨_, splitComplete_updates hp hstage hl, splitGo_keeps s c l p⟩, splitComplete_ends hp⟩
  case dset =>
    intro s c va l hl hv hst
    exact dirtyDSet_reports hl hv hst
  case round =>
    intro s c _
    obtain ⟨t, hexec, hbank⟩ := dirtyRoundStart_clears s c
    obtain ⟨hkernels, hwins, hcolls⟩ := mapFrames_unreported t c
    exact ⟨t.mapFrames c unreported, hexec, hkernels, hwins, hcolls, hbank⟩

end Sys2Proof.Machine
end
